-- ==== Sys2Proof/Word.lean ====
section
/-! DEFINITION. The words, the sparse maps and the resource numbers of the model. -/

namespace Sys2Proof

/-- A 32-bit register or instruction word. -/
abbrev Word := BitVec 32
/-- A byte of a memory. -/
abbrev Byte := BitVec 8
/-- A 64-bit value: TBASE, a product register, a hall word. -/
abbrev DWord := BitVec 64

/-- Sparse data by key, sorted by key; a key that is not listed has a default value. -/
abbrev SMap (α : Type) := List (Nat × α)

/-- A memory: sorted cells, an unlisted byte reads 0 (log entry 6). -/
abbrev Mem := List (Nat × BitVec 8)

/-- Threads 0 to 127 (R56). -/
abbrev Tid := Fin 128
/-- Barrels B0 to B3. -/
abbrev Barrel := Fin 4
/-- Host ports H0 to H7. -/
abbrev Host := Fin 8
/-- Pin channels: pin p.n is channel 32p + n. -/
abbrev Chan := Fin 512
/-- Pin ports. -/
abbrev PinPort := Fin 16
/-- Bells and classes. -/
abbrev Bell := Fin 16
/-- Timers. -/
abbrev TimerNo := Fin 256
/-- Compare/capture units; unit u belongs to timer u div 4. -/
abbrev UnitNo := Fin 1024
/-- Converter ports. -/
abbrev Cvp := Fin 32
/-- Trip inputs. -/
abbrev TripNo := Fin 128
/-- Stations. -/
abbrev Station := Fin 64
/-- Sinc units. -/
abbrev SincNo := Fin 64
/-- Event lines. -/
abbrev LineNo := Fin 64
/-- Hoists. -/
abbrev Hoist := Fin 32
/-- Calibration groups. -/
abbrev CalGroup := Fin 32
/-- DMA engines. -/
abbrev Engine := Fin 16
/-- DMA channels: channel c of engine e is 16e + c. -/
abbrev DmaCh := Fin 256
/-- Rings. -/
abbrev Ring := Fin 8192
/-- Interrupt lines. -/
abbrev IrqLine := Fin 64
/-- Memory instances (R321). -/
abbrev MemInst := Fin 13
/-- Initiator ports I0 and I1. -/
abbrev InitPort := Fin 2

end Sys2Proof
end

