-- ==== Sys2Proof/Config.lean ====
section
/-! DEFINITION. What an implementation fixes and what the manual leaves open: constants without a body, so that no proof can see a value. -/

namespace Sys2Proof

/-- The patch level shown by ENSIGN.PATCH (R1, R2): any value within 3.2. -/
opaque Config.patch : BitVec 8

/-- Which of the whole numbers within the bound of R133 a control-math lane is, drawn by the model's counter of free values;
`Machine.Real1.near` counts them off. Log entry 7. -/
opaque Config.mathDeviation : Nat → BitVec 8

/-- SHA-384 of a byte string (R392, R406), named and not defined by the manual. Log entry 8. -/
opaque Config.sha384 : List Byte → BitVec 384

/-- ECDSA P-384: public key, signature and digest (R391, R392), named and not defined by the manual. Log entry 8. -/
opaque Config.ecdsaValid : List Byte → List Byte → BitVec 384 → Bool

/-- The 64 bytes that the initiator drill writes in each of its pairs (R429 names none). Log entry 19. -/
opaque Config.drillPattern : Nat → BitVec 512

/-- The time a forwarded frame spends in the node (R385 fixes only a range), drawn by the model's counter of free
values; `Machine.State.residence` brings it into the range. Log entry 18. -/
opaque Config.residence : Nat → Nat

end Sys2Proof
end

