-- ==== Sys2Proof/Syntax.lean ====
section
/-! DEFINITION. The commands of the block: one constructor per row of the opcode table, and the operands they carry. -/

namespace Sys2Proof

/-- Who makes an access: a host port with its request tag, a thread (R23), a DMA channel (R25), or the
block itself (the start table is applied as the owner host's writes, R421). -/
inductive Agent where
  | host (h : Host) (tag : BitVec 5)
  | thread (t : Tid)
  | dma (ch : DmaCh)
  | block
  deriving DecidableEq, Repr

/-- The size suffix of an operation family: .B, .H, none, .D (R92). -/
inductive Size4 where
  | b
  | h
  | w
  | d
  deriving DecidableEq, Repr

/-- The conditions of Table INS-2. -/
inductive Cond where
  | eq
  | ne
  | cs
  | cc
  | mi
  | pl
  | vs
  | vc
  | hi
  | ls
  | ge
  | lt
  | gt
  | le
  deriving DecidableEq, Repr

/-- One operand as encoded (Table ISA-2): mode and specifier. In the short form the specifier is the
8-bit field of Table ISA-1 zero-extended and the mode follows from the role (R102). -/
structure Opnd where
  mode : BitVec 4 := 0
  spec : BitVec 14 := 0
  deriving DecidableEq, Repr

/-- One issue of an instruction by a thread: its form and its operand fields (R86 to R89). -/
structure Issue where
  thread : Tid
  long : Bool := true
  a : Opnd := { }
  b : Opnd := { }
  c : Opnd := { }
  deriving DecidableEq, Repr

/-- The target field of a branch: the 24-bit displacement of the short form (R103) or an operand of
role t of the long form (R104). -/
inductive Target where
  | short (d : BitVec 24)
  | long (o : Opnd)
  deriving DecidableEq, Repr

/-- One issue of an instruction of the branch group. -/
structure Jump where
  thread : Tid
  tgt : Target
  deriving DecidableEq, Repr

/-- The straps and TEST_MODE as they stand at the sampling edge (R40). -/
structure Straps where
  owner : Host
  hportEn : BitVec 8
  rootMhz : BitVec 12
  hlyEn : BitVec 2
  recovery : Bool
  testMode : Bool
  deriving DecidableEq, Repr

/-- What the error correction of an access finds (Table MEM-3). -/
inductive Ecc where
  | ok
  | corrected
  | uncorrectable
  deriving DecidableEq, Repr

/-- The registers of a thread's context table (Table BRL-11). -/
inductive CtxReg where
  | pc
  | fp
  | sp
  | sw
  | pxlo (n : Fin 4)
  | pxhi (n : Fin 4)
  deriving DecidableEq, Repr

/-- Who uses a desk's second port or a shared hall phase (R298, Table MEM-2). -/
inductive PortUser where
  | host (h : Host)
  | dma (ch : DmaCh)
  | queueManager
  | lockUnit
  | test
  | scrub
  deriving DecidableEq, Repr

/-- One access to a desk line of 64 bytes or a hall granule of 16 bytes. Byte i of the data lies at
offset i; bit i of the strobes enables it. -/
inductive LineAccess where
  | read
  | write (data : BitVec 512) (strb : BitVec 64)
  deriving DecidableEq, Repr

/-- What the MRAM scrubber finds in the word it reads (R318). -/
inductive MramFinding where
  | clean
  | oneBit
  | twoBits
  | uncorrectable
  | writeFailed
  deriving DecidableEq, Repr

/-- The record of an engine's bus error (Table DMA-10, DMA_BERRI). -/
structure BusErr where
  phase : BitVec 3
  kind : BitVec 3
  chv : Bool
  addr : BitVec 48
  port : Bool
  tag : BitVec 12
  deriving DecidableEq, Repr

/-- A Halyard frame: the header of Table HLY-1 and its payload bytes. -/
structure Frame where
  typ : BitVec 4
  bc : Bool
  upw : Bool
  dst : BitVec 14
  src : BitVec 14
  hops : BitVec 14
  len : BitVec 7
  seq : BitVec 9
  payload : List Byte
  deriving DecidableEq, Repr

/-- Why a received frame is dropped (R384, Table HLY-14). -/
inductive BadFrame where
  | reservedTypeOrLen
  | badCrc
  | aborted
  deriving DecidableEq, Repr

/-- The commands of the block, one constructor per row of the opcode table: first the instructions of the threads and what
the block does by itself, then what its ports and registers are told. -/
inductive Instr where
  /-- PRESENCE_WAIT_END (R41). -/
  | presenceWaitEnd
  /-- WARM_RESET (R423). -/
  | warmReset
  /-- WARM_RESET_END (R423). -/
  | warmResetEnd
  /-- SECURE_WIPE_END (R315). -/
  | secureWipeEnd
  /-- PRESENCE_WINDOW_OPEN (R43). -/
  | presenceWindowOpen
  /-- PRESENCE_WINDOW_CLOSE (R43). -/
  | presenceWindowClose
  /-- SLOT_MAP_COPY (R61). -/
  | slotMapCopy (b : Barrel)
  /-- BUDGET_OVERRUN (R79). -/
  | budgetOverrun (t : Tid)
  /-- HALL_ENTRY_ACCEPT (R83). -/
  | hallEntryAccept (b : Barrel) (e : Ecc)
  /-- HALL_ENTRY_RETIRE (R83). -/
  | hallEntryRetire (b : Barrel)
  /-- MOV (R122). -/
  | mov (i : Issue) (z : Size4)
  /-- ADD (R117). -/
  | add (i : Issue) (z : Size4)
  /-- SUB (R117). -/
  | sub (i : Issue) (z : Size4)
  /-- CMP (R117). -/
  | cmp (i : Issue) (z : Size4)
  /-- AND (R122). -/
  | andB (i : Issue) (wide : Bool)
  /-- OR (R122). -/
  | orB (i : Issue) (wide : Bool)
  /-- XOR (R122). -/
  | xorB (i : Issue) (wide : Bool)
  /-- NOT (R122). -/
  | notB (i : Issue) (wide : Bool)
  /-- SHL (R120). -/
  | shl (i : Issue) (wide : Bool)
  /-- SHR (R120). -/
  | shr (i : Issue) (wide : Bool)
  /-- ASR (R120). -/
  | asr (i : Issue) (wide : Bool)
  /-- ROL (R120). -/
  | rol (i : Issue) (wide : Bool)
  /-- SXB (R122). -/
  | sxb (i : Issue)
  /-- SXH (R122). -/
  | sxh (i : Issue)
  /-- ZXB (R122). -/
  | zxb (i : Issue)
  /-- ZXH (R122). -/
  | zxh (i : Issue)
  /-- SXW_D (R122). -/
  | sxwD (i : Issue)
  /-- ZXW_D (R122). -/
  | zxwD (i : Issue)
  /-- NEG (R117). -/
  | neg (i : Issue) (wide : Bool)
  /-- BTST (R122). -/
  | btst (i : Issue)
  /-- BSET (R122). -/
  | bset (i : Issue)
  /-- BCLR (R122). -/
  | bclr (i : Issue)
  /-- BEXT (R121). -/
  | bext (i : Issue)
  /-- BINS (R121). -/
  | bins (i : Issue)
  /-- CLZ (R122). -/
  | clz (i : Issue) (wide : Bool)
  /-- ABS (R122). -/
  | abs (i : Issue)
  /-- QADD (R123). -/
  | qadd (i : Issue) (half : Bool)
  /-- QSUB (R123). -/
  | qsub (i : Issue) (half : Bool)
  /-- QMUL (R123). -/
  | qmul (i : Issue) (half : Bool)
  /-- QNEG (R123). -/
  | qneg (i : Issue) (half : Bool)
  /-- QABS (R123). -/
  | qabs (i : Issue) (half : Bool)
  /-- QSHL (R123). -/
  | qshl (i : Issue) (half : Bool)
  /-- CVQ_H (R123). -/
  | cvqH (i : Issue)
  /-- CVQ (R123). -/
  | cvq (i : Issue)
  /-- FADD (R125). -/
  | fadd (i : Issue)
  /-- FSUB (R125). -/
  | fsub (i : Issue)
  /-- FMUL (R125). -/
  | fmul (i : Issue)
  /-- FMIN (R125). -/
  | fmin (i : Issue)
  /-- FMAX (R125). -/
  | fmax (i : Issue)
  /-- FABS (R125). -/
  | fabs (i : Issue)
  /-- FNEG (R125). -/
  | fneg (i : Issue)
  /-- FCMP (R126). -/
  | fcmp (i : Issue)
  /-- CVTFI (R125). -/
  | cvtfi (i : Issue)
  /-- CVTIF (R125). -/
  | cvtif (i : Issue)
  /-- CVTFQ (R125). -/
  | cvtfq (i : Issue)
  /-- CVTQF (R125). -/
  | cvtqf (i : Issue)
  /-- FMA (R125). -/
  | fma (i : Issue)
  /-- PADD (R127). -/
  | padd (i : Issue) (half : Bool)
  /-- PSUB (R127). -/
  | psub (i : Issue) (half : Bool)
  /-- PQADD (R127). -/
  | pqadd (i : Issue) (half : Bool)
  /-- PQSUB (R127). -/
  | pqsub (i : Issue) (half : Bool)
  /-- PQMUL (R127). -/
  | pqmul (i : Issue) (half : Bool)
  /-- PMIN (R127). -/
  | pmin (i : Issue)
  /-- PMAX (R127). -/
  | pmax (i : Issue)
  /-- PSWAP (R127). -/
  | pswap (i : Issue)
  /-- MUL (R128). -/
  | mul (i : Issue)
  /-- MULU (R128). -/
  | mulu (i : Issue)
  /-- MAC (R128). -/
  | mac (i : Issue)
  /-- MACU (R128). -/
  | macu (i : Issue)
  /-- MSU (R128). -/
  | msu (i : Issue)
  /-- QMAC (R128). -/
  | qmac (i : Issue) (half : Bool)
  /-- PXQ (R129). -/
  | pxq (i : Issue)
  /-- DIV (R130). -/
  | div (i : Issue)
  /-- DIVU (R130). -/
  | divu (i : Issue)
  /-- FDIV (R128). -/
  | fdiv (i : Issue)
  /-- FSQRT (R128). -/
  | fsqrt (i : Issue)
  /-- QSQRT (R128). -/
  | qsqrt (i : Issue)
  /-- CLARKE (R133). -/
  | clarke (i : Issue)
  /-- PARK (R133). -/
  | park (i : Issue)
  /-- IPARK (R133). -/
  | ipark (i : Issue)
  /-- PIU (R134). -/
  | piu (i : Issue)
  /-- SVM (R136). -/
  | svm (i : Issue)
  /-- LIM (R135). -/
  | lim (i : Issue)
  /-- SINCOS (R133). -/
  | sincos (i : Issue)
  /-- ATAN2 (R133). -/
  | atan2 (i : Issue)
  /-- B (R137). -/
  | b (j : Jump)
  /-- CONDITIONAL_BRANCH (R119). -/
  | conditionalBranch (j : Jump) (c : Cond)
  /-- CALL (R138). -/
  | call (j : Jump)
  /-- RET (R138). -/
  | ret (i : Issue)
  /-- REP (R140). -/
  | rep (i : Issue)
  /-- REPI (R141). -/
  | repi (i : Issue)
  /-- WAIT (R175). -/
  | wait (i : Issue)
  /-- DONE (R178). -/
  | doneH (i : Issue)
  /-- RTE (R176). -/
  | rte (i : Issue)
  /-- HND (R200). -/
  | hnd (i : Issue)
  /-- SETLVL (R145). -/
  | setlvl (i : Issue)
  /-- SETMASK (R145). -/
  | setmask (i : Issue)
  /-- IFENCE (R75). -/
  | ifence (i : Issue)
  /-- NOP (R146). -/
  | nop (i : Issue)
  /-- TAS (R147). -/
  | tas (i : Issue)
  /-- FPSET (R146). -/
  | fpset (i : Issue)
  /-- SPSET (R146). -/
  | spset (i : Issue)
  /-- EVCLR (R159). -/
  | evclr (i : Issue)
  /-- EVSIG (R157). -/
  | evsig (i : Issue)
  /-- IN (R111). -/
  | inp (i : Issue) (hi : Bool)
  /-- OUT (R111). -/
  | out (i : Issue) (hi : Bool)
  /-- PINRD (R231). -/
  | pinrd (i : Issue)
  /-- PINWR (R231). -/
  | pinwr (i : Issue)
  /-- PINWRS (R231). -/
  | pinwrs (i : Issue)
  /-- EDGEQ (R243). -/
  | edgeq (i : Issue)
  /-- EDGER (R249). -/
  | edger (i : Issue)
  /-- TCMP (R273). -/
  | tcmp (i : Issue)
  /-- TCAP (R274). -/
  | tcap (i : Issue)
  /-- QPUT (R345). -/
  | qput (i : Issue)
  /-- QPUTS (R345). -/
  | qputs (i : Issue)
  /-- QGET (R346). -/
  | qget (i : Issue)
  /-- BSTAT (R216). -/
  | bstat (i : Issue)
  /-- HLD (R151). -/
  | hld (i : Issue) (z : Size4)
  /-- HST (R151). -/
  | hst (i : Issue) (z : Size4)
  /-- HLR (R152). -/
  | hlr (i : Issue)
  /-- HSC (R152). -/
  | hsc (i : Issue)
  /-- HCAS (R153). -/
  | hcas (i : Issue)
  /-- HPASS (R371). -/
  | hpass (i : Issue)
  /-- HFREE (R371). -/
  | hfree (i : Issue)
  /-- HWATCH (R377). -/
  | hwatch (i : Issue)
  /-- HWAIT (R154). -/
  | hwait (i : Issue)
  /-- ILD (R155). -/
  | ild (i : Issue)
  /-- IST (R155). -/
  | ist (i : Issue)
  /-- EVENT_ENTRY (R172). -/
  | eventEntry (t : Tid)
  /-- FAULT_ENTRY (R182). -/
  | faultEntry (t : Tid)
  /-- BELL_FIRE (R192). -/
  | bellFire (b : Bell)
  /-- PIN_LOCK_TIMEOUT (R236). -/
  | pinLockTimeout
  /-- EDGE_ENTRY_FIRE (R244). -/
  | edgeEntryFire (c : Chan)
  /-- SHIFTER_BOUNDARY (R250). -/
  | shifterBoundary (c : Chan)
  /-- CALIBRATION_PASS_END (R240). -/
  | calibrationPassEnd (g : CalGroup)
  /-- CALIBRATION_STALE (R242). -/
  | calibrationStale (g : CalGroup)
  /-- SINC_SAMPLE (R255). -/
  | sincSample (n : SincNo)
  /-- SINC_DECIMATION (R256). -/
  | sincDecimation (n : SincNo)
  /-- TIMER_TOP (R262). -/
  | timerTop (n : TimerNo)
  /-- TIMER_VALLEY (R261). -/
  | timerValley (n : TimerNo)
  /-- COMPARE_MATCH (R265). -/
  | compareMatch (u : UnitNo)
  /-- TIMER_START (R276). -/
  | timerStart (h : Host)
  /-- MAILBOX_WRITE (R281). -/
  | mailboxWrite (n : Cvp)
  /-- TRIP_ACTIVE (R283). -/
  | tripActive (i : TripNo)
  /-- TRIP_INACTIVE (R283). -/
  | tripInactive (i : TripNo)
  /-- BLANKING_WINDOW_END (R285). -/
  | blankingWindowEnd (st : Station)
  /-- REGION_TEST_START (R308). -/
  | regionTestStart (m : MemInst)
  /-- REGION_COPY_COMPLETE (R309). -/
  | regionCopyComplete (m : MemInst)
  /-- MARCH_TEST_COMPLETE (R310). -/
  | marchTestComplete (m : MemInst) (failing : BitVec 64)
  /-- REGION_TEST_COMPLETE (R309). -/
  | regionTestComplete (m : MemInst)
  /-- SECOND_PORT_ACCESS (R298). -/
  | secondPortAccess (b : Barrel) (u : PortUser) (line : BitVec 13) (acc : LineAccess)
  /-- HALL_SHARED_ACCESS (R303). -/
  | hallSharedAccess (u : PortUser) (granule : BitVec 19) (acc : LineAccess)
  /-- SCRUB_ACCESS (R307). -/
  | scrubAccess (m : MemInst) (addr : Nat) (e : Ecc)
  /-- MRAM_SCRUB (R318). -/
  | mramScrub (e : MramFinding)
  /-- CODE_COPY_COMPLETE (R296). -/
  | codeCopyComplete (e : Ecc)
  /-- DMA_ABORT_COMPLETE (R333). -/
  | dmaAbortComplete (ch : DmaCh)
  /-- DMA_CHANNEL_SERVE (R329). -/
  | dmaChannelServe (e : Engine)
  /-- DMA_DESCRIPTOR_FETCH (R326). -/
  | dmaDescriptorFetch (e : Engine)
  /-- DMA_BURST (R330). -/
  | dmaBurst (e : Engine)
  /-- DMA_DESCRIPTOR_COMPLETE (R332). -/
  | dmaDescriptorComplete (e : Engine)
  /-- LINK_RECHECK (R336). -/
  | linkRecheck (e : Engine)
  /-- LINK_RECHECK_DECISION (R336). -/
  | linkRecheckDecision (e : Engine)
  /-- DMA_BUS_ERROR (R334). -/
  | dmaBusError (e : Engine) (err : BusErr)
  /-- DMA_ENGINE_STOPPED (R334). -/
  | dmaEngineStopped (e : Engine)
  /-- QM_ITEM_START (R347). -/
  | qmItemStart
  /-- QM_ITEM_COMPLETE (R347). -/
  | qmItemComplete (e : Ecc)
  /-- IRQ_EVENT_COUNT (R368). -/
  | irqEventCount (l : IrqLine)
  /-- IRQ_COALESCE_TIMEOUT (R368). -/
  | irqCoalesceTimeout (l : IrqLine)
  /-- LOCK_UNIT_ACCESS (R380). -/
  | lockUnitAccess
  /-- LEASE_DEADLINE (R373). -/
  | leaseDeadline (e : Fin 1024)
  /-- ABANDONMENT_WRITE (R374). -/
  | abandonmentWrite
  /-- FRAME_SEND (R385). -/
  | frameSend (down : Bool) (stamp : DWord)
  /-- FRAME_FORWARD (R385). -/
  | frameForward (fromDown : Bool) (f : Frame) (crcOk : Bool)
  /-- BEACON (R388). -/
  | beacon (f : Frame) (stamp : DWord)
  /-- BEACON_SEND (R388). -/
  | beaconSend
  /-- BEACON_LOSS (R389). -/
  | beaconLoss
  /-- TBASE_SLEW (R389). -/
  | tbaseSlew (forward : Bool)
  /-- DELAY_MEASUREMENT (R387). -/
  | delayMeasurement
  /-- DLYREQ (R387). -/
  | dlyreq (f : Frame) (stamp : DWord)
  /-- DLYRSP (R387). -/
  | dlyrsp (f : Frame) (stamp : DWord)
  /-- ROLLCALL (R386). -/
  | rollcall (f : Frame)
  /-- ROLLEND (R386). -/
  | rollend (f : Frame)
  /-- IMAGE (R393). -/
  | image (f : Frame)
  /-- ORDER (R400). -/
  | order (f : Frame)
  /-- QUERY (R415). -/
  | query (f : Frame)
  /-- STATUS_REPLY (R415). -/
  | statusReply
  /-- TUNNEL (R414). -/
  | tunnel (f : Frame)
  /-- LOOP (R429). -/
  | loopF (f : Frame)
  /-- VERIFICATION_END (R396). -/
  | verificationEnd (e : Ecc)
  /-- CONFIRMATION_TIMEOUT (R402). -/
  | confirmationTimeout
  /-- MOVEMENT_HOLD_END (R398). -/
  | movementHoldEnd (c : Bell)
  /-- FAR_END_TIMEOUT (R428). -/
  | farEndTimeout
  /-- DRILL_END (R426). -/
  | drillEnd (pass : Bool) (data : Word)
  /-- RESERVED_OPERATION (R90). -/
  | reservedOperation (i : Issue) (n : BitVec 8)
  /-- COLD_RESET_ASSERT (R42). -/
  | coldResetAssert
  /-- TAMPER (R412). -/
  | tamper
  /-- MOTION_ACTIVE_CHANGE (R42). -/
  | motionActiveChange (level : Bool)
  /-- HOLDUP_OK_CHANGE (R34). -/
  | holdupOkChange (level : Bool)
  /-- REGISTER_WRITE (R7). -/
  | registerWrite (a : Agent) (off : BitVec 24) (strb : BitVec 4) (v : Word)
  /-- RC_READ (R9). -/
  | rcRead (a : Agent) (off : BitVec 24)
  /-- HOST_MEMORY_WRITE (R359). -/
  | hostMemoryWrite (h : Host) (tag : BitVec 5) (addr : BitVec 24) (beats : List (BitVec 128 × BitVec 16))
  /-- HOST_MEMORY_READ (R359). -/
  | hostMemoryRead (h : Host) (tag : BitVec 5) (addr : BitVec 24) (beats : Fin 8)
  /-- HOST_RESPONSE (R356). -/
  | hostResponse (h : Host) (tag : BitVec 5)
  /-- INITIATOR_READ_BEAT (R339). -/
  | initiatorReadBeat (k : InitPort) (tag : BitVec 12) (data : BitVec 256) (status : BitVec 2) (last : Bool)
  /-- INITIATOR_WRITE_COMPLETION (R332). -/
  | initiatorWriteCompletion (k : InitPort) (tag : BitVec 12) (status : BitVec 2)
  /-- SLOT_MAP_APPLY_REQUEST (R61). -/
  | slotMapApplyRequest (a : Agent) (b : Barrel) (atBell : Bool) (bell : Bell)
  /-- SLOT_MAP_CANCEL (R61). -/
  | slotMapCancel (a : Agent) (b : Barrel)
  /-- THREAD_ENABLE (R76). -/
  | threadEnable (a : Agent) (t : Tid)
  /-- THREAD_DISABLE (R76). -/
  | threadDisable (a : Agent) (t : Tid)
  /-- THREAD_HALT (R76). -/
  | threadHalt (a : Agent) (t : Tid)
  /-- THREAD_HALT_RELEASE (R76). -/
  | threadHaltRelease (a : Agent) (t : Tid)
  /-- THREAD_STEP (R76). -/
  | threadStep (a : Agent) (t : Tid)
  /-- THREAD_RESET (R424). -/
  | threadReset (a : Agent) (t : Tid)
  /-- THREAD_MAINT_ENTER (R76). -/
  | threadMaintEnter (a : Agent) (t : Tid)
  /-- THREAD_MAINT_LEAVE (R76). -/
  | threadMaintLeave (a : Agent) (t : Tid)
  /-- THR_CFG_WRITE (R64). -/
  | thrCfgWrite (a : Agent) (t : Tid) (v : Word)
  /-- CONTEXT_WRITE (R65). -/
  | contextWrite (a : Agent) (t : Tid) (r : CtxReg) (v : Word)
  /-- THR_CEIL_WRITE (R190). -/
  | thrCeilWrite (a : Agent) (t : Tid) (v : Word)
  /-- EVT_SWSET_WRITE (R157). -/
  | evtSwsetWrite (a : Agent) (v : Word)
  /-- EVT_MAP_WRITE (R162). -/
  | evtMapWrite (a : Agent) (t : Tid) (i : Fin 32) (v : Word)
  /-- BELL_START (R194). -/
  | bellStart (a : Agent) (b : Bell)
  /-- BELL_STOP (R195). -/
  | bellStop (a : Agent) (b : Bell)
  /-- BELL_SCHEDULE_APPLY (R196). -/
  | bellScheduleApply (a : Agent) (b : Bell) (en : Bool)
  /-- PIN_OWNER_WRITE (R218). -/
  | pinOwnerWrite (a : Agent) (c : Chan) (v : Word)
  /-- PIN_FCFG_WRITE (R222). -/
  | pinFcfgWrite (a : Agent) (c : Chan) (set : Bool) (v : Word)
  /-- PIN_SWITCH_GO (R233). -/
  | pinSwitchGo (a : Agent) (c : Chan) (staged : Bool) (set : Bool) (cls : Bell)
  /-- PIN_SWITCH_CANCEL (R233). -/
  | pinSwitchCancel (a : Agent) (c : Chan)
  /-- PIN_PAD_WRITE (R227). -/
  | pinPadWrite (a : Agent) (c : Chan) (v : Word)
  /-- PIN_SET (R230). -/
  | pinSet (a : Agent) (p : PinPort) (v : Word)
  /-- PIN_CLR (R230). -/
  | pinClr (a : Agent) (p : PinPort) (v : Word)
  /-- PIN_TGL (R230). -/
  | pinTgl (a : Agent) (p : PinPort) (v : Word)
  /-- PIN_LOCK (R236). -/
  | pinLock (a : Agent) (key : BitVec 16) (p : PinPort)
  /-- PIN_EQPUSH (R243). -/
  | pinEqpush (a : Agent) (c : Chan) (lvl : Byte)
  /-- FLUSH (R246). -/
  | flush (a : Agent) (c : Chan)
  /-- PIN_SHD_WRITE (R251). -/
  | pinShdWrite (a : Agent) (c : Chan) (v : Byte)
  /-- PAD_INPUT_TRANSITION (R247). -/
  | padInputTransition (c : Chan) (level : Bool) (fine : BitVec 5)
  /-- PIN_LINE_WRITE (R253). -/
  | pinLineWrite (a : Agent) (k : LineNo) (v : Word)
  /-- SNC_CFG_WRITE (R257). -/
  | sncCfgWrite (a : Agent) (n : SincNo) (v : Word)
  /-- TIMER_RELOAD_WRITE (R270). -/
  | timerReloadWrite (a : Agent) (n : TimerNo) (v : Word)
  /-- COMPARE_WRITE (R268). -/
  | compareWrite (a : Agent) (u : UnitNo) (v : Word)
  /-- TIMER_HOLD (R264). -/
  | timerHold (a : Agent) (n : TimerNo)
  /-- TIMER_RESUME (R264). -/
  | timerResume (a : Agent) (n : TimerNo)
  /-- CC_CTL_WRITE (R267). -/
  | ccCtlWrite (a : Agent) (u : UnitNo) (v : Word)
  /-- TIM_CAPW_READ (R272). -/
  | timCapwRead (a : Agent) (u : UnitNo)
  /-- TIM_TBASE_LO_READ (R277). -/
  | timTbaseLoRead (a : Agent)
  /-- GLOBAL_START_ARM (R275). -/
  | globalStartArm (a : Agent) (src : BitVec 2) (bell : Bell)
  /-- GLOBAL_START_CANCEL (R275). -/
  | globalStartCancel (a : Agent)
  /-- CONVERTER_SAMPLE (R279). -/
  | converterSample (n : Cvp) (data : BitVec 18) (tag : BitVec 6)
  /-- CVP_SWTRIG (R282). -/
  | cvpSwtrig (a : Agent) (n : Cvp)
  /-- LATCHED_CLEAR (R286). -/
  | latchedClear (a : Agent) (st : Station)
  /-- TRP_STN_CTL_WRITE (R288). -/
  | trpStnCtlWrite (a : Agent) (st : Station) (v : Word)
  /-- MEM_TCTL_NOW (R308). -/
  | memTctlNow (a : Agent) (m : MemInst)
  /-- LOGCLR (R322). -/
  | logclr (a : Agent)
  /-- DMA_GO (R328). -/
  | dmaGo (a : Agent) (ch : DmaCh)
  /-- DMA_ABORT (R333). -/
  | dmaAbort (a : Agent) (ch : DmaCh)
  /-- DMA_RESUME (R335). -/
  | dmaResume (a : Agent) (ch : DmaCh)
  /-- KICK (R336). -/
  | kick (a : Agent) (ch : DmaCh)
  /-- DMA_ENGINE_CLEAR (R335). -/
  | dmaEngineClear (a : Agent) (e : Engine)
  /-- LOAD (R341). -/
  | load (a : Agent) (r : Ring)
  /-- UNLOAD (R341). -/
  | unload (a : Agent) (r : Ring)
  /-- DRAIN (R341). -/
  | drain (a : Agent) (r : Ring)
  /-- DRAIN_TAKEOVER (R341). -/
  | drainTakeover (a : Agent) (r : Ring)
  /-- PRODUCER_DOORBELL (R342). -/
  | producerDoorbell (a : Agent) (r : Ring) (v : Word)
  /-- CONSUMER_DOORBELL (R342). -/
  | consumerDoorbell (a : Agent) (r : Ring) (v : Word)
  /-- ASSIGNMENT_WRITE (R362). -/
  | assignmentWrite (a : Agent) (kind : Fin 17) (word : Fin 1024) (v : Word)
  /-- IRQ_TGT_WRITE (R367). -/
  | irqTgtWrite (a : Agent) (src : BitVec 11) (v : Word)
  /-- IRQ_LCTL_WRITE (R368). -/
  | irqLctlWrite (a : Agent) (l : IrqLine) (v : Word)
  /-- ACK (R368). -/
  | ack (a : Agent) (l : IrqLine)
  /-- ACQUIRE (R371). -/
  | acquire (a : Agent)
  /-- FREE (R371). -/
  | free (a : Agent)
  /-- CAS (R371). -/
  | cas (a : Agent)
  /-- WATCH (R377). -/
  | watch (a : Agent)
  /-- UNWATCH (R371). -/
  | unwatch (a : Agent)
  /-- HOST_LOCK_INVALID_OP (R371). -/
  | hostLockInvalidOp (a : Agent) (op : BitVec 3)
  /-- HPS_FORCE (R373). -/
  | hpsForce (a : Agent) (addr : BitVec 23)
  /-- LINK_TRAIN (R383). -/
  | linkTrain (down : Bool)
  /-- LINK_UP (R383). -/
  | linkUp (down : Bool)
  /-- LINK_DOWN (R383). -/
  | linkDown (down : Bool) (errs : BitVec 8)
  /-- HLY_CMD_ROLLCALL (R386). -/
  | hlyCmdRollcall (a : Agent)
  /-- REACQ (R389). -/
  | reacq (a : Agent)
  /-- HLY_CMD_DELAY (R387). -/
  | hlyCmdDelay (a : Agent)
  /-- TXMSG (R414). -/
  | txmsg (a : Agent)
  /-- POP (R414). -/
  | pop (a : Agent)
  /-- HLY_CTL_WRITE (R389). -/
  | hlyCtlWrite (a : Agent) (v : Word)
  /-- BEGIN (R393). -/
  | updBegin (a : Agent) (chain : Bool)
  /-- IMAGE_WINDOW_WRITE (R393). -/
  | imageWindowWrite (a : Agent) (off : BitVec 12) (data : List Byte)
  /-- VERIFY (R396). -/
  | verify (a : Agent) (chain : Bool)
  /-- SEND (R395). -/
  | send (a : Agent)
  /-- ACTIVATE (R397). -/
  | activate (a : Agent) (chain : Bool)
  /-- CONFIRM (R403). -/
  | confirm (a : Agent) (chain : Bool)
  /-- FALLBACK (R402). -/
  | fallback (a : Agent) (chain : Bool)
  /-- CANCEL (R399). -/
  | cancel (a : Agent) (chain : Bool)
  /-- SETBEGIN (R407). -/
  | setbegin (a : Agent)
  /-- SETTINGS_WINDOW_WRITE (R407). -/
  | settingsWindowWrite (a : Agent) (off : BitVec 15) (data : List Byte)
  /-- SETCOMMIT (R407). -/
  | setcommit (a : Agent)
  /-- RECOVBOOT (R409). -/
  | recovboot (a : Agent)
  /-- LIFECYCLE_TO_OPEN (R410). -/
  | lifecycleToOpen (a : Agent)
  /-- LIFECYCLE_TO_OWNED (R410). -/
  | lifecycleToOwned (a : Agent)
  /-- LIFECYCLE_TO_RETURNED (R410). -/
  | lifecycleToReturned (a : Agent)
  /-- LIFECYCLE_TO_SCRAPPED (R410). -/
  | lifecycleToScrapped (a : Agent)
  /-- OWNER_LOCK_SET (R411). -/
  | ownerLockSet (a : Agent)
  /-- OWNER_LOCK_CLEAR (R411). -/
  | ownerLockClear (a : Agent)
  /-- WIPE_COMMAND (R411). -/
  | wipeCommand (a : Agent)
  /-- RECOVER (R409). -/
  | recover (a : Agent)
  /-- REGION_TEST_NOW (R427). -/
  | regionTestNow (a : Agent)
  /-- INSTANCE_PASS (R427). -/
  | instancePass (a : Agent)
  /-- SCRUB_PASS (R427). -/
  | scrubPass (a : Agent)
  /-- MRAM_READ_PASS (R427). -/
  | mramReadPass (a : Agent)
  /-- IMAGE_VERIFICATION (R427). -/
  | imageVerification (a : Agent)
  /-- CALIBRATION_GROUP (R427). -/
  | calibrationGroup (a : Agent)
  /-- PIN_LOOP_BACK (R429). -/
  | pinLoopBack (a : Agent)
  /-- CONVERTER_LOOP_BACK (R429). -/
  | converterLoopBack (a : Agent)
  /-- HALYARD_PCS_LOOP (R429). -/
  | halyardPcsLoop (a : Agent)
  /-- HALYARD_LINE_LOOP (R429). -/
  | halyardLineLoop (a : Agent)
  /-- HALYARD_FAR_END_LOOP (R429). -/
  | halyardFarEndLoop (a : Agent)
  /-- INITIATOR_ECHO (R429). -/
  | initiatorEcho (a : Agent)
  /-- DRILL_MODE_START (R425). -/
  | drillModeStart (a : Agent) (key : BitVec 16)
  /-- SNAP (R431). -/
  | snap (a : Agent)
  /-- ROOT_CLOCK_FAULT (R37). -/
  | rootClockFault
  /-- PRESENCE_N_CHANGE (R43). -/
  | presenceNChange (level : Bool)
  /-- BAD_FRAME (R384). -/
  | badFrame (reason : BadFrame)
  /-- MALFORMED_REQUEST (R355). -/
  | malformedRequest (h : Host) (tag : BitVec 5) (write : Bool) (addr : BitVec 24) (beats : Fin 8) (lastOk : Bool)
  /-- HOST_RESET (R360). -/
  | hostReset (h : Host)
  /-- HOST_RESET_RELEASE (R360). -/
  | hostResetRelease (h : Host)
  /-- COLD_RESET_RELEASE (R417). -/
  | coldResetRelease (st : Straps)
  /-- CTL_WARM (R50). -/
  | ctlWarm (a : Agent)
  deriving DecidableEq, Repr

end Sys2Proof
end

