-- ==== Sys2Proof/Machine/State.lean ====
section
/-! DEFINITION. The state of the block as plain data, the reasons a step can stop, and the state after reset. -/

namespace Sys2Proof.Machine

/-- Why the block stops. -/
inductive Fault where
  /-- Raised by ROOT_CLOCK_FAULT: CLK_ROOT stopped or left the limits of Table PRT-6, and R37 defines no
  behaviour until the next cold reset. Safe: the model claims nothing beyond that point. -/
  | rootClockUndefined
  deriving DecidableEq, Repr

/-- Why a command has no meaning. -/
inductive Refusal where
  /-- Raised by an arm of `exec` for a row that has no meaning yet. Safe: nothing is claimed of it. -/
  | notModelled (mnemonic : String)
  deriving DecidableEq, Repr

/-- A bit that hardware sets and a write or a read clears: the cycle of its last setting, none while it is clear (R9). -/
abbrev Flag := Option Nat

/-! ### Threads -/

/-- Thread states of Table BRL-15. -/
inductive TState where
  | off
  | held
  | run
  | wait
  | hwait
  | handed
  | halt
  | maint
  | lockup
  deriving DecidableEq, Repr

/-- An entry of the nesting stack (Table EVT-4) with the kept WAIT address (R179). -/
structure Nest where
  lvl : BitVec 2
  flt : Bool
  wt : Bool
  waitPc : BitVec 16
  deriving DecidableEq, Repr

/-- An event that has been recognised (R433): its input and level, its handler's address as the vector
word stood in the cycle of recognition (R170), and that cycle. -/
structure Recog where
  input : BitVec 5
  lvl : BitVec 2
  vec : BitVec 16
  at_ : Nat
  deriving DecidableEq, Repr

/-- What an entry in progress enters. -/
inductive EntryKind where
  | event
  | chain
  | fault
  | hard
  deriving DecidableEq, Repr

/-- An entry or tail chain between its first issue (or its DONE) and its claim (R172, R180, R182). -/
structure Entering where
  kind : EntryKind
  input : BitVec 5
  lvl : BitVec 2
  vec : BitVec 16
  wt : Bool
  deriving DecidableEq, Repr

/-- Causes of faults, numbered as EVT_FSTAT.CAUSE (Table EVT-5). -/
inductive FCause where
  | illegal
  | misaligned
  | bus
  | overrun
  | nesting
  | privReturn
  deriving DecidableEq, Repr

/-- What an issue that faults reports (R164, R181): cause, space and address, and whether it arose in an entry, and in the
hard-fault entry (R184). -/
structure IssueFault where
  cause : FCause
  space : BitVec 3 := 0
  faddr : Word := 0
  entry : Bool := false
  lock : Bool := false
  deriving DecidableEq, Repr

/-- A fault that the block has recognised and that waits for its entry (R181 to R183): what it reports, the PC to save,
whether it is asynchronous, and its route (R170, R182): whether it escalates, its level and its vector. -/
structure PendFault where
  cause : FCause
  pc : BitVec 16
  space : BitVec 3
  faddr : Word
  async : Bool
  entry : Bool
  hard : Bool
  lvl : BitVec 2
  vec : BitVec 16
  deriving DecidableEq, Repr

/-- The repeat in progress under REP or REPI (R140 to R143): the address of the prefix and which prefix it is. SW.RPT
counts the repetitions still to perform. -/
structure Rep where
  prefixPc : BitVec 16
  interruptible : Bool
  deriving DecidableEq, Repr

/-- The open period and last outcome of a thread (Table BEL-3), with its counts. -/
structure Period where
  isOpen : Bool := false
  handin : Bool := false
  faulted : Bool := false
  lastOut : BitVec 4 := 0
  commits : Word := 0
  discards : Word := 0
  num : Word := 0
  deriving DecidableEq, Repr

/-- A thread's event registers (Table EVT-2), nesting stack and fault record. For cycle `newAt`: the inputs that a pulse has
reached, the pending bits that a write or a claim has cleared, and the bits of EVT_LOST and EVT_FSTAT that have been set (R9,
R160). -/
structure Events where
  en : Word := 0
  pend : Word := 0
  lost : Word := 0
  pulse : Word := 0
  wiped : Word := 0
  lostNew : Word := 0
  fstatNew : Word := 0
  newAt : Nat := 0
  times : SMap DWord := []
  claim : Word := 0
  claimAt : Option Nat := none
  clts : DWord := 0
  nest : List Nest := []
  hf : Bool := false
  fstat : Word := 0
  fpc : BitVec 16 := 0
  faddr : Word := 0
  recog : Option Recog := none
  entering : Option Entering := none
  deriving DecidableEq, Repr

/-- What a thread still has to do about a switch of its bank (R399, R401, R402). -/
inductive SwitchTodo where
  | none
  | toNew
  | toOld
  deriving DecidableEq, Repr

/-- What one hardware thread holds, but for its issues in flight. `waitPc` is the address of the WAIT that parked it (R175). `epoch` counts its period entries, resets and disables, and
`life` its resets, disables and lockups, so that a hall queue entry written before one is known (R77, R376). `fpOld` is FP
before its last change, which took effect at the start of cycle `fpAt` (R107); `enteredAt` is the cycle of the last period
entry (R131); `fetchFrom` is the first cycle whose F refills the queue after a change of flow (R72 to R75); `entryFrom` is the
first cycle in which an event entry may start after an exit (R178). -/
structure ThreadS where
  st : TState := .off
  pc : BitVec 16 := 0
  waitPc : BitVec 16 := 0
  fp : BitVec 19 := 0
  sp : BitVec 19 := 0
  sw : Word := 0
  fpOld : BitVec 19 := 0
  fpAt : Nat := 0
  px0 : DWord := 0
  px1 : DWord := 0
  px2 : DWord := 0
  px3 : DWord := 0
  beforeHalt : TState := .off
  bellPassed : Bool := false
  stepFrom : Option Nat := none
  maintAtBell : Bool := false
  notBefore : Nat := 0
  startFrom : Option Nat := none
  skipSlots : Nat := 0
  lastIssue : Option Nat := none
  holdUntil : Nat := 0
  entryFrom : Nat := 0
  fetchFrom : Nat := 0
  enteredAt : Nat := 0
  budget : Word := 0
  issued : Word := 0
  last : Word := 0
  peak : Word := 0
  overrun : Bool := false
  cfgRefused : Flag := none
  ctxRefused : Flag := none
  pq : List (Word × Bool) := []
  rep : Option Rep := none
  fault : Option PendFault := none
  heldBus : List Word := []
  emptyFree : Bool := false
  pcWritten : Bool := false
  haltFrom : Option Nat := none
  releaseFrom : Option Nat := none
  maintWait : Bool := false
  decidedAt : Option Nat := none
  epoch : Nat := 0
  life : Nat := 0
  resv : Option Nat := none
  sel : BitVec 32 := 0
  dirty : BitVec 32 := 0
  bankY : Bool := false
  todo : SwitchTodo := .none
  handover : Bool := false
  takeback : Bool := false
  oldEntry : BitVec 16 := 0
  ev : Events := { }
  per : Period := { }
  tbaseHold : Word := 0
  deriving DecidableEq, Repr

/-- An issue that has not passed W (Table BRL-12): its cycle, its instruction (none for an entry issue), whether its operands
have been read, the address of a word of it that the fetch found marked (R297), the fault that it meets (R181), whether it is
a taken branch or an exit that chains (R180), SP as it found it at the start of its c1 (R138), and what the thread and
THR_ENTRY held before it, which a cancellation gives back. -/
structure Flight where
  at_ : Nat
  insn : Option Instr
  read : Bool := false
  fetch : Option (BitVec 16) := none
  fault : Option IssueFault := none
  went : Bool := false
  sp : BitVec 19 := 0
  before : ThreadS
  entryReg : Word
  deriving DecidableEq, Repr

/-- One hardware thread: what it holds, and its issues in flight, oldest first. -/
structure Thread extends ThreadS where
  flight : List Flight := []
  deriving DecidableEq, Repr

/-! ### Delayed effects of instructions and writes -/

/-- Where an operand lies: a desk byte address, a slate byte, a product register or an immediate. -/
inductive Loc where
  | desk (b : Barrel) (addr : BitVec 19)
  | slate (t : Tid) (line : BitVec 5) (off : BitVec 6)
  | px (t : Tid) (n : BitVec 2)
  | imm (v : DWord)
  deriving DecidableEq, Repr

/-- A destination: its place, the operand size in bytes, and whether a product register's upper bits
take copies of the value's top bit (R98). -/
structure Dest where
  loc : Loc
  size : Nat
  signFill : Bool
  deriving DecidableEq, Repr

/-- A sample that waits on its barrel's mailbox path (R281): its slot, tag, word and acceptance. -/
structure Sample where
  word : Word
  tag : BitVec 6
  time : DWord
  writeAt : Nat
  barrel : Barrel
  deriving DecidableEq, Repr

/-- An access of a thread to the I/O space, made in its instruction's c6 (R148). A write keeps the level of the thread at
the read point, where SW is sampled (R68, R165). -/
inductive IoAcc where
  | evsig (n : BitVec 5)
  | evclr (n : BitVec 5)
  | inp (io : BitVec 16) (dest : Dest)
  | out (io : BitVec 16) (v : Word) (superv : Bool)
  | pinrd (p : BitVec 4) (dest : Dest)
  | pinwr (p : BitVec 4) (mask v : Word) (staged : Bool)
  | edgeq (c : BitVec 9) (lvl : Byte) (time : DWord)
  | edger (c : BitVec 9) (dest : Dest)
  | tcmp (u : BitVec 10) (v : DWord)
  | tcap (u : BitVec 10) (field : BitVec 3) (dest : Dest)
  | qput (r : BitVec 13) (data : BitVec 512) (staged : Bool)
  | qget (r : BitVec 13) (buf : BitVec 19) (dest : Dest)
  | bstat (cls : BitVec 4) (dest : Dest)
  deriving DecidableEq, Repr

/-- Kinds of hall queue entries (R150). -/
inductive HqKind where
  | hld
  | hst
  | hlr
  | hsc
  | hcas
  | hpass
  | hfree
  | hwatch
  deriving DecidableEq, Repr

/-- One entry of a barrel's hall queue: what it does, for whom, when it was written, and once a bank has
accepted it when it retires and with which result. -/
structure HqEntry where
  kind : HqKind
  thread : Tid
  epoch : Nat
  life : Nat
  addr : BitVec 23
  size : Nat
  data : DWord
  cmp : DWord
  dest : Option Dest
  seq : Nat
  issued : Nat
  written : Nat
  retireAt : Option Nat
  result : DWord
  busErr : Bool
  deriving DecidableEq, Repr

/-- An effect that lands in a later cycle. -/
inductive Eff where
  | store (d : Dest) (v : DWord)
  | pointer (b : Barrel) (addr : BitVec 19) (p : BitVec 19)
  | tas (t : Tid) (w : Loc) (old : Option Dest)
  | flags (t : Tid) (mask val : BitVec 5)
  | product (t : Tid) (n : BitVec 2) (v : DWord)
  | setFp (t : Tid) (v : BitVec 19)
  | setSp (t : Tid) (v : BitVec 19)
  | setPriv (t : Tid) (s : Bool)
  | privDown (t : Tid)
  | setMask (t : Tid) (m : BitVec 2)
  | enterSw (t : Tid)
  | exitSw (t : Tid) (sw : Word) (depth : Nat)
  | retWord (t : Tid) (addr : BitVec 19)
  | swWord (t : Tid) (addr : BitVec 19)
  | insWord (b : Barrel) (bankY : Bool) (addr : BitVec 16) (v : Word)
  | io (t : Tid) (acc : IoAcc)
  | hall (b : Barrel) (e : HqEntry)
  | handin (t : Tid)
  | thrMaint (t : Tid) (on : Bool)
  | buffer (b : Barrel) (addr : BitVec 19) (data : BitVec 512)
  | pinLatch (c : Chan) (v : Bool)
  | pinShift (c : Chan) (v : Bool)
  | pinLive (c : Chan) (set : Bool)
  | pinGovern (c : Chan) (cfg : Word)
  | pinPadIn (c : Chan) (pad : Word)
  | pinStrict (p : PinPort) (on : Bool)
  | pinLockSafe (c : Chan) (on : Bool)
  | pinStnSafe (c : Chan) (s : Station) (on : Bool)
  | padsUnhold (classes : List Nat)
  | pinFilter (c : Chan) (level : Bool) (time : DWord) (fine : BitVec 5)
  | pinRecord (c : Chan) (level : Bool) (time : DWord) (fine : BitVec 5)
  | pinF1 (c : Chan) (level : Bool)
  | pinF2 (c : Chan) (level : Bool)
  | eqAppend (c : Chan) (time : DWord) (lvl : Byte)
  | eqFlush (c : Chan)
  | calSwap (g : CalGroup)
  | calSettle (g : CalGroup)
  | sincWrite (n : SincNo) (v : Word) (time : DWord) (settle sat : Bool)
  | reload (n : TimerNo) (v : Word)
  | jump (n : TimerNo) (v : Word)
  | preload (u : UnitNo) (v : Word) (fine : BitVec 5)
  | unitActive (u : UnitNo) (v : Word) (fine : BitVec 5)
  | unitInit (u : UnitNo)
  | unitForce (u : UnitNo)
  | trigger (n : Cvp)
  | mailbox (n : Cvp) (e : Sample) (count : Word)
  | source (n : BitVec 11)
  | tripRegs (i : TripNo) (on : Bool)
  | stationCount (s : Station)
  | warmDue (byReg : Bool)
  | hostDrop (h : Host)
  | motion (level : Bool)
  | holdup (level : Bool)
  | command (c : Instr)
  deriving DecidableEq, Repr

/-- An entry of the agenda: the cycle at whose end it lands, its place among the landings of that cycle
(R105, R300), the thread and issue that a cancellation names, and whether it is a hall result, which a cancellation of issues
leaves (R77, R181). -/
structure Landing where
  due : Nat
  prio : Nat
  thread : Option Tid
  issuedAt : Nat
  hall : Bool := false
  eff : Eff
  deriving DecidableEq, Repr

/-! ### Staged items -/

/-- What a class member stages (R202, R203). -/
inductive Staged where
  | pin (c : Chan) (v : Bool)
  | compare (u : UnitNo) (v : Word) (fine : BitVec 5)
  | reload (n : TimerNo) (v : Word)
  | edge (c : Chan) (time : DWord) (lvl : Byte)
  | post (r : Ring) (pool : BitVec 3) (cell : Nat)
  deriving DecidableEq, Repr

/-! ### Barrels and bells -/

/-- A slot-map copy that has been accepted (R61): the 32 entries as they stood, the first cycle in which
it may take effect, and the bell it waits for. -/
structure SlotPending where
  map : List Byte
  from_ : Nat
  bell : Option Bell
  deriving DecidableEq, Repr

/-- One barrel: shadow and active slot map, pending copy, gating and hall queue. -/
structure BarrelS where
  shadow : List Byte := List.replicate 32 0
  active : List Byte := List.replicate 32 0
  pending : Option SlotPending := none
  err : BitVec 2 := 0
  when_ : Bool := false
  bellSel : BitVec 4 := 0
  gated : Bool := true
  hq : List HqEntry := []
  hqSeq : Nat := 0
  hqHeadAt : Nat := 0
  hqPeak : Nat := 0
  dropErr : Flag := none
  deriving DecidableEq, Repr

/-- A schedule change that has been accepted (R196). -/
structure SchedApply where
  period : Word
  start : DWord
  at_ : Word
  nextBell : Bool
  deriving DecidableEq, Repr

/-- One bell timer (R192 to R197). `lap` counts the wraps of TBASE before the next bell time. -/
structure BellS where
  en : Bool := false
  running : Bool := false
  stopping : Bool := false
  err : BitVec 2 := 0
  apply : Option SchedApply := none
  num : DWord := 0
  nextNum : DWord := 0
  next : DWord := 0
  lap : Int := 0
  commits : Nat := 0
  discards : Nat := 0
  skip : Word := 0
  deriving DecidableEq, Repr

/-! ### Pin fabric -/

/-- An entry of an edge queue (R243). -/
structure EdgeEnt where
  time : DWord
  fine : BitVec 5
  level : Bool
  z : Bool
  deriving DecidableEq, Repr

/-- What a pad shows and the fine value of its last change. -/
structure PadS where
  out : Bool := false
  oe : Bool := false
  loop : Bool := false
  fine : BitVec 5 := 0
  deriving DecidableEq, Repr

/-- One pin channel. `latchV`, `cfg`, `pad`, `shOutV` are what the pad side sees: a write presented in w
reaches them for the pad of w + 3 (R232). `filt` is the filtered level before inversion, `f1` and `f2` are
what lines and port hoists, and line hoists, see of F (R247); `comb` is the combined output and `combAt` the cycle of its last
transition, `firedAt` that of the last entry that fired (R241). `srcs` are the source values of the previous
cycle, `row` the row of Table PIN-3 then in force. -/
structure PinS where
  latch : Bool := false
  latchV : Bool := false
  live : Bool := false
  cfg : Word := 0
  padCfg : Word := 0x14000000
  pend : Option (Bool × Bell) := none
  swErr : BitVec 2 := 0
  eq : List EdgeEnt := []
  headAt : Nat := 0
  lateAt : Option Nat := none
  eLevel : Bool := false
  eZ : Bool := true
  eFine : BitVec 5 := 0
  recs : List DWord := []
  recLost : Bool := false
  level : Bool := false
  path : Bool := false
  sync : Bool := false
  filt : Bool := false
  f1 : Bool := false
  f2 : Bool := false
  lockSafe : Bool := false
  stnSafe : List Nat := []
  hold : Bool := false
  holdSafe : Bool := false
  locked : Bool := false
  cfgErr : Flag := none
  late : Flag := none
  eqOvf : Flag := none
  recOvf : Flag := none
  lockViol : Flag := none
  ownIgn : Flag := none
  shReg : BitVec 8 := 0
  shCnt : Nat := 0
  shHold : Option Byte := none
  shOut : Bool := false
  shOutV : Bool := false
  rx : Byte := 0
  rxv : Flag := none
  shOvr : Flag := none
  shAt : Option Nat := none
  srcs : BitVec 4 := 0
  row : BitVec 3 := 0
  pad : PadS := { }
  comb : Bool × Bool := (false, false)
  combAt : Option Nat := none
  firedAt : Option Nat := none
  drill : Option (BitVec 2) := none
  deriving DecidableEq, Repr

/-- The three-key locking sequence (R236): keys accepted, port named, host port, cycle of the last key. -/
structure LockSeq where
  step : Nat := 0
  port : BitVec 4 := 0
  host : Host := 0
  last : Nat := 0
  deriving DecidableEq, Repr

/-- What a swap at the bell of cycle `at_` replaced, while it may still be deferred (R241). -/
structure SwapUndo where
  at_ : Nat
  startAt : Nat
  last : SMap Nat
  stale : Bool
  deriving DecidableEq, Repr

/-- One calibration group (R240 to R242): the next channel in rotation, the start of the spare's pass and
whether it has ended, and the cycle of each pair's last calibration, by channel within the group (16 is the spare). -/
structure CalS where
  next : Nat := 0
  startAt : Nat := 0
  passDone : Bool := false
  last : SMap Nat := []
  stale : Bool := false
  undo : Option SwapUndo := none
  deriving DecidableEq, Repr

/-- One hoist's run state (R254). -/
structure HoistS where
  isMatch : Bool := false
  prev : Word := 0
  snap : Word := 0
  deriving DecidableEq, Repr

/-- One sinc unit's run state (R255 to R257). -/
structure SincS where
  i1 : BitVec 40 := 0
  i2 : BitVec 40 := 0
  i3 : BitVec 40 := 0
  i4 : BitVec 40 := 0
  p1 : BitVec 40 := 0
  p2 : BitVec 40 := 0
  p3 : BitVec 40 := 0
  p4 : BitVec 40 := 0
  count : Nat := 0
  results : Nat := 0
  startAt : Nat := 0
  lastSample : Option Nat := none
  lastTime : DWord := 0
  data : Word := 0
  ts : DWord := 0
  isNew : Flag := none
  ovr : Flag := none
  sat : Flag := none
  settle : Bool := false
  cfgErr : Flag := none
  clkErr : Flag := none
  deriving DecidableEq, Repr

/-! ### Timers, converters, trips -/

/-- One timer's run state (R261 to R264, R276). -/
structure TimerS where
  run : Bool := false
  cnt : Word := 0
  up : Bool := false
  r : Word := 0
  resumeAt : Nat := 0
  topDue : Bool := false
  valleyDue : Bool := false
  counted : Bool := false
  slopeFrom : Word := 0
  trunc : Flag := none
  clamp : Flag := none
  deriving DecidableEq, Repr

/-- One compare/capture unit's run state (R265 to R272, R287). `src` is the source as the unit's actions
build it; `forced` is the cycle in which a station's force on it began (R287), `capAt` that of its last capture. -/
structure UnitS where
  preload : Word := 0
  preFine : BitVec 5 := 0
  act : Word := 0
  actFine : BitVec 5 := 0
  matched : Bool := false
  matchAt : Option Nat := none
  src : Bool := false
  srcFine : BitVec 5 := 0
  actAt : Option Nat := none
  old : Bool := false
  forced : Option Nat := none
  late : Flag := none
  valid : Bool := false
  ovr : Flag := none
  wsat : Flag := none
  isOpen : Bool := false
  capR : DWord := 0
  capF : DWord := 0
  capW : Word := 0
  capCnt : Word := 0
  capAt : Option Nat := none
  deriving DecidableEq, Repr

/-- A host port's bank of the global start (R275): what an armed start samples. -/
structure GStart where
  armed : Bool := false
  err : BitVec 2 := 0
  src : BitVec 2 := 0
  bell : BitVec 4 := 0
  mask : List Nat := []
  at_ : DWord := 0
  presented : Nat := 0
  deriving DecidableEq, Repr

/-- One converter port's run state (R279 to R281). -/
structure CvpS where
  lastAt : Option Nat := none
  count : BitVec 16 := 0
  boxCount : Word := 0
  queue : List Sample := []
  last : Word := 0
  close : Flag := none
  ign : Flag := none
  trig : Bool := false
  deriving DecidableEq, Repr

/-- One station's run state (R284 to R288): the trips that count, the cycle of a write of 1 to LATCHED, the pins of its safe
action, and whether its trip was active in the previous cycle. -/
structure StationS where
  counting : List Nat := []
  latched : Bool := false
  clearAt : Option Nat := none
  acted : List Nat := []
  prev : Bool := false
  blankEnd : Option Nat := none
  cfgErr : Flag := none
  count : BitVec 16 := 0
  deriving DecidableEq, Repr

/-! ### Memories -/

/-- Steps of a region test (Table MEM-4). -/
inductive TestStep where
  | idle
  | copy
  | test
  | repair
  | restore
  deriving DecidableEq, Repr

/-- One memory instance's test engine and repair state (R307 to R311). Lines are numbered over the
instance. `lines` counts the accesses of the copy or restore that have been granted, of each bank for hall (key 0 elsewhere), `lineAt` is the cycle of the last of them,
`stepAt` the cycle in which the step began or, for the repair, ends; `spares` lists the lines that spare lines replace and
`retired` the region that the spare region replaces, as the repair record in MRAM holds them (R310); `ue` lists ECC words, and
`ce` lines, by their address. -/
structure InstS where
  step : TestStep := .idle
  region : Nat := 0
  next : Nat := 0
  startAt : Nat := 0
  now_ : Bool := false
  lines : SMap Nat := []
  lineAt : Nat := 0
  stepAt : Nat := 0
  fail : Flag := none
  retired : Option Nat := none
  passes : BitVec 12 := 0
  spares : List Nat := []
  marked : List Nat := []
  ue : List Nat := []
  ce : List Nat := []
  deriving DecidableEq, Repr

/-- An entry of the error log (Table MEM-9). -/
structure ErrLog where
  valid : Bool
  w0 : Word
  w1 : Word
  deriving DecidableEq, Repr

/-- Error counts, log, wipe, scrubbing and MRAM status: the accesses that a wipe has made of each bank, its trigger and the
trigger of the last one that ended (R313, R315); the scrub pass in progress, its next word and its start (R307); the blocks of
MRAM that are retired, oldest first, the next word of the MRAM scrubber and the start of its pass (R318), and the end of the
latest MRAM write (R317). -/
structure MemS where
  ce : Nat := 0
  ue : Nat := 0
  ceTotal : Nat := 0
  ueTotal : Nat := 0
  nextLog : Nat := 0
  log : SMap ErrLog := []
  wiping : Bool := false
  wipeTrig : BitVec 4 := 0
  wiped : SMap Nat := []
  wipeDone : Flag := none
  wipeCause : BitVec 4 := 0
  wipeCount : BitVec 16 := 0
  scrubNext : Nat := 0
  scrubFrom : Nat := 0
  mramBusyTo : Nat := 0
  mramUe : Flag := none
  mramUeEver : Bool := false
  mramBlocks : List Nat := []
  mramBad : List Nat := []
  mramCorr : Nat := 0
  mramNext : Nat := 0
  mramFrom : Nat := 0
  deriving DecidableEq, Repr

/-- An access that waits for a desk's second port or for a hall bank (R298, R299, R303): the desk, or none for hall; the line
or granule; who waits; the access; the first cycle of its arbitration; the request's tag at a host port, the serial number of
an engine's descriptor or the item of the queue manager; and the bytes of the line or granule that it covers. -/
structure PortReq where
  desk : Option Barrel
  unit : Nat
  user : PortUser
  acc : LineAccess
  from_ : Nat
  tag : Nat
  off : Nat
  len : Nat
  deriving DecidableEq, Repr

/-- The last use of a desk's second port, in BCLK, or of a hall bank, in SCLK, and the turns of its requesters (R298, R303):
whether DMA had the last turn of the two, and the host port and the engine that had theirs last. -/
structure PortTurn where
  lastAt : Option Nat := none
  dma : Bool := false
  host : Nat := 7
  eng : Nat := 15
  deriving DecidableEq, Repr

/-! ### DMA and queues -/

/-- States of a DMA channel (Table DMA-10). -/
inductive ChState where
  | idle
  | queued
  | run
  | ended
  | aborted
  | stopped
  | derr
  deriving DecidableEq, Repr

/-- One DMA channel (R328). -/
structure DmaChS where
  st : ChState := .idle
  cptr : BitVec 48 := 0
  cres : Word := 0
  reexam : Bool := false
  rchk : Bool := false
  started : Bool := false
  ign : Flag := none
  plost : Flag := none
  descs : BitVec 16 := 0
  aborting : Bool := false
  grant : Bool := false
  deriving DecidableEq, Repr

/-- States of a DMA engine. -/
inductive EngState where
  | idle
  | running
  | stopping
  | stopped
  deriving DecidableEq, Repr

/-- What an engine is doing for its channel: fetching the descriptor at CPTR, moving its bursts, waiting for the cycle of
its link recheck, or waiting for that recheck's data (R326 to R336). -/
inductive EngWork where
  | none
  | fetch
  | move
  | recheckAt (cycle : Nat)
  | recheckData
  deriving DecidableEq, Repr

/-- Where an engine's fetch or burst stands: not begun, its reads under way, or its writes under way. -/
inductive EngPhase where
  | none
  | reading
  | writing
  deriving DecidableEq, Repr

/-- Bytes at their addresses, as a write request enables them. -/
abbrev Bytes := List (Nat × Byte)

/-- A descriptor that an engine fetches ahead (R331): the channel that it is for, its address, the tag of its read where that
goes to system memory, how many of its 32 bytes are still to come, and those that are there. -/
structure Ahead where
  ch : BitVec 4
  addr : BitVec 48
  tag : Option (BitVec 12)
  left : Nat := 32
  data : Mem := []
  deriving DecidableEq, Repr

/-- One DMA engine (R329 to R336): its work, the descriptor it holds and its number, the row and the byte of the row its
next burst begins at, the requests it has still to issue, the bytes read and where a ring get reads them, whether a DRAIN has
discarded the entry of that get (R341), a descriptor fetched ahead, and the bus error record. -/
structure EngineS where
  st : EngState := .idle
  cur : BitVec 4 := 0
  freeAt : Option Nat := none
  work : EngWork := .none
  phase : EngPhase := .none
  serial : Nat := 0
  d0 : DWord := 0
  d1 : DWord := 0
  d2 : DWord := 0
  d3 : DWord := 0
  row : Nat := 0
  off : Nat := 0
  written : Nat := 0
  halfDone : Bool := false
  reads : List (BitVec 48 × Nat) := []
  wrts : List (BitVec 48 × Nat × Bytes) := []
  rbuf : Mem := []
  dataAt : Nat := 0
  ringWait : Bool := false
  getAt : Nat := 0
  getLost : Bool := false
  cell : Option (BitVec 3 × Nat) := none
  ahead : Option Ahead := none
  err : Option BusErr := none
  errValid : Bool := false
  errCh : BitVec 4 := 0
  deriving DecidableEq, Repr

/-- Who made a post: a thread's QPUT, a burst of a channel's descriptor, or the commit of a staged post. -/
inductive PostBy where
  | thread (t : Tid)
  | chan (ch : DmaCh) (serial : Nat)
  | commit
  deriving DecidableEq, Repr

/-- Who holds an initiator tag (R338, R429): a channel's descriptor, the queue manager with the entry that its write
makes visible and the cell that carries it (R343), the initiator drill, or a fetch-ahead (R331). -/
inductive TagUser where
  | chan (ch : DmaCh) (serial : Nat)
  | post (r : Ring) (n : Word) (who : PostBy) (cell : Option (BitVec 3 × Nat))
  | drill
  | ahead (e : Engine)
  deriving DecidableEq, Repr

/-- A request on an initiator port whose tag is in use (R30), as the surroundings see it (Table PRT-3): the address
of its next beat, the beats still to come, the bytes that a write enables, and the phase of its requester's work as
DMA_BERRI shows it (R334). -/
structure TagUse where
  tag : BitVec 12
  port : InitPort
  user : TagUser
  write : Bool
  addr : BitVec 48
  beats : Nat
  data : Bytes
  phase : BitVec 3 := 2
  deriving DecidableEq, Repr

/-- An initiator port's rotation (R338): the SCLK of its last request, and the requester that made it (16 is the queue
manager). -/
structure IPort where
  lastAt : Option Nat := none
  last : Nat := 16
  deriving DecidableEq, Repr

/-- A loaded ring (R340 to R342): `next` is the number of the entry that the next written slot takes, `errAt` a
slot whose write failed (R348). -/
structure RingS where
  loaded : Bool := false
  inHall : Bool := false
  base : BitVec 42 := 0
  size : Nat := 0
  pool : BitVec 3 := 0
  pside : Bool := false
  cside : Bool := false
  onFull : Bool := false
  nthr : Nat := 0
  nen : Bool := false
  notif : BitVec 3 := 0
  prod : Word := 0
  take : Word := 0
  cons : Word := 0
  rsv : Nat := 0
  next : Word := 0
  errAt : Option Word := none
  drop : Flag := none
  dberr : Flag := none
  err : Bool := false
  ue : Flag := none
  lost : Flag := none
  deriving DecidableEq, Repr

/-- A pool's taken cells (R343). -/
structure PoolS where
  taken : List Nat := []
  deriving DecidableEq, Repr

/-- An item of the queue manager (R347): a post with its data and cell, a fill with its ring position, or an entry that a
channel takes (R349); a fill is no longer live once its thread has been reset, disabled or locked up (R348). -/
inductive QmItem where
  | post (r : Ring) (data : BitVec 512) (cell : Option (BitVec 3 × Nat)) (who : PostBy)
  | fill (r : Ring) (n : Word) (t : Tid) (buf : BitVec 19) (live : Bool)
  | take (r : Ring) (n : Word) (ch : DmaCh) (serial : Nat)
  deriving DecidableEq, Repr

/-- The queue manager: waiting items, started items with the cycle of their start, notifier counts, command status per host
port. -/
structure QmS where
  items : List QmItem := []
  started : List (Nat × QmItem) := []
  lastStart : Nat := 0
  nstat : SMap (BitVec 16 × Ring) := []
  rcmd : SMap (BitVec 3 × Ring) := []
  deriving DecidableEq, Repr

/-! ### Locks -/

/-- A lease entry (R372): word, owner code and the LCLK-aligned cycle of its deadline. -/
structure Lease where
  addr : BitVec 23
  owner : BitVec 16
  deadline : Nat
  deriving DecidableEq, Repr

/-- A watch (R377): a thread with an event input, or a host port. -/
inductive Watcher where
  | thread (t : Tid)
  | host (h : Host)
  deriving DecidableEq, Repr

/-- A watch entry. -/
structure Watch where
  who : Watcher
  addr : BitVec 23
  input : BitVec 5
  deriving DecidableEq, Repr

/-- An access that waits at the lock unit (R380): an abandonment write or a host command. -/
inductive LockReq where
  | abandon (addr : BitVec 23) (owner : BitVec 16) (expired : Bool)
  | host (h : Host) (op : BitVec 3) (addr : BitVec 23) (dur : Word) (cmp swp : DWord)
  deriving DecidableEq, Repr

/-- A host port's command bank (Table HST-14). -/
structure HpsBank where
  busy : Bool := false
  doneAt : Option Nat := none
  res : BitVec 3 := 0
  op : BitVec 3 := 0
  resWord : DWord := 0
  wakes : Nat := 0
  lastWake : BitVec 23 := 0
  deriving DecidableEq, Repr

/-- A thread's lock status (Table HST-14). -/
structure LockStat where
  lfull : Flag := none
  wfull : Flag := none
  freemiss : Flag := none
  deriving DecidableEq, Repr

/-- The lock unit. -/
structure LockS where
  leases : SMap (Option Lease) := []
  watches : List Watch := []
  queue : List LockReq := []
  banks : SMap HpsBank := []
  tstat : SMap LockStat := []
  noLease : Bool := false
  deriving DecidableEq, Repr

/-! ### Host ports and interrupts -/

/-- An outstanding request of a host port (R354) and its response. `last` is the SCLK of its last beat, `left` counts its line or
granule accesses that have still to be granted once it has been presented to them, `doneAt` is the SCLK in which it was
performed and `readyAt` the first in which its response may be presented (R358, R359). -/
structure Req where
  tag : BitVec 5
  status : BitVec 2
  data : List (BitVec 128)
  performed : Bool
  write : Bool := false
  addr : Nat := 0
  beats : Nat := 0
  wdata : List (BitVec 128 × BitVec 16) := []
  last : Nat := 0
  sent : Bool := false
  left : Nat := 0
  doneAt : Nat := 0
  readyAt : Nat := 0
  deriving DecidableEq, Repr

/-- One host port: HOST_RST_N has been recognised low, and the port is held since the effects of that began (R360). -/
structure HostS where
  reqs : List Req := []
  errs : Nat := 0
  inRst : Bool := false
  held : Bool := false
  deriving DecidableEq, Repr

/-- One interrupt line (R368): the LCLK edge at which its timer started, and how many events it counted in
which SCLK. -/
structure IrqS where
  pend : Nat := 0
  isAssert : Bool := false
  startAt : Option Nat := none
  sclk : Nat := 0
  inSclk : Nat := 0
  out : Bool := false
  deriving DecidableEq, Repr

/-! ### Halyard -/

/-- States of a link (R383). -/
inductive LinkSt where
  | down
  | train
  | up
  deriving DecidableEq, Repr

/-- Alignment states (Table HLY-3). -/
inductive AlignSt where
  | free
  | acquire
  | locked
  | holdover
  | head
  deriving DecidableEq, Repr

/-- An entry of the receive queue (R414). -/
structure RxEnt where
  status : Bool
  src : BitVec 14
  data : List Byte
  deriving DecidableEq, Repr

/-- One Halyard lane of this node: its own frames that wait, the own frame it carries (none while it carries a
forwarded frame or idles), and the cycle in which it falls idle (R385). -/
structure Lane where
  queue : List Frame := []
  cur : Option Frame := none
  busyTo : Nat := 0
  deriving DecidableEq, Repr

/-- A frame that has left on a lane; an aborted one ended with /K30.7/. -/
structure SentFrame where
  down : Bool
  frame : Frame
  aborted : Bool
  deriving DecidableEq, Repr

/-- The Halyard endpoint: links, lanes, the frames that have left in their order, position, alignment, link
delay, roll call, receive queue and error counts. -/
structure HlyS where
  up : LinkSt := .down
  dn : LinkSt := .down
  laneUp : Lane := { }
  laneDn : Lane := { }
  sent : List SentFrame := []
  pos : BitVec 14 := 0x3FFF
  posv : Bool := false
  align : AlignSt := .free
  offs : Word := 0
  slewOwed : Int := 0
  slewAt : Nat := 0
  lastBeacon : Nat := 0
  nextBeacon : Nat := 0
  dly : List Word := []
  nextDly : Nat := 0
  t1 : DWord := 0
  nodes : BitVec 14 := 0
  seq : BitVec 9 := 0
  rx : List RxEnt := []
  rxOvf : Flag := none
  crcErr : Nat := 0
  codeErr : Nat := 0
  abortErr : Nat := 0
  dropErr : Nat := 0
  statusAt : Option Nat := none
  farLoop : Bool := false
  deriving DecidableEq, Repr

/-! ### Update and lifecycle -/

/-- Update stages (Table HLY-15). -/
inductive Stage where
  | idle
  | download
  | verifying
  | verified
  | armed
  | switching
  | provisional
  | recovery
  deriving DecidableEq, Repr

/-- A record of the journal (Table HLY-8). -/
structure JRec where
  seq : Word := 0
  typ : Nat
  slotB : Bool
  half : Bool
  imgid : DWord
  bell : DWord
  cls : BitVec 4
  deriving DecidableEq, Repr

/-- An armed order, or the switch or fall-back in progress (R397 to R402). -/
structure Order where
  imgid : DWord
  cls : Bell
  bell : DWord
  deriving DecidableEq, Repr

/-- Lifecycle states (Table HLY-10). -/
inductive LcState where
  | blank
  | opened
  | owned
  | returned
  | scrapped
  deriving DecidableEq, Repr

/-- A settings copy in MRAM or open for writing (R406, R407), and the 4 KiB blocks it takes (R319): block i of half
h is 512h + i. -/
structure SetCopy where
  len : Nat
  data : Mem
  blocks : List Nat
  deriving DecidableEq, Repr

/-- The update controller and what MRAM holds for it (Table MEM-6). A download path follows the next expected unit
of one chunk (R393); `moving` lists software sources with the cycle after their last firing (R398); `jseq` is SEQ of the next
journal record (R404), `workEnd` the cycle by which the verification or the copy in progress ends (R296, R392). -/
structure UpdS where
  stage : Stage := .idle
  cmdErr : BitVec 4 := 0
  slotA : Mem := []
  slotB : Mem := []
  stagingB : Bool := true
  half : Bool := false
  bitmap : SMap Bool := []
  seqHost : Option (Nat × Nat) := none
  seqHly : Option (Nat × Nat) := none
  imgLen : Word := 0
  imgId : DWord := 0
  vDone : Bool := false
  vFail : BitVec 4 := 0
  outcome : BitVec 3 := 0
  cause : BitVec 8 := 0
  order : Option Order := none
  copyDone : Bool := false
  copyErr : Bool := false
  fallback : Option Order := none
  switchAt : DWord := 0
  confirmBy : Option Nat := none
  beginAfter : Option (DWord × Word) := none
  setDef : Bool := false
  cid : DWord := 0
  journal : List JRec := []
  openCopy : Option (Bool × SetCopy) := none
  copyA : Option SetCopy := none
  copyB : Option SetCopy := none
  wear : SMap Nat := []
  moving : SMap Nat := []
  lc : LcState := .opened
  ownLock : Bool := false
  okh : BitVec 384 := 0
  tampers : BitVec 16 := 0
  lcErr : BitVec 3 := 0
  recoverNext : Bool := false
  reverify : Bool := false
  jseq : Word := 0
  workEnd : Nat := 0
  deriving DecidableEq, Repr

/-! ### Drills -/

/-- A drill in progress (R426, R427): its code, arguments and start, the parts of it still to run, the mismatches it has
found, and the registers it will restore by their offset. -/
structure DrillRun where
  code : Byte
  arg0 : Word
  arg1 : Word
  start : Nat
  left : Nat
  bad : Nat
  saved : SMap Word
  deriving DecidableEq, Repr

/-- The drill controller and the report card. -/
structure DrillS where
  cur : Option DrillRun := none
  ign : Flag := none
  dmode : Bool := false
  done : Flag := none
  res : BitVec 3 := 0
  lastCode : Byte := 0
  data : Word := 0
  card : SMap Word := []
  seq : Word := 0
  refused : Nat := 0
  cardDue : Bool := false
  startAt : Nat := 0
  startUs : Word := 0
  prevUsed : Bool := false
  startBell : BitVec 4 := 0
  discards : BitVec 24 := 0
  deriving DecidableEq, Repr

/-! ### The whole block -/

/-- Phases of the block between resets (R18, R41, R46, R409, R410). -/
inductive Phase where
  /-- RST_COLD_N is low. -/
  | cold
  /-- The presence wait of a cold start. -/
  | presenceWait
  /-- Registers are served; the first bell may or may not have fallen. -/
  | up
  /-- Warm reset step W1. -/
  | warm
  /-- The recovery ROM. -/
  | recovery
  /-- Production-test mode (R35). -/
  | prodTest
  /-- Lifecycle state SCRAPPED. -/
  | scrapped
  deriving DecidableEq, Repr

/-- Resets, straps and the system inputs. `coldBoot` holds from a cold release to the first bell (R46), `warmKeys` lists the
CTL_WARM writes whose response is still to be accepted (R50). -/
structure Sys where
  phase : Phase := .up
  straps : Straps := { owner := 0, hportEn := 0xFF, rootMhz := 2400, hlyEn := 3, recovery := false, testMode := false }
  rootErr : Bool := false
  ownerForced : Bool := false
  recoveryTaken : Bool := false
  testRefused : Bool := false
  cause : Word := 2
  blockUp : Bool := false
  coldBoot : Bool := true
  causeNew : Word := 0
  causeAt : Nat := 0
  lockupAny : Bool := false
  lockPipe : BitVec 2 := 0
  warmPend : Bool := false
  warmByReg : Bool := false
  warmKeys : List (Host × BitVec 5) := []
  warmAt : Nat := 0
  rstWarm : Bool := false
  presence : Bool := false
  presenceArmed : Bool := true
  presenceLowAt : Option Nat := none
  window : Option Nat := none
  tamper : Bool := false
  motion : Bool := false
  holdup : Bool := false
  fineLock : Bool := false
  heldThr : List Nat := []
  heldBel : List Nat := []
  drillNext : Bool := false
  deriving DecidableEq, Repr

/-- The state of the block. Registers that only store what is written lie in `regs`, keyed by their
hc: offset (a banked register by offset plus 2^24 times its bank); everything that moves on its own has a
field of its own. `lap` counts the wraps of TBASE, which bell times compare with (R192). -/
structure State where
  now : Nat := 0
  tbase : DWord := 0
  lap : Int := 0
  regs : SMap Word := []
  threads : SMap Thread := []
  barrels : SMap BarrelS := []
  bells : SMap BellS := []
  evmap : SMap (BitVec 11 × BitVec 2) := []
  agenda : List Landing := []
  staged : List (Tid × Staged) := []
  reloadUndo : List (Tid × TimerNo × Word × TimerS) := []
  desk : Mem := []
  slate : Mem := []
  hall : Mem := []
  ins : SMap Word := []
  pins : SMap PinS := []
  lockSeq : LockSeq := { }
  cals : SMap CalS := []
  hoists : SMap HoistS := []
  sincs : SMap SincS := []
  timers : SMap TimerS := []
  units : SMap UnitS := []
  gstarts : SMap GStart := []
  hostHold : SMap Word := []
  padHold : Bool := true
  strict : List Nat := []
  cvps : SMap CvpS := []
  tripsIn : SMap Bool := []
  tripLevel : BitVec 128 := 0
  tripSeen : BitVec 128 := 0
  seenNew : BitVec 128 := 0
  seenAt : Nat := 0
  stations : SMap StationS := []
  insts : SMap InstS := []
  memS : MemS := { }
  ports : List PortReq := []
  turns : SMap PortTurn := []
  perrNew : Option Nat := none
  dma : SMap DmaChS := []
  engines : SMap EngineS := []
  tags : List TagUse := []
  iports : SMap IPort := []
  strays : SMap Nat := []
  rings : SMap RingS := []
  pools : SMap PoolS := []
  qm : QmS := { }
  locks : LockS := { }
  hosts : SMap HostS := []
  irqs : SMap IrqS := []
  hly : HlyS := { }
  upd : UpdS := { }
  drill : DrillS := { }
  sys : Sys := { }
  free : Nat := 0
  levelsHigh : List Nat := []
  tickStage : Nat := 0
  pending : List Instr := []
  deriving DecidableEq, Repr

/-- The block right after a cold reset: every register at its reset value, memories zero, nothing in
progress and no command waiting. Log entries 5, 6 and 11 name what the manual leaves open. -/
def State.reset : State := { }

end Sys2Proof.Machine
end

