-- ==== Sys2Proof/Machine/Store.lean ====
section
/-! DEFINITION. Sparse maps and memories, the accessors of the parts of the state, and counts of the clocks. -/

namespace Sys2Proof.Machine

/-! ### Sparse maps -/

/-- The value at a key; `d` where the key is not listed. -/
def mget {α : Type} (d : α) : SMap α → Nat → α
  | [], _ => d
  | (k, v) :: rest, i => if k = i then v else mget d rest i

/-- The map without a key. -/
def merase {α : Type} : SMap α → Nat → SMap α
  | [], _ => []
  | (k, v) :: rest, i => if k = i then merase rest i else (k, v) :: merase rest i

/-- The map with a key that it does not list, in its place. -/
def minsert {α : Type} : SMap α → Nat → α → SMap α
  | [], i, x => [(i, x)]
  | (k, v) :: rest, i, x => if i < k then (i, x) :: (k, v) :: rest else (k, v) :: minsert rest i x

/-- Write a key: a value equal to the default removes the key, so equal maps are equal lists. -/
def mput {α : Type} [DecidableEq α] (d : α) (m : SMap α) (i : Nat) (x : α) : SMap α :=
  if x = d then merase m i else minsert (merase m i) i x

/-- Keys above a bound, strictly rising, and no value equal to the default. -/
def mwfFrom {α : Type} [DecidableEq α] (d : α) : Option Nat → SMap α → Bool
  | _, [] => true
  | b, (k, v) :: rest =>
    (match b with | none => true | some j => decide (j < k)) && decide (v ≠ d) && mwfFrom d (some k) rest

/-- The canonical form of a map. -/
def mwf {α : Type} [DecidableEq α] (d : α) (m : SMap α) : Bool := mwfFrom d none m

/-- The canonical form of a memory: addresses strictly rising, no entry equal to what an unlisted byte reads (0). -/
abbrev Memory.wf (m : Mem) : Bool := mwf 0 m

/-- One byte of a memory; an unlisted byte reads 0 (log entry 6). -/
def peek (m : Mem) (a : Nat) : Byte := mget 0 m a

/-- Write one byte of a memory. -/
def poke (m : Mem) (a : Nat) (v : Byte) : Mem := mput 0 m a v

/-- `n` bytes from an address, lowest address first. -/
def peeks (m : Mem) (a : Nat) : Nat → List Byte
  | 0 => []
  | n + 1 => peek m a :: peeks m (a + 1) n

/-- Write bytes from an address upward. -/
def pokes (m : Mem) (a : Nat) : List Byte → Mem
  | [] => m
  | v :: rest => pokes (poke m a v) (a + 1) rest

/-- Little-endian value of bytes (R94). -/
def leNat : List Byte → Nat
  | [] => 0
  | v :: rest => v.toNat + 256 * leNat rest

/-- The `n` low bytes of a number, lowest first. -/
def leBytes (v : Nat) : Nat → List Byte
  | 0 => []
  | n + 1 => BitVec.ofNat 8 v :: leBytes (v / 256) n

/-- Clear a range of `n` bytes: every listed byte of the range is dropped. -/
def wipe (m : Mem) (a n : Nat) : Mem := m.filter (fun c => decide (c.1 < a) || decide (a + n ≤ c.1))

/-! ### Numbers -/

/-- A bit of a word as a Bool. -/
def bit (v : Word) (i : Nat) : Bool := v.getLsbD i

/-- A word with one bit. -/
def bitw (i : Nat) : Word := 1#32 <<< i

/-- A word's bits from `lo`, `n` of them, as a number. -/
def fieldN (v : Word) (lo n : Nat) : Nat := (v.toNat >>> lo) % 2 ^ n

/-- A Bool as a bit at a place. -/
def flagAt (i : Nat) (b : Bool) : Word := if b then bitw i else 0

/-- A flag of the hardware as a bit at a place. -/
def markAt (i : Nat) (f : Flag) : Word := flagAt i f.isSome

/-- A number as a field at a place of a word. -/
def put (lo : Nat) (v : Nat) : Word := BitVec.ofNat 32 (v <<< lo)

/-- The two halves of a 64-bit value. -/
def lo32 (v : DWord) : Word := v.setWidth 32
/-- Bits 63 to 32. -/
def hi32 (v : DWord) : Word := (v >>> 32).setWidth 32
/-- A 64-bit value from its halves. -/
def join64 (lo hi : Word) : DWord := hi ++ lo

/-- `min n cap`: a saturating count. -/
def sat (cap n : Nat) : Nat := if cap ≤ n then cap else n

/-- Division rounded up. -/
def ceilDiv (a b : Nat) : Nat := (a + b - 1) / b

/-! ### Clocks (R17, R18, R38)

`State.now` counts BCLK, and FCLK, from the release of clock reset. SCLK n begins in cycle 2n, LCLK n in
cycle 8n. -/

/-- The first cycle of the first SCLK that begins after cycle `e`. -/
def sclkAfter (e : Nat) : Nat := 2 * (e / 2 + 1)

/-- The first LCLK edge at or after cycle `e`. -/
def lclkAt (e : Nat) : Nat := 8 * ceilDiv e 8

/-- A duration of `us` microseconds in LCLK, rounded up (R38). -/
def usLclk (mhz us : Nat) : Nat := ceilDiv (us * mhz) 16

/-- The LCLK edge at which a duration of `us` microseconds that starts in cycle `e` ends (R38). -/
def wallEnd (mhz e us : Nat) : Nat := lclkAt e + 8 * usLclk mhz us

/-- The root frequency as strapped. -/
def State.mhz (s : State) : Nat := s.sys.straps.rootMhz.toNat

/-- Whole microseconds in a number of BCLK. -/
def cyclesUs (mhz cycles : Nat) : Nat := cycles * 2 / (if mhz = 0 then 1 else mhz)

/-! ### Parts of the state -/

/-- The thread `t`. -/
def State.thr (s : State) (t : Tid) : Thread := mget { } s.threads t.val
/-- Replace the thread `t`. -/
def State.setThr (s : State) (t : Tid) (x : Thread) : State := { s with threads := mput { } s.threads t.val x }
/-- Change the thread `t`. -/
def State.modThr (s : State) (t : Tid) (f : Thread → Thread) : State := s.setThr t (f (s.thr t))

/-- The barrel `b`. -/
def State.bar (s : State) (b : Barrel) : BarrelS := mget { } s.barrels b.val
/-- Replace the barrel `b`. -/
def State.setBar (s : State) (b : Barrel) (x : BarrelS) : State := { s with barrels := mput { } s.barrels b.val x }
/-- Change the barrel `b`. -/
def State.modBar (s : State) (b : Barrel) (f : BarrelS → BarrelS) : State := s.setBar b (f (s.bar b))

/-- The bell `b`. -/
def State.bell (s : State) (b : Bell) : BellS := mget { } s.bells b.val
/-- Replace the bell `b`. -/
def State.setBell (s : State) (b : Bell) (x : BellS) : State := { s with bells := mput { } s.bells b.val x }
/-- Change the bell `b`. -/
def State.modBell (s : State) (b : Bell) (f : BellS → BellS) : State := s.setBell b (f (s.bell b))

/-- The pin channel `c`. -/
def State.pin (s : State) (c : Chan) : PinS := mget { } s.pins c.val
/-- Replace the pin channel `c`. -/
def State.setPin (s : State) (c : Chan) (x : PinS) : State := { s with pins := mput { } s.pins c.val x }
/-- Change the pin channel `c`. -/
def State.modPin (s : State) (c : Chan) (f : PinS → PinS) : State := s.setPin c (f (s.pin c))

/-- The calibration group `g`. -/
def State.cal (s : State) (g : CalGroup) : CalS := mget { } s.cals g.val
/-- Replace the calibration group `g`. -/
def State.setCal (s : State) (g : CalGroup) (x : CalS) : State := { s with cals := mput { } s.cals g.val x }
/-- Change the calibration group `g`. -/
def State.modCal (s : State) (g : CalGroup) (f : CalS → CalS) : State := s.setCal g (f (s.cal g))

/-- The hoist `h`. -/
def State.hoist (s : State) (h : Hoist) : HoistS := mget { } s.hoists h.val
/-- Replace the hoist `h`. -/
def State.setHoist (s : State) (h : Hoist) (x : HoistS) : State := { s with hoists := mput { } s.hoists h.val x }
/-- Change the hoist `h`. -/
def State.modHoist (s : State) (h : Hoist) (f : HoistS → HoistS) : State := s.setHoist h (f (s.hoist h))

/-- The sinc unit `n`. -/
def State.sinc (s : State) (n : SincNo) : SincS := mget { } s.sincs n.val
/-- Replace the sinc unit `n`. -/
def State.setSinc (s : State) (n : SincNo) (x : SincS) : State := { s with sincs := mput { } s.sincs n.val x }
/-- Change the sinc unit `n`. -/
def State.modSinc (s : State) (n : SincNo) (f : SincS → SincS) : State := s.setSinc n (f (s.sinc n))

/-- The timer `n`. -/
def State.timer (s : State) (n : TimerNo) : TimerS := mget { } s.timers n.val
/-- Replace the timer `n`. -/
def State.setTimer (s : State) (n : TimerNo) (x : TimerS) : State := { s with timers := mput { } s.timers n.val x }
/-- Change the timer `n`. -/
def State.modTimer (s : State) (n : TimerNo) (f : TimerS → TimerS) : State := s.setTimer n (f (s.timer n))

/-- The compare/capture unit `u`. -/
def State.unit (s : State) (u : UnitNo) : UnitS := mget { } s.units u.val
/-- Replace the compare/capture unit `u`. -/
def State.setUnit (s : State) (u : UnitNo) (x : UnitS) : State := { s with units := mput { } s.units u.val x }
/-- Change the compare/capture unit `u`. -/
def State.modUnit (s : State) (u : UnitNo) (f : UnitS → UnitS) : State := s.setUnit u (f (s.unit u))

/-- The global start bank `h`. -/
def State.gstart (s : State) (h : Host) : GStart := mget { } s.gstarts h.val
/-- Replace the global start bank `h`. -/
def State.setGstart (s : State) (h : Host) (x : GStart) : State := { s with gstarts := mput { } s.gstarts h.val x }
/-- Change the global start bank `h`. -/
def State.modGstart (s : State) (h : Host) (f : GStart → GStart) : State := s.setGstart h (f (s.gstart h))

/-- The converter port `n`. -/
def State.cvp (s : State) (n : Cvp) : CvpS := mget { } s.cvps n.val
/-- Replace the converter port `n`. -/
def State.setCvp (s : State) (n : Cvp) (x : CvpS) : State := { s with cvps := mput { } s.cvps n.val x }
/-- Change the converter port `n`. -/
def State.modCvp (s : State) (n : Cvp) (f : CvpS → CvpS) : State := s.setCvp n (f (s.cvp n))

/-- The station `n`. -/
def State.stn (s : State) (n : Station) : StationS := mget { } s.stations n.val
/-- Replace the station `n`. -/
def State.setStn (s : State) (n : Station) (x : StationS) : State := { s with stations := mput { } s.stations n.val x }
/-- Change the station `n`. -/
def State.modStn (s : State) (n : Station) (f : StationS → StationS) : State := s.setStn n (f (s.stn n))

/-- The memory instance `m`. -/
def State.inst (s : State) (m : MemInst) : InstS := mget { } s.insts m.val
/-- Replace the memory instance `m`. -/
def State.setInst (s : State) (m : MemInst) (x : InstS) : State := { s with insts := mput { } s.insts m.val x }
/-- Change the memory instance `m`. -/
def State.modInst (s : State) (m : MemInst) (f : InstS → InstS) : State := s.setInst m (f (s.inst m))

/-- The last use and the turns of a shared port: the second port of desk `k`, or hall bank `k - 4` (R298, R303). -/
def State.turn (s : State) (k : Nat) : PortTurn := mget { } s.turns k
/-- Change the turns of a shared port. -/
def State.modTurn (s : State) (k : Nat) (f : PortTurn → PortTurn) : State := { s with turns := mput { } s.turns k (f (s.turn k)) }

/-- The DMA channel `c`. -/
def State.ch (s : State) (c : DmaCh) : DmaChS := mget { } s.dma c.val
/-- Replace the DMA channel `c`. -/
def State.setCh (s : State) (c : DmaCh) (x : DmaChS) : State := { s with dma := mput { } s.dma c.val x }
/-- Change the DMA channel `c`. -/
def State.modCh (s : State) (c : DmaCh) (f : DmaChS → DmaChS) : State := s.setCh c (f (s.ch c))

/-- The DMA engine `e`. -/
def State.eng (s : State) (e : Engine) : EngineS := mget { } s.engines e.val
/-- Replace the DMA engine `e`. -/
def State.setEng (s : State) (e : Engine) (x : EngineS) : State := { s with engines := mput { } s.engines e.val x }
/-- Change the DMA engine `e`. -/
def State.modEng (s : State) (e : Engine) (f : EngineS → EngineS) : State := s.setEng e (f (s.eng e))

/-- The ring `r`. -/
def State.ring (s : State) (r : Ring) : RingS := mget { } s.rings r.val
/-- Replace the ring `r`. -/
def State.setRing (s : State) (r : Ring) (x : RingS) : State := { s with rings := mput { } s.rings r.val x }
/-- Change the ring `r`. -/
def State.modRing (s : State) (r : Ring) (f : RingS → RingS) : State := s.setRing r (f (s.ring r))

/-- The pool `p`. -/
def State.pool (s : State) (p : Fin 8) : PoolS := mget { } s.pools p.val
/-- Replace the pool `p`. -/
def State.setPool (s : State) (p : Fin 8) (x : PoolS) : State := { s with pools := mput { } s.pools p.val x }
/-- Change the pool `p`. -/
def State.modPool (s : State) (p : Fin 8) (f : PoolS → PoolS) : State := s.setPool p (f (s.pool p))

/-- The host port `h`. -/
def State.host (s : State) (h : Host) : HostS := mget { } s.hosts h.val
/-- Replace the host port `h`. -/
def State.setHost (s : State) (h : Host) (x : HostS) : State := { s with hosts := mput { } s.hosts h.val x }
/-- Change the host port `h`. -/
def State.modHost (s : State) (h : Host) (f : HostS → HostS) : State := s.setHost h (f (s.host h))

/-- The interrupt line `l`. -/
def State.irq (s : State) (l : IrqLine) : IrqS := mget { } s.irqs l.val
/-- Replace the interrupt line `l`. -/
def State.setIrq (s : State) (l : IrqLine) (x : IrqS) : State := { s with irqs := mput { } s.irqs l.val x }
/-- Change the interrupt line `l`. -/
def State.modIrq (s : State) (l : IrqLine) (f : IrqS → IrqS) : State := s.setIrq l (f (s.irq l))

/-- The host port's command bank at the lock unit. -/
def State.hps (s : State) (h : Host) : HpsBank := mget { } s.locks.banks h.val
/-- Change a host port's command bank. -/
def State.modHps (s : State) (h : Host) (f : HpsBank → HpsBank) : State :=
  { s with locks := { s.locks with banks := mput { } s.locks.banks h.val (f (s.hps h)) } }
/-- A thread's lock status. -/
def State.lockStat (s : State) (t : Tid) : LockStat := mget { } s.locks.tstat t.val
/-- Change a thread's lock status. -/
def State.modLockStat (s : State) (t : Tid) (f : LockStat → LockStat) : State :=
  { s with locks := { s.locks with tstat := mput { } s.locks.tstat t.val (f (s.lockStat t)) } }

/-- A thread with a change made to what it holds and to what each of its issues in flight would give back: a change from
outside its instructions, which no cancellation takes back. -/
def Thread.onAll (x : Thread) (f : ThreadS → ThreadS) : Thread :=
  { toThreadS := f x.toThreadS, flight := x.flight.map (fun g => { g with before := f g.before }) }
/-- A thread with a change made by the instruction issued in cycle `k`: what it holds and what its later issues would give
back. -/
def Thread.onFrom (x : Thread) (k : Nat) (f : ThreadS → ThreadS) : Thread :=
  { toThreadS := f x.toThreadS
    flight := x.flight.map (fun g => if k < g.at_ then { g with before := f g.before } else g) }
/-- Change the thread `t` from outside its instructions. -/
def State.modAll (s : State) (t : Tid) (f : ThreadS → ThreadS) : State := s.modThr t (fun x => x.onAll f)
/-- Change the thread `t` by its instruction issued in cycle `k`. -/
def State.modFrom (s : State) (t : Tid) (k : Nat) (f : ThreadS → ThreadS) : State := s.modThr t (fun x => x.onFrom k f)
/-- Change a thread's event part. -/
def State.modEv (s : State) (t : Tid) (f : Events → Events) : State :=
  s.modThr t (fun x => { x with ev := f x.ev })
/-- Change a thread's period part. -/
def State.modPer (s : State) (t : Tid) (f : Period → Period) : State :=
  s.modThr t (fun x => { x with per := f x.per })
/-- Change the event registers of the thread `t` from outside its instructions. -/
def State.modEvAll (s : State) (t : Tid) (f : Events → Events) : State := s.modAll t (fun x => { x with ev := f x.ev })

/-- The owner host's port, as strapped (R40). -/
def State.owner (s : State) : Host := s.sys.straps.owner

/-- The barrel of a thread (R56). -/
def barrelOf (t : Tid) : Barrel := ⟨t.val / 32, by omega⟩

/-- The thread with an index in a barrel (R56). -/
def threadOf (b : Barrel) (idx : Nat) : Tid := ⟨32 * b.val + idx % 32, by omega⟩

/-! ### Memories by address

Keys: desk byte a of barrel b is b 2^19 + a; slate byte is t 4096 + copy 2048 + line 64 + byte; the
instruction word w of bank k of barrel b is (2b + k) 65536 + w. -/

/-- Key of a desk byte. -/
def deskKey (b : Barrel) (a : Nat) : Nat := b.val * 524288 + a % 524288
/-- A desk byte. -/
def State.deskByte (s : State) (b : Barrel) (a : Nat) : Byte := peek s.desk (deskKey b a)
/-- Write a desk byte. -/
def State.setDesk (s : State) (b : Barrel) (a : Nat) (v : Byte) : State :=
  { s with desk := poke s.desk (deskKey b a) v }
/-- Write desk bytes upward from an address (R94: addresses wrap within the 512 KiB desk). -/
def State.setDesks (s : State) (b : Barrel) (a : Nat) : List Byte → State
  | [] => s
  | v :: rest => (s.setDesk b a v).setDesks b (a + 1) rest
/-- `n` desk bytes upward from an address. -/
def State.deskBytes (s : State) (b : Barrel) (a : Nat) : Nat → List Byte
  | 0 => []
  | n + 1 => s.deskByte b a :: s.deskBytes b (a + 1) n

/-- A hall byte. -/
def State.hallByte (s : State) (a : Nat) : Byte := peek s.hall (a % 8388608)
/-- Write a hall byte. -/
def State.setHall (s : State) (a : Nat) (v : Byte) : State := { s with hall := poke s.hall (a % 8388608) v }
/-- Write hall bytes upward from an address. -/
def State.setHalls (s : State) (a : Nat) : List Byte → State
  | [] => s
  | v :: rest => (s.setHall a v).setHalls (a + 1) rest
/-- `n` hall bytes upward from an address. -/
def State.hallBytes (s : State) (a : Nat) : Nat → List Byte
  | 0 => []
  | n + 1 => s.hallByte a :: s.hallBytes (a + 1) n
/-- A 64-bit hall word. -/
def State.hallWord (s : State) (a : Nat) : DWord := BitVec.ofNat 64 (leNat (s.hallBytes a 8))
/-- Write a 64-bit hall word. -/
def State.setHallWord (s : State) (a : Nat) (v : DWord) : State := s.setHalls a (leBytes v.toNat 8)

/-- Key of a slate byte of physical copy `copy`. -/
def slateKey (t : Tid) (copy : Bool) (line off : Nat) : Nat :=
  t.val * 4096 + (if copy then 2048 else 0) + line % 32 * 64 + off % 64
/-- The physical copy that is a line's working copy (R210): the one its selector does not name. -/
def State.workCopy (s : State) (t : Tid) (line : Nat) : Bool := !((s.thr t).sel.getLsbD line)
/-- A slate byte of a physical copy. -/
def State.slateByte (s : State) (t : Tid) (copy : Bool) (line off : Nat) : Byte :=
  peek s.slate (slateKey t copy line off)
/-- Write a slate byte of a physical copy. -/
def State.setSlate (s : State) (t : Tid) (copy : Bool) (line off : Nat) (v : Byte) : State :=
  { s with slate := poke s.slate (slateKey t copy line off) v }

/-- Key of an instruction word. -/
def insKey (b : Barrel) (bankY : Bool) (w : Nat) : Nat :=
  (2 * b.val + (if bankY then 1 else 0)) * 65536 + w % 65536
/-- An instruction word of a bank. -/
def State.insWord (s : State) (b : Barrel) (bankY : Bool) (w : Nat) : Word := mget 0 s.ins (insKey b bankY w)
/-- Write an instruction word. -/
def State.setIns (s : State) (b : Barrel) (bankY : Bool) (w : Nat) (v : Word) : State :=
  { s with ins := mput 0 s.ins (insKey b bankY w) v }

/-- A flag that a write or read clears where `w` holds; one that hardware sets in the same cycle stays set (R9). -/
def washed (now : Nat) (w : Bool) (f : Flag) : Flag := if w && decide (f ≠ some now) then none else f

end Sys2Proof.Machine
end

