-- ==== Sys2Proof/Machine/Regs.lean ====
section
/-! DEFINITION. The names of the registers, their offsets in host control space, their reset values and their stored bits. -/

namespace Sys2Proof.Machine

/-- The registers of host control space. A register banked per host port names its port first. -/
inductive Reg where
  /-- ENSIGN (Table PRT-10). -/
  | ensign
  /-- CTL_STRAPS (Table PRT-10). -/
  | ctlStraps
  /-- CTL_RSTCAUSE (Table PRT-10). -/
  | ctlRstcause
  /-- CTL_WARM (Table PRT-10). -/
  | ctlWarm
  /-- CTL_BGATE (Table PRT-10). -/
  | ctlBgate
  /-- CTL_CLKSTAT (Table PRT-10). -/
  | ctlClkstat
  /-- CTL_INPUTS (Table PRT-10). -/
  | ctlInputs
  /-- HST_SELF (Table HST-5). -/
  | hstSelf
  /-- HST_PERR (Table HST-5). -/
  | hstPerr
  /-- HST_PSTAT (Table HST-5). -/
  | hstPstat (h : Host)
  /-- HST_PCFG (Table HST-5). -/
  | hstPcfg (p : Host)
  /-- BRL_SMAP (Table BRL-1). -/
  | brlSmap (b : Barrel) (i : Fin 8)
  /-- BRL_SMAP_ACT (Table BRL-1). -/
  | brlSmapAct (b : Barrel) (i : Fin 8)
  /-- BRL_SMAP_CTL (Table BRL-1). -/
  | brlSmapCtl (b : Barrel)
  /-- BRL_STAT (Table BRL-1). -/
  | brlStat (b : Barrel)
  /-- BRL_HQSTAT (Table BRL-1). -/
  | brlHqstat (b : Barrel)
  /-- THR_CTL (Table BRL-6). -/
  | thrCtl (t : Tid)
  /-- THR_CFG (Table BRL-6). -/
  | thrCfg (t : Tid)
  /-- THR_CEIL (Table BRL-6). -/
  | thrCeil (t : Tid)
  /-- THR_ENTRY (Table BRL-6). -/
  | thrEntry (t : Tid)
  /-- THR_FPINIT (Table BRL-6). -/
  | thrFpinit (t : Tid)
  /-- THR_SPINIT (Table BRL-6). -/
  | thrSpinit (t : Tid)
  /-- THR_BUDGET (Table BRL-6). -/
  | thrBudget (t : Tid)
  /-- THR_ISSUED (Table BRL-6). -/
  | thrIssued (t : Tid)
  /-- THR_LAST (Table BRL-6). -/
  | thrLast (t : Tid)
  /-- THR_PEAK (Table BRL-6). -/
  | thrPeak (t : Tid)
  /-- THR_STATE (Table BRL-6). -/
  | thrState (t : Tid)
  /-- THR_PC (Table BRL-6). -/
  | thrPc (t : Tid)
  /-- THR_FP (Table BRL-6). -/
  | thrFp (t : Tid)
  /-- THR_SP (Table BRL-6). -/
  | thrSp (t : Tid)
  /-- THR_SW (Table BRL-6). -/
  | thrSw (t : Tid)
  /-- THR_PXLO (Table BRL-6). -/
  | thrPxlo (t : Tid) (n : Fin 4)
  /-- THR_PXHI (Table BRL-6). -/
  | thrPxhi (t : Tid) (n : Fin 4)
  /-- EVT_EN (Table EVT-2). -/
  | evtEn (t : Tid)
  /-- EVT_PEND (Table EVT-2). -/
  | evtPend (t : Tid)
  /-- EVT_LIVE (Table EVT-2). -/
  | evtLive (t : Tid)
  /-- EVT_LOST (Table EVT-2). -/
  | evtLost (t : Tid)
  /-- EVT_CLAIM (Table EVT-2). -/
  | evtClaim (t : Tid)
  /-- EVT_CLTS_LO (Table EVT-2). -/
  | evtCltsLo (t : Tid)
  /-- EVT_CLTS_HI (Table EVT-2). -/
  | evtCltsHi (t : Tid)
  /-- EVT_NEST (Table EVT-2). -/
  | evtNest (t : Tid)
  /-- EVT_FSTAT (Table EVT-2). -/
  | evtFstat (t : Tid)
  /-- EVT_FPC (Table EVT-2). -/
  | evtFpc (t : Tid)
  /-- EVT_FADDR (Table EVT-2). -/
  | evtFaddr (t : Tid)
  /-- EVT_SW (Table EVT-2). -/
  | evtSw (t : Tid)
  /-- EVT_MAP (Table EVT-2). -/
  | evtMap (t : Tid) (i : Fin 32)
  /-- EVT_VBASE (Table EVT-2). -/
  | evtVbase (t : Tid)
  /-- EVT_FLVL (Table EVT-2). -/
  | evtFlvl (t : Tid)
  /-- EVT_SWSET (R163). -/
  | evtSwset
  /-- IRQ_TGT (Table HST-7). -/
  | irqTgt (s : BitVec 11)
  /-- IRQ_LCTL (Table HST-7). -/
  | irqLctl (l : IrqLine)
  /-- IRQ_LTIME (Table HST-7). -/
  | irqLtime (l : IrqLine)
  /-- IRQ_LSTAT (Table HST-7). -/
  | irqLstat (l : IrqLine)
  /-- IRQ_LACK (Table HST-7). -/
  | irqLack (l : IrqLine)
  /-- BEL_CTL (Table BEL-1). -/
  | belCtl (b : Bell)
  /-- BEL_PERIOD (Table BEL-1). -/
  | belPeriod (b : Bell)
  /-- BEL_START_LO (Table BEL-1). -/
  | belStartLo (b : Bell)
  /-- BEL_START_HI (Table BEL-1). -/
  | belStartHi (b : Bell)
  /-- BEL_SPERIOD (Table BEL-1). -/
  | belSperiod (b : Bell)
  /-- BEL_SSTART_LO (Table BEL-1). -/
  | belSstartLo (b : Bell)
  /-- BEL_SSTART_HI (Table BEL-1). -/
  | belSstartHi (b : Bell)
  /-- BEL_APPLYAT (Table BEL-1). -/
  | belApplyat (b : Bell)
  /-- BEL_NUM_LO (Table BEL-1). -/
  | belNumLo (b : Bell)
  /-- BEL_NUM_HI (Table BEL-1). -/
  | belNumHi (b : Bell)
  /-- BEL_NEXT_LO (Table BEL-1). -/
  | belNextLo (b : Bell)
  /-- BEL_NEXT_HI (Table BEL-1). -/
  | belNextHi (b : Bell)
  /-- BEL_STAT (Table BEL-1). -/
  | belStat (b : Bell)
  /-- BEL_SKIP (Table BEL-1). -/
  | belSkip (b : Bell)
  /-- BEL_TREC (Table BEL-1). -/
  | belTrec (t : Tid)
  /-- BEL_TCOMMIT (Table BEL-1). -/
  | belTcommit (t : Tid)
  /-- BEL_TDISC (Table BEL-1). -/
  | belTdisc (t : Tid)
  /-- BEL_TNUM (Table BEL-1). -/
  | belTnum (t : Tid)
  /-- PIN_FCFG (Table PIN-9). -/
  | pinFcfg (c : Chan) (s : Fin 2)
  /-- PIN_SWITCH (Table PIN-9). -/
  | pinSwitch (c : Chan)
  /-- PIN_PAD (Table PIN-9). -/
  | pinPad (c : Chan)
  /-- PIN_OWNER (Table PIN-9). -/
  | pinOwner (c : Chan)
  /-- PIN_SHCFG (Table PIN-9). -/
  | pinShcfg (c : Chan)
  /-- PIN_SHD (Table PIN-9). -/
  | pinShd (c : Chan)
  /-- PIN_CHSTAT (Table PIN-9). -/
  | pinChstat (c : Chan)
  /-- PIN_EQT_LO (Table PIN-9). -/
  | pinEqtLo (c : Chan)
  /-- PIN_EQT_HI (Table PIN-9). -/
  | pinEqtHi (c : Chan)
  /-- PIN_EQPUSH (Table PIN-9). -/
  | pinEqpush (c : Chan)
  /-- PIN_EQCTL (Table PIN-9). -/
  | pinEqctl (c : Chan)
  /-- PIN_OUT (Table PIN-9). -/
  | pinOut (p : PinPort)
  /-- PIN_SET (Table PIN-9). -/
  | pinSet (p : PinPort)
  /-- PIN_CLR (Table PIN-9). -/
  | pinClr (p : PinPort)
  /-- PIN_TGL (Table PIN-9). -/
  | pinTgl (p : PinPort)
  /-- PIN_IN (Table PIN-9). -/
  | pinIn (p : PinPort)
  /-- PIN_POLICY (Table PIN-9). -/
  | pinPolicy (p : PinPort)
  /-- PIN_CONFL (Table PIN-9). -/
  | pinConfl (p : PinPort)
  /-- PIN_LOCKSEL (Table PIN-9). -/
  | pinLocksel (p : PinPort)
  /-- PIN_LOCKED (Table PIN-9). -/
  | pinLocked (p : PinPort)
  /-- PIN_LOCKVIOL (Table PIN-9). -/
  | pinLockviol (p : PinPort)
  /-- PIN_OWNIGN (Table PIN-9). -/
  | pinOwnign (p : PinPort)
  /-- PIN_LINE (Table PIN-9). -/
  | pinLine (k : LineNo)
  /-- PIN_HCFG (Table PIN-9). -/
  | pinHcfg (h : Hoist)
  /-- PIN_HMASK (Table PIN-9). -/
  | pinHmask (h : Hoist)
  /-- PIN_HPAT (Table PIN-9). -/
  | pinHpat (h : Hoist)
  /-- PIN_HSNAP (Table PIN-9). -/
  | pinHsnap (h : Hoist)
  /-- PIN_LOCK (Table PIN-9). -/
  | pinLock
  /-- PIN_LOCKSTAT (Table PIN-9). -/
  | pinLockstat
  /-- PIN_CALG (Table PIN-9). -/
  | pinCalg (g : CalGroup)
  /-- SNC_CFG (Table PIN-9). -/
  | sncCfg (n : SincNo)
  /-- SNC_CLK (Table PIN-9). -/
  | sncClk (n : SincNo)
  /-- SNC_DATA (Table PIN-9). -/
  | sncData (n : SincNo)
  /-- SNC_STAT (Table PIN-9). -/
  | sncStat (n : SincNo)
  /-- SNC_TS_LO (Table PIN-9). -/
  | sncTsLo (n : SincNo)
  /-- SNC_TS_HI (Table PIN-9). -/
  | sncTsHi (n : SincNo)
  /-- TIM_CTL (Table TIM-10). -/
  | timCtl (n : TimerNo)
  /-- TIM_RELOAD (Table TIM-10). -/
  | timReload (n : TimerNo)
  /-- TIM_COUNT (Table TIM-10). -/
  | timCount (n : TimerNo)
  /-- TIM_PHASE (Table TIM-10). -/
  | timPhase (n : TimerNo)
  /-- TIM_STAT (Table TIM-10). -/
  | timStat (n : TimerNo)
  /-- TIM_CC_CTL (Table TIM-10). -/
  | timCcCtl (u : UnitNo)
  /-- TIM_CC_VAL (Table TIM-10). -/
  | timCcVal (u : UnitNo)
  /-- TIM_CC_FV (Table TIM-10). -/
  | timCcFv (u : UnitNo)
  /-- TIM_CC_ACT (Table TIM-10). -/
  | timCcAct (u : UnitNo)
  /-- TIM_CC_STAT (Table TIM-10). -/
  | timCcStat (u : UnitNo)
  /-- TIM_CAPR_LO (Table TIM-10). -/
  | timCaprLo (u : UnitNo)
  /-- TIM_CAPR_HI (Table TIM-10). -/
  | timCaprHi (u : UnitNo)
  /-- TIM_CAPF_LO (Table TIM-10). -/
  | timCapfLo (u : UnitNo)
  /-- TIM_CAPF_HI (Table TIM-10). -/
  | timCapfHi (u : UnitNo)
  /-- TIM_CAPW (Table TIM-10). -/
  | timCapw (u : UnitNo)
  /-- TIM_CAPCNT (Table TIM-10). -/
  | timCapcnt (u : UnitNo)
  /-- TIM_GSTART_MASK (Table TIM-10). -/
  | timGstartMask (h : Host) (j : Fin 8)
  /-- TIM_GSTART (Table TIM-10). -/
  | timGstart (h : Host)
  /-- TIM_GSTART_AT_LO (Table TIM-10). -/
  | timGstartAtLo (h : Host)
  /-- TIM_GSTART_AT_HI (Table TIM-10). -/
  | timGstartAtHi (h : Host)
  /-- TIM_TBASE_LO (Table TIM-10). -/
  | timTbaseLo
  /-- TIM_TBASE_HI (Table TIM-10). -/
  | timTbaseHi
  /-- CVP_CFG (Table TIM-10). -/
  | cvpCfg (n : Cvp)
  /-- CVP_TRIG (Table TIM-10). -/
  | cvpTrig (n : Cvp)
  /-- CVP_STAT (Table TIM-10). -/
  | cvpStat (n : Cvp)
  /-- CVP_SWTRIG (Table TIM-10). -/
  | cvpSwtrig (n : Cvp)
  /-- CVP_LAST (Table TIM-10). -/
  | cvpLast (n : Cvp)
  /-- TRP_LEVEL (Table TIM-10). -/
  | trpLevel (j : Fin 4)
  /-- TRP_SEEN (Table TIM-10). -/
  | trpSeen (j : Fin 4)
  /-- TRP_STN_CTL (Table TIM-10). -/
  | trpStnCtl (s : Station)
  /-- TRP_STN_PINS (Table TIM-10). -/
  | trpStnPins (s : Station)
  /-- TRP_STN_TIM (Table TIM-10). -/
  | trpStnTim (s : Station)
  /-- TRP_STN_TMASK (Table TIM-10). -/
  | trpStnTmask (s : Station) (j : Fin 4)
  /-- TRP_STN_STAT (Table TIM-10). -/
  | trpStnStat (s : Station)
  /-- DMA_CCTL (Table DMA-9). -/
  | dmaCctl (ch : DmaCh)
  /-- DMA_CSTAT (Table DMA-9). -/
  | dmaCstat (ch : DmaCh)
  /-- DMA_CHEAD_LO (Table DMA-9). -/
  | dmaCheadLo (ch : DmaCh)
  /-- DMA_CHEAD_HI (Table DMA-9). -/
  | dmaCheadHi (ch : DmaCh)
  /-- DMA_CPTR_LO (Table DMA-9). -/
  | dmaCptrLo (ch : DmaCh)
  /-- DMA_CPTR_HI (Table DMA-9). -/
  | dmaCptrHi (ch : DmaCh)
  /-- DMA_CRES (Table DMA-9). -/
  | dmaCres (ch : DmaCh)
  /-- DMA_KICK (Table DMA-9). -/
  | dmaKick (ch : DmaCh)
  /-- DMA_ECTL (Table DMA-9). -/
  | dmaEctl (e : Engine)
  /-- DMA_ESTAT (Table DMA-9). -/
  | dmaEstat (e : Engine)
  /-- DMA_ECFG (Table DMA-9). -/
  | dmaEcfg (e : Engine)
  /-- DMA_BERR_LO (Table DMA-9). -/
  | dmaBerrLo (e : Engine)
  /-- DMA_BERR_HI (Table DMA-9). -/
  | dmaBerrHi (e : Engine)
  /-- DMA_BERRI (Table DMA-9). -/
  | dmaBerri (e : Engine)
  /-- DMA_STRAY (Table DMA-9). -/
  | dmaStray (k : InitPort)
  /-- QM_CTL (Table DMA-11). -/
  | qmCtl
  /-- QM_STAT (Table DMA-11). -/
  | qmStat
  /-- QM_RDBASE (Table DMA-11). -/
  | qmRdbase
  /-- QM_WIN (Table DMA-11). -/
  | qmWin
  /-- QM_RCMD (Table DMA-11). -/
  | qmRcmd (h : Host)
  /-- QM_RCMDSTAT (Table DMA-11). -/
  | qmRcmdstat (h : Host)
  /-- QM_POOLBASE (Table DMA-11). -/
  | qmPoolbase (p : Fin 8)
  /-- QM_POOLCNT (Table DMA-11). -/
  | qmPoolcnt (p : Fin 8)
  /-- QM_POOLFREE (Table DMA-11). -/
  | qmPoolfree (p : Fin 8)
  /-- QM_NSTAT (Table DMA-11). -/
  | qmNstat (n : Fin 8)
  /-- QM_TSTAT (Table DMA-11). -/
  | qmTstat (t : Tid)
  /-- QM_RFLAG (Table DMA-11). -/
  | qmRflag (r : Ring)
  /-- QM_RPROD (Table DMA-11). -/
  | qmRprod (r : Ring)
  /-- QM_RCONS (Table DMA-11). -/
  | qmRcons (r : Ring)
  /-- HPS_HADDR (Table HST-13). -/
  | hpsHaddr (h : Host)
  /-- HPS_HDUR (Table HST-13). -/
  | hpsHdur (h : Host)
  /-- HPS_HCMP_LO (Table HST-13). -/
  | hpsHcmpLo (h : Host)
  /-- HPS_HCMP_HI (Table HST-13). -/
  | hpsHcmpHi (h : Host)
  /-- HPS_HSWP_LO (Table HST-13). -/
  | hpsHswpLo (h : Host)
  /-- HPS_HSWP_HI (Table HST-13). -/
  | hpsHswpHi (h : Host)
  /-- HPS_HCMD (Table HST-13). -/
  | hpsHcmd (h : Host)
  /-- HPS_HRES_LO (Table HST-13). -/
  | hpsHresLo (h : Host)
  /-- HPS_HRES_HI (Table HST-13). -/
  | hpsHresHi (h : Host)
  /-- HPS_HWCFG (Table HST-13). -/
  | hpsHwcfg (h : Host)
  /-- HPS_HWSTAT (Table HST-13). -/
  | hpsHwstat (h : Host)
  /-- HPS_FORCE (Table HST-13). -/
  | hpsForce
  /-- HPS_STAT (Table HST-13). -/
  | hpsStat
  /-- HPS_LEASE_A (Table HST-13). -/
  | hpsLeaseA (i : Fin 1024)
  /-- HPS_LEASE_B (Table HST-13). -/
  | hpsLeaseB (i : Fin 1024)
  /-- HPS_TSTAT (Table HST-13). -/
  | hpsTstat (t : Tid)
  /-- MEM_ECCCTL (Table MEM-8). -/
  | memEccctl
  /-- MEM_ECCSTAT (Table MEM-8). -/
  | memEccstat
  /-- MEM_SECSTAT (Table MEM-8). -/
  | memSecstat
  /-- MEM_MRSTAT (Table MEM-8). -/
  | memMrstat
  /-- MEM_MRWEAR (Table MEM-8). -/
  | memMrwear
  /-- MEM_ERRLOG (Table MEM-8). -/
  | memErrlog (i : Fin 16) (j : Fin 2)
  /-- MEM_TCTL (Table MEM-8). -/
  | memTctl (m : MemInst)
  /-- MEM_TSTAT (Table MEM-8). -/
  | memTstat (m : MemInst)
  /-- MEM_TREPAIR (Table MEM-8). -/
  | memTrepair (m : MemInst)
  /-- MEM_IBSTAT (Table MEM-8). -/
  | memIbstat (b : Barrel)
  /-- DRL_CMD (Table SUP-7). -/
  | drlCmd
  /-- DRL_ARG0 (Table SUP-7). -/
  | drlArg0
  /-- DRL_ARG1 (Table SUP-7). -/
  | drlArg1
  /-- DRL_RES (Table SUP-7). -/
  | drlRes
  /-- DRL_DATA (Table SUP-7). -/
  | drlData
  /-- DRL_STAT (Table SUP-7). -/
  | drlStat
  /-- DRL_RC (Table SUP-7). -/
  | drlRc (i : Fin 32)
  /-- DRL_ECHO (Table SUP-7). -/
  | drlEcho (h : Host) (i : Fin 64)
  /-- HLY_CTL (Table HLY-13). -/
  | hlyCtl
  /-- HLY_STAT (Table HLY-13). -/
  | hlyStat
  /-- HLY_CMD (Table HLY-13). -/
  | hlyCmd
  /-- HLY_NODES (Table HLY-13). -/
  | hlyNodes
  /-- HLY_DLY (Table HLY-13). -/
  | hlyDly
  /-- HLY_OFFS (Table HLY-13). -/
  | hlyOffs
  /-- HLY_TCTL (Table HLY-13). -/
  | hlyTctl
  /-- HLY_ERR (Table HLY-13). -/
  | hlyErr
  /-- HLY_TXCTL (Table HLY-13). -/
  | hlyTxctl
  /-- HLY_RXCTL (Table HLY-13). -/
  | hlyRxctl
  /-- HLY_TXBUF (Table HLY-13). -/
  | hlyTxbuf (i : Fin 16)
  /-- HLY_RXBUF (Table HLY-13). -/
  | hlyRxbuf (i : Fin 16)
  /-- UPD_CMD (Table HLY-13). -/
  | updCmd
  /-- UPD_STAT (Table HLY-13). -/
  | updStat
  /-- UPD_IMGID_LO (Table HLY-13). -/
  | updImgidLo
  /-- UPD_IMGID_HI (Table HLY-13). -/
  | updImgidHi
  /-- UPD_LEN (Table HLY-13). -/
  | updLen
  /-- UPD_ACLS (Table HLY-13). -/
  | updAcls
  /-- UPD_ABELL_LO (Table HLY-13). -/
  | updAbellLo
  /-- UPD_ABELL_HI (Table HLY-13). -/
  | updAbellHi
  /-- UPD_CFG (Table HLY-13). -/
  | updCfg
  /-- UPD_CHUNK (Table HLY-13). -/
  | updChunk
  /-- UPD_VRES (Table HLY-13). -/
  | updVres
  /-- UPD_SETH (Table HLY-13). -/
  | updSeth
  /-- UPD_CIDLO (Table HLY-13). -/
  | updCidlo
  /-- UPD_CIDHI (Table HLY-13). -/
  | updCidhi
  /-- UPD_MOT (Table HLY-13). -/
  | updMot (c : Bell)
  /-- UPD_BMAP (Table HLY-13). -/
  | updBmap (i : Fin 96)
  /-- UPD_IWIN (Table HLY-13). -/
  | updIwin (i : Fin 1024)
  /-- UPD_SWIN (Table HLY-13). -/
  | updSwin (i : Fin 8192)
  /-- LCS_STATE (Table HLY-13). -/
  | lcsState
  /-- LCS_CMD (Table HLY-13). -/
  | lcsCmd
  /-- LCS_RES (Table HLY-13). -/
  | lcsRes
  /-- LCS_OKH (Table HLY-13). -/
  | lcsOkh (i : Fin 12)
  /-- HST_PA: word `word` of the assignment table of row `kind` of Table HST-3. -/
  | hstPa (kind : Fin 17) (word : Fin 1024)
  deriving DecidableEq, Repr

/-- Base of the assignment table of a kind (Table HST-3). -/
def paBase (kind : Fin 17) : Nat := [0x11000, 0x11100, 0x11200, 0x11300, 0x11400, 0x11500, 0x11600, 0x11700, 0x11800, 0x11900, 0x11A00, 0x11B00, 0x11C00, 0x11D00, 0x11E00, 0x11F00, 0x14000].getD kind.val 0

/-- Number of resources of a kind (Table HST-3). -/
def paCount (kind : Fin 17) : Nat := [128, 512, 256, 16, 32, 64, 128, 64, 64, 32, 32, 256, 8, 8, 64, 128, 8192].getD kind.val 0

/-- The offset of a register in host control space. -/
def Reg.off : Reg → Nat
  | .ensign => 0x0
  | .ctlStraps => 0x4
  | .ctlRstcause => 0x8
  | .ctlWarm => 0xC
  | .ctlBgate => 0x10
  | .ctlClkstat => 0x14
  | .ctlInputs => 0x18
  | .hstSelf => 0x10000
  | .hstPerr => 0x10200
  | .hstPstat h => 0x10010 + 0x4 * h.val
  | .hstPcfg p => 0x10100 + 0x4 * p.val
  | .brlSmap b i => 0x20000 + 0x100 * b.val + 4 * i.val
  | .brlSmapAct b i => 0x20020 + 0x100 * b.val + 4 * i.val
  | .brlSmapCtl b => 0x20040 + 0x100 * b.val
  | .brlStat b => 0x20044 + 0x100 * b.val
  | .brlHqstat b => 0x20048 + 0x100 * b.val
  | .thrCtl t => 0x21000 + 0x80 * t.val
  | .thrCfg t => 0x21004 + 0x80 * t.val
  | .thrCeil t => 0x21008 + 0x80 * t.val
  | .thrEntry t => 0x2100C + 0x80 * t.val
  | .thrFpinit t => 0x21010 + 0x80 * t.val
  | .thrSpinit t => 0x21014 + 0x80 * t.val
  | .thrBudget t => 0x21018 + 0x80 * t.val
  | .thrIssued t => 0x2101C + 0x80 * t.val
  | .thrLast t => 0x21020 + 0x80 * t.val
  | .thrPeak t => 0x21024 + 0x80 * t.val
  | .thrState t => 0x21028 + 0x80 * t.val
  | .thrPc t => 0x21030 + 0x80 * t.val
  | .thrFp t => 0x21034 + 0x80 * t.val
  | .thrSp t => 0x21038 + 0x80 * t.val
  | .thrSw t => 0x2103C + 0x80 * t.val
  | .thrPxlo t n => 0x21040 + 0x80 * t.val + 8 * n.val
  | .thrPxhi t n => 0x21044 + 0x80 * t.val + 8 * n.val
  | .evtEn t => 0x40000 + 0x100 * t.val
  | .evtPend t => 0x40004 + 0x100 * t.val
  | .evtLive t => 0x40008 + 0x100 * t.val
  | .evtLost t => 0x4000C + 0x100 * t.val
  | .evtClaim t => 0x40010 + 0x100 * t.val
  | .evtCltsLo t => 0x40014 + 0x100 * t.val
  | .evtCltsHi t => 0x40018 + 0x100 * t.val
  | .evtNest t => 0x4001C + 0x100 * t.val
  | .evtFstat t => 0x40020 + 0x100 * t.val
  | .evtFpc t => 0x40024 + 0x100 * t.val
  | .evtFaddr t => 0x40028 + 0x100 * t.val
  | .evtSw t => 0x4002C + 0x100 * t.val
  | .evtMap t i => 0x40040 + 0x100 * t.val + 4 * i.val
  | .evtVbase t => 0x400C0 + 0x100 * t.val
  | .evtFlvl t => 0x400C4 + 0x100 * t.val
  | .evtSwset => 0x48000
  | .irqTgt s => 0x50000 + 0x4 * s.toNat
  | .irqLctl l => 0x52000 + 0x10 * l.val
  | .irqLtime l => 0x52004 + 0x10 * l.val
  | .irqLstat l => 0x52008 + 0x10 * l.val
  | .irqLack l => 0x5200C + 0x10 * l.val
  | .belCtl b => 0x60000 + 0x40 * b.val
  | .belPeriod b => 0x60004 + 0x40 * b.val
  | .belStartLo b => 0x60008 + 0x40 * b.val
  | .belStartHi b => 0x6000C + 0x40 * b.val
  | .belSperiod b => 0x60010 + 0x40 * b.val
  | .belSstartLo b => 0x60014 + 0x40 * b.val
  | .belSstartHi b => 0x60018 + 0x40 * b.val
  | .belApplyat b => 0x6001C + 0x40 * b.val
  | .belNumLo b => 0x60020 + 0x40 * b.val
  | .belNumHi b => 0x60024 + 0x40 * b.val
  | .belNextLo b => 0x60028 + 0x40 * b.val
  | .belNextHi b => 0x6002C + 0x40 * b.val
  | .belStat b => 0x60030 + 0x40 * b.val
  | .belSkip b => 0x60034 + 0x40 * b.val
  | .belTrec t => 0x61000 + 0x10 * t.val
  | .belTcommit t => 0x61004 + 0x10 * t.val
  | .belTdisc t => 0x61008 + 0x10 * t.val
  | .belTnum t => 0x6100C + 0x10 * t.val
  | .pinFcfg c s => 0x80000 + 0x40 * c.val + 4 * s.val
  | .pinSwitch c => 0x80008 + 0x40 * c.val
  | .pinPad c => 0x8000C + 0x40 * c.val
  | .pinOwner c => 0x80010 + 0x40 * c.val
  | .pinShcfg c => 0x80014 + 0x40 * c.val
  | .pinShd c => 0x80018 + 0x40 * c.val
  | .pinChstat c => 0x8001C + 0x40 * c.val
  | .pinEqtLo c => 0x80020 + 0x40 * c.val
  | .pinEqtHi c => 0x80024 + 0x40 * c.val
  | .pinEqpush c => 0x80028 + 0x40 * c.val
  | .pinEqctl c => 0x8002C + 0x40 * c.val
  | .pinOut p => 0x88000 + 0x40 * p.val
  | .pinSet p => 0x88004 + 0x40 * p.val
  | .pinClr p => 0x88008 + 0x40 * p.val
  | .pinTgl p => 0x8800C + 0x40 * p.val
  | .pinIn p => 0x88010 + 0x40 * p.val
  | .pinPolicy p => 0x88014 + 0x40 * p.val
  | .pinConfl p => 0x88018 + 0x40 * p.val
  | .pinLocksel p => 0x8801C + 0x40 * p.val
  | .pinLocked p => 0x88020 + 0x40 * p.val
  | .pinLockviol p => 0x88024 + 0x40 * p.val
  | .pinOwnign p => 0x88028 + 0x40 * p.val
  | .pinLine k => 0x89000 + 0x4 * k.val
  | .pinHcfg h => 0x8A000 + 0x10 * h.val
  | .pinHmask h => 0x8A004 + 0x10 * h.val
  | .pinHpat h => 0x8A008 + 0x10 * h.val
  | .pinHsnap h => 0x8A00C + 0x10 * h.val
  | .pinLock => 0x8B000
  | .pinLockstat => 0x8B004
  | .pinCalg g => 0x8B100 + 0x4 * g.val
  | .sncCfg n => 0xD0000 + 0x20 * n.val
  | .sncClk n => 0xD0004 + 0x20 * n.val
  | .sncData n => 0xD0008 + 0x20 * n.val
  | .sncStat n => 0xD000C + 0x20 * n.val
  | .sncTsLo n => 0xD0010 + 0x20 * n.val
  | .sncTsHi n => 0xD0014 + 0x20 * n.val
  | .timCtl n => 0xA0000 + 0x20 * n.val
  | .timReload n => 0xA0004 + 0x20 * n.val
  | .timCount n => 0xA0008 + 0x20 * n.val
  | .timPhase n => 0xA000C + 0x20 * n.val
  | .timStat n => 0xA0010 + 0x20 * n.val
  | .timCcCtl u => 0xA4000 + 0x40 * u.val
  | .timCcVal u => 0xA4004 + 0x40 * u.val
  | .timCcFv u => 0xA4008 + 0x40 * u.val
  | .timCcAct u => 0xA400C + 0x40 * u.val
  | .timCcStat u => 0xA4010 + 0x40 * u.val
  | .timCaprLo u => 0xA4014 + 0x40 * u.val
  | .timCaprHi u => 0xA4018 + 0x40 * u.val
  | .timCapfLo u => 0xA401C + 0x40 * u.val
  | .timCapfHi u => 0xA4020 + 0x40 * u.val
  | .timCapw u => 0xA4024 + 0x40 * u.val
  | .timCapcnt u => 0xA4028 + 0x40 * u.val
  | .timGstartMask _ j => 0xB8000 + 4 * j.val
  | .timGstart _ => 0xB8020
  | .timGstartAtLo _ => 0xB8024
  | .timGstartAtHi _ => 0xB8028
  | .timTbaseLo => 0xB8030
  | .timTbaseHi => 0xB8034
  | .cvpCfg n => 0xC0000 + 0x20 * n.val
  | .cvpTrig n => 0xC0004 + 0x20 * n.val
  | .cvpStat n => 0xC0008 + 0x20 * n.val
  | .cvpSwtrig n => 0xC000C + 0x20 * n.val
  | .cvpLast n => 0xC0010 + 0x20 * n.val
  | .trpLevel j => 0xC4000 + 0x4 * j.val
  | .trpSeen j => 0xC4010 + 0x4 * j.val
  | .trpStnCtl s => 0xC8000 + 0x40 * s.val
  | .trpStnPins s => 0xC8004 + 0x40 * s.val
  | .trpStnTim s => 0xC8008 + 0x40 * s.val
  | .trpStnTmask s j => 0xC8010 + 0x40 * s.val + 4 * j.val
  | .trpStnStat s => 0xC8020 + 0x40 * s.val
  | .dmaCctl ch => 0xE0000 + 0x40 * ch.val
  | .dmaCstat ch => 0xE0004 + 0x40 * ch.val
  | .dmaCheadLo ch => 0xE0008 + 0x40 * ch.val
  | .dmaCheadHi ch => 0xE000C + 0x40 * ch.val
  | .dmaCptrLo ch => 0xE0010 + 0x40 * ch.val
  | .dmaCptrHi ch => 0xE0014 + 0x40 * ch.val
  | .dmaCres ch => 0xE0018 + 0x40 * ch.val
  | .dmaKick ch => 0xE001C + 0x40 * ch.val
  | .dmaEctl e => 0xE8000 + 0x40 * e.val
  | .dmaEstat e => 0xE8004 + 0x40 * e.val
  | .dmaEcfg e => 0xE8008 + 0x40 * e.val
  | .dmaBerrLo e => 0xE8010 + 0x40 * e.val
  | .dmaBerrHi e => 0xE8014 + 0x40 * e.val
  | .dmaBerri e => 0xE8018 + 0x40 * e.val
  | .dmaStray k => 0xE9000 + 0x4 * k.val
  | .qmCtl => 0x100000
  | .qmStat => 0x100004
  | .qmRdbase => 0x100008
  | .qmWin => 0x10000C
  | .qmRcmd _ => 0x100010
  | .qmRcmdstat _ => 0x100014
  | .qmPoolbase p => 0x100100 + 0x10 * p.val
  | .qmPoolcnt p => 0x100104 + 0x10 * p.val
  | .qmPoolfree p => 0x100108 + 0x10 * p.val
  | .qmNstat n => 0x100200 + 0x4 * n.val
  | .qmTstat t => 0x101000 + 0x4 * t.val
  | .qmRflag r => 0x108000 + 0x4 * r.val
  | .qmRprod r => 0x110000 + 0x8 * r.val
  | .qmRcons r => 0x110004 + 0x8 * r.val
  | .hpsHaddr _ => 0x120000
  | .hpsHdur _ => 0x120004
  | .hpsHcmpLo _ => 0x120008
  | .hpsHcmpHi _ => 0x12000C
  | .hpsHswpLo _ => 0x120010
  | .hpsHswpHi _ => 0x120014
  | .hpsHcmd _ => 0x120018
  | .hpsHresLo _ => 0x12001C
  | .hpsHresHi _ => 0x120020
  | .hpsHwcfg _ => 0x120024
  | .hpsHwstat _ => 0x120028
  | .hpsForce => 0x120100
  | .hpsStat => 0x120104
  | .hpsLeaseA i => 0x121000 + 0x8 * i.val
  | .hpsLeaseB i => 0x121004 + 0x8 * i.val
  | .hpsTstat t => 0x124000 + 0x4 * t.val
  | .memEccctl => 0x140000
  | .memEccstat => 0x140004
  | .memSecstat => 0x140200
  | .memMrstat => 0x140300
  | .memMrwear => 0x140304
  | .memErrlog i j => 0x140010 + 0x8 * i.val + 4 * j.val
  | .memTctl m => 0x140100 + 0x10 * m.val
  | .memTstat m => 0x140104 + 0x10 * m.val
  | .memTrepair m => 0x140108 + 0x10 * m.val
  | .memIbstat b => 0x140400 + 0x4 * b.val
  | .drlCmd => 0x150000
  | .drlArg0 => 0x150004
  | .drlArg1 => 0x150008
  | .drlRes => 0x15000C
  | .drlData => 0x150010
  | .drlStat => 0x150014
  | .drlRc i => 0x150100 + 0x4 * i.val
  | .drlEcho _ i => 0x151000 + 4 * i.val
  | .hlyCtl => 0x160000
  | .hlyStat => 0x160004
  | .hlyCmd => 0x160008
  | .hlyNodes => 0x16000C
  | .hlyDly => 0x160010
  | .hlyOffs => 0x160014
  | .hlyTctl => 0x160018
  | .hlyErr => 0x16001C
  | .hlyTxctl => 0x160020
  | .hlyRxctl => 0x160024
  | .hlyTxbuf i => 0x160040 + 0x4 * i.val
  | .hlyRxbuf i => 0x160080 + 0x4 * i.val
  | .updCmd => 0x180000
  | .updStat => 0x180004
  | .updImgidLo => 0x180008
  | .updImgidHi => 0x18000C
  | .updLen => 0x180010
  | .updAcls => 0x180014
  | .updAbellLo => 0x180018
  | .updAbellHi => 0x18001C
  | .updCfg => 0x180020
  | .updChunk => 0x180024
  | .updVres => 0x180028
  | .updSeth => 0x18002C
  | .updCidlo => 0x180030
  | .updCidhi => 0x180034
  | .updMot c => 0x180040 + 0x4 * c.val
  | .updBmap i => 0x180800 + 0x4 * i.val
  | .updIwin i => 0x181000 + 0x4 * i.val
  | .updSwin i => 0x188000 + 0x4 * i.val
  | .lcsState => 0x190000
  | .lcsCmd => 0x190004
  | .lcsRes => 0x190008
  | .lcsOkh i => 0x190040 + 0x4 * i.val
  | .hstPa kind word => paBase kind + 4 * word.val

/-- The host port a banked register belongs to. -/
def Reg.bank : Reg → Option Host
  | .timGstartMask h _ => some h
  | .timGstart h => some h
  | .timGstartAtLo h => some h
  | .timGstartAtHi h => some h
  | .qmRcmd h => some h
  | .qmRcmdstat h => some h
  | .hpsHaddr h => some h
  | .hpsHdur h => some h
  | .hpsHcmpLo h => some h
  | .hpsHcmpHi h => some h
  | .hpsHswpLo h => some h
  | .hpsHswpHi h => some h
  | .hpsHcmd h => some h
  | .hpsHresLo h => some h
  | .hpsHresHi h => some h
  | .hpsHwcfg h => some h
  | .hpsHwstat h => some h
  | .drlEcho h _ => some h
  | _ => none

/-- The key of a register in `State.regs`: its offset, plus 2^24 times its bank. -/
def Reg.key (r : Reg) : Nat := r.off + 0x1000000 * ((r.bank.map Fin.val).getD 0)

/-- The value a stored register has at reset. -/
def Reg.reset : Reg → Word
  | .ensign => 0x30200
  | .ctlRstcause => 0x2
  | .ctlClkstat => 0xF
  | .hstPcfg _ => 0x400
  | .brlStat _ => 0x80000000
  | .evtMap _ _ => 0x7FF
  | .evtFlvl _ => 0xFFF
  | .irqLctl _ => 0x1
  | .pinPad _ => 0x14000000
  | .pinShd _ => 0x40000000
  | .pinChstat _ => 0x4000000
  | .pinCalg _ => 0xC0
  | .sncCfg _ => 0x4
  | .sncClk _ => 0x3
  | .dmaEcfg e => if e.val % 2 = 1 then 0x800000F0 else 0xF0
  | .qmCtl => 0x100
  | .memEccctl => 0x8000003C
  | .memTctl _ => 0x80000040
  | .memIbstat _ => 0x40000020
  | .hlyCtl => 0x400003E8
  | .hlyStat => 0x3FFF
  | .hlyTctl => 0x400400
  | .updStat => 0x8000000
  | .updCfg => 0x25803E8
  | _ => 0

/-- The bits of a register that a write stores as they are (codes RW and LK). -/
def Reg.rw : Reg → Word
  | .ctlBgate => 0xF
  | .hstPcfg _ => 0x7FF
  | .thrCtl _ => 0x13
  | .thrCfg _ => 0xF1F
  | .thrCeil _ => 0x3
  | .thrEntry _ => 0xFFFF
  | .thrFpinit _ => 0x7FFF8
  | .thrSpinit _ => 0x7FFF8
  | .thrBudget _ => 0xFFFFFFFF
  | .evtVbase _ => 0xFFC0
  | .evtFlvl _ => 0xFFF
  | .irqTgt _ => 0x8000003F
  | .irqLctl _ => 0x8000FFFF
  | .irqLtime _ => 0xFFFF
  | .belPeriod _ => 0xFFFFFFFF
  | .belStartLo _ => 0xFFFFFFFF
  | .belStartHi _ => 0xFFFFFFFF
  | .belSperiod _ => 0xFFFFFFFF
  | .belSstartLo _ => 0xFFFFFFFF
  | .belSstartHi _ => 0xFFFFFFFF
  | .belApplyat _ => 0xFFFFFFFF
  | .pinFcfg _ _ => 0x3FFFFFFF
  | .pinPad _ => 0xFFFFFC00
  | .pinOwner _ => 0x8000007F
  | .pinShcfg _ => 0xFFC00FFF
  | .pinEqtLo _ => 0xFFFFFFFF
  | .pinEqtHi _ => 0xFFFFFFFF
  | .pinPolicy _ => 0x1
  | .pinLocksel _ => 0xFFFFFFFF
  | .pinLine _ => 0x7F
  | .pinHcfg _ => 0x3F7
  | .pinHmask _ => 0xFFFFFFFF
  | .pinHpat _ => 0xFFFFFFFF
  | .pinCalg _ => 0xCF
  | .sncCfg _ => 0xFFFFE1FF
  | .sncClk _ => 0xC1FF0FFF
  | .timCtl _ => 0x7F000000
  | .timReload _ => 0xFFFFFFFF
  | .timPhase _ => 0xFFFFFFFF
  | .timCcCtl _ => 0xFFFF0000
  | .timCcVal _ => 0xFFFFFFFF
  | .timCcFv _ => 0x1F
  | .timGstartMask _ _ => 0xFFFFFFFF
  | .timGstart _ => 0x7E00000
  | .timGstartAtLo _ => 0xFFFFFFFF
  | .timGstartAtHi _ => 0xFFFFFFFF
  | .cvpCfg _ => 0xFFF80000
  | .cvpTrig _ => 0xC00003FF
  | .trpStnCtl _ => 0xFFFFF3FF
  | .trpStnPins _ => 0xFFFFFFFF
  | .trpStnTim _ => 0xFF0F
  | .trpStnTmask _ _ => 0xFFFFFFFF
  | .dmaCheadLo _ => 0xFFFFFFE0
  | .dmaCheadHi _ => 0xFFFF
  | .dmaEcfg _ => 0x80000FFF
  | .qmCtl => 0x80000FFF
  | .qmRdbase => 0x7FFFE0
  | .qmWin => 0x3F
  | .qmPoolbase _ => 0x7FFFC0
  | .qmPoolcnt _ => 0x1FFF
  | .hpsHaddr _ => 0x7FFFFF
  | .hpsHdur _ => 0xFFFFFFFF
  | .hpsHcmpLo _ => 0xFFFFFFFF
  | .hpsHcmpHi _ => 0xFFFFFFFF
  | .hpsHswpLo _ => 0xFFFFFFFF
  | .hpsHswpHi _ => 0xFFFFFFFF
  | .hpsHcmd _ => 0x7
  | .hpsHwcfg _ => 0x3F
  | .memEccctl => 0x800000FF
  | .memTctl _ => 0x8000FFFF
  | .drlArg0 => 0xFFFFFFFF
  | .drlArg1 => 0xFFFFFFFF
  | .drlEcho _ _ => 0xFFFFFFFF
  | .hlyCtl => 0xC000FFFF
  | .hlyTctl => 0xFFFFFF00
  | .hlyTxctl => 0x7F3FFF
  | .hlyTxbuf _ => 0xFFFFFFFF
  | .updImgidLo => 0xFFFFFFFF
  | .updImgidHi => 0xFFFFFFFF
  | .updLen => 0xFFFFFFFF
  | .updAcls => 0xF
  | .updAbellLo => 0xFFFFFFFF
  | .updAbellHi => 0xFFFFFFFF
  | .updCfg => 0xFFFFFFFF
  | .updChunk => 0xFFFFFF00
  | .updSeth => 0x8000FFFF
  | .updMot _ => 0x8000001F
  | .hstPa _ _ => 0xFFFFFFFF
  | _ => 0

/-- Look an offset within a block up in the list of the block's registers. -/
def pick {α : Type} (o : Nat) : List (Nat × α) → Option α
  | [] => none
  | (k, r) :: rest => if o = k then some r else pick o rest

/-- `n` as a number below `k`. -/
def fin (k : Nat) [NeZero k] (n : Nat) : Fin k := Fin.ofNat k n

/-- Decode an offset in an assignment table (Table HST-3). -/
def decodePa (off : Nat) : Option Reg :=
  if 0x11000 ≤ off ∧ off < 0x11040 then some (.hstPa 0 (fin 1024 ((off - 0x11000) / 4)))
  else if 0x11100 ≤ off ∧ off < 0x11200 then some (.hstPa 1 (fin 1024 ((off - 0x11100) / 4)))
  else if 0x11200 ≤ off ∧ off < 0x11280 then some (.hstPa 2 (fin 1024 ((off - 0x11200) / 4)))
  else if 0x11300 ≤ off ∧ off < 0x11308 then some (.hstPa 3 (fin 1024 ((off - 0x11300) / 4)))
  else if 0x11400 ≤ off ∧ off < 0x11410 then some (.hstPa 4 (fin 1024 ((off - 0x11400) / 4)))
  else if 0x11500 ≤ off ∧ off < 0x11520 then some (.hstPa 5 (fin 1024 ((off - 0x11500) / 4)))
  else if 0x11600 ≤ off ∧ off < 0x11640 then some (.hstPa 6 (fin 1024 ((off - 0x11600) / 4)))
  else if 0x11700 ≤ off ∧ off < 0x11720 then some (.hstPa 7 (fin 1024 ((off - 0x11700) / 4)))
  else if 0x11800 ≤ off ∧ off < 0x11820 then some (.hstPa 8 (fin 1024 ((off - 0x11800) / 4)))
  else if 0x11900 ≤ off ∧ off < 0x11910 then some (.hstPa 9 (fin 1024 ((off - 0x11900) / 4)))
  else if 0x11A00 ≤ off ∧ off < 0x11A10 then some (.hstPa 10 (fin 1024 ((off - 0x11A00) / 4)))
  else if 0x11B00 ≤ off ∧ off < 0x11B80 then some (.hstPa 11 (fin 1024 ((off - 0x11B00) / 4)))
  else if 0x11C00 ≤ off ∧ off < 0x11C04 then some (.hstPa 12 (fin 1024 ((off - 0x11C00) / 4)))
  else if 0x11D00 ≤ off ∧ off < 0x11D04 then some (.hstPa 13 (fin 1024 ((off - 0x11D00) / 4)))
  else if 0x11E00 ≤ off ∧ off < 0x11E20 then some (.hstPa 14 (fin 1024 ((off - 0x11E00) / 4)))
  else if 0x11F00 ≤ off ∧ off < 0x11F40 then some (.hstPa 15 (fin 1024 ((off - 0x11F00) / 4)))
  else if 0x14000 ≤ off ∧ off < 0x15000 then some (.hstPa 16 (fin 1024 ((off - 0x14000) / 4)))
  else none

/-- Decode an aligned offset of the region at hc:0x000000. -/
def decodeRegion0 (_h : Host) (off : Nat) : Option Reg :=
  if 0x0 ≤ off ∧ off < 0x1C then
    pick (off) [(0x0, .ensign), (0x4, .ctlStraps), (0x8, .ctlRstcause), (0xC, .ctlWarm), (0x10, .ctlBgate), (0x14, .ctlClkstat), (0x18, .ctlInputs)]
  else if 0x10010 ≤ off ∧ off < 0x10030 then
    pick ((off - 0x10010) % 0x4) [(0x0, .hstPstat (fin 8 ((off - 0x10010) / 0x4)))]
  else if 0x10100 ≤ off ∧ off < 0x10120 then
    pick ((off - 0x10100) % 0x4) [(0x0, .hstPcfg (fin 8 ((off - 0x10100) / 0x4)))]
  else if 0x10000 ≤ off ∧ off < 0x10204 then
    pick (off - 0x10000) [(0x0, .hstSelf), (0x200, .hstPerr)]
  else decodePa off

/-- Decode an aligned offset of the region at hc:0x020000. -/
def decodeRegion1 (_h : Host) (off : Nat) : Option Reg :=
  if 0x20000 ≤ off ∧ off < 0x20400 then
    (if 0x0 ≤ (off - 0x20000) % 0x100 ∧ (off - 0x20000) % 0x100 < 0x20 then some (.brlSmap (fin 4 ((off - 0x20000) / 0x100)) (fin 8 (((off - 0x20000) % 0x100 - 0x0) / 4))) else (if 0x20 ≤ (off - 0x20000) % 0x100 ∧ (off - 0x20000) % 0x100 < 0x40 then some (.brlSmapAct (fin 4 ((off - 0x20000) / 0x100)) (fin 8 (((off - 0x20000) % 0x100 - 0x20) / 4))) else pick ((off - 0x20000) % 0x100) [(0x40, .brlSmapCtl (fin 4 ((off - 0x20000) / 0x100))), (0x44, .brlStat (fin 4 ((off - 0x20000) / 0x100))), (0x48, .brlHqstat (fin 4 ((off - 0x20000) / 0x100)))]))
  else if 0x21000 ≤ off ∧ off < 0x25000 then
    (if 0x40 ≤ (off - 0x21000) % 0x80 ∧ (off - 0x21000) % 0x80 < 0x60 ∧ ((off - 0x21000) % 0x80) % 8 = 0 then some (.thrPxlo (fin 128 ((off - 0x21000) / 0x80)) (fin 4 (((off - 0x21000) % 0x80 - 0x40) / 8))) else (if 0x40 ≤ (off - 0x21000) % 0x80 ∧ (off - 0x21000) % 0x80 < 0x60 ∧ ((off - 0x21000) % 0x80) % 8 = 4 then some (.thrPxhi (fin 128 ((off - 0x21000) / 0x80)) (fin 4 (((off - 0x21000) % 0x80 - 0x40) / 8))) else pick ((off - 0x21000) % 0x80) [(0x0, .thrCtl (fin 128 ((off - 0x21000) / 0x80))), (0x4, .thrCfg (fin 128 ((off - 0x21000) / 0x80))), (0x8, .thrCeil (fin 128 ((off - 0x21000) / 0x80))), (0xC, .thrEntry (fin 128 ((off - 0x21000) / 0x80))), (0x10, .thrFpinit (fin 128 ((off - 0x21000) / 0x80))), (0x14, .thrSpinit (fin 128 ((off - 0x21000) / 0x80))), (0x18, .thrBudget (fin 128 ((off - 0x21000) / 0x80))), (0x1C, .thrIssued (fin 128 ((off - 0x21000) / 0x80))), (0x20, .thrLast (fin 128 ((off - 0x21000) / 0x80))), (0x24, .thrPeak (fin 128 ((off - 0x21000) / 0x80))), (0x28, .thrState (fin 128 ((off - 0x21000) / 0x80))), (0x30, .thrPc (fin 128 ((off - 0x21000) / 0x80))), (0x34, .thrFp (fin 128 ((off - 0x21000) / 0x80))), (0x38, .thrSp (fin 128 ((off - 0x21000) / 0x80))), (0x3C, .thrSw (fin 128 ((off - 0x21000) / 0x80)))]))
  else none

/-- Decode an aligned offset of the region at hc:0x040000. -/
def decodeRegion2 (_h : Host) (off : Nat) : Option Reg :=
  if 0x40000 ≤ off ∧ off < 0x48000 then
    (if 0x40 ≤ (off - 0x40000) % 0x100 ∧ (off - 0x40000) % 0x100 < 0xC0 then some (.evtMap (fin 128 ((off - 0x40000) / 0x100)) (fin 32 (((off - 0x40000) % 0x100 - 0x40) / 4))) else pick ((off - 0x40000) % 0x100) [(0x0, .evtEn (fin 128 ((off - 0x40000) / 0x100))), (0x4, .evtPend (fin 128 ((off - 0x40000) / 0x100))), (0x8, .evtLive (fin 128 ((off - 0x40000) / 0x100))), (0xC, .evtLost (fin 128 ((off - 0x40000) / 0x100))), (0x10, .evtClaim (fin 128 ((off - 0x40000) / 0x100))), (0x14, .evtCltsLo (fin 128 ((off - 0x40000) / 0x100))), (0x18, .evtCltsHi (fin 128 ((off - 0x40000) / 0x100))), (0x1C, .evtNest (fin 128 ((off - 0x40000) / 0x100))), (0x20, .evtFstat (fin 128 ((off - 0x40000) / 0x100))), (0x24, .evtFpc (fin 128 ((off - 0x40000) / 0x100))), (0x28, .evtFaddr (fin 128 ((off - 0x40000) / 0x100))), (0x2C, .evtSw (fin 128 ((off - 0x40000) / 0x100))), (0xC0, .evtVbase (fin 128 ((off - 0x40000) / 0x100))), (0xC4, .evtFlvl (fin 128 ((off - 0x40000) / 0x100)))])
  else if 0x48000 ≤ off ∧ off < 0x48004 then
    pick (off - 0x48000) [(0x0, .evtSwset)]
  else if 0x50000 ≤ off ∧ off < 0x52000 then
    pick ((off - 0x50000) % 0x4) [(0x0, .irqTgt (BitVec.ofNat 11 ((off - 0x50000) / 0x4)))]
  else if 0x52000 ≤ off ∧ off < 0x52400 then
    pick ((off - 0x52000) % 0x10) [(0x0, .irqLctl (fin 64 ((off - 0x52000) / 0x10))), (0x4, .irqLtime (fin 64 ((off - 0x52000) / 0x10))), (0x8, .irqLstat (fin 64 ((off - 0x52000) / 0x10))), (0xC, .irqLack (fin 64 ((off - 0x52000) / 0x10)))]
  else none

/-- Decode an aligned offset of the region at hc:0x060000. -/
def decodeRegion3 (_h : Host) (off : Nat) : Option Reg :=
  if 0x60000 ≤ off ∧ off < 0x60400 then
    pick ((off - 0x60000) % 0x40) [(0x0, .belCtl (fin 16 ((off - 0x60000) / 0x40))), (0x4, .belPeriod (fin 16 ((off - 0x60000) / 0x40))), (0x8, .belStartLo (fin 16 ((off - 0x60000) / 0x40))), (0xC, .belStartHi (fin 16 ((off - 0x60000) / 0x40))), (0x10, .belSperiod (fin 16 ((off - 0x60000) / 0x40))), (0x14, .belSstartLo (fin 16 ((off - 0x60000) / 0x40))), (0x18, .belSstartHi (fin 16 ((off - 0x60000) / 0x40))), (0x1C, .belApplyat (fin 16 ((off - 0x60000) / 0x40))), (0x20, .belNumLo (fin 16 ((off - 0x60000) / 0x40))), (0x24, .belNumHi (fin 16 ((off - 0x60000) / 0x40))), (0x28, .belNextLo (fin 16 ((off - 0x60000) / 0x40))), (0x2C, .belNextHi (fin 16 ((off - 0x60000) / 0x40))), (0x30, .belStat (fin 16 ((off - 0x60000) / 0x40))), (0x34, .belSkip (fin 16 ((off - 0x60000) / 0x40)))]
  else if 0x61000 ≤ off ∧ off < 0x61800 then
    pick ((off - 0x61000) % 0x10) [(0x0, .belTrec (fin 128 ((off - 0x61000) / 0x10))), (0x4, .belTcommit (fin 128 ((off - 0x61000) / 0x10))), (0x8, .belTdisc (fin 128 ((off - 0x61000) / 0x10))), (0xC, .belTnum (fin 128 ((off - 0x61000) / 0x10)))]
  else none

/-- Decode an aligned offset of the region at hc:0x080000. -/
def decodeRegion4 (_h : Host) (off : Nat) : Option Reg :=
  if 0x80000 ≤ off ∧ off < 0x88000 then
    (if 0x0 ≤ (off - 0x80000) % 0x40 ∧ (off - 0x80000) % 0x40 < 0x8 then some (.pinFcfg (fin 512 ((off - 0x80000) / 0x40)) (fin 2 (((off - 0x80000) % 0x40 - 0x0) / 4))) else pick ((off - 0x80000) % 0x40) [(0x8, .pinSwitch (fin 512 ((off - 0x80000) / 0x40))), (0xC, .pinPad (fin 512 ((off - 0x80000) / 0x40))), (0x10, .pinOwner (fin 512 ((off - 0x80000) / 0x40))), (0x14, .pinShcfg (fin 512 ((off - 0x80000) / 0x40))), (0x18, .pinShd (fin 512 ((off - 0x80000) / 0x40))), (0x1C, .pinChstat (fin 512 ((off - 0x80000) / 0x40))), (0x20, .pinEqtLo (fin 512 ((off - 0x80000) / 0x40))), (0x24, .pinEqtHi (fin 512 ((off - 0x80000) / 0x40))), (0x28, .pinEqpush (fin 512 ((off - 0x80000) / 0x40))), (0x2C, .pinEqctl (fin 512 ((off - 0x80000) / 0x40)))])
  else if 0x88000 ≤ off ∧ off < 0x88400 then
    pick ((off - 0x88000) % 0x40) [(0x0, .pinOut (fin 16 ((off - 0x88000) / 0x40))), (0x4, .pinSet (fin 16 ((off - 0x88000) / 0x40))), (0x8, .pinClr (fin 16 ((off - 0x88000) / 0x40))), (0xC, .pinTgl (fin 16 ((off - 0x88000) / 0x40))), (0x10, .pinIn (fin 16 ((off - 0x88000) / 0x40))), (0x14, .pinPolicy (fin 16 ((off - 0x88000) / 0x40))), (0x18, .pinConfl (fin 16 ((off - 0x88000) / 0x40))), (0x1C, .pinLocksel (fin 16 ((off - 0x88000) / 0x40))), (0x20, .pinLocked (fin 16 ((off - 0x88000) / 0x40))), (0x24, .pinLockviol (fin 16 ((off - 0x88000) / 0x40))), (0x28, .pinOwnign (fin 16 ((off - 0x88000) / 0x40)))]
  else if 0x89000 ≤ off ∧ off < 0x89100 then
    pick ((off - 0x89000) % 0x4) [(0x0, .pinLine (fin 64 ((off - 0x89000) / 0x4)))]
  else if 0x8A000 ≤ off ∧ off < 0x8A200 then
    pick ((off - 0x8A000) % 0x10) [(0x0, .pinHcfg (fin 32 ((off - 0x8A000) / 0x10))), (0x4, .pinHmask (fin 32 ((off - 0x8A000) / 0x10))), (0x8, .pinHpat (fin 32 ((off - 0x8A000) / 0x10))), (0xC, .pinHsnap (fin 32 ((off - 0x8A000) / 0x10)))]
  else if 0x8B000 ≤ off ∧ off < 0x8B008 then
    pick (off - 0x8B000) [(0x0, .pinLock), (0x4, .pinLockstat)]
  else if 0x8B100 ≤ off ∧ off < 0x8B180 then
    pick ((off - 0x8B100) % 0x4) [(0x0, .pinCalg (fin 32 ((off - 0x8B100) / 0x4)))]
  else none

/-- Decode an aligned offset of the region at hc:0x0C0000. -/
def decodeRegion6 (_h : Host) (off : Nat) : Option Reg :=
  if 0xD0000 ≤ off ∧ off < 0xD0800 then
    pick ((off - 0xD0000) % 0x20) [(0x0, .sncCfg (fin 64 ((off - 0xD0000) / 0x20))), (0x4, .sncClk (fin 64 ((off - 0xD0000) / 0x20))), (0x8, .sncData (fin 64 ((off - 0xD0000) / 0x20))), (0xC, .sncStat (fin 64 ((off - 0xD0000) / 0x20))), (0x10, .sncTsLo (fin 64 ((off - 0xD0000) / 0x20))), (0x14, .sncTsHi (fin 64 ((off - 0xD0000) / 0x20)))]
  else if 0xC0000 ≤ off ∧ off < 0xC0400 then
    pick ((off - 0xC0000) % 0x20) [(0x0, .cvpCfg (fin 32 ((off - 0xC0000) / 0x20))), (0x4, .cvpTrig (fin 32 ((off - 0xC0000) / 0x20))), (0x8, .cvpStat (fin 32 ((off - 0xC0000) / 0x20))), (0xC, .cvpSwtrig (fin 32 ((off - 0xC0000) / 0x20))), (0x10, .cvpLast (fin 32 ((off - 0xC0000) / 0x20)))]
  else if 0xC4000 ≤ off ∧ off < 0xC4010 then
    pick ((off - 0xC4000) % 0x4) [(0x0, .trpLevel (fin 4 ((off - 0xC4000) / 0x4)))]
  else if 0xC4010 ≤ off ∧ off < 0xC4020 then
    pick ((off - 0xC4010) % 0x4) [(0x0, .trpSeen (fin 4 ((off - 0xC4010) / 0x4)))]
  else if 0xC8000 ≤ off ∧ off < 0xC9000 then
    (if 0x10 ≤ (off - 0xC8000) % 0x40 ∧ (off - 0xC8000) % 0x40 < 0x20 then some (.trpStnTmask (fin 64 ((off - 0xC8000) / 0x40)) (fin 4 (((off - 0xC8000) % 0x40 - 0x10) / 4))) else pick ((off - 0xC8000) % 0x40) [(0x0, .trpStnCtl (fin 64 ((off - 0xC8000) / 0x40))), (0x4, .trpStnPins (fin 64 ((off - 0xC8000) / 0x40))), (0x8, .trpStnTim (fin 64 ((off - 0xC8000) / 0x40))), (0x20, .trpStnStat (fin 64 ((off - 0xC8000) / 0x40)))])
  else none

/-- Decode an aligned offset of the region at hc:0x0A0000. -/
def decodeRegion5 (h : Host) (off : Nat) : Option Reg :=
  if 0xA0000 ≤ off ∧ off < 0xA2000 then
    pick ((off - 0xA0000) % 0x20) [(0x0, .timCtl (fin 256 ((off - 0xA0000) / 0x20))), (0x4, .timReload (fin 256 ((off - 0xA0000) / 0x20))), (0x8, .timCount (fin 256 ((off - 0xA0000) / 0x20))), (0xC, .timPhase (fin 256 ((off - 0xA0000) / 0x20))), (0x10, .timStat (fin 256 ((off - 0xA0000) / 0x20)))]
  else if 0xA4000 ≤ off ∧ off < 0xB4000 then
    pick ((off - 0xA4000) % 0x40) [(0x0, .timCcCtl (fin 1024 ((off - 0xA4000) / 0x40))), (0x4, .timCcVal (fin 1024 ((off - 0xA4000) / 0x40))), (0x8, .timCcFv (fin 1024 ((off - 0xA4000) / 0x40))), (0xC, .timCcAct (fin 1024 ((off - 0xA4000) / 0x40))), (0x10, .timCcStat (fin 1024 ((off - 0xA4000) / 0x40))), (0x14, .timCaprLo (fin 1024 ((off - 0xA4000) / 0x40))), (0x18, .timCaprHi (fin 1024 ((off - 0xA4000) / 0x40))), (0x1C, .timCapfLo (fin 1024 ((off - 0xA4000) / 0x40))), (0x20, .timCapfHi (fin 1024 ((off - 0xA4000) / 0x40))), (0x24, .timCapw (fin 1024 ((off - 0xA4000) / 0x40))), (0x28, .timCapcnt (fin 1024 ((off - 0xA4000) / 0x40)))]
  else if 0xB8000 ≤ off ∧ off < 0xB802C then
    (if 0x0 ≤ off - 0xB8000 ∧ off - 0xB8000 < 0x20 then some (.timGstartMask h (fin 8 ((off - 0xB8000 - 0x0) / 4))) else pick (off - 0xB8000) [(0x20, .timGstart h), (0x24, .timGstartAtLo h), (0x28, .timGstartAtHi h)])
  else if 0xB8030 ≤ off ∧ off < 0xB8038 then
    pick (off - 0xB8030) [(0x0, .timTbaseLo), (0x4, .timTbaseHi)]
  else none

/-- Decode an aligned offset of the region at hc:0x0E0000. -/
def decodeRegion7 (_h : Host) (off : Nat) : Option Reg :=
  if 0xE0000 ≤ off ∧ off < 0xE4000 then
    pick ((off - 0xE0000) % 0x40) [(0x0, .dmaCctl (fin 256 ((off - 0xE0000) / 0x40))), (0x4, .dmaCstat (fin 256 ((off - 0xE0000) / 0x40))), (0x8, .dmaCheadLo (fin 256 ((off - 0xE0000) / 0x40))), (0xC, .dmaCheadHi (fin 256 ((off - 0xE0000) / 0x40))), (0x10, .dmaCptrLo (fin 256 ((off - 0xE0000) / 0x40))), (0x14, .dmaCptrHi (fin 256 ((off - 0xE0000) / 0x40))), (0x18, .dmaCres (fin 256 ((off - 0xE0000) / 0x40))), (0x1C, .dmaKick (fin 256 ((off - 0xE0000) / 0x40)))]
  else if 0xE8000 ≤ off ∧ off < 0xE8400 then
    pick ((off - 0xE8000) % 0x40) [(0x0, .dmaEctl (fin 16 ((off - 0xE8000) / 0x40))), (0x4, .dmaEstat (fin 16 ((off - 0xE8000) / 0x40))), (0x8, .dmaEcfg (fin 16 ((off - 0xE8000) / 0x40))), (0x10, .dmaBerrLo (fin 16 ((off - 0xE8000) / 0x40))), (0x14, .dmaBerrHi (fin 16 ((off - 0xE8000) / 0x40))), (0x18, .dmaBerri (fin 16 ((off - 0xE8000) / 0x40)))]
  else if 0xE9000 ≤ off ∧ off < 0xE9008 then
    pick ((off - 0xE9000) % 0x4) [(0x0, .dmaStray (fin 2 ((off - 0xE9000) / 0x4)))]
  else none

/-- Decode an aligned offset of the region at hc:0x100000. -/
def decodeRegion8 (h : Host) (off : Nat) : Option Reg :=
  if 0x100000 ≤ off ∧ off < 0x100010 then
    pick (off - 0x100000) [(0x0, .qmCtl), (0x4, .qmStat), (0x8, .qmRdbase), (0xC, .qmWin)]
  else if 0x100010 ≤ off ∧ off < 0x100018 then
    pick (off - 0x100010) [(0x0, .qmRcmd h), (0x4, .qmRcmdstat h)]
  else if 0x100100 ≤ off ∧ off < 0x100180 then
    pick ((off - 0x100100) % 0x10) [(0x0, .qmPoolbase (fin 8 ((off - 0x100100) / 0x10))), (0x4, .qmPoolcnt (fin 8 ((off - 0x100100) / 0x10))), (0x8, .qmPoolfree (fin 8 ((off - 0x100100) / 0x10)))]
  else if 0x100200 ≤ off ∧ off < 0x100220 then
    pick ((off - 0x100200) % 0x4) [(0x0, .qmNstat (fin 8 ((off - 0x100200) / 0x4)))]
  else if 0x101000 ≤ off ∧ off < 0x101200 then
    pick ((off - 0x101000) % 0x4) [(0x0, .qmTstat (fin 128 ((off - 0x101000) / 0x4)))]
  else if 0x108000 ≤ off ∧ off < 0x110000 then
    pick ((off - 0x108000) % 0x4) [(0x0, .qmRflag (fin 8192 ((off - 0x108000) / 0x4)))]
  else if 0x110000 ≤ off ∧ off < 0x120000 then
    pick ((off - 0x110000) % 0x8) [(0x0, .qmRprod (fin 8192 ((off - 0x110000) / 0x8))), (0x4, .qmRcons (fin 8192 ((off - 0x110000) / 0x8)))]
  else none

/-- Decode an aligned offset of the region at hc:0x120000. -/
def decodeRegion9 (h : Host) (off : Nat) : Option Reg :=
  if 0x120000 ≤ off ∧ off < 0x12002C then
    pick (off - 0x120000) [(0x0, .hpsHaddr h), (0x4, .hpsHdur h), (0x8, .hpsHcmpLo h), (0xC, .hpsHcmpHi h), (0x10, .hpsHswpLo h), (0x14, .hpsHswpHi h), (0x18, .hpsHcmd h), (0x1C, .hpsHresLo h), (0x20, .hpsHresHi h), (0x24, .hpsHwcfg h), (0x28, .hpsHwstat h)]
  else if 0x120100 ≤ off ∧ off < 0x120108 then
    pick (off - 0x120100) [(0x0, .hpsForce), (0x4, .hpsStat)]
  else if 0x121000 ≤ off ∧ off < 0x123000 then
    pick ((off - 0x121000) % 0x8) [(0x0, .hpsLeaseA (fin 1024 ((off - 0x121000) / 0x8))), (0x4, .hpsLeaseB (fin 1024 ((off - 0x121000) / 0x8)))]
  else if 0x124000 ≤ off ∧ off < 0x124200 then
    pick ((off - 0x124000) % 0x4) [(0x0, .hpsTstat (fin 128 ((off - 0x124000) / 0x4)))]
  else none

/-- Decode an aligned offset of the region at hc:0x140000. -/
def decodeRegion10 (h : Host) (off : Nat) : Option Reg :=
  if 0x140010 ≤ off ∧ off < 0x140090 then
    (if 0x0 ≤ (off - 0x140010) % 0x8 ∧ (off - 0x140010) % 0x8 < 0x8 then some (.memErrlog (fin 16 ((off - 0x140010) / 0x8)) (fin 2 (((off - 0x140010) % 0x8 - 0x0) / 4))) else none)
  else if 0x140100 ≤ off ∧ off < 0x1401D0 then
    pick ((off - 0x140100) % 0x10) [(0x0, .memTctl (fin 13 ((off - 0x140100) / 0x10))), (0x4, .memTstat (fin 13 ((off - 0x140100) / 0x10))), (0x8, .memTrepair (fin 13 ((off - 0x140100) / 0x10)))]
  else if 0x140000 ≤ off ∧ off < 0x140308 then
    pick (off - 0x140000) [(0x0, .memEccctl), (0x4, .memEccstat), (0x200, .memSecstat), (0x300, .memMrstat), (0x304, .memMrwear)]
  else if 0x140400 ≤ off ∧ off < 0x140410 then
    pick ((off - 0x140400) % 0x4) [(0x0, .memIbstat (fin 4 ((off - 0x140400) / 0x4)))]
  else if 0x150000 ≤ off ∧ off < 0x150018 then
    pick (off - 0x150000) [(0x0, .drlCmd), (0x4, .drlArg0), (0x8, .drlArg1), (0xC, .drlRes), (0x10, .drlData), (0x14, .drlStat)]
  else if 0x150100 ≤ off ∧ off < 0x150180 then
    pick ((off - 0x150100) % 0x4) [(0x0, .drlRc (fin 32 ((off - 0x150100) / 0x4)))]
  else if 0x151000 ≤ off ∧ off < 0x151100 then
    (if 0x0 ≤ off - 0x151000 ∧ off - 0x151000 < 0x100 then some (.drlEcho h (fin 64 ((off - 0x151000 - 0x0) / 4))) else none)
  else none

/-- Decode an aligned offset of the region at hc:0x160000. -/
def decodeRegion11 (_h : Host) (off : Nat) : Option Reg :=
  if 0x160000 ≤ off ∧ off < 0x160028 then
    pick (off - 0x160000) [(0x0, .hlyCtl), (0x4, .hlyStat), (0x8, .hlyCmd), (0xC, .hlyNodes), (0x10, .hlyDly), (0x14, .hlyOffs), (0x18, .hlyTctl), (0x1C, .hlyErr), (0x20, .hlyTxctl), (0x24, .hlyRxctl)]
  else if 0x160040 ≤ off ∧ off < 0x160080 then
    pick ((off - 0x160040) % 0x4) [(0x0, .hlyTxbuf (fin 16 ((off - 0x160040) / 0x4)))]
  else if 0x160080 ≤ off ∧ off < 0x1600C0 then
    pick ((off - 0x160080) % 0x4) [(0x0, .hlyRxbuf (fin 16 ((off - 0x160080) / 0x4)))]
  else none

/-- Decode an aligned offset of the region at hc:0x180000. -/
def decodeRegion12 (_h : Host) (off : Nat) : Option Reg :=
  if 0x180000 ≤ off ∧ off < 0x180038 then
    pick (off - 0x180000) [(0x0, .updCmd), (0x4, .updStat), (0x8, .updImgidLo), (0xC, .updImgidHi), (0x10, .updLen), (0x14, .updAcls), (0x18, .updAbellLo), (0x1C, .updAbellHi), (0x20, .updCfg), (0x24, .updChunk), (0x28, .updVres), (0x2C, .updSeth), (0x30, .updCidlo), (0x34, .updCidhi)]
  else if 0x180040 ≤ off ∧ off < 0x180080 then
    pick ((off - 0x180040) % 0x4) [(0x0, .updMot (fin 16 ((off - 0x180040) / 0x4)))]
  else if 0x180800 ≤ off ∧ off < 0x180980 then
    pick ((off - 0x180800) % 0x4) [(0x0, .updBmap (fin 96 ((off - 0x180800) / 0x4)))]
  else if 0x181000 ≤ off ∧ off < 0x182000 then
    pick ((off - 0x181000) % 0x4) [(0x0, .updIwin (fin 1024 ((off - 0x181000) / 0x4)))]
  else if 0x188000 ≤ off ∧ off < 0x190000 then
    pick ((off - 0x188000) % 0x4) [(0x0, .updSwin (fin 8192 ((off - 0x188000) / 0x4)))]
  else if 0x190000 ≤ off ∧ off < 0x19000C then
    pick (off - 0x190000) [(0x0, .lcsState), (0x4, .lcsCmd), (0x8, .lcsRes)]
  else if 0x190040 ≤ off ∧ off < 0x190070 then
    pick ((off - 0x190040) % 0x4) [(0x0, .lcsOkh (fin 12 ((off - 0x190040) / 0x4)))]
  else none

/-- The register at an offset of host control space, as host port `h` sees it; none where no register
is listed (such an offset is RZ, R8 and R357) or the offset is not a multiple of 4. -/
def decodeReg (h : Host) (off : Nat) : Option Reg :=
  if off % 4 ≠ 0 then none
  else
  if off / 0x20000 = 0 then decodeRegion0 h off
  else if off / 0x20000 = 1 then decodeRegion1 h off
  else if off / 0x20000 = 2 then decodeRegion2 h off
  else if off / 0x20000 = 3 then decodeRegion3 h off
  else if off / 0x20000 = 4 then decodeRegion4 h off
  else if off / 0x20000 = 6 then decodeRegion6 h off
  else if off / 0x20000 = 5 then decodeRegion5 h off
  else if off / 0x20000 = 7 then decodeRegion7 h off
  else if off / 0x20000 = 8 then decodeRegion8 h off
  else if off / 0x20000 = 9 then decodeRegion9 h off
  else if off / 0x20000 = 10 then decodeRegion10 h off
  else if off / 0x20000 = 11 then decodeRegion11 h off
  else if off / 0x20000 = 12 then decodeRegion12 h off
  else none

/-- Offsets that Table ARC-5 reserves. -/
def reservedOff (off : Nat) : Bool :=
  (decide (0x1A0000 ≤ off) && decide (off < 0x200000)) || (decide (0x240000 ≤ off) && decide (off < 0x800000))

/-- Offsets of the register regions of Table ARC-5. -/
def registerOff (off : Nat) : Bool := decide (off < 0x1A0000)

/-- What a stored register reads as where nothing has written it: its reset value; an assignment word names
the owner's partition in each of its entries (R361). -/
def State.regDefault (s : State) : Reg → Word
  | .hstPa _ _ => BitVec.ofNat 32 (s.sys.straps.owner.val * 0x11111111)
  | r => r.reset

/-- The stored bits of a register. -/
def State.reg (s : State) (r : Reg) : Word := mget (s.regDefault r) s.regs r.key

/-- Store a register's bits. -/
def State.setReg (s : State) (r : Reg) (v : Word) : State :=
  { s with regs := mput (s.regDefault r) s.regs r.key v }

/-- Store the bits of `v` that code RW or LK marks and keep the register's other bits. -/
def State.storeRw (s : State) (r : Reg) (v : Word) : State :=
  s.setReg r ((s.reg r &&& ~~~r.rw) ||| (v &&& r.rw))

end Sys2Proof.Machine
end

