-- ==== Sys2Proof/Machine/Agenda.lean ====
section
/-! DEFINITION. Delayed effects, event sources, partitions and the answers that host ports get: what every unit shares. -/

namespace Sys2Proof.Machine

/-! ### The agenda -/

/-- Pipeline writes. -/
def prioPipe : Nat := 1

/-- Order of two landings: by cycle, then by place within the cycle, and the pipeline's writes by their issue (R105, R131). -/
def Landing.before (x y : Landing) : Bool :=
  decide (x.due < y.due) || (decide (x.due = y.due) &&
    (decide (x.prio < y.prio) || (decide (x.prio = y.prio) && decide (x.prio = prioPipe) && decide (x.issuedAt < y.issuedAt))))

/-- Insert a landing after those that come before it or stand level with it. -/
def agendaInsert (x : Landing) : List Landing → List Landing
  | [] => [x]
  | y :: rest => if x.before y then x :: y :: rest else y :: agendaInsert x rest

/-- Places within a cycle (R300): a hall result, then the pipeline's writes, then the second port, then
what the units do. -/
def prioHall : Nat := 0
/-- FPSET and SPSET, whose value holds over what a CALL or RET leaves in the same cycle (R139). -/
def prioSet : Nat := 2
/-- Converter mailboxes, before the other writes of the second port (R281). -/
def prioBox : Nat := 3
/-- Writes through the second port of a desk window. -/
def prioPort : Nat := 4
/-- Effects in the units. -/
def prioUnit : Nat := 5

/-- Enter a landing that no cancellation names. -/
def State.schedule (s : State) (due prio : Nat) (e : Eff) : State :=
  { s with agenda := agendaInsert { due := due, prio := prio, thread := none, issuedAt := s.now, eff := e } s.agenda }

/-- Enter a landing of a thread's instruction. -/
def State.scheduleFor (s : State) (t : Tid) (due prio : Nat) (e : Eff) : State :=
  { s with agenda := agendaInsert { due := due, prio := prio, thread := some t, issuedAt := s.now, eff := e } s.agenda }

/-- A source that pulses in the cycle after cycle `due`. -/
def State.sourceAt (s : State) (due src : Nat) : State := s.schedule due prioUnit (.source (BitVec.ofNat 11 src))

/-- A source that a landing at the start of this cycle makes pulse in it. -/
def State.pulseSoon (s : State) (src : Nat) : State := s.sourceAt (s.now - 1) src

/-- A command that comes about by itself in a later cycle. -/
def State.command (s : State) (due : Nat) (c : Instr) : State := s.schedule due prioUnit (.command c)

/-- Enter a landing at the end of the `c`th cycle after the issue, for an instruction at its read point, the start of its c3
(R67). -/
def State.enter (s : State) (t : Tid) (c prio : Nat) (e : Eff) : State :=
  { s with agenda := agendaInsert { due := s.now - 3 + c, prio := prio, thread := some t, issuedAt := s.now - 3, eff := e } s.agenda }

/-- The landings of a thread's issues from cycle `k` on leave the agenda; hall results stay (R77, R181). -/
def State.dropFrom (s : State) (t : Tid) (k : Nat) : State :=
  { s with agenda := s.agenda.filter (fun x => !(decide (x.thread = some t) && !x.hall && decide (k ≤ x.issuedAt))) }

/-- The hall results on their way to a thread are dropped (R77). -/
def State.dropHall (s : State) (t : Tid) : State :=
  { s with agenda := s.agenda.filter (fun x => !(decide (x.thread = some t) && x.hall)) }

/-! ### Partitions (R361 to R365) -/

/-- Kinds of Table HST-3 by row. -/
abbrev kThread : Fin 17 := 0
/-- Pin channels. -/
abbrev kPin : Fin 17 := 1
/-- Timers with their units. -/
abbrev kTimer : Fin 17 := 2
/-- Bells. -/
abbrev kBell : Fin 17 := 3
/-- Converter ports. -/
abbrev kCvp : Fin 17 := 4
/-- Stations. -/
abbrev kStation : Fin 17 := 5
/-- Trip inputs. -/
abbrev kTrip : Fin 17 := 6
/-- Sinc units. -/
abbrev kSinc : Fin 17 := 7
/-- Event lines. -/
abbrev kLine : Fin 17 := 8
/-- Hoists. -/
abbrev kHoist : Fin 17 := 9
/-- Software sources. -/
abbrev kSoft : Fin 17 := 10
/-- DMA channels. -/
abbrev kDma : Fin 17 := 11
/-- Buffer pools. -/
abbrev kPool : Fin 17 := 12
/-- Queue-manager notifiers. -/
abbrev kNotif : Fin 17 := 13
/-- Interrupt lines. -/
abbrev kIrq : Fin 17 := 14
/-- Hall segments of 64 KiB. -/
abbrev kSeg : Fin 17 := 15
/-- Rings. -/
abbrev kRing : Fin 17 := 16

/-- The partition that holds resource `i` of a kind; none where its entry says NONE (R361). -/
def State.partOf (s : State) (k : Fin 17) (i : Nat) : Option Host :=
  let e := fieldN (s.reg (.hstPa k (fin 1024 (i / 8)))) (4 * (i % 8)) 4
  if 8 ≤ e then none else some (fin 8 e)

/-- The partition whose rights an access carries: the host's own, that of the thread (R24), that of the
host that owns the channel (R25), and the owner's for the start table (R421). -/
def State.agentPart (s : State) : Agent → Option Host
  | .host h _ => some h
  | .thread t => s.partOf kThread t.val
  | .dma ch => s.partOf kDma ch.val
  | .block => some s.owner

/-- The access carries the rights of the partition that holds the resource. -/
def State.holds (s : State) (a : Agent) (k : Fin 17) (i : Nat) : Bool :=
  match s.agentPart a with
  | none => false
  | some p => decide (s.partOf k i = some p)

/-- The access carries the owner host's rights. -/
def State.isOwner (s : State) (a : Agent) : Bool := decide (s.agentPart a = some s.owner)

/-- Some of `n` resources from `base` on lie in the partition. -/
def State.holdsAny (s : State) (p : Host) (k : Fin 17) (base : Nat) : Nat → Bool
  | 0 => false
  | n + 1 => decide (s.partOf k base = some p) || s.holdsAny p k (base + 1) n

/-- An event source lies in a partition (Table HST-4). -/
def State.sourceIn (s : State) (p : Host) (src : Nat) : Bool :=
  if src < 0x020 then decide (s.partOf kSoft src = some p)
  else if src < 0x0A0 then decide (s.partOf kThread (src - 0x020) = some p)
  else if src < 0x0C0 then decide (s.partOf kCvp (src - 0x0A0) = some p)
  else if src < 0x100 then decide (s.partOf kSinc (src - 0x0C0) = some p)
  else if src < 0x140 then decide (s.partOf kLine (src - 0x100) = some p)
  else if src < 0x160 then decide (s.partOf kHoist (src - 0x140) = some p)
  else if src < 0x180 then s.holdsAny p kPin (32 * ((src - 0x160) % 16)) 32
  else if src < 0x280 then decide (s.partOf kTimer (src - 0x180) = some p)
  else if src < 0x680 then decide (s.partOf kTimer ((src - 0x280) / 4) = some p)
  else if src < 0x690 then decide (s.partOf kBell (src - 0x680) = some p)
  else if src < 0x6D0 then decide (s.partOf kStation (src - 0x690) = some p)
  else if src < 0x7D0 then decide (s.partOf kDma (src - 0x6D0) = some p)
  else if src < 0x7E0 then s.holdsAny p kDma (16 * (src - 0x7D0)) 16
  else if src < 0x7E8 then decide (s.partOf kNotif (src - 0x7E0) = some p)
  else if src = 0x7E8 then true
  else if src ≤ 0x7F0 then decide (p = s.owner)
  else false

/-! ### What a host port answers (R353 to R360) -/

/-- The port itself could take a first beat with this tag: it is enabled (R29) and not held (R360), fewer than 32
requests are outstanding and the tag is free (R354). -/
def State.portFree (s : State) (h : Host) (tag : BitVec 5) : Bool :=
  let p := s.host h
  (s.sys.straps.hportEn.getLsbD h.val || decide (h = s.owner)) && !p.held &&
  decide (p.reqs.length < 32) && !(p.reqs.any (fun r => decide (r.tag = tag)))

/-- The port takes a first beat with this tag: it is free, the block is not in a reset, and the recovery ROM serves no
other port than the owner's (R409). -/
def State.portReady (s : State) (h : Host) (tag : BitVec 5) : Bool :=
  s.portFree h tag &&
  (match s.sys.phase with
   | .up => true
   | .recovery => decide (h = s.owner)
   | _ => false)

/-- The access is taken: a host port is ready, and the write, which reaches its register in this cycle, has its turn (R358); a channel or the block itself always reaches its register. A thread has no
access to host control space (R14, R23): it reaches registers by the instructions of its I/O space. -/
def State.accepts (s : State) : Agent → Bool
  | .host h tag => s.portReady h tag && (s.host h).reqs.all Req.performed
  | .thread _ => false
  | _ => true

/-- Record a request that has been performed in this SCLK, with its response, which follows in the next (R356, R359). -/
def State.answer (s : State) (h : Host) (tag : BitVec 5) (status : BitVec 2) (data : List (BitVec 128)) : State :=
  s.modHost h (fun p => { p with reqs := p.reqs ++ [
    { tag := tag, status := status, data := data, performed := true, last := s.now / 2, doneAt := s.now / 2, readyAt := s.now / 2 + 1 }] })

/-- Answer a register write: only a host port gets a response. -/
def State.respond (s : State) (a : Agent) (status : BitVec 2) : State :=
  match a with
  | .host h tag => s.answer h tag status []
  | _ => s

/-- A write to a register: refused by a port that is not ready; outside the partition it leaves the
register and answers STATUS 1 (Table HST-1); otherwise it has its effect and answers STATUS 0. -/
def State.regWrite (s : State) (a : Agent) (inside : Bool) (eff : State → State) : State :=
  if s.accepts a then
    (if inside then (eff s).respond a 0 else s.respond a 1)
  else s

/-- The thread that owns a channel. -/
def State.pinOwner (s : State) (c : Chan) : Option Tid :=
  let w := s.reg (.pinOwner c)
  if bit w 31 then some (fin 128 (fieldN w 0 7)) else none

/-- An OUT of a thread may write a register: at S level where the register needs it, and as the owner of its channel
(R165, R219). -/
def State.outMay (s : State) (t : Tid) (superv : Bool) (chan : Option Chan) : Bool :=
  (!superv || bit (s.thr t).sw 6) && (match chan with | some c => decide (s.pinOwner c = some t) | none => true)

/-- A write to a register that lies in the threads' I/O space too, at S level (`superv`) or for a channel's owner (`chan`)
where it needs that (R23, R165, R219). -/
def State.regWriteOut (s : State) (a : Agent) (superv : Bool) (chan : Option Chan) (inside : Bool) (eff : State → State) : State :=
  match a with
  | .thread t => if inside && s.outMay t superv chan then eff s else s
  | _ => s.regWrite a inside eff

/-- A write to a register of hc:0x00_0000 to 0x05_FFFF: a DMA channel never writes there (R25). -/
def State.regWriteLow (s : State) (a : Agent) (inside : Bool) (eff : State → State) : State :=
  match a with
  | .dma _ => s
  | _ => s.regWrite a inside eff

/-! ### Event sources (R156 to R162, R367) -/

/-- The event registers in cycle `now`: what they note of an earlier cycle is forgotten (R9). -/
def Events.inCycle (e : Events) (now : Nat) : Events :=
  if e.newAt = now then e else { e with pulse := 0, wiped := 0, lostNew := 0, fstatNew := 0, newAt := now }

/-- EVT_LOST of an input is set in this cycle. -/
def Events.lose (e : Events) (i : Nat) : Events := { e with lost := e.lost ||| bitw i, lostNew := e.lostNew ||| bitw i }

/-- Set one input's pending bit by a pulse (R159 to R161): a bit that the cycle found set sets LOST too, whatever has cleared it
in the cycle, and the time is kept where the bit rises. -/
def State.pendPulse (s : State) (t : Tid) (i : Nat) : State :=
  s.modEvAll t (fun e =>
    let e := e.inCycle s.now
    let e := { e with pulse := e.pulse ||| bitw i }
    if bit (e.pend ||| e.wiped) i then { e.lose i with pend := e.pend ||| bitw i }
    else { e with pend := e.pend ||| bitw i, times := mput 0 e.times i s.tbase })

/-- Set one input's pending bit by a level (R159, R160): it never sets LOST. -/
def State.pendLevel (s : State) (t : Tid) (i : Nat) : State :=
  s.modEvAll t (fun e =>
    let e := e.inCycle s.now
    if bit (e.pend ||| e.wiped) i then { e with pend := e.pend ||| bitw i }
    else { e with pend := e.pend ||| bitw i, times := mput 0 e.times i s.tbase })

/-- The inputs tied to a source: their keys 32t + i in the event map. -/
def State.tiedTo (s : State) (src : Nat) : List Nat :=
  (s.evmap.filter (fun e => decide (e.2.1.toNat = src))).map (·.1)

/-- An event of a source is counted on its line, in the first SCLK after the cycle (R367). -/
def State.countSource (s : State) (src : Nat) : State :=
  let w := s.reg (.irqTgt (BitVec.ofNat 11 src))
  if bit w 31 then s.command (sclkAfter s.now) (.irqEventCount (fin 64 (fieldN w 0 6))) else s

/-- A software source's firing is a movement report (R398). -/
def State.noteMove (s : State) (src : Nat) : State :=
  if src < 0x20 then { s with upd := { s.upd with moving := mput 0 s.upd.moving src (s.now + 1) } } else s

/-- A running engine's descriptor waits for grants of a source (R330): PACED with PSRC naming it. -/
def EngineS.pacedBy (x : EngineS) (src : Nat) : Bool :=
  decide (x.st = .running) && decide (x.work = .move) && x.d3.getLsbD 63 && decide (x.d3.toNat / 2 ^ 48 % 2 ^ 11 = src)

/-- A pulse grants one burst to each channel that the source paces; where a grant is still unused it sets PLOST (R330). -/
def State.grant (s : State) (src : Nat) : State :=
  s.engines.foldl (fun s e =>
    if e.2.pacedBy src then
      s.modCh (fin 256 (16 * e.1 + e.2.cur.toNat)) (fun x => if x.grant then { x with plost := some s.now } else { x with grant := true })
    else s) s

/-- A source pulses in this cycle: every input tied to it, its interrupt line, the channels it paces and the movement
reports see it. The reserved sources and source 0x7FF never fire (Table EVT-1). -/
def State.pulse (s : State) (src : Nat) : State :=
  if 0x7F1 ≤ src then s
  else ((((s.tiedTo src).foldl (fun s k => s.pendPulse (fin 128 (k / 32)) (k % 32)) s).countSource src).grant src).noteMove src

/-- A watch wake reaches one input of the thread that placed the watch (R158). -/
def State.wakeInput (s : State) (t : Tid) (i : Nat) : State :=
  let m := mget ((0x7FF : BitVec 11), (0 : BitVec 2)) s.evmap (32 * t.val + i)
  if m.1 = 0x7E8 then s.pendPulse t i
  else s.modEvAll t (fun e => (e.inCycle s.now).lose i)

end Sys2Proof.Machine
end

