-- ==== Sys2Proof/Machine/Timers.lean ====
section
/-! DEFINITION. Staged values, timers, compare and capture units, starts and conversion triggers (chapter 09, R202 and R203 of chapter 07). -/

namespace Sys2Proof.Machine

/-! ### Class membership and staged values (R64, R202, R203) -/

/-- The class of a thread (THR_CFG.CLASSED, THR_CFG.CLASS). -/
def State.classOf (s : State) (t : Tid) : Option Bell :=
  let w := s.reg (.thrCfg t)
  if bit w 4 then some (fin 16 (fieldN w 0 4)) else none

/-- The class member that makes an access; a thread outside any class, a host and a channel stage nothing (R202). -/
def State.stager (s : State) : Agent → Option Tid
  | .thread t => if (s.classOf t).isSome then some t else none
  | _ => none

/-- A later staged value for the same pin, unit or timer replaces a held one; edge entries and posts are not replaced (R203). -/
def Staged.replaces : Staged → Staged → Bool
  | .pin c _, .pin d _ => decide (c = d)
  | .compare u _ _, .compare w _ _ => decide (u = w)
  | .reload n _, .reload m _ => decide (n = m)
  | _, _ => false

/-- Stage a value for a thread. -/
def State.stage (s : State) (t : Tid) (x : Staged) : State :=
  { s with staged := s.staged.filter (fun e => !(x.replaces e.2)) ++ [(t, x)] }

/-- Drop everything a thread has staged (R207). -/
def State.unstage (s : State) (t : Tid) : State :=
  { s with staged := s.staged.filter (fun e => decide (e.1 ≠ t)) }

/-- FCLK from TBASE to the next bell time, over the wraps of both (R192). -/
def State.bellGap (s : State) (b : Bell) : Int :=
  ((s.bell b).next.toNat : Int) + 2 ^ 64 * (s.bell b).lap - ((s.tbase.toNat : Int) + 2 ^ 64 * s.lap)

/-- A bell is due: it runs and TBASE has reached or passed its next bell time (R192, R197). -/
def State.bellDue (s : State) (b : Bell) : Bool := (s.bell b).running && decide (s.bellGap b ≤ 0)

/-- TBASE moves by `d` FCLK. -/
def State.addTbase (s : State) (d : Int) : State :=
  let v := (s.tbase.toNat : Int) + d
  { s with tbase := BitVec.ofInt 64 v, lap := s.lap + v / 2 ^ 64 }

/-- The host port whose bank of a banked register an access uses. -/
def State.bankOf (s : State) : Agent → Host
  | .host h _ => h
  | a => (s.agentPart a).getD s.owner

/-! ### Fields -/

/-- The timer of a unit. -/
def timerOf (u : UnitNo) : TimerNo := ⟨u.val / 4, by omega⟩
/-- Unit `j` of a timer. -/
def unitOf (n : TimerNo) (j : Fin 4) : UnitNo := ⟨4 * n.val + j.val, by omega⟩
/-- The four units of a timer. -/
def unitsOf (n : TimerNo) : List UnitNo := (List.finRange 4).map (unitOf n)

/-- TIM_CTL.MODE = 1: dual-slope. -/
def State.isDual (s : State) (n : TimerNo) : Bool := bit (s.reg (.timCtl n)) 28
/-- TIM_CC_CTL.FUNC. -/
def State.ccFunc (s : State) (u : UnitNo) : Nat := fieldN (s.reg (.timCcCtl u)) 30 2
/-- TIM_CC_CTL.UPD. -/
def State.ccUpd (s : State) (u : UnitNo) : Nat := fieldN (s.reg (.timCcCtl u)) 28 2
/-- TIM_CC_CTL.INIT. -/
def State.ccInit (s : State) (u : UnitNo) : Bool := bit (s.reg (.timCcCtl u)) 20
/-- TIM_CC_CTL.EVEN. -/
def State.ccEven (s : State) (u : UnitNo) : Bool := bit (s.reg (.timCcCtl u)) 18

/-- The fine value in use: 0 where C is 0 (R265). -/
def effFine (c : Word) (f : BitVec 5) : BitVec 5 := if c = 0 then 0 else f

/-- The count of the match cycle of an active value on a slope, where it has one (Table TIM-2). -/
def matchPos (dual up : Bool) (c : Word) (f : BitVec 5) : Option Nat :=
  if up then some (if effFine c f = 0 then c.toNat else c.toNat - 1)
  else if dual && decide (c = 0) then none
  else some c.toNat

/-- The fine value of the action of a match on a slope (Table TIM-2). -/
def matchFine (up : Bool) (c : Word) (f : BitVec 5) : BitVec 5 :=
  let e := effFine c f
  if up && decide (e ≠ 0) then BitVec.ofNat 5 (32 - e.toNat) else e

/-- An action on a source: 0 none, 1 set, 2 clear, 3 toggle (R266). -/
def applyAct (act : Nat) (v : Bool) : Bool :=
  if act = 1 then true else if act = 2 then false else if act = 3 then !v else v

/-- A load of 0 loads 1 (R262). -/
def rldValue (v : Word) : Word := if v = 0 then 1 else v

/-! ### Outputs of units -/

/-- The timer source that a unit drives: TRIPLVL while a station forces it (R287). -/
def State.unitOut (s : State) (u : UnitNo) : Bool :=
  if (s.unit u).forced.isSome && decide (s.ccFunc u = 1) then bit (s.reg (.timCcCtl u)) 19 else (s.unit u).src

/-- The fine value at which the source changed, where it changed in this cycle (R266, R287). -/
def State.unitFine (s : State) (u : UnitNo) : BitVec 5 :=
  let x := s.unit u
  if x.forced.isSome then 0 else if x.actAt = some s.now then x.srcFine else 0

/-! ### Conversion triggers (R282) -/

/-- CVn_TRIG is high in this cycle. -/
def State.cvTrigger (s : State) (n : Cvp) : State := s.modCvp n (fun x => { x with trig := true })

/-- A cause of a kind occurs for a unit or timer number: every port that selects it triggers. -/
def State.cvCause (s : State) (kind num : Nat) : State :=
  (List.finRange 32).foldl (fun s n =>
    let w := s.reg (.cvpTrig n)
    if decide (fieldN w 30 2 = kind) && decide (fieldN w 0 10 = num) then s.cvTrigger n else s) s

/-! ### Phase restart of sinc units (R256) -/

/-- A firing of a compare unit restarts the sample count of the sinc units that name it. -/
def State.sincRestart (s : State) (u : UnitNo) : State :=
  (List.finRange 64).foldl (fun s n =>
    let w := s.reg (.sncCfg n)
    if bit w 31 && bit w 23 && decide (fieldN w 13 10 = u.val) then s.modSinc n (fun x => { x with count := 0 }) else s) s

/-! ### Counting -/

/-- The count of the next cycle (R261, R264): `topDue` and `valleyDue` mark a top and a valley cycle. -/
def TimerS.advance (t : TimerS) (dual : Bool) (rld : Word) (now : Nat) : TimerS :=
  if t.run && decide (t.resumeAt ≤ now) then
    let t := { t with counted := true, topDue := false, valleyDue := false }
    let top := { t with topDue := true, cnt := rldValue rld, up := false }
    if dual && t.up then
      (if t.r.toNat ≤ t.cnt.toNat + 1 then top else { t with cnt := t.cnt + 1 })
    else if dual then
      (if t.cnt.toNat ≤ 1 then { t with valleyDue := true, cnt := 0, up := true } else { t with cnt := t.cnt - 1 })
    else (if t.cnt = 0 then top else { t with cnt := t.cnt - 1, up := false })
  else { t with counted := false, topDue := false, valleyDue := false }

/-- Every listed timer advances into cycle `s.now`. -/
def State.timersAdvance (s : State) : State :=
  (s.timers.map (·.1)).foldl (fun s k =>
    let n := fin 256 k
    s.modTimer n (fun t => t.advance (s.isDual n) (s.reg (.timReload n)) s.now)) s

/-! ### Actions, matches and catches (R265, R266, R269) -/

/-- An action of a unit with FUNC = 1 on its source. -/
def State.unitAct (s : State) (u : UnitNo) (act : Nat) (fine : BitVec 5) : State :=
  if act = 0 then s
  else s.modUnit u (fun x => { x with src := applyAct act x.src, srcFine := fine, actAt := some s.now })

/-- A match or catch: the slope's action, the unit's event, the conversion triggers and sinc restarts that name it. -/
def State.unitFire (s : State) (u : UnitNo) (fine : BitVec 5) : State :=
  let w := s.reg (.timCcCtl u)
  let act := if (s.timer (timerOf u)).up then fieldN w 21 2 else fieldN w 23 2
  let s := (s.unitAct u act fine).modUnit u (fun x => { x with matched := true, matchAt := some s.now })
  let s := if s.ccEven u then s.pulse (0x280 + u.val) else s
  (s.cvCause 1 u.val).sincRestart u

/-- A catch: the slope's action at fine value 0, and LATE (R269). -/
def State.unitCatch (s : State) (u : UnitNo) : State :=
  (s.unitFire u 0).modUnit u (fun x => { x with late := some s.now })

/-- A unit may still catch on its slope: FUNC = 1, LATE_CATCH = 1 and no match yet. -/
def State.canCatch (s : State) (u : UnitNo) : Bool :=
  decide (s.ccFunc u = 1) && bit (s.reg (.timCcCtl u)) 27 && !(s.unit u).matched

/-- The unit's match cycle is this cycle (R265). -/
def State.matchNow (s : State) (u : UnitNo) : Bool :=
  let t := s.timer (timerOf u)
  let x := s.unit u
  decide (s.ccFunc u = 1) && t.counted && decide (x.matchAt ≠ some s.now) &&
  decide (x.act.toNat ≤ t.r.toNat) &&
  decide (matchPos (s.isDual (timerOf u)) t.up x.act x.actFine = some t.cnt.toNat)

/-- COMPARE_MATCH: the unit's action at its fine value. -/
def State.compareMatch (s : State) (u : UnitNo) : State :=
  if s.matchNow u then
    let t := s.timer (timerOf u)
    let x := s.unit u
    s.unitFire u (matchFine t.up x.act x.actFine)
  else s

/-! ### Top and valley cycles -/

/-- The preload becomes active (R268). -/
def State.unitCopy (s : State) (u : UnitNo) : State :=
  s.modUnit u (fun x => { x with act := x.preload, actFine := x.preFine })

/-- A station holds a timer: its range names it and it lies in the station's partition (R284). -/
def State.stnHoldsTimer (s : State) (st : Station) (n : TimerNo) : Bool :=
  let w := s.reg (.trpStnTim st)
  let first := fieldN w 8 8
  decide (first ≤ n.val) && decide (n.val < first + fieldN w 0 4) &&
  (s.partOf kTimer n.val).isSome && decide (s.partOf kTimer n.val = s.partOf kStation st.val)

/-- No station that holds the timer had an active station trip in the previous cycle (R287). -/
def State.forceClean (s : State) (n : TimerNo) : Bool :=
  (List.finRange 64).all (fun st => !((s.stn st).prev && s.stnHoldsTimer st n))

/-- What a top cycle does to one unit: the wrap copy, the end of a force, ATOP (R266, R268, R287). -/
def State.unitTop (s : State) (u : UnitNo) (clean : Bool) : State :=
  let s := if s.ccUpd u ≤ 1 then s.unitCopy u else s
  let s := s.modUnit u (fun x => { x with
    matched := false, matchAt := none
    forced := if clean && decide (x.forced ≠ some s.now) then none else x.forced })
  if s.ccFunc u = 1 then s.unitAct u (fieldN (s.reg (.timCcCtl u)) 25 2) 0 else s

/-- TIMER_TOP: the load of R262, the units, the event and the conversion trigger. -/
def State.timerTop (s : State) (n : TimerNo) : State :=
  if (s.timer n).topDue then
    let rl := s.reg (.timReload n)
    let r := rldValue rl
    let clean := s.forceClean n
    let s := s.modTimer n (fun t => { t with
      topDue := false, valleyDue := false, r := r, cnt := r, up := false, slopeFrom := r
      clamp := if rl = 0 then some s.now else t.clamp })
    let s := (unitsOf n).foldl (fun s u => s.unitTop u clean) s
    let s := if bit (s.reg (.timCtl n)) 25 then s.pulse (0x180 + n.val) else s
    s.cvCause 2 n.val
  else s

/-- TIMER_VALLEY: the copies of UPD = 1, the event and the conversion trigger (R261, R268, R278, R282). -/
def State.timerValley (s : State) (n : TimerNo) : State :=
  if (s.timer n).valleyDue then
    let s := s.modTimer n (fun t => { t with valleyDue := false, cnt := 0, up := true, slopeFrom := 0 })
    let s := (unitsOf n).foldl (fun s u =>
      (if s.ccUpd u = 1 then s.unitCopy u else s).modUnit u (fun x => { x with matched := false, matchAt := none })) s
    let s := if bit (s.reg (.timCtl n)) 24 then s.pulse (0x180 + n.val) else s
    s.cvCause 3 n.val
  else s

/-! ### Writes -/

/-- Places of landings within a cycle: a reload is judged before an immediate value (Table TIM-9), and a capture after both. -/
def prioActive : Nat := 6
/-- Place of captures. -/
def prioCapture : Nat := 7

/-- An entry is the immediate value of a unit. -/
def Eff.isActive (u : UnitNo) : Eff → Bool
  | .unitActive w _ _ => decide (u = w)
  | _ => false

/-- An entry is the reload of a timer, or the jump that it makes. -/
def Eff.isReload (n : TimerNo) : Eff → Bool
  | .reload m _ => decide (n = m)
  | .jump m _ => decide (n = m)
  | _ => false

/-- A write takes the place of those presented in the same cycle to the same unit or timer: the last holds (Table TIM-9). -/
def State.supersede (s : State) (due : Nat) (f : Eff → Bool) : State :=
  { s with agenda := s.agenda.filter (fun x => !(decide (x.due = due) && f x.eff)) }

/-- A compare write presented in this cycle (R268, R269). -/
def State.compareWrite (s : State) (u : UnitNo) (c : Word) (f : BitVec 5) : State :=
  let s := s.schedule s.now prioUnit (.preload u c f)
  if 2 ≤ s.ccUpd u then (s.supersede (s.now + 1) (Eff.isActive u)).schedule (s.now + 1) prioActive (.unitActive u c f) else s

/-- A compare write by an agent: staged by a class member where UPD = 3 (Table TIM-3). -/
def State.compareBy (s : State) (a : Agent) (u : UnitNo) (c : Word) (f : BitVec 5) : State :=
  match s.stager a with
  | some t => if s.ccUpd u = 3 then s.stage t (.compare u c f) else s.compareWrite u c f
  | none => s.compareWrite u c f

/-- A direct reload write presented in this cycle: it enters the buffer at the end of the cycle, and may shorten the period in
the next (R263, R270). -/
def State.reloadDirect (s : State) (n : TimerNo) (v : Word) : State :=
  ((s.supersede s.now (Eff.isReload n)).schedule s.now prioUnit (.reload n v)).schedule s.now prioUnit (.jump n v)

/-- A reload write by an agent (R263). -/
def State.reloadBy (s : State) (a : Agent) (n : TimerNo) (v : Word) : State :=
  match s.stager a with
  | some t => if bit (s.reg (.timCtl n)) 29 then s.stage t (.reload n v) else s.reloadDirect n v
  | none => s.reloadDirect n v

/-- Catch the down matches in the counts that a jump from `x` to `v` skips (R270). -/
def State.catchSkipped (s : State) (n : TimerNo) (x v : Nat) : State :=
  (unitsOf n).foldl (fun s u =>
    let y := s.unit u
    match matchPos (s.isDual n) false y.act y.actFine with
    | some p => if s.canCatch u && decide (v < p) && decide (p ≤ x) then s.unitCatch u else s
    | none => s) s

/-- Catch the up matches not yet made on a slope that ends before count `x` (R270). -/
def State.catchUp (s : State) (n : TimerNo) (x : Nat) : State :=
  let r := (s.timer n).r.toNat
  (unitsOf n).foldl (fun s u =>
    let y := s.unit u
    match matchPos true true y.act y.actFine with
    | some p => if s.canCatch u && decide (x ≤ p) && decide (p < r) then s.unitCatch u else s
    | none => s) s

/-- The start cycle of a bank's armed start is this cycle (R275). -/
def State.startDue (s : State) (h : Host) : Bool :=
  let g := s.gstart h
  g.armed && decide (g.presented + 4 ≤ s.now) &&
  (if g.src = 0 then true
   else if g.src = 1 then s.bellDue (fin 16 g.bell.toNat)
   else decide (g.at_.toNat ≤ s.tbase.toNat))

/-- The count of a timer has changed within the cycle: a capture of the cycle holds the count of the cycle (R271). -/
def State.recount (s : State) (n : TimerNo) : State :=
  (unitsOf n).foldl (fun s u =>
    s.modUnit u (fun x => if x.capAt = some s.now then { x with capCnt := (s.timer n).cnt } else x)) s

/-- A reload write that was presented in the previous cycle enters the buffer; a top cycle loads it (R262, R263). -/
def State.landReload (s : State) (n : TimerNo) (v : Word) : State :=
  let s := s.setReg (.timReload n) v
  if (s.timer n).topDue then s.modTimer n (fun t => { t with cnt := rldValue v }) else s

/-- A start of the timer falls in this cycle (R276). -/
def State.startsNow (s : State) (n : TimerNo) : Bool :=
  s.gstarts.any (fun e => e.2.mask.contains n.val && s.startDue (fin 8 e.1))

/-- A reload write presented in the previous cycle shortens the period in this one where PIMM = 1 (R270); in a cycle in which the
timer starts it only fills the buffer (Table TIM-9). -/
def State.landJump (s : State) (n : TimerNo) (v : Word) : State :=
  let t := s.timer n
  if t.topDue || !t.counted || !bit (s.reg (.timCtl n)) 30 || s.startsNow n then s
  else if t.up then
    (if v.toNat ≤ t.cnt.toNat then
      let s := (s.setTimer n { t with trunc := some s.now }).catchUp n t.cnt.toNat
      (s.modTimer n (fun t => { t with topDue := true, valleyDue := false, cnt := rldValue v, up := false })).recount n
     else s)
  else
    (if v.toNat < t.cnt.toNat then
      let s := (s.setTimer n { t with trunc := some s.now, cnt := v }).catchSkipped n t.cnt.toNat v.toNat
      (if s.isDual n && decide (v = 0) then s.modTimer n (fun t => { t with valleyDue := true, up := true }) else s).recount n
     else s)

/-- A compare value that reaches the preload. -/
def State.landPreload (s : State) (u : UnitNo) (c : Word) (f : BitVec 5) : State :=
  s.modUnit u (fun x => { x with preload := c, preFine := f })

/-- An immediate value that reaches the comparator in this cycle, with the catch of R269; where the timer starts in this cycle,
it is matched on the slope that begins (Table TIM-9). -/
def State.landActive (s : State) (u : UnitNo) (c : Word) (f : BitVec 5) : State :=
  let s := s.modUnit u (fun x => { x with act := c, actFine := f })
  let t := s.timer (timerOf u)
  if t.topDue || t.valleyDue || !t.counted || s.startsNow (timerOf u) || !(s.canCatch u) || decide (t.r.toNat < c.toNat) then s
  else match matchPos (s.isDual (timerOf u)) t.up c f with
    | none => s
    | some p =>
      if t.up then (if decide (t.slopeFrom.toNat ≤ p) && decide (p < t.cnt.toNat) then s.unitCatch u else s)
      else (if decide (t.cnt.toNat < p) && decide (p ≤ t.slopeFrom.toNat) then s.unitCatch u else s)

/-- A unit whose FUNC is not 1 follows INIT (R267). -/
def State.landInit (s : State) (u : UnitNo) : State :=
  if s.ccFunc u = 1 then s
  else s.modUnit u (fun x => { x with
    src := s.ccInit u, srcFine := 0, forced := none
    actAt := if x.src = s.ccInit u then x.actAt else some s.now })

/-- A station's force reaches a unit with FUNC = 1 (R287). -/
def State.landForce (s : State) (u : UnitNo) : State :=
  if s.ccFunc u = 1 then s.modUnit u (fun x => { x with forced := some s.now }) else s

/-- TIM_CTL.RUN := 0, presented in this cycle (R264). -/
def State.timerHold (s : State) (n : TimerNo) : State := s.modTimer n (fun t => { t with run := false })

/-- TIM_CTL.RUN := 1: no effect on a running timer; a held one counts again four cycles later (R264). -/
def State.timerResume (s : State) (n : TimerNo) : State :=
  s.modTimer n (fun t => if t.run then t else { t with run := true, resumeAt := s.now + 4 })

/-- A write to TIM_CTL: the stored fields, then RUN. -/
def State.timCtlWrite (s : State) (n : TimerNo) (v : Word) : State :=
  let s := s.storeRw (.timCtl n) v
  if bit v 31 then s.timerResume n else s.timerHold n

/-- A write to TIM_CC_CTL: the fields, and the source of a unit that does not compare (R267). -/
def State.ccCtlWrite (s : State) (u : UnitNo) (v : Word) : State :=
  (s.storeRw (.timCcCtl u) v).schedule s.now prioUnit (.unitInit u)

/-! ### Capture (R271, R272) -/

/-- The fine time of an input transition. -/
def fineTime (time : DWord) (fine : BitVec 5) : DWord := (time <<< 5) ||| fine.setWidth 64

/-- A unit's event, when EVEN = 1. -/
def State.unitEvent (s : State) (u : UnitNo) : State := if s.ccEven u then s.pulseSoon (0x280 + u.val) else s

/-- A pair closes at fine time `ft`. -/
def UnitS.closePair (now : Nat) (x : UnitS) (ft : DWord) : UnitS :=
  let d := ft - x.capR
  let big := decide (0xFFFFFFFF < d.toNat)
  { x with
    capF := ft
    isOpen := false
    capW := if big then 0xFFFFFFFF else lo32 d
    wsat := if big then some now else x.wsat
    ovr := if x.valid then some now else x.ovr
    valid := true }

/-- A transition that capture unit `u` receives in this cycle. -/
def State.capture (s : State) (u : UnitNo) (rise : Bool) (ft : DWord) : State :=
  let cedge := fieldN (s.reg (.timCcCtl u)) 16 2
  let cnt := (s.timer (timerOf u)).cnt
  if s.ccFunc u = 2 then
    (if rise && decide (cedge % 2 = 1) then (s.modUnit u (fun x => { x with capR := ft, capCnt := cnt, capAt := some s.now })).unitEvent u
     else if !rise && decide (2 ≤ cedge) then (s.modUnit u (fun x => { x with capF := ft, capCnt := cnt, capAt := some s.now })).unitEvent u
     else s)
  else if s.ccFunc u = 3 then
    (if rise != decide (cedge % 2 = 1) then s.modUnit u (fun x => { x with capR := ft, capCnt := cnt, capAt := some s.now, isOpen := true })
     else if (s.unit u).isOpen then (s.modUnit u (fun x => x.closePair s.now ft)).unitEvent u
     else s)
  else s

/-- A read of TIM_CAPW clears VALID (R272). -/
def State.capwRead (s : State) (u : UnitNo) : State := s.modUnit u (fun x => { x with valid := false })

/-- A read of TIM_TBASE_LO fills the reader's holding register (R277). -/
def State.tbaseRead (s : State) (a : Agent) : State :=
  match a with
  | .thread t => s.modThr t (fun x => { x with tbaseHold := hi32 s.tbase })
  | a => { s with hostHold := mput 0 s.hostHold (s.bankOf a).val (hi32 s.tbase) }

/-! ### Starts (R275, R276) -/

/-- The timers that a bank's mask selects. -/
def State.maskTimers (s : State) (h : Host) : List Nat :=
  (List.range 256).filter (fun n => bit (s.reg (.timGstartMask h (fin 8 (n / 32)))) (n % 32))

/-- SRC and BELL of a host port's TIM_GSTART. -/
def State.startSet (s : State) (h : Host) (src : BitVec 2) (b : Bell) : State :=
  s.setReg (.timGstart h) (put 25 src.toNat ||| put 21 b.val)

/-- A write with GO = 1 to a host port's TIM_GSTART. SRC = 3 refuses the write, and so does an armed start; a refused write
changes no field but ERR (R275, R434). -/
def State.startArm (s : State) (h : Host) (src : BitVec 2) (b : Bell) : State :=
  if src = 3 then s.modGstart h (fun g => { g with err := 3 })
  else if (s.gstart h).armed then s.modGstart h (fun g => { g with err := 1 })
  else
    let at_ := join64 (s.reg (.timGstartAtLo h)) (s.reg (.timGstartAtHi h))
    (s.startSet h src b).setGstart h
      { armed := true, src := src, bell := b.val, mask := s.maskTimers h, at_ := at_, presented := s.now
        err := if decide (src = 2) && decide (at_.toNat < s.tbase.toNat + 4) then 2 else 0 }

/-- A write with CANCEL = 1. -/
def State.startCancel (s : State) (h : Host) : State := s.modGstart h (fun g => { g with armed := false })

/-- A write to TIM_GSTART: one with SRC = 3 is refused as a whole, and CANCEL acts alone. -/
def State.gstartWrite (s : State) (h : Host) (v : Word) : State :=
  let src := BitVec.ofNat 2 (fieldN v 25 2)
  let b : Bell := fin 16 (fieldN v 21 4)
  if src = 3 then s.modGstart h (fun g => { g with err := 3 })
  else if bit v 30 then (s.startSet h src b).startCancel h
  else if bit v 31 then s.startArm h src b
  else s.startSet h src b

/-- One timer loads and starts (R276). -/
def State.startTimer (s : State) (n : TimerNo) : State :=
  let w := s.reg (.timCtl n)
  let rb := s.reg (.timReload n)
  let ph := if bit w 26 then s.reg (.timPhase n) else rb
  let c := if rb.toNat < ph.toNat then rb else ph
  let dual := bit w 28
  let top := decide (c = rb)
  let valley := dual && !top && decide (c = 0)
  let s := s.modTimer n (fun t => { t with
    run := true, resumeAt := s.now, counted := true, cnt := c, r := rb, slopeFrom := c
    topDue := top, valleyDue := valley, up := dual && !top && (valley || bit w 27) })
  ((unitsOf n).foldl (fun s u =>
    (s.unitCopy u).modUnit u (fun x => { x with
      src := s.ccInit u, srcFine := 0, matched := false, matchAt := none
      actAt := if x.src = s.ccInit u then x.actAt else some s.now })) s).recount n

/-- TIMER_START: every selected timer loads and starts, and ARMED clears. -/
def State.timerStart (s : State) (h : Host) : State :=
  if s.startDue h then
    let mask := (s.gstart h).mask
    let s := s.modGstart h (fun g => { g with armed := false, mask := [] })
    mask.foldl (fun s n => s.startTimer (fin 256 n)) s
  else s

/-! ### The commands -/

/-- TIMER_TOP (R262). -/
def execTimerTop (n : TimerNo) (s : State) : Host.Outcome State Fault Refusal := .next (s.timerTop n)

/-- TIMER_VALLEY (R261). -/
def execTimerValley (n : TimerNo) (s : State) : Host.Outcome State Fault Refusal := .next (s.timerValley n)

/-- COMPARE_MATCH (R265). -/
def execCompareMatch (u : UnitNo) (s : State) : Host.Outcome State Fault Refusal := .next (s.compareMatch u)

/-- TIMER_RELOAD_WRITE (R263, R270). -/
def execTimerReloadWrite (a : Agent) (n : TimerNo) (v : Word) (s : State) : Host.Outcome State Fault Refusal :=
  .next (s.regWriteOut a false none (s.holds a kTimer n.val) (fun s => s.reloadBy a n v))

/-- COMPARE_WRITE (R268): a write to TIM_CC_VAL, with the fine value of TIM_CC_FV. -/
def execCompareWrite (a : Agent) (u : UnitNo) (v : Word) (s : State) : Host.Outcome State Fault Refusal :=
  .next (s.regWrite a (s.holds a kTimer (timerOf u).val)
    (fun s => s.compareBy a u v ((s.reg (.timCcFv u)).setWidth 5)))

/-- TIMER_HOLD (R264). -/
def execTimerHold (a : Agent) (n : TimerNo) (s : State) : Host.Outcome State Fault Refusal :=
  .next (s.regWrite a (s.holds a kTimer n.val) (fun s => s.timerHold n))

/-- TIMER_RESUME (R264). -/
def execTimerResume (a : Agent) (n : TimerNo) (s : State) : Host.Outcome State Fault Refusal :=
  .next (s.regWrite a (s.holds a kTimer n.val) (fun s => s.timerResume n))

/-- CC_CTL_WRITE (R267). -/
def execCcCtlWrite (a : Agent) (u : UnitNo) (v : Word) (s : State) : Host.Outcome State Fault Refusal :=
  .next (s.regWrite a (s.holds a kTimer (timerOf u).val) (fun s => s.ccCtlWrite u v))

/-- GLOBAL_START_ARM (R275). -/
def execGlobalStartArm (a : Agent) (src : BitVec 2) (b : Bell) (s : State) : Host.Outcome State Fault Refusal :=
  .next (s.regWrite a true (fun s => s.startArm (s.bankOf a) src b))

/-- GLOBAL_START_CANCEL (R275). -/
def execGlobalStartCancel (a : Agent) (s : State) : Host.Outcome State Fault Refusal :=
  .next (s.regWrite a true (fun s => s.startCancel (s.bankOf a)))

/-- TIMER_START (R276). -/
def execTimerStart (h : Host) (s : State) : Host.Outcome State Fault Refusal := .next (s.timerStart h)

end Sys2Proof.Machine
end

