-- ==== Sys2Proof/Machine/Pins.lean ====
section
/-! DEFINITION. The pin fabric (chapter 08): configuration, combiner and pads, edge queues, inputs, shifters, lines, hoists, locks and calibration. -/

namespace Sys2Proof.Machine

/-! ### Names and fields -/

/-- Channel `i` of a port. -/
def chanOf (p : PinPort) (i : Nat) : Chan := ⟨32 * p.val + i % 32, by omega⟩
/-- The port of a channel. -/
def portOf (c : Chan) : PinPort := ⟨c.val / 32, by omega⟩

/-- OSRC of a configuration word. -/
def cfgOsrc (w : Word) : Nat := fieldN w 0 4
/-- IKIND of a configuration word. -/
def cfgIkind (w : Word) : Nat := fieldN w 6 2
/-- IUNIT of a configuration word. -/
def cfgIunit (w : Word) : Nat := fieldN w 8 10
/-- TSEL of a configuration word. -/
def cfgTsel (w : Word) : UnitNo := fin 1024 (fieldN w 18 10)
/-- OEMODE of a configuration word. -/
def cfgOemode (w : Word) : Nat := fieldN w 4 2
/-- IINV of a configuration word. -/
def cfgIinv (w : Word) : Bool := bit w 29
/-- OINV of a configuration word. -/
def cfgOinv (w : Word) : Bool := bit w 28
/-- PIN_PAD.LOOP. -/
def padLoop (w : Word) : Nat := fieldN w 30 2
/-- PIN_PAD.GF. -/
def padGf (w : Word) : Nat := fieldN w 20 4
/-- PIN_PAD.DLY. -/
def padDly (w : Word) : BitVec 5 := (w >>> 15).setWidth 5

/-- The number of ones among four bits. -/
def ones4 (n : Nat) : Nat := n % 2 + n / 2 % 2 + n / 4 % 2 + n / 8 % 2

/-- A host, channel or thread may write a channel: its partition, and for a thread its ownership (R219). -/
def State.pinWritable (s : State) (a : Agent) (c : Chan) : Bool :=
  s.holds a kPin c.val && (match a with | .thread t => decide (s.pinOwner c = some t) | _ => true)

/-- A port has a channel in the access's partition (R220). -/
def State.portInside (s : State) (a : Agent) (p : PinPort) : Bool :=
  match s.agentPart a with
  | none => false
  | some h => s.holdsAny h kPin (32 * p.val) 32

/-- The bits of a port register that the access's partition holds (R220). -/
def State.portMask (s : State) (a : Agent) (p : PinPort) : Word :=
  (List.range 32).foldl (fun m i => if s.holds a kPin (32 * p.val + i) then m ||| bitw i else m) 0

/-- A word with the bit of each channel of a port for which `f` holds. -/
def State.portBits (s : State) (p : PinPort) (f : PinS → Bool) : Word :=
  (List.range 32).foldl (fun m i => if f (s.pin (chanOf p i)) then m ||| bitw i else m) 0

/-! ### Filtered levels (R247) -/

/-- F of a channel. A switch of IINV changes F, and what lines and hoists see of it, at once; R247 gives the delays of pad
transitions alone (log entry 45, DESIGN CHOICE). -/
def State.chF (s : State) (c : Chan) : Bool := let p := s.pin c; p.filt != cfgIinv p.cfg
/-- F one cycle later, as lines and hoists on ports see it; equally F of the previous cycle. -/
def State.chF1 (s : State) (c : Chan) : Bool := let p := s.pin c; p.f1 != cfgIinv p.cfg
/-- F two cycles later, as hoists on lines see it. -/
def State.chF2 (s : State) (c : Chan) : Bool := let p := s.pin c; p.f2 != cfgIinv p.cfg

/-- The channels whose governing set feeds a unit of a kind, lowest first (R225). -/
def State.feeders (s : State) (kind unit : Nat) : List Chan :=
  ((s.pins.filter (fun e => decide (cfgIkind e.2.cfg = kind) && decide (cfgIunit e.2.cfg = unit))).map (·.1)).map (fin 512 ·)

/-- The level a unit of a kind sees: one channel's F, or the policy of R225; 0 where none feeds it (R255). -/
def State.unitLevel (s : State) (kind unit : Nat) : Bool :=
  match s.feeders kind unit with
  | [] => false
  | [c] => s.chF c
  | c :: rest =>
    if s.strict.contains (portOf c).val then bit (s.pin c).padCfg 24
    else (c :: rest).any (fun d => s.chF d)

/-- A channel stands in an output or an input conflict (R223, R225). -/
def State.conflict (s : State) (c : Chan) : Bool :=
  let w := (s.pin c).cfg
  decide (2 ≤ ones4 (cfgOsrc w)) ||
  ((decide (cfgIkind w = 1) || decide (cfgIkind w = 2)) && decide (2 ≤ (s.feeders (cfgIkind w) (cfgIunit w)).length))

/-! ### The combiner and the pad (R223 to R226) -/

/-- The channel is in its safe state (R229). -/
def PinS.safe (p : PinS) : Bool := bit p.padCfg 29 || p.lockSafe || !p.stnSafe.isEmpty

/-- The values of the enabled sources: latch, timer, edge queue and shifter in bits 0 to 3. -/
def PinS.sources (p : PinS) (timer : Bool) : Nat :=
  let o := cfgOsrc p.cfg
  (if p.latchV && decide (o % 2 = 1) then 1 else 0) + (if timer && decide (o / 2 % 2 = 1) then 2 else 0) +
  (if p.eLevel && !p.eZ && decide (o / 4 % 2 = 1) then 4 else 0) + (if p.shOutV && decide (o / 8 % 2 = 1) then 8 else 0)

/-- v and oe of the combiner outside a strict conflict; `old` is the value PAD_OUT held (R223). -/
def PinS.combine (p : PinS) (timer old : Bool) : Bool × Bool :=
  let o := cfgOsrc p.cfg
  if o = 0 then (old, false)
  else
    let v := decide (p.sources timer ≠ 0) != cfgOinv p.cfg
    let rel := decide (o = 4) && p.eZ
    (v, if cfgOemode p.cfg = 0 then !rel else if cfgOemode p.cfg = 1 then !rel && !v else if cfgOemode p.cfg = 2 then !rel && v else false)

/-- A default code of SAFE or DEFLT: 0 drives 0, 1 drives 1, 2 releases. -/
def driveCode (code : Nat) (old : Bool) : Bool × Bool :=
  if code = 0 then (false, true) else if code = 1 then (true, true) else (old, false)

/-- The combined output: what a strict conflict or the combiner gives (R223). -/
def PinS.combined (p : PinS) (strict timer : Bool) : Bool × Bool :=
  if 2 ≤ ones4 (cfgOsrc p.cfg) ∧ strict then (decide (fieldN p.padCfg 25 2 % 2 = 1), decide (fieldN p.padCfg 25 2 ≠ 2))
  else p.combine timer p.comb.1

/-- The row of Table PIN-3 in force. -/
def PinS.rowNow (p : PinS) (held strict : Bool) : Nat :=
  if held then 1
  else if padLoop p.padCfg = 1 ∨ padLoop p.padCfg = 2 then 2
  else if p.safe then 3
  else if 2 ≤ ones4 (cfgOsrc p.cfg) ∧ strict then 4
  else 5

/-- PAD_OUT and PAD_OE of a row (Table PIN-3). -/
def PinS.drive (p : PinS) (row : Nat) (timer : Bool) : Bool × Bool :=
  let old := p.pad.out
  if row = 1 then (if p.holdSafe then driveCode (fieldN p.padCfg 27 2) old else (false, false))
  else if row = 2 then (false, false)
  else if row = 3 then driveCode (fieldN p.padCfg 27 2) old
  else if row = 4 then (decide (fieldN p.padCfg 25 2 % 2 = 1), decide (fieldN p.padCfg 25 2 ≠ 2))
  else p.combine timer old

/-- The fine values of the sources: DLY, the timer's, the entry's, DLY (R224). -/
def PinS.fines (p : PinS) (timer : BitVec 5) : List (Nat × BitVec 5) :=
  [(1, padDly p.padCfg), (2, timer), (4, p.eFine), (8, padDly p.padCfg)]

/-- The smallest fine value among the sources that a mask marks. -/
def minFine (m : Nat) (l : List (Nat × BitVec 5)) : BitVec 5 :=
  l.foldl (fun f e => if m / e.1 % 2 = 1 ∧ e.2.toNat < f.toNat then e.2 else f) 31
/-- The largest fine value among the sources that a mask marks. -/
def maxFine (m : Nat) (l : List (Nat × BitVec 5)) : BitVec 5 :=
  l.foldl (fun f e => if m / e.1 % 2 = 1 ∧ f.toNat < e.2.toNat then e.2 else f) 0

/-- Where a transition of the OR of the sources is placed (R224); a release of the edge queue alone, or its end, at the fine value
of the entry that fired in cycle `c` (R244). -/
def PinS.place (p : PinS) (c now : Nat) (timer : BitVec 5) : BitVec 5 :=
  let was := p.srcs.toNat
  if was = 0 ∧ now ≠ 0 then minFine now (p.fines timer)
  else if was ≠ 0 ∧ now = 0 then maxFine was (p.fines timer)
  else if cfgOsrc p.cfg = 4 ∧ p.firedAt = some c then p.eFine
  else 0

/-- The pad of one channel at the end of a cycle: a change of row is placed at fine value 0 (R226). -/
def PinS.refresh (p : PinS) (now : Nat) (held strict timer : Bool) (tfine : BitVec 5) : PinS :=
  let row := p.rowNow held strict
  let d := p.drive row timer
  let src := p.sources timer
  let moved := decide (d ≠ (p.pad.out, p.pad.oe))
  let fine := if row = p.row.toNat ∧ row = 5 then p.place now src tfine else 0
  let comb := p.combined strict timer
  { p with
    row := BitVec.ofNat 3 row
    srcs := BitVec.ofNat 4 src
    comb := comb
    combAt := if comb = p.comb then p.combAt else some now
    pad := { out := d.1, oe := d.2, loop := decide (row ≥ 3) && decide (padLoop p.padCfg = 3)
             fine := if moved then fine else p.pad.fine } }

/-- The level that the input path takes: the pad's, or the channel's own combined value under LOOP 1 and 2 (R226). -/
def PinS.pathLevel (p : PinS) (timer strict : Bool) : Bool :=
  if padLoop p.padCfg = 1 ∨ padLoop p.padCfg = 2 then
    (if 2 ≤ ones4 (cfgOsrc p.cfg) ∧ strict then decide (fieldN p.padCfg 25 2 % 2 = 1) else (p.combine timer p.path).1)
  else p.level

/-! ### The input path (R247, R248) -/

/-- First place of the filter's landings within a cycle: they land in the order of time, fine value and channel (R225). -/
def prioInput : Nat := 8

/-- The place of a transition within its cycle. -/
def inputPrio (time : DWord) (fine : BitVec 5) (c : Chan) : Nat :=
  prioInput + (time.toNat * 32 + fine.toNat) * 512 + c.val

/-- A landing is the filter of channel `c`. -/
def Landing.filterOf (c : Chan) (x : Landing) : Bool :=
  match x.eff with | .pinFilter d _ _ _ => decide (c = d) | _ => false

/-- The level of a filter's landing. -/
def Landing.filterLevel (x : Landing) : Bool := match x.eff with | .pinFilter _ l _ _ => l | _ => false

/-- A transition of the input path in this cycle: a pending one that did not hold for GF cycles is rejected;
the new level reaches F in cycle e + 2 + GF (R247). -/
def State.pathChange (s : State) (c : Chan) (level : Bool) (fine : BitVec 5) : State :=
  let p := s.pin c
  let s := s.setPin c { p with path := level }
  let s := { s with agenda := s.agenda.filter (fun x =>
    !(x.filterOf c && (decide (s.now + 1 < x.due) || decide (x.issuedAt = s.now)))) }
  let expect := match (s.agenda.filter (Landing.filterOf c)).getLast? with
    | some x => x.filterLevel
    | none => p.filt
  if level = expect then s
  else s.schedule (s.now + 1 + padGf p.padCfg) (inputPrio s.tbase fine c) (.pinFilter c level s.tbase fine)

/-- PAD_INPUT_TRANSITION: PAD_IN takes a level; under LOOP 1 and 2 the path does not see it. -/
def State.padTransition (s : State) (c : Chan) (level : Bool) (fine : BitVec 5) : State :=
  let s := s.modPin c (fun p => { p with level := level })
  let p := s.pin c
  if (padLoop p.padCfg = 1 ∨ padLoop p.padCfg = 2) ∨ p.path = level then s else s.pathChange c level fine

/-- The pads at the end of a cycle, and the transitions that they return to their own input paths. -/
def State.padsRefresh (s : State) : State :=
  (s.pins.map (·.1)).foldl (fun s k =>
    let c := fin 512 k
    let p := s.pin c
    let strict := s.strict.contains (portOf c).val
    let u := cfgTsel p.cfg
    let q := p.refresh s.now (s.padHold || p.hold) strict (s.unitOut u) (s.unitFine u)
    let s := s.setPin c q
    let lvl := q.pathLevel (s.unitOut u) strict
    if lvl = q.path then s
    else s.pathChange c lvl (if padLoop q.padCfg = 2 then p.place s.now q.srcs.toNat (s.unitFine u) else 0)) s

/-! ### What F feeds -/

/-- A landing later in this cycle that changes channel `c`. -/
def State.laterLevel (s : State) (c : Chan) : Bool :=
  match s.agenda.find? (fun x => x.filterOf c && decide (x.due < s.now)) with
  | some x => x.filterLevel != cfgIinv (s.pin c).cfg
  | none => s.chF c

/-- The capture unit that channel `c` feeds sees a transition of F in this cycle (R225, R248). -/
def State.captureFrom (s : State) (c : Chan) (before : Bool) (ft : DWord) : State :=
  let w := (s.pin c).cfg
  if cfgIkind w ≠ 1 then s
  else
    let u := cfgIunit w
    match s.feeders 1 u with
    | [] => s
    | [_] => s.capture (fin 1024 u) (s.chF c) ft
    | d :: rest =>
      if s.strict.contains (portOf d).val then s
      else
        let all := d :: rest
        let init := all.any (fun e => s.chF1 e)
        let final := all.any (fun e => s.laterLevel e)
        let prior := all.any (fun e => if e = c then before else s.chF e)
        let now := all.any (fun e => s.chF e)
        if !init && final then (if !prior && now then s.capture (fin 1024 u) true ft else s)
        else if init && !final then (if prior && !now then s.capture (fin 1024 u) false ft else s)
        else s

/-- F of a channel takes a new level in this cycle: capture, then the record at the end of the next cycle
and what lines and hoists see (R247, R248). -/
def State.landFilter (s : State) (c : Chan) (level : Bool) (time : DWord) (fine : BitVec 5) : State :=
  let before := s.chF c
  let s := s.modPin c (fun p => { p with filt := level })
  let f := s.chF c
  let s := s.captureFrom c before (fineTime time fine)
  let rec_ := fieldN (s.pin c).padCfg 13 2
  let s := if (f && decide (rec_ % 2 = 1)) || (!f && decide (2 ≤ rec_)) then
      s.schedule (s.now + 1) prioUnit (.pinRecord c f time fine) else s
  (s.schedule s.now prioUnit (.pinF1 c level)).schedule (s.now + 1) prioUnit (.pinF2 c level)

/-- An edge record (Table PIN-7). -/
def edgeRecord (level lost : Bool) (time : DWord) (fine : BitVec 5) : DWord :=
  (time <<< 8) ||| (fine.setWidth 64 <<< 3) ||| (if level then 4 else 0) ||| (if lost then 2 else 0) ||| 1

/-- A record is stored, or dropped where eight are queued (R248). -/
def State.landRecord (s : State) (c : Chan) (level : Bool) (time : DWord) (fine : BitVec 5) : State :=
  s.modPin c (fun p =>
    if 8 ≤ p.recs.length then { p with recLost := true, recOvf := some (s.now - 1) }
    else { p with recs := p.recs ++ [edgeRecord level p.recLost time fine], recLost := false })

/-- EDGER removes the oldest record; an empty queue yields 0 (R249). -/
def State.popRecord (s : State) (c : Chan) : DWord × State :=
  match (s.pin c).recs with
  | [] => (0, s)
  | r :: rest => (r, s.modPin c (fun p => { p with recs := rest }))

/-! ### Lines and hoists (R253, R254) -/

/-- The channel that a line carries, where it lies in the line's partition. -/
def State.lineChan (s : State) (k : LineNo) : Option Chan :=
  let c := chanOf (fin 16 (fieldN (s.reg (.pinLine k)) 0 4)) (k.val % 32)
  if (s.partOf kLine k.val).isSome ∧ s.partOf kPin c.val = s.partOf kLine k.val then some c else none

/-- The level of a line, as its event source sees it. -/
def State.lineLevel (s : State) (k : LineNo) : Bool := match s.lineChan k with | some c => s.chF1 c | none => false
/-- The level of a line, as a hoist sees it. -/
def State.lineLevel2 (s : State) (k : LineNo) : Bool := match s.lineChan k with | some c => s.chF2 c | none => false

/-- PIN_LINE.MODE. -/
def State.lineMode (s : State) (k : LineNo) : Nat := fieldN (s.reg (.pinLine k)) 4 3

/-- The line's source is high as a level (modes 4 and 5). -/
def State.lineHigh (s : State) (k : LineNo) : Bool :=
  (decide (s.lineMode k = 4) && s.lineLevel k) || (decide (s.lineMode k = 5) && !s.lineLevel k)

/-- Lines see a transition of a channel one cycle after F (R247). -/
def State.landF1 (s : State) (c : Chan) (level : Bool) : State :=
  let s := s.modPin c (fun p => { p with f1 := level })
  let up := s.chF1 c
  (List.finRange 2).foldl (fun s j =>
    let k : LineNo := ⟨32 * j.val + c.val % 32, by omega⟩
    if s.lineChan k = some c ∧ ((up = true ∧ s.lineMode k = 1) ∨ (up = false ∧ s.lineMode k = 2) ∨ s.lineMode k = 3) then
      s.pulseSoon (0x100 + k.val) else s) s

/-- PIN_HCFG.MODE. -/
def State.hoistMode (s : State) (h : Hoist) : Nat := fieldN (s.reg (.pinHcfg h)) 0 2

/-- X of a hoist. -/
def State.hoistX (s : State) (h : Hoist) : Word :=
  let w := s.reg (.pinHcfg h)
  if bit w 2 then
    (List.range 16).foldl (fun m i => if s.lineLevel2 (fin 64 (16 * fieldN w 8 2 + i)) then m ||| bitw i else m) 0
  else (List.range 32).foldl (fun m i => if s.chF1 (chanOf (fin 16 (fieldN w 4 4)) i) then m ||| bitw i else m) 0

/-- MASK of a hoist; bits 31 to 16 are ignored for lines. -/
def State.hoistMask (s : State) (h : Hoist) : Word :=
  if bit (s.reg (.pinHcfg h)) 2 then s.reg (.pinHmask h) &&& 0xFFFF else s.reg (.pinHmask h)

/-- MATCH of a hoist, the level of source 0x140 + h: modes 1 and 2 (R254). -/
def State.hoistHigh (s : State) (h : Hoist) : Bool :=
  let y := (s.hoistX h ^^^ s.reg (.pinHpat h)) &&& s.hoistMask h
  (decide (s.hoistMode h = 1) && decide (y = 0)) || (decide (s.hoistMode h = 2) && decide (y ≠ 0))

/-- One hoist in a cycle: MATCH of modes 1 and 2, the pulse of mode 3, and PIN_HSNAP. -/
def State.hoistStep (s : State) (h : Hoist) : State :=
  let x := s.hoistX h
  let m := s.hoistMask h
  let o := s.hoist h
  let hit := s.hoistHigh h
  let any := decide (s.hoistMode h = 3) && decide (x &&& m ≠ o.prev)
  let s := s.setHoist h { isMatch := hit, prev := x &&& m
                          snap := if (hit && !o.isMatch) || any then x else o.snap }
  if any then s.pulseSoon (0x140 + h.val) else s

/-- Every hoist that is configured or has been. -/
def State.hoistsStep (s : State) : State :=
  (List.finRange 32).foldl (fun s h =>
    if s.reg (.pinHcfg h) = 0 ∧ s.reg (.pinHmask h) = 0 ∧ s.hoist h = { } then s else s.hoistStep h) s

/-! ### Edge queues (R243 to R246) -/

/-- A level byte and time as an entry. -/
def edgeEnt (time : DWord) (lvl : Byte) : EdgeEnt :=
  { time := time, fine := (lvl >>> 2).setWidth 5, level := lvl.getLsbD 0, z := lvl.getLsbD 1 }

/-- The staged entries of a channel. -/
def State.stagedEdges (s : State) (c : Chan) : Nat :=
  (s.staged.filter (fun e => match e.2 with | .edge d _ _ => decide (c = d) | _ => false)).length

/-- An entry enters a channel's queue; one too many is dropped (R246). The next cycle is `s.now`. -/
def State.landEdge (s : State) (c : Chan) (time : DWord) (lvl : Byte) : State :=
  let p := s.pin c
  if 4 ≤ p.eq.length + s.stagedEdges c then s.setPin c { p with eqOvf := some (s.now - 1) }
  else s.setPin c { p with
    eq := p.eq ++ [edgeEnt time lvl]
    headAt := if p.eq.isEmpty then s.now else p.headAt
    lateAt := if p.eq.isEmpty then none else p.lateAt }

/-- A thread's EDGEQ: staged by a class member (R202, R204), else appended in its c7. -/
def State.edgeBy (s : State) (t : Tid) (c : Chan) (time : DWord) (lvl : Byte) : State :=
  if (s.classOf t).isSome then
    (if 4 ≤ (s.pin c).eq.length + s.stagedEdges c then s.modPin c (fun p => { p with eqOvf := some s.now })
     else s.stage t (.edge c time lvl))
  else s.schedule (s.now + 1) prioUnit (.eqAppend c time lvl)

/-- FLUSH drops every queued entry. -/
def State.landFlush (s : State) (c : Chan) : State := s.modPin c (fun p => { p with eq := [], lateAt := none })

/-- The edge-queue source takes an entry's level at a fine value. -/
def PinS.fire (p : PinS) (now : Nat) (e : EdgeEnt) (fine : BitVec 5) : PinS :=
  { p with eLevel := e.level, eZ := e.z, eFine := fine, firedAt := some now }

/-- The head entries in one cycle. `fresh`: the head became the head in this cycle (R244); an entry whose
time a step of TBASE passed is late in that cycle, and one whose time `skip` a forward slew passed over fires as on time
(R245). -/
def PinS.edgeRun (fireLate : Bool) (skip : Option Nat) (tb now : Nat) : PinS → Bool → List EdgeEnt → PinS
  | p, _, [] => { p with eq := [], lateAt := none }
  | p, fresh, e :: rest =>
    if p.lateAt = some now then PinS.edgeRun fireLate skip tb now { p.fire now e 0 with lateAt := none } true rest
    else if p.lateAt.isSome then { p with eq := e :: rest }
    else if fresh ∧ e.time.toNat < tb + 2 then
      (if fireLate then { p with eq := e :: rest, headAt := now, late := some now, lateAt := some (now + 2) }
       else PinS.edgeRun fireLate skip tb now { p with late := some now } true rest)
    else if e.time.toNat = tb ∨ (skip = some e.time.toNat ∧ ¬fresh) then PinS.edgeRun fireLate skip tb now (p.fire now e e.fine) true rest
    else if e.time.toNat < tb then
      PinS.edgeRun fireLate skip tb now (if fireLate then { p.fire now e 0 with late := some now } else { p with late := some now }) true rest
    else { p with eq := e :: rest, headAt := if fresh then now else p.headAt }

/-- One channel's edge queue in this cycle, in which a forward slew has passed over the time `skip`. -/
def State.edgeRuns (skip : Option Nat) (s : State) (c : Chan) : State :=
  s.modPin c (fun p =>
    PinS.edgeRun (bit (s.reg (.pinPad c)) 10) skip s.tbase.toNat s.now p (decide (p.headAt = s.now)) p.eq)

/-- One channel's edge queue in this cycle. -/
def State.edgeStep (s : State) (c : Chan) : State := s.edgeRuns none c

/-- The head of a channel's queue fires or is judged in this cycle. -/
def State.edgeDue (s : State) (c : Chan) : Bool :=
  let p := s.pin c
  match p.eq with
  | [] => false
  | e :: _ =>
    if p.lateAt.isSome then decide (p.lateAt = some s.now)
    else decide (e.time.toNat ≤ s.tbase.toNat) || (decide (p.headAt = s.now) && decide (e.time.toNat < s.tbase.toNat + 2))

/-- The channels whose queue acts in this cycle. -/
def State.edgesDue (s : State) : List Chan := ((s.pins.map (·.1)).map (fin 512 ·)).filter s.edgeDue

/-- A movement of TBASE is judged by every head entry at once (R245). -/
def State.edgesMoved (s : State) (skip : Option Nat) : State := s.edgesDue.foldl (State.edgeRuns skip) s

/-! ### Shifters (R250 to R252) -/

/-- The shifter of a channel shifts out. -/
def State.shiftsOut (s : State) (c : Chan) : Bool := decide (8 ≤ cfgOsrc (s.pin c).cfg)
/-- The shifter of a channel shifts in. -/
def State.shiftsIn (s : State) (c : Chan) : Bool := decide (cfgIkind (s.pin c).cfg = 3)

/-- F of a channel rises (`up`) or falls in this cycle. -/
def State.edgeOfF (s : State) (c : Chan) (up : Bool) : Bool :=
  (s.chF c == up) && (s.chF1 c != up)

/-- A shifter acts in this cycle: a boundary, or the sample point of its bit. -/
def State.shiftDue (s : State) (c : Chan) : Bool :=
  let w := s.reg (.pinShcfg c)
  let d := fieldN w 0 12 + 1
  let clk := fieldN w 28 2
  bit w 31 && decide ((s.pin c).shAt ≠ some s.now) && (s.shiftsOut c || s.shiftsIn c) &&
  (if clk = 0 then decide (s.tbase.toNat % d = if s.shiftsIn c then d / 2 else 0)
   else if clk = 1 ∨ clk = 2 then s.edgeOfF (chanOf (portOf c) (fieldN w 23 5)) (decide (clk = 1))
   else false)

/-- Bit `i` of eight in shifting order. -/
def shiftBit (v : Byte) (msbf : Bool) (i : Nat) : Bool := v.getLsbD (if msbf then 7 - i else i)

/-- Shift out one bit (R251). `shCnt` counts the bits still to be presented. -/
def PinS.shiftOut (p : PinS) (msbf idle : Bool) : PinS :=
  if 0 < p.shCnt then { p with shOut := shiftBit p.shReg msbf (8 - p.shCnt), shCnt := p.shCnt - 1 }
  else match p.shHold with
    | some b => { p with shReg := b, shHold := none, shOut := shiftBit b msbf 0, shCnt := 7 }
    | none => { p with shOut := idle }

/-- Shift in one bit (R252). `shCnt` counts the bits received. -/
def PinS.shiftIn (now : Nat) (p : PinS) (msbf level : Bool) : PinS :=
  let v : Byte := if msbf then (p.shReg <<< 1) ||| (if level then 1 else 0) else (p.shReg >>> 1) ||| (if level then 0x80 else 0)
  if 7 ≤ p.shCnt then { p with shReg := 0, shCnt := 0, rx := v, rxv := some now, shOvr := if p.rxv.isSome then some now else p.shOvr }
  else { p with shReg := v, shCnt := p.shCnt + 1 }

/-- SHIFTER_BOUNDARY: the bit reaches the pad under R232. -/
def State.shiftStep (s : State) (c : Chan) : State :=
  if s.shiftDue c then
    let w := s.reg (.pinShcfg c)
    let s := s.modPin c (fun p => { p with shAt := some s.now })
    if s.shiftsOut c then
      let s := s.modPin c (fun p => p.shiftOut (bit w 30) (bit w 22))
      s.schedule (s.now + 2) prioUnit (.pinShift c (s.pin c).shOut)
    else s.modPin c (fun p => p.shiftIn s.now (bit w 30) (s.chF c))
  else s

/-- A byte written to PIN_SHD (R251). -/
def State.shdWrite (s : State) (c : Chan) (v : Byte) : State :=
  s.modPin c (fun p => if p.shHold.isSome then { p with shOvr := some s.now } else { p with shHold := some v })

/-- A write to PIN_SHCFG: LK fields; CLK = 3 is refused; EN from 0 to 1 empties the shifter (R250). -/
def State.shcfgWrite (s : State) (c : Chan) (v : Word) : State :=
  if (s.pin c).locked then s.modPin c (fun p => { p with lockViol := some s.now })
  else if fieldN v 28 2 = 3 then s.modPin c (fun p => { p with cfgErr := some s.now })
  else
    let rise := bit v 31 && !bit (s.reg (.pinShcfg c)) 31
    let s := s.storeRw (.pinShcfg c) v
    if rise then s.modPin c (fun p => { p with shReg := 0, shCnt := 0, shHold := none, rx := 0, rxv := none }) else s

/-! ### Level sources of the ports (Table PIN-8) -/

/-- Source 0x160 + p. -/
def State.portRecHigh (s : State) (p : PinPort) : Bool :=
  (List.range 32).any (fun i =>
    let c := chanOf p i
    bit (s.reg (.pinPad c)) 12 &&
    (!(s.pin c).recs.isEmpty || (s.shiftsIn c && bit (s.reg (.pinShcfg c)) 31 && (s.pin c).rxv.isSome)))

/-- Source 0x170 + p. -/
def State.portEqHigh (s : State) (p : PinPort) : Bool :=
  (List.range 32).any (fun i =>
    let c := chanOf p i
    bit (s.reg (.pinPad c)) 11 &&
    ((decide ((s.pin c).eq = []) && decide (s.stagedEdges c = 0)) ||
     (s.shiftsOut c && bit (s.reg (.pinShcfg c)) 31 && (s.pin c).shHold.isNone)))

/-! ### Latches (R230 to R232) -/

/-- A latch bit takes a value; the pad follows in w + 3. -/
def State.latchTo (s : State) (c : Chan) (v : Bool) : State :=
  (s.modPin c (fun p => { p with latch := v })).schedule (s.now + 2) prioUnit (.pinLatch c v)

/-- Latch bits of a port by a mask: `f` gives the new value from the channel's place and its old value. -/
def State.latchPort (s : State) (p : PinPort) (mask : Word) (f : Nat → Bool → Bool) : State :=
  (List.range 32).foldl (fun s i =>
    if bit mask i then s.latchTo (chanOf p i) (f i (s.pin (chanOf p i)).latch) else s) s

/-- PIN_SET, PIN_CLR and PIN_TGL by an agent, within its partition (R220). -/
def State.latchWrite (s : State) (a : Agent) (p : PinPort) (v : Word) (f : Bool → Bool) : State :=
  s.latchPort p (v &&& s.portMask a p) (fun _ b => f b)

/-- PINWR and PINWRS of a thread: bits of channels that it does not own set PIN_OWNIGN (R219, R231); a class
member's PINWRS is staged. -/
def State.pinwr (s : State) (t : Tid) (p : PinPort) (mask v : Word) (staged : Bool) : State :=
  (List.range 32).foldl (fun s i =>
    let c := chanOf p i
    if bit mask i && s.holds (.thread t) kPin c.val then
      (if s.pinOwner c = some t then
        (if staged && (s.classOf t).isSome then s.stage t (.pin c (bit v i)) else s.latchTo c (bit v i))
       else s.modPin c (fun q => { q with ownIgn := some s.now }))
    else s) s

/-! ### Configuration sets and switches (R221, R222, R233 to R235) -/

/-- A set may be live on a channel (R222). -/
def State.setOk (s : State) (c : Chan) (w : Word) : Bool :=
  let part := s.partOf kPin c.val
  decide (cfgOemode w ≠ 3) && !(decide (8 ≤ cfgOsrc w) && decide (cfgIkind w = 3)) &&
  !(decide (cfgIkind w = 2) && decide (63 < cfgIunit w)) &&
  !(decide (cfgOsrc w / 2 % 2 = 1) && decide (s.partOf kTimer ((cfgTsel w).val / 4) ≠ part)) &&
  !(decide (cfgIkind w = 1) && decide (s.partOf kTimer (cfgIunit w / 4) ≠ part)) &&
  !(decide (cfgIkind w = 2) && decide (s.partOf kSinc (cfgIunit w) ≠ part))

/-- The set number of a Bool. -/
def setNo (b : Bool) : Fin 2 := if b then 1 else 0

/-- A write that a lock makes ineffective (R238). -/
def State.lockHit (s : State) (c : Chan) : State := s.modPin c (fun p => { p with lockViol := some s.now })

/-- A write to a configuration set (R222, R234). -/
def State.fcfgWrite (s : State) (c : Chan) (set : Bool) (v : Word) : State :=
  let p := s.pin c
  let w := v &&& (Reg.pinFcfg c 0).rw
  if p.locked then s.lockHit c
  else if (match p.pend with | some (q, _) => q == set | none => false) then s.setPin c { p with swErr := 3 }
  else if p.live = set then
    (if s.setOk c w then
      ((s.setReg (.pinFcfg c (setNo set)) w).modPin c (fun p => { p with swErr := 0 })).schedule (s.now + 2) prioUnit (.pinGovern c w)
     else s.setPin c { p with swErr := 2, cfgErr := some s.now })
  else s.setReg (.pinFcfg c (setNo set)) w

/-- The live set changes by a write presented in this cycle, or by a bell of this cycle. -/
def State.switchTo (s : State) (c : Chan) (set : Bool) : State :=
  (s.schedule s.now prioUnit (.pinLive c set)).schedule (s.now + 2) prioUnit
    (.pinGovern c (s.reg (.pinFcfg c (setNo set))))

/-- A switch request (R233). -/
def State.switchGo (s : State) (c : Chan) (staged set : Bool) (cls : Bell) : State :=
  let p := s.pin c
  if p.locked then (s.setPin c { p with swErr := 1 }).lockHit c
  else if !staged && decide (p.live = set) then s.setPin c { p with swErr := 0 }
  else if !s.setOk c (s.reg (.pinFcfg c (setNo set))) then s.setPin c { p with swErr := 2, cfgErr := some s.now }
  else if staged then s.setPin c { p with swErr := 0, pend := some (set, cls) }
  else (s.setPin c { p with swErr := 0, pend := none }).switchTo c set

/-- CANCEL removes a pending switch. -/
def State.switchCancel (s : State) (c : Chan) : State := s.modPin c (fun p => { p with pend := none })

/-- A write to PIN_SWITCH: CANCEL wins over GO. -/
def State.switchWrite (s : State) (c : Chan) (v : Word) : State :=
  if bit v 27 then s.switchCancel c
  else if bit v 31 then s.switchGo c (bit v 5) (bit v 4) (fin 16 (fieldN v 0 4))
  else s

/-- PIN_SWITCH as read. -/
def State.switchWord (s : State) (c : Chan) : Word :=
  let p := s.pin c
  flagAt 30 p.pend.isSome ||| put 28 p.swErr.toNat ||| flagAt 26 p.live |||
  (match p.pend with | some (q, b) => flagAt 25 q ||| put 21 b.val | none => 0)

/-! ### Owners and pad settings -/

/-- The channel changes its owner: the safe state of a lockup follows the new owner's, at the pad 3 cycles later (R229; the spec
dates neither, log entry 45, DESIGN CHOICE). -/
def State.ownerMoved (s : State) (c : Chan) (old : Option Tid) : State :=
  let t := s.pinOwner c
  if t = old then s
  else
    let on := match t with | some t => decide ((s.thr t).st = .lockup) | none => false
    { s with agenda := s.agenda.filter (fun x => match x.eff with | .pinLockSafe d _ => decide (d ≠ c) | _ => true) }.schedule
      (s.now + 2) prioUnit (.pinLockSafe c on)

/-- A write to PIN_OWNER (R218, R237). -/
def State.ownerWrite (s : State) (c : Chan) (v : Word) : State :=
  let p := s.pin c
  if p.locked then s.lockHit c
  else if bit v 31 && decide (s.partOf kThread (fieldN v 0 7) ≠ s.partOf kPin c.val) then s.setPin c { p with cfgErr := some s.now }
  else (s.storeRw (.pinOwner c) v).ownerMoved c (s.pinOwner c)

/-- The bits of PIN_PAD that a lock freezes: all but FSAFE, RECIE, EQIE and LATEFIRE. -/
def padLk : Word := 0xDFFFE000

/-- A write to PIN_PAD (R227, R229, R232, R237, R434). -/
def State.padWrite (s : State) (c : Chan) (v : Word) : State :=
  let p := s.pin c
  let old := s.reg (.pinPad c)
  let ownerBusy := match s.pinOwner c with | some t => decide ((s.thr t).st ≠ .maint) | none => false
  if fieldN v 27 2 = 3 ∨ fieldN v 25 2 = 3 ∨ (padLoop v ≠ 0 ∧ ownerBusy = true) then s.setPin c { p with cfgErr := some s.now }
  else
    let w := if p.locked then (old &&& padLk) ||| (v &&& ~~~padLk) else v
    let s := s.storeRw (.pinPad c) w
    let s := if p.locked && decide (v &&& padLk ≠ old &&& padLk) then s.lockHit c else s
    s.schedule (s.now + 2) prioUnit (.pinPadIn c (s.reg (.pinPad c)))

/-- A write to PIN_POLICY: frozen while a channel of the port is locked (R237). -/
def State.policyWrite (s : State) (p : PinPort) (v : Word) : State :=
  if (List.range 32).any (fun i => (s.pin (chanOf p i)).locked) then
    (List.range 32).foldl (fun s i => if (s.pin (chanOf p i)).locked then s.lockHit (chanOf p i) else s) s
  else (s.storeRw (.pinPolicy p) v).schedule (s.now + 2) prioUnit (.pinStrict p (bit v 0))

/-- A write to PIN_LINE: MODE 6 or 7 is refused (R253). -/
def State.lineWrite (s : State) (k : LineNo) (v : Word) : State :=
  if 6 ≤ fieldN v 4 3 then s else s.storeRw (.pinLine k) v

/-! ### Locks (R236 to R238) -/

/-- The third key locks the selected channels of a port that lie in the host's partition; a pending switch is cancelled. -/
def State.lockPort (s : State) (a : Agent) (p : PinPort) : State :=
  (List.range 32).foldl (fun s i =>
    let c := chanOf p i
    if bit (s.reg (.pinLocksel p)) i && s.holds a kPin c.val then
      s.modPin c (fun q => { q with locked := true, lockViol := if q.pend.isSome then some s.now else q.lockViol, pend := none })
    else s) s

/-- A key of the locking sequence from a host port: 1,024 SCLK are 2,048 cycles. -/
def State.lockKey (s : State) (a : Agent) (h : Host) (key : BitVec 16) (p : PinPort) : State :=
  let q := s.lockSeq
  let fits := decide (q.port.toNat = p.val) && decide (q.host = h) && decide (s.now - q.last ≤ 2048)
  let start : LockSeq := if key = 0x5EA1 then { step := 1, port := BitVec.ofNat 4 p.val, host := h, last := s.now } else { }
  if q.step = 1 ∧ key = 0xA15E ∧ fits = true then { s with lockSeq := { q with step := 2, last := s.now } }
  else if q.step = 2 ∧ key = 0x10C4 ∧ fits = true then { s with lockSeq := { } }.lockPort a p
  else { s with lockSeq := start }

/-- A write to PIN_LOCK: DMA writes are ignored. -/
def State.lockWrite (s : State) (a : Agent) (key : BitVec 16) (p : PinPort) : State :=
  match a with
  | .host h _ => s.lockKey a h key p
  | .block => s.lockKey a s.owner key p
  | _ => s

/-- The locking sequence has waited longer than 1,024 SCLK. -/
def State.lockSeqOver (s : State) : Bool := decide (s.lockSeq.step ≠ 0) && decide (2048 < s.now - s.lockSeq.last)

/-! ### Reset hold (R228) -/

/-- A channel stays held at the first bell after a reset: its owner is a member of another class. -/
def State.staysHeld (s : State) (c : Chan) (classes : List Nat) : Bool :=
  match s.pinOwner c with
  | none => false
  | some t => match s.classOf t with
    | none => false
    | some b => !(classes.contains b.val)

/-- The bells of `classes` release pads from the reset hold. -/
def State.landUnhold (s : State) (classes : List Nat) : State :=
  if s.padHold then
    (List.finRange 512).foldl (fun s c => if s.staysHeld c classes then s.modPin c (fun p => { p with hold := true }) else s)
      { s with padHold := false }
  else
    (s.pins.map (·.1)).foldl (fun s k =>
      let c := fin 512 k
      if (s.pin c).hold && !s.staysHeld c classes then s.modPin c (fun p => { p with hold := false }) else s) s

/-- The channels that a thread owns. -/
def State.ownedPins (s : State) (t : Tid) : List Chan := (List.finRange 512).filter (fun c => decide (s.pinOwner c = some t))

/-! ### Calibration (R240 to R242) -/

/-- Cycles of one second. -/
def State.secondCycles (s : State) : Nat := s.mhz * 500000

/-- The spare pair of a group has finished a pass of 32,768 FCLK. -/
def State.passEndDue (s : State) (g : CalGroup) : Bool :=
  !(s.cal g).passDone && decide ((s.cal g).startAt + 32768 ≤ s.now)

/-- CALIBRATION_PASS_END. -/
def State.passEnd (s : State) (g : CalGroup) : State :=
  if s.passEndDue g then s.modCal g (fun c => { c with passDone := true, last := mput 0 c.last 16 s.now }) else s

/-- A working pair has gone one second since its last calibration. -/
def State.pairOld (s : State) (g : CalGroup) : Bool :=
  (List.range 16).any (fun i => decide (s.secondCycles ≤ s.now - mget 0 (s.cal g).last i))

/-- CALIBRATION_STALE. -/
def State.calStale (s : State) (g : CalGroup) : State :=
  if s.pairOld g then s.modCal g (fun c => { c with stale := true }) else s

/-- The age in ms of the group's oldest calibration, saturating at 255. -/
def State.calAge (s : State) (g : CalGroup) : Nat :=
  let oldest := (List.range 16).foldl (fun m i => min m (mget 0 (s.cal g).last i)) s.now
  sat 255 (cyclesUs s.mhz (s.now - oldest) / 1000)

/-- A swap at the end of its bell's cycle; what it replaces is kept until c3 has shown that it stands (R241). -/
def State.landSwap (s : State) (g : CalGroup) : State :=
  let k := s.cal g
  if !k.passDone then s
  else
    let s := s.setCal g { k with
      next := (k.next + 1) % 16, passDone := false, startAt := s.now - 1
      last := mput 0 k.last k.next (mget 0 k.last 16)
      undo := some { at_ := s.now - 1, startAt := k.startAt, last := k.last, stale := k.stale } }
    s.modCal g (fun k => { k with stale := k.stale && s.pairOld g })

/-- Something happened in a cycle from `c` on. -/
def since (c : Nat) (x : Option Nat) : Bool := match x with | some a => decide (c ≤ a) | none => false

/-- At the end of c3 the swap of a channel whose combined output had a transition, or whose edge queue fired an entry, in c0 to c3
is undone: it is deferred to the next swap bell (R241). The registers show a deferred swap as made until then, as the block
cannot know in c0 what c1 to c3 bring (log entry 45, DESIGN CHOICE). -/
def State.swapSettle (s : State) (g : CalGroup) : State :=
  let k := s.cal g
  match k.undo with
  | none => s
  | some u =>
    let n := (k.next + 15) % 16
    let p := s.pin (fin 512 (16 * g.val + n))
    if since u.at_ p.combAt || since u.at_ p.firedAt then
      s.setCal g { k with next := n, passDone := true, startAt := u.startAt, last := u.last, stale := u.stale, undo := none }
    else
      let s := s.setCal g { k with undo := none }
      if (match s.drill.cur with | some d => decide (d.code = 0x06) && decide (d.arg0.toNat = g.val) && decide (0 < d.left) | none => false)
      then { s with drill := { s.drill with cur := s.drill.cur.map (fun d => { d with left := d.left - 1 }) } } else s

/-- The groups that swap at a bell of these classes (R240). -/
def State.swapGroups (s : State) (classes : List Nat) : List CalGroup :=
  (List.finRange 32).filter (fun g =>
    let w := s.reg (.pinCalg g)
    (s.cal g).passDone && bit w 7 && (bit w 6 || classes.contains (fieldN w 0 4)))

/-! ### Landings of the pads -/

/-- A latch value reaches the pad side. -/
def State.landLatch (s : State) (c : Chan) (v : Bool) : State := s.modPin c (fun p => { p with latchV := v })
/-- A shifter bit reaches the pad side. -/
def State.landShift (s : State) (c : Chan) (v : Bool) : State := s.modPin c (fun p => { p with shOutV := v })
/-- LIVE reads the new set. -/
def State.landLive (s : State) (c : Chan) (v : Bool) : State := s.modPin c (fun p => { p with live := v })
/-- A configuration word governs the channel from N + 1 on: the first transition that the new unit receives is one whose f is N + 1,
as R235 says; Table PIN-4 shows the next cycle (log entry 45, DEDUCED). -/
def State.landGovern (s : State) (c : Chan) (w : Word) : State := s.modPin c (fun p => { p with cfg := w })
/-- Pad settings govern the channel; a channel in a drill stays on the drill's path (R427). -/
def State.landPadIn (s : State) (c : Chan) (w : Word) : State :=
  s.modPin c (fun p => { p with padCfg := match p.drill with | some d => (w &&& 0x3FFFFFFF) ||| put 30 d.toNat | none => w })
/-- A port's policy governs. -/
def State.landStrict (s : State) (p : PinPort) (on : Bool) : State :=
  let l := s.strict.filter (fun q => decide (q < p.val))
  let r := s.strict.filter (fun q => decide (p.val < q))
  { s with strict := l ++ (if on then [p.val] else []) ++ r }
/-- The safe state of a lockup begins or ends at a pad. -/
def State.landLockSafe (s : State) (c : Chan) (on : Bool) : State := s.modPin c (fun p => { p with lockSafe := on })
/-- A station's safe action begins or ends at a pad. -/
def State.landStnSafe (s : State) (c : Chan) (st : Station) (on : Bool) : State :=
  s.modPin c (fun p =>
    let l := p.stnSafe.filter (fun q => decide (q ≠ st.val))
    { p with stnSafe := if on then st.val :: l else l })
/-- Hoists on lines see a transition of F. -/
def State.landF2 (s : State) (c : Chan) (v : Bool) : State := s.modPin c (fun p => { p with f2 := v })

/-! ### The commands -/

/-- PIN_OWNER_WRITE (R218). -/
def execPinOwnerWrite (a : Agent) (c : Chan) (v : Word) (s : State) : Host.Outcome State Fault Refusal :=
  .next (s.regWrite a (s.pinWritable a c) (fun s => s.ownerWrite c v))

/-- PIN_FCFG_WRITE (R222, R234). -/
def execPinFcfgWrite (a : Agent) (c : Chan) (set : Bool) (v : Word) (s : State) : Host.Outcome State Fault Refusal :=
  .next (s.regWrite a (s.pinWritable a c) (fun s => s.fcfgWrite c set v))

/-- PIN_SWITCH_GO (R233). -/
def execPinSwitchGo (a : Agent) (c : Chan) (staged set : Bool) (cls : Bell) (s : State) : Host.Outcome State Fault Refusal :=
  .next (s.regWriteOut a true (some c) (s.pinWritable a c) (fun s => s.switchGo c staged set cls))

/-- PIN_SWITCH_CANCEL (R233). -/
def execPinSwitchCancel (a : Agent) (c : Chan) (s : State) : Host.Outcome State Fault Refusal :=
  .next (s.regWriteOut a true (some c) (s.pinWritable a c) (fun s => s.switchCancel c))

/-- PIN_PAD_WRITE (R227). -/
def execPinPadWrite (a : Agent) (c : Chan) (v : Word) (s : State) : Host.Outcome State Fault Refusal :=
  .next (s.regWrite a (s.pinWritable a c) (fun s => s.padWrite c v))

/-- PIN_SET (R230). -/
def execPinSet (a : Agent) (p : PinPort) (v : Word) (s : State) : Host.Outcome State Fault Refusal :=
  .next (s.regWrite a (s.portInside a p) (fun s => s.latchWrite a p v (fun _ => true)))

/-- PIN_CLR (R230). -/
def execPinClr (a : Agent) (p : PinPort) (v : Word) (s : State) : Host.Outcome State Fault Refusal :=
  .next (s.regWrite a (s.portInside a p) (fun s => s.latchWrite a p v (fun _ => false)))

/-- PIN_TGL (R230). -/
def execPinTgl (a : Agent) (p : PinPort) (v : Word) (s : State) : Host.Outcome State Fault Refusal :=
  .next (s.regWrite a (s.portInside a p) (fun s => s.latchWrite a p v (fun b => !b)))

/-- PIN_LOCK (R236). -/
def execPinLock (a : Agent) (key : BitVec 16) (p : PinPort) (s : State) : Host.Outcome State Fault Refusal :=
  .next (s.regWrite a true (fun s => s.lockWrite a key p))

/-- PIN_LOCK_TIMEOUT (R236). -/
def execPinLockTimeout (s : State) : Host.Outcome State Fault Refusal :=
  .next (if s.lockSeqOver then { s with lockSeq := { } } else s)

/-- PIN_EQPUSH (R243): the entry time stands in PIN_EQT; the entry is appended in the next cycle. -/
def execPinEqpush (a : Agent) (c : Chan) (lvl : Byte) (s : State) : Host.Outcome State Fault Refusal :=
  .next (s.regWrite a (s.pinWritable a c) (fun s =>
    s.schedule (s.now + 1) prioUnit (.eqAppend c (join64 (s.reg (.pinEqtLo c)) (s.reg (.pinEqtHi c))) lvl)))

/-- FLUSH (R246). -/
def execFlush (a : Agent) (c : Chan) (s : State) : Host.Outcome State Fault Refusal :=
  .next (s.regWrite a (s.pinWritable a c) (fun s => s.schedule s.now prioUnit (.eqFlush c)))

/-- EDGE_ENTRY_FIRE (R244). -/
def execEdgeEntryFire (c : Chan) (s : State) : Host.Outcome State Fault Refusal :=
  .next (if s.edgeDue c then s.edgeStep c else s)

/-- PIN_SHD_WRITE (R251). -/
def execPinShdWrite (a : Agent) (c : Chan) (v : Byte) (s : State) : Host.Outcome State Fault Refusal :=
  .next (s.regWriteOut a false (some c) (s.pinWritable a c) (fun s => s.shdWrite c v))

/-- SHIFTER_BOUNDARY (R250). -/
def execShifterBoundary (c : Chan) (s : State) : Host.Outcome State Fault Refusal := .next (s.shiftStep c)

/-- PAD_INPUT_TRANSITION (R247). -/
def execPadInputTransition (c : Chan) (level : Bool) (fine : BitVec 5) (s : State) : Host.Outcome State Fault Refusal :=
  .next (s.padTransition c level fine)

/-- PIN_LINE_WRITE (R253). -/
def execPinLineWrite (a : Agent) (k : LineNo) (v : Word) (s : State) : Host.Outcome State Fault Refusal :=
  .next (s.regWrite a (s.holds a kLine k.val) (fun s => s.lineWrite k v))

/-- CALIBRATION_PASS_END (R240). -/
def execCalibrationPassEnd (g : CalGroup) (s : State) : Host.Outcome State Fault Refusal := .next (s.passEnd g)

/-- CALIBRATION_STALE (R242). -/
def execCalibrationStale (g : CalGroup) (s : State) : Host.Outcome State Fault Refusal := .next (s.calStale g)

end Sys2Proof.Machine
end

