-- ==== Sys2Proof/Machine/Sinc.lean ====
section
/-! DEFINITION. The sinc units (R255 to R257). -/

namespace Sys2Proof.Machine

/-- The order N of a unit: 3, or 4 with ORDER4 = 1 (R256). -/
def State.sincOrder (s : State) (n : SincNo) : Nat := if bit (s.reg (.sncCfg n)) 30 then 4 else 3
/-- D of a unit. -/
def State.sincD (s : State) (n : SincNo) : Nat := fieldN (s.reg (.sncCfg n)) 0 9

/-- A transition of the unit's external clock falls in this cycle (R255). -/
def State.sincEdge (s : State) (n : SincNo) : Bool :=
  let w := s.reg (.sncClk n)
  let mode := fieldN w 30 2
  (decide (mode = 1) || decide (mode = 2)) && s.edgeOfF (fin 512 (fieldN w 16 9)) (decide (mode = 1))

/-- The unit's clock samples in this cycle: every DIV + 1 cycles from EN, or at a transition of its clock channel. -/
def State.sincDue (s : State) (n : SincNo) : Bool :=
  let w := s.reg (.sncClk n)
  let x := s.sinc n
  bit (s.reg (.sncCfg n)) 31 && decide (x.lastSample ≠ some s.now) &&
  (if fieldN w 30 2 = 0 then
     decide (x.startAt < s.now) && decide ((s.now - x.startAt) % (fieldN w 0 12 + 1) = 0)
   else s.sincEdge n)

/-- An external transition within 3 cycles of the one before (R255). -/
def State.sincTooSoon (s : State) (n : SincNo) : Bool :=
  decide (fieldN (s.reg (.sncClk n)) 30 2 ≠ 0) &&
  (match (s.sinc n).lastSample with | some m => decide (s.now - m ≤ 3) | none => false)

/-- The integrators after one sample of +1 or -1, modulo 2^40: each adds the one before it as it stands
after this sample (R256). -/
def SincS.integrate (x : SincS) (one : Bool) : SincS :=
  let i1 := if one then x.i1 + 1 else x.i1 - 1
  let i2 := x.i2 + i1
  let i3 := x.i3 + i2
  { x with i1 := i1, i2 := i2, i3 := i3, i4 := x.i4 + i3 }

/-- SINC_SAMPLE. -/
def State.sincSample (s : State) (n : SincNo) : State :=
  if s.sincDue n then
    (if s.sincTooSoon n then s.modSinc n (fun x => { x with lastSample := some s.now, clkErr := some s.now })
     else
      let one := s.unitLevel 2 n.val
      s.modSinc n (fun x => { x.integrate one with
        count := x.count + 1, lastSample := some s.now, lastTime := s.tbase }))
  else s

/-- The differences of R256 over N stages: the result of stage N and the new stored values. -/
def SincS.comb (x : SincS) (n : Nat) : BitVec 40 × SincS :=
  let top := if n = 4 then x.i4 else x.i3
  let d1 := top - x.p1
  let d2 := d1 - x.p2
  let d3 := d2 - x.p3
  let d4 := d3 - x.p4
  (if n = 4 then d4 else d3,
   { x with p1 := top, p2 := d1, p3 := d2, p4 := if n = 4 then d3 else x.p4 })

/-- A signed number limited to 32 bits, and whether it was (R256). -/
def satWord (v : Int) : Word × Bool :=
  if v < -2147483648 then (0x80000000, true)
  else if 2147483647 < v then (0x7FFFFFFF, true)
  else (BitVec.ofInt 32 v, false)

/-- The shift of R256: to the right where SHIFT is not negative, else to the left. -/
def sincScale (raw : BitVec 40) (shift : BitVec 6) : Int :=
  let k := shift.toInt
  if 0 ≤ k then raw.toInt / 2 ^ k.toNat else raw.toInt * 2 ^ (-k).toNat

/-- A unit has its D samples. -/
def State.sincFull (s : State) (n : SincNo) : Bool :=
  bit (s.reg (.sncCfg n)) 31 && decide (0 < s.sincD n) && decide (s.sincD n ≤ (s.sinc n).count)

/-- SINC_DECIMATION: the result is written 3 cycles after the last sample (R257). -/
def State.sincDecimate (s : State) (n : SincNo) : State :=
  if s.sincFull n then
    let x := s.sinc n
    let order := s.sincOrder n
    let r := x.comb order
    let o := satWord (sincScale r.1 ((s.reg (.sncCfg n) >>> 24).setWidth 6))
    (s.setSinc n { r.2 with count := 0, results := sat 4 (x.results + 1) }).schedule (s.now + 2) prioUnit
      (.sincWrite n o.1 x.lastTime (decide (x.results < order)) o.2)
  else s

/-- A result is written (R257). -/
def State.landSinc (s : State) (n : SincNo) (v : Word) (time : DWord) (settle sat_ : Bool) : State :=
  (s.modSinc n (fun x => { x with
    data := v, ts := time, isNew := some s.now, ovr := if x.isNew.isSome then some s.now else x.ovr
    settle := settle, sat := if sat_ then some s.now else x.sat })).pulse (0x0C0 + n.val)

/-- A write to SNC_CFG: refused while EN = 1 unless it clears EN, and with DECIM outside 4 to 256 (R257); EN
from 0 to 1 clears the integrators and counts. -/
def State.sncCfgWrite (s : State) (n : SincNo) (v : Word) : State :=
  let d := fieldN v 0 9
  let on := bit (s.reg (.sncCfg n)) 31
  if (on && bit v 31) || decide (d < 4) || decide (256 < d) then s.modSinc n (fun x => { x with cfgErr := some s.now })
  else
    let s := s.storeRw (.sncCfg n) v
    if !on && bit v 31 then
      s.modSinc n (fun x => { x with
        i1 := 0, i2 := 0, i3 := 0, i4 := 0, p1 := 0, p2 := 0, p3 := 0, p4 := 0
        count := 0, results := 0, startAt := s.now, lastSample := none })
    else s

/-- A write to SNC_CLK: MODE 3 and a DIV below 3 are refused. -/
def State.sncClkWrite (s : State) (n : SincNo) (v : Word) : State :=
  if fieldN v 30 2 = 3 ∨ fieldN v 0 12 < 3 then s.modSinc n (fun x => { x with cfgErr := some s.now })
  else s.storeRw (.sncClk n) v

/-- SINC_SAMPLE (R255). -/
def execSincSample (n : SincNo) (s : State) : Host.Outcome State Fault Refusal := .next (s.sincSample n)

/-- SINC_DECIMATION (R256). -/
def execSincDecimation (n : SincNo) (s : State) : Host.Outcome State Fault Refusal := .next (s.sincDecimate n)

/-- SNC_CFG_WRITE (R257). -/
def execSncCfgWrite (a : Agent) (n : SincNo) (v : Word) (s : State) : Host.Outcome State Fault Refusal :=
  .next (s.regWrite a (s.holds a kSinc n.val) (fun s => s.sncCfgWrite n v))

end Sys2Proof.Machine
end

