-- ==== Sys2Proof/Machine/Trips.lean ====
section
/-! DEFINITION. Converter ports, trips and stations (R279 to R288). -/

namespace Sys2Proof.Machine

/-! ### Converter ports (R279 to R282) -/

/-- The sample word (R280). -/
def State.sampleWord (s : State) (n : Cvp) (data : BitVec 18) (tag : BitVec 6) : Word :=
  let w := s.reg (.cvpCfg n)
  let d := if bit w 30 then data ^^^ 0x20000 else data
  (d.setWidth 32 <<< 14) ||| (if bit w 29 then tag.setWidth 32 else 0)

/-- A converter port accepted a sample for a barrel in this cycle. -/
def CvpS.freshFor (x : CvpS) (now : Nat) (b : Barrel) : Bool :=
  decide (x.lastAt = some now) && (match x.queue.getLast? with | some e => decide (e.barrel = b) | none => false)

/-- k of R281: the samples for a barrel that are still unwritten, and those that have arrived in this cycle from a lower-numbered
port. -/
def State.unwritten (s : State) (b : Barrel) (n : Cvp) : Nat :=
  (s.cvps.map (fun e =>
    (e.2.queue.filter (fun x => decide (x.barrel = b))).length - (if e.2.freshFor s.now b && decide (n.val ≤ e.1) then 1 else 0))).sum +
  (s.agenda.filter (fun x => match x.eff with | .mailbox _ e _ => decide (e.barrel = b) | _ => false)).length

/-- The last sample of a port waits one cycle longer. -/
def CvpS.delay (x : CvpS) : CvpS :=
  match x.queue.getLast? with
  | some e => { x with queue := x.queue.dropLast ++ [{ e with writeAt := e.writeAt + 1 }] }
  | none => x

/-- A sample of this cycle from a lower-numbered port goes before those of the cycle from higher-numbered ports (R281). -/
def State.delayHigher (s : State) (b : Barrel) (n : Cvp) : State :=
  (s.cvps.filter (fun e => decide (n.val < e.1) && e.2.freshFor s.now b)).foldl (fun s e => s.modCvp (fin 32 e.1) CvpS.delay) s

/-- CONVERTER_SAMPLE: a strobe in this cycle (R279). -/
def State.converterSample (s : State) (n : Cvp) (data : BitVec 18) (tag : BitVec 6) : State :=
  let w := s.reg (.cvpCfg n)
  let x := s.cvp n
  if !bit w 31 then s.setCvp n { x with ign := some s.now }
  else if (match x.lastAt with | some m => decide (s.now < m + 15) | none => false) then s.setCvp n { x with close := some s.now }
  else
    let b : Barrel := fin 4 (fieldN w 27 2)
    let word := s.sampleWord n data tag
    let e : Sample := { word := word, tag := tag, time := s.tbase, writeAt := s.now + 3 + s.unwritten b n, barrel := b }
    (s.delayHigher b n).setCvp n { x with lastAt := some s.now, count := x.count + 1, last := word, queue := x.queue ++ [e] }

/-- The mailbox bytes of one sample (Table TIM-8). -/
def State.writeMailbox (s : State) (n : Cvp) (e : Sample) (count : Word) : State :=
  let base := 0x200 + 0x40 * n.val
  let slot := e.tag.toNat % 8
  let s := s.setDesks e.barrel (base + 4 * slot) (leBytes e.word.toNat 4)
  let s := s.setDesks e.barrel (base + 0x20) (leBytes e.time.toNat 8)
  let s := s.setDesks e.barrel (base + 0x28) (leBytes count.toNat 4)
  s.setDesks e.barrel (base + 0x2C) (leBytes (slot * 256 + e.tag.toNat) 4)

/-- A port's oldest sample lands by the end of cycle `x`. -/
def State.mailDue (s : State) (n : Cvp) (x : Nat) : Bool :=
  match (s.cvp n).queue with | e :: _ => decide (e.writeAt ≤ x) | [] => false

/-- MAILBOX_WRITE: the words of the oldest sample land at the end of this cycle, and the event pulses in the next (R281). -/
def State.mailboxWrite (s : State) (n : Cvp) : State :=
  match (s.cvp n).queue with
  | [] => s
  | e :: rest =>
    if e.writeAt ≤ s.now then
      let count := (s.cvp n).boxCount + 1
      let s := (s.modCvp n (fun x => { x with queue := rest, boxCount := count })).schedule s.now prioBox (.mailbox n e count)
      let s := s.modTurn e.barrel.val (fun x => { x with lastAt := some s.now })
      if bit (s.reg (.cvpCfg n)) (19 + e.tag.toNat % 8) then s.sourceAt s.now (0x0A0 + n.val)
      else s
    else s

/-- A write to CVP_CFG: EN from 0 to 1 clears the sample counts. -/
def State.cvpCfgWrite (s : State) (n : Cvp) (v : Word) : State :=
  let rise := bit v 31 && !bit (s.reg (.cvpCfg n)) 31
  let s := s.storeRw (.cvpCfg n) v
  if rise then s.modCvp n (fun x => { x with count := 0, boxCount := 0 }) else s

/-- A write of 1 to CVP_SWTRIG: CVn_TRIG is high in the next cycle (R282). -/
def State.cvpSwtrig (s : State) (n : Cvp) : State := s.schedule s.now prioUnit (.trigger n)

/-! ### Stations (R284 to R288) -/

/-- TRP_STN_CTL.ACTION. -/
def State.stnAction (s : State) (st : Station) : Nat := fieldN (s.reg (.trpStnCtl st)) 30 2
/-- The station holds trip `i` (TRP_STN_TMASK). -/
def State.stnHasTrip (s : State) (st : Station) (i : Nat) : Bool :=
  bit (s.reg (.trpStnTmask st (fin 4 (i / 32)))) (i % 32)

/-- The pins that the station acts on now (R284). -/
def State.stnPins (s : State) (st : Station) : List Nat :=
  let p : PinPort := fin 16 (fieldN (s.reg (.trpStnCtl st)) 24 4)
  ((List.range 32).filter (fun i =>
    bit (s.reg (.trpStnPins st)) i && (s.partOf kPin (32 * p.val + i)).isSome &&
    decide (s.partOf kPin (32 * p.val + i) = s.partOf kStation st.val))).map (32 * p.val + ·)

/-- The station's blanking window is open in this cycle (R285). -/
def State.blankOpen (s : State) (st : Station) : Bool :=
  let w := s.reg (.trpStnCtl st)
  let u : UnitNo := fin 1024 (fieldN w 0 10)
  bit w 28 &&
  ((match (s.stn st).blankEnd with | some e => decide (s.now < e) | none => false) ||
   (decide (0 < fieldN w 12 12) && (s.unitOut u != (s.unit u).old)))

/-- The onset of a station trip in this cycle (R285 to R288). -/
def State.stnOnset (s : State) (st : Station) : State :=
  let s := s.schedule s.now prioUnit (.stationCount st)
  if s.stnAction st = 1 then
    let pins := s.stnPins st
    let latch := bit (s.reg (.trpStnCtl st)) 29
    let s := s.modStn st (fun x => { x with latched := x.latched || latch, acted := x.acted ++ pins })
    pins.foldl (fun s c => s.schedule (s.now + 2) prioUnit (.pinStnSafe (fin 512 c) st true)) s
  else if s.stnAction st = 2 then
    ((List.finRange 256).filter (s.stnHoldsTimer st)).foldl (fun s n =>
      (unitsOf n).foldl (fun s u => s.schedule (s.now + 2) prioUnit (.unitForce u)) s) s
  else s

/-- The safe action of a station ends, with effect at the end of cycle `due` (R286). -/
def State.stnRelease (s : State) (st : Station) (due : Nat) : State :=
  let s' := (s.stn st).acted.foldl (fun s c => s.schedule due prioUnit (.pinStnSafe (fin 512 c) st false)) s
  s'.modStn st (fun x => { x with acted := [] })

/-- The station trip ended with the previous cycle: without LATCHED the safe state ends 3 cycles after that cycle. -/
def State.stnEnd (s : State) (st : Station) : State :=
  if (s.stn st).latched then s else s.stnRelease st (s.now + 1)

/-- The trips of a station that are active now. -/
def State.stnActive (s : State) (st : Station) : List Nat := (s.tripsIn.map (·.1)).filter (s.stnHasTrip st)

/-- A station at the end of a cycle (R285): its active trips count, but for those that do not count yet while its window is open;
with the first the station trip begins, with the last it has ended. -/
def State.stnJudge (s : State) (st : Station) : State :=
  let was := (s.stn st).counting
  let held := s.blankOpen st
  let l := (s.stnActive st).filter (fun i => !held || was.contains i)
  if l = was then s
  else
    let s := s.modStn st (fun x => { x with counting := l })
    if was = [] then s.stnOnset st else if l = [] then s.stnEnd st else s

/-- TRIP_ACTIVE in e0 (R283). -/
def State.tripOn (s : State) (i : TripNo) : State :=
  if mget false s.tripsIn i.val then s
  else
    { s with tripsIn := mput false s.tripsIn i.val true }.schedule s.now prioUnit (.tripRegs i true)

/-- TRIP_INACTIVE in the first of the two high cycles (R283). -/
def State.tripOff (s : State) (i : TripNo) : State :=
  if mget false s.tripsIn i.val then
    { s with tripsIn := mput false s.tripsIn i.val false }.schedule s.now prioUnit (.tripRegs i false)
  else s

/-- TRP_LEVEL and TRP_SEEN follow one cycle later. -/
def State.landTrip (s : State) (i : TripNo) (on : Bool) : State :=
  let m : BitVec 128 := 1#128 <<< i.val
  if on then { s with tripLevel := s.tripLevel ||| m, tripSeen := s.tripSeen ||| m
                      seenNew := (if s.seenAt = s.now then s.seenNew else 0) ||| m, seenAt := s.now }
  else { s with tripLevel := s.tripLevel &&& ~~~m }

/-- The onset is counted one cycle later (R288). -/
def State.landStation (s : State) (st : Station) : State :=
  (s.modStn st (fun x => { x with count := x.count + 1 })).pulse (0x690 + st.val)

/-- A station's window has closed: the first cycle after it. -/
def State.windowEnded (s : State) (st : Station) : Bool :=
  match (s.stn st).blankEnd with | some e => decide (e ≤ s.now) && !s.blankOpen st | none => false

/-- BLANKING_WINDOW_END: the end of the cycle finds the window closed, and trips that are still active count from this cycle
(R285). -/
def State.blankingEnd (s : State) (st : Station) : State :=
  if s.windowEnded st then s.modStn st (fun x => { x with blankEnd := none }) else s

/-- A write of 1 to LATCHED that was presented in this cycle: without effect while the station trip is active (R286). -/
def State.stnUnlatch (s : State) (st : Station) : State :=
  let x := s.stn st
  if x.clearAt = some s.now ∧ x.latched = true ∧ x.counting = [] then
    (s.setStn st { x with latched := false }).stnRelease st (s.now + 2)
  else s

/-- At the end of a cycle a change of the source of BLANKU opens or restarts a window, the station's trips are judged, and a clear
of LATCHED acts. -/
def State.stnStep (s : State) (st : Station) : State :=
  let w := s.reg (.trpStnCtl st)
  let u : UnitNo := fin 1024 (fieldN w 0 10)
  let len := fieldN w 12 12
  let s := (s.stnJudge st).stnUnlatch st
  let s := s.modStn st (fun x => { x with prev := decide (x.counting ≠ []) })
  if bit w 28 && decide (0 < len) && (s.unitOut u != (s.unit u).old) then
    s.modStn st (fun x => { x with blankEnd := some (s.now + len) }) else s

/-- The end of a cycle for every station and every unit's source. -/
def State.stationsStep (s : State) : State :=
  let s := (List.finRange 64).foldl State.stnStep s
  (s.units.map (·.1)).foldl (fun s k =>
    let u := fin 1024 k
    let o := s.unitOut u
    s.modUnit u (fun x => { x with old := o })) s

/-- A write of 1 to LATCHED is presented: the end of the cycle shows whether the station trip is active. -/
def State.latchedClear (s : State) (st : Station) : State := s.modStn st (fun x => { x with clearAt := some s.now })

/-- A write to TRP_STN_CTL: ACTION = 3 is refused as a whole (R288). -/
def State.stnCtlWrite (s : State) (st : Station) (v : Word) : State :=
  if fieldN v 30 2 = 3 then s.modStn st (fun x => { x with cfgErr := some s.now }) else s.storeRw (.trpStnCtl st) v

/-- A write to TRP_STN_PINS: bits of pins outside the station's partition store 0, judged under PORT (R284). -/
def State.stnPinsWrite (s : State) (st : Station) (v : Word) : State :=
  let p := fieldN (s.reg (.trpStnCtl st)) 24 4
  s.setReg (.trpStnPins st) ((List.range 32).foldl (fun m i =>
    if bit v i && decide (s.partOf kPin (32 * p + i) = s.partOf kStation st.val) then m ||| bitw i else m) 0)

/-- A write to TRP_STN_TIM: COUNT above 8 stores 8. -/
def State.stnTimWrite (s : State) (st : Station) (v : Word) : State :=
  let c := fieldN v 0 4
  s.setReg (.trpStnTim st) (put 8 (fieldN v 8 8) ||| put 0 (if 8 < c then 8 else c))

/-- A write to TRP_STN_TMASK: bits of trips outside the station's partition store 0 (R284). -/
def State.stnTmaskWrite (s : State) (st : Station) (j : Fin 4) (v : Word) : State :=
  s.setReg (.trpStnTmask st j) ((List.range 32).foldl (fun m i =>
    if bit v i && decide (s.partOf kTrip (32 * j.val + i) = s.partOf kStation st.val) then m ||| bitw i else m) 0)

/-! ### The commands -/

/-- CONVERTER_SAMPLE (R279). -/
def execConverterSample (n : Cvp) (data : BitVec 18) (tag : BitVec 6) (s : State) : Host.Outcome State Fault Refusal :=
  .next (s.converterSample n data tag)

/-- MAILBOX_WRITE (R281). -/
def execMailboxWrite (n : Cvp) (s : State) : Host.Outcome State Fault Refusal := .next (s.mailboxWrite n)

/-- CVP_SWTRIG (R282). -/
def execCvpSwtrig (a : Agent) (n : Cvp) (s : State) : Host.Outcome State Fault Refusal :=
  .next (s.regWriteOut a false none (s.holds a kCvp n.val) (fun s => s.cvpSwtrig n))

/-- TRIP_ACTIVE (R283). -/
def execTripActive (i : TripNo) (s : State) : Host.Outcome State Fault Refusal := .next (s.tripOn i)

/-- TRIP_INACTIVE (R283). -/
def execTripInactive (i : TripNo) (s : State) : Host.Outcome State Fault Refusal := .next (s.tripOff i)

/-- BLANKING_WINDOW_END (R285). -/
def execBlankingWindowEnd (st : Station) (s : State) : Host.Outcome State Fault Refusal := .next (s.blankingEnd st)

/-- LATCHED_CLEAR (R286). -/
def execLatchedClear (a : Agent) (st : Station) (s : State) : Host.Outcome State Fault Refusal :=
  .next (s.regWriteOut a true none (s.holds a kStation st.val) (fun s => s.latchedClear st))

/-- TRP_STN_CTL_WRITE (R288). -/
def execTrpStnCtlWrite (a : Agent) (st : Station) (v : Word) (s : State) : Host.Outcome State Fault Refusal :=
  .next (s.regWrite a (s.holds a kStation st.val) (fun s => s.stnCtlWrite st v))

end Sys2Proof.Machine
end

