-- ==== Sys2Proof/Machine/Memory.lean ====
section
/-! DEFINITION. Memory accesses of the shared ports, errors and their log, region tests, repair, the secure region and MRAM scrubbing (chapter 11). -/

namespace Sys2Proof.Machine

/-! ### Instances and errors (R305, R306, R321, R322) -/

/-- Instance of a barrel's instruction memory. -/
def instIns (b : Barrel) : MemInst := ⟨b.val, by omega⟩
/-- Instance of a barrel's desk. -/
def instDesk (b : Barrel) : MemInst := ⟨4 + b.val, by omega⟩
/-- Instance of a barrel's slate. -/
def instSlate (b : Barrel) : MemInst := ⟨8 + b.val, by omega⟩
/-- Instance of hall. -/
def instHall : MemInst := 12

/-- Regions of an instance (Table MEM-1). -/
def regionsOf (m : MemInst) : Nat := if m.val < 8 then 128 else if m.val < 12 then 32 else 2048

/-- The line of an address as MEM_ERRLOG gives it: 64 bytes, or 16 instruction words; a region has 64 lines. -/
def lineOf (m : MemInst) (addr : Nat) : Nat := if m.val < 4 then addr / 16 else addr / 64

/-- The ECC word of an address. -/
def eccWord (m : MemInst) (addr : Nat) : Nat := if m.val < 4 then addr else addr / 8 * 8

/-- Paths of MEM_ERRLOG: 0 pipeline or refill, 1 second port or hall phase, 2 scrubber or test engine, 3 code copy. -/
def errWord0 (uncorr : Bool) (m : MemInst) (path addr : Nat) : Word :=
  flagAt 31 true ||| flagAt 30 uncorr ||| put 26 m.val ||| put 24 (path % 4) ||| put 0 (addr % 8388608)

/-- Count and log an error that an access met. -/
def State.logError (s : State) (uncorr : Bool) (m : MemInst) (path addr agent : Nat) : State :=
  let x := s.memS
  let e : ErrLog := { valid := true, w0 := errWord0 uncorr m path addr
                      w1 := put 24 (agent % 256) ||| ((s.tbase >>> 16).setWidth 32 &&& 0xFFFFFF) }
  { s with memS := { x with
    ce := if uncorr then x.ce else sat 4095 (x.ce + 1)
    ue := if uncorr then sat 4095 (x.ue + 1) else x.ue
    ceTotal := if uncorr then x.ceTotal else x.ceTotal + 1
    ueTotal := if uncorr then x.ueTotal + 1 else x.ueTotal
    log := mput { valid := false, w0 := 0, w1 := 0 } x.log x.nextLog e
    nextLog := (x.nextLog + 1) % 16 } }

/-- Agent code of a thread in the log. -/
def agThread (t : Tid) : Nat := t.val
/-- Agent code of a DMA engine. -/
def agEngine (ch : DmaCh) : Nat := 0x80 + ch.val / 16
/-- Agent code of the queue manager. -/
def agQm : Nat := 0x90
/-- Agent code of the lock unit. -/
def agLock : Nat := 0x91
/-- Agent code of a host port. -/
def agHost (h : Host) : Nat := 0x98 + h.val
/-- Agent code of the test engine. -/
def agTest : Nat := 0xA0
/-- Agent code of the scrubber. -/
def agScrub : Nat := 0xA1
/-- Agent code of the update controller. -/
def agUpd : Nat := 0xA2

/-- The code of a user of a shared port. -/
def userCode : PortUser → Nat
  | .host h => agHost h
  | .dma c => agEngine c
  | .queueManager => agQm
  | .lockUnit => agLock
  | .test => agTest
  | .scrub => agScrub

/-- Addresses in one ECC word: 8 bytes, or one instruction word. -/
def eccSpan (m : MemInst) : Nat := if m.val < 4 then 1 else 8

/-- Some ECC word of `n` bytes from `addr` is known to hold an uncorrectable error. -/
def State.poisoned (s : State) (m : MemInst) (addr n : Nat) : Bool :=
  (s.inst m).ue.any (fun w => decide (w < addr + n) && decide (addr < w + eccSpan m))

/-- A write of whole ECC words replaces their poison (R305). -/
def State.heal (s : State) (m : MemInst) (addr n : Nat) : State :=
  if (s.inst m).ue.isEmpty then s
  else s.modInst m (fun x => { x with ue := x.ue.filter (fun w => !(decide (addr ≤ w) && decide (w + eccSpan m ≤ addr + n))) })

/-- The ECC words of `n` bytes from `addr` that are known to hold an uncorrectable error, in ascending order. -/
def State.poisonIn (s : State) (m : MemInst) (addr n : Nat) : List Nat :=
  if (s.inst m).ue.isEmpty then []
  else ((List.range (n / eccSpan m + 2)).map (fun k => eccWord m addr + k * eccSpan m)).filter
    (fun w => decide (w < addr + n) && (s.inst m).ue.contains w)

/-- A word is found to hold an uncorrectable error: it keeps it until it is written whole (R305). -/
def State.spoil (s : State) (m : MemInst) (addr : Nat) : State :=
  s.modInst m (fun x => if x.ue.contains (eccWord m addr) then x else { x with ue := eccWord m addr :: x.ue })

/-- Every poisoned word that a read meets is counted and logged (R306). -/
def State.noteRead (s : State) (m : MemInst) (path addr n agent : Nat) : State :=
  (s.poisonIn m addr n).foldl (fun s w => s.logError true m path w agent) s

/-! ### The secure region (R312 to R315) -/

/-- The secure region hall:0x7C_0000 to 0x7F_FFFF. -/
def secureAddr (a : Nat) : Bool := decide (0x7C0000 ≤ a) && decide (a < 0x800000)

/-- A wipe of the secure region starts; a trigger during a wipe merges into it. The region reads zeros, with no error, from
here on (R313, R314). -/
def State.startWipe (s : State) (cause : BitVec 4) : State :=
  if s.memS.wiping then s
  else { s.heal instHall 0x7C0000 0x40000 with
    hall := wipe s.hall 0x7C0000 0x40000
    memS := { s.memS with wiping := true, wipeTrig := cause, wiped := [], wipeCount := s.memS.wipeCount + 1 } }

/-- The wipe has made its 256 accesses of every bank (R313). -/
def State.wipeOver (s : State) : Bool :=
  s.memS.wiping && (List.range 16).all (fun k => decide (256 ≤ mget 0 s.memS.wiped k))

/-- SECURE_WIPE_END: DONE is set and CAUSE records the trigger (R315). -/
def State.endWipe (s : State) : State :=
  if s.wipeOver then
    { s with memS := { s.memS with wiping := false, wiped := [], wipeDone := some s.now, wipeCause := s.memS.wipeTrig } }
  else s

/-- Hall bytes as an access reads them: the secure region reads zeros during a wipe (R314). -/
def State.hallRead (s : State) (a n : Nat) : List Byte :=
  if s.memS.wiping && secureAddr a then List.replicate n 0 else s.hallBytes a n

/-- A reservation that a write to any byte of its word clears (R152). -/
def ThreadS.resvCleared (a n : Nat) (x : ThreadS) : ThreadS :=
  match x.resv with
  | some w => if w < a + n ∧ a < w + 8 then { x with resv := none } else x
  | none => x

/-- A write to any byte of a reserved word clears every reservation on it (R152). -/
def State.clearResv (s : State) (a n : Nat) : State :=
  (s.threads.map (·.1)).foldl (fun s k => s.modAll (fin 128 k) (ThreadS.resvCleared a n)) s

/-- Hall bytes as an access writes them: writes to the secure region are dropped during a wipe. -/
def State.hallWrite (s : State) (a : Nat) (l : List Byte) : State :=
  if s.memS.wiping && secureAddr a then s
  else ((s.setHalls a l).heal instHall a l.length).clearResv a l.length

/-! ### Line accesses -/

/-- The bytes of a line access that its strobes enable, as (offset, byte). -/
def strobed (data : BitVec 512) (strb : BitVec 64) (n : Nat) : List (Nat × Byte) :=
  ((List.range n).filter (fun i => strb.getLsbD i)).map (fun i => (i, (data >>> (8 * i)).setWidth 8))

/-- Write enabled bytes of a desk line. -/
def State.deskLine (s : State) (b : Barrel) (line : Nat) (l : List (Nat × Byte)) : State :=
  l.foldl (fun s e => s.setDesk b (64 * line + e.1) e.2) s

/-- Write enabled bytes of a hall granule. -/
def State.hallGranule (s : State) (g : Nat) (l : List (Nat × Byte)) : State :=
  l.foldl (fun s e => s.hallWrite (16 * g + e.1) [e.2]) s

/-- A user reaches a line of the desk through its second port: beyond the first 64 KiB only the test engine and
the scrubber (R298). -/
def portReaches (u : PortUser) (line : Nat) : Bool :=
  decide (line < 1024) || (match u with | .test => true | .scrub => true | _ => false)

/-- Mark a line for repair. -/
def State.markLine (s : State) (m : MemInst) (line : Nat) : State :=
  s.modInst m (fun x => if x.marked.contains line then x else { x with marked := x.marked ++ [line] })

/-- A read by the test engine or the scrubber: an uncorrectable word is logged on their path and its line marked, and keeps
its poison (R307, Table MEM-3). -/
def State.maintRead (s : State) (m : MemInst) (addr n agent : Nat) : State :=
  (s.poisonIn m addr n).foldl (fun s w => (s.logError true m 2 w agent).markLine m (lineOf m w)) s

/-- A read of a shared port by one of its users. -/
def State.portRead (s : State) (m : MemInst) (u : PortUser) (addr n : Nat) : State :=
  match u with
  | .test | .scrub => s.maintRead m addr n (userCode u)
  | _ => s.noteRead m 1 addr n (userCode u)

/-- The strobes of ECC word `k` of a line are all set. -/
def wholeWord (strb : BitVec 64) (k : Nat) : Bool := decide ((strb >>> (8 * k)).setWidth 8 = 0xFF#8)

/-- A write through a desk's second port: it lands at the end of this cycle, a whole ECC word as one, which takes its poison away
(R298, R300, R305). -/
def State.deskPortWrite (s : State) (b : Barrel) (line : Nat) (data : BitVec 512) (strb : BitVec 64) : State :=
  (List.range 8).foldl (fun s k =>
    if wholeWord strb k then
      s.schedule s.now prioPort (.store { loc := .desk b (BitVec.ofNat 19 (64 * line + 8 * k)), size := 8, signFill := false }
        ((data >>> (64 * k)).setWidth 64))
    else (strobed ((data >>> (64 * k)).setWidth 512) ((strb >>> (8 * k)).setWidth 64) 8).foldl (fun s e =>
      s.schedule s.now prioPort (.store { loc := .desk b (BitVec.ofNat 19 (64 * line + 8 * k + e.1)), size := 1, signFill := false }
        (e.2.setWidth 64))) s) s

/-- A second-port line access: a read meets its errors; a write lands at the end of the cycle (R298, R300). -/
def State.secondPort (s : State) (b : Barrel) (u : PortUser) (line : Nat) (acc : LineAccess) : State :=
  if portReaches u line then
    match acc with
    | .read => s.portRead (instDesk b) u (64 * line) 64
    | .write data strb => s.deskPortWrite b line data strb
  else s

/-- A write of a hall granule (R302, R305). -/
def State.hallPortWrite (s : State) (g : Nat) (data : BitVec 512) (strb : BitVec 64) : State :=
  let s := s.hallGranule g (strobed data strb 16)
  (List.range 2).foldl (fun s k => if wholeWord strb k then s.heal instHall (16 * g + 8 * k) 8 else s) s

/-- An access of a hall granule in a shared or lent phase (R302, R303). -/
def State.hallShared (s : State) (u : PortUser) (g : Nat) (acc : LineAccess) : State :=
  match acc with
  | .read => s.portRead instHall u (16 * g) 16
  | .write data strb => s.hallPortWrite g data strb

/-! ### Scrubbing (R307) -/

/-- A correctable error: logged; the second one in a line marks it. -/
def State.correctable (s : State) (m : MemInst) (path addr agent : Nat) : State :=
  let s := s.logError false m path addr agent
  let line := lineOf m addr
  if (s.inst m).ce.contains line then s.markLine m line else s.modInst m (fun x => { x with ce := line :: x.ce })

/-- An uncorrectable error found by the scrubber or the test engine: the word keeps its poison and its line is marked. -/
def State.uncorrectable (s : State) (m : MemInst) (path addr agent : Nat) : State :=
  ((s.logError true m path addr agent).markLine m (lineOf m addr)).spoil m addr

/-- The scrubber runs: EN, or drill 0x03 (R307, R427). -/
def State.scrubs (s : State) : Bool :=
  bit (s.reg .memEccctl) 31 || (match s.drill.cur with | some d => decide (d.code = 0x03) | none => false)

/-- The ECC words of an instance, both banks and both copies included, and hence of the whole block, as a scrub pass takes them:
instruction memories, desks, slates, hall (R307). -/
def scrubSize (m : MemInst) : Nat := if m.val < 4 then 131072 else if m.val < 8 then 65536 else if m.val < 12 then 16384 else 1048576

/-- The words of a scrub pass. -/
def scrubWords : Nat := 1900544

/-- Instance and address of the word that a pass takes as its `i`th. A spare line or a spare region in use is read at the address
that it serves (R309). -/
def scrubPlace (i : Nat) : MemInst × Nat :=
  if i < 524288 then (⟨i / 131072 % 4, by omega⟩, i % 131072)
  else if i < 786432 then (⟨4 + (i - 524288) / 65536 % 4, by omega⟩, (i - 524288) % 65536 * 8)
  else if i < 851968 then (⟨8 + (i - 786432) / 16384 % 4, by omega⟩, (i - 786432) % 16384 * 8)
  else (instHall, (i - 851968) * 8)

/-- Cycles of a pass of the scrubber: MEM_ECCCTL.PERIOD seconds. -/
def State.scrubPeriod (s : State) : Nat := fieldN (s.reg .memEccctl) 0 8 * 500000 * s.mhz

/-- The word that the scrubber is to read and the cycle from which it waits for it: of drill 0x03, which takes 20 ms, or of the
running pass, either taken evenly (log entry 46, DESIGN CHOICE). -/
def State.scrubNow (s : State) : Option (Nat × Nat) :=
  let pass := if bit (s.reg .memEccctl) 31 then
      some (s.memS.scrubNext, s.memS.scrubFrom + s.memS.scrubNext * s.scrubPeriod / scrubWords) else none
  match s.drill.cur with
  | some d => if d.code = 0x03 ∧ 0 < d.left then some (scrubWords - d.left, d.start + (scrubWords - d.left) * (10000 * s.mhz) / scrubWords) else pass
  | none => pass

/-- The next word of the scrubber's pass, or the next pass. -/
def State.scrubStep (s : State) : State :=
  let x := s.memS
  if x.scrubNext + 1 < scrubWords then { s with memS := { x with scrubNext := x.scrubNext + 1 } }
  else { s with memS := { x with scrubNext := 0, scrubFrom := x.scrubFrom + s.scrubPeriod } }

/-- The scrubber has read the word that was due: the next one of the drill or of the pass. -/
def State.scrubMove (s : State) : State :=
  match s.drill.cur with
  | some d =>
    if d.code = 0x03 ∧ 0 < d.left then { s with drill := { s.drill with cur := some { d with left := d.left - 1 } } } else s.scrubStep
  | none => s.scrubStep

/-- What the scrubber finds in a word: an uncorrectable error that the word is known to hold is one whatever is said of it. -/
def State.scrubFound (s : State) (m : MemInst) (addr : Nat) (e : Ecc) : State :=
  if s.poisoned m addr 1 then s.uncorrectable m 2 (eccWord m addr) agScrub
  else match e with
    | .ok => s
    | .corrected =>
      let s := s.correctable m 2 addr agScrub
      { s with drill := { s.drill with cur := s.drill.cur.map (fun d => if d.code = 0x03 then { d with bad := d.bad + 1 } else d) } }
    | .uncorrectable => s.uncorrectable m 2 addr agScrub

/-- SCRUB_ACCESS, while the scrubber runs: the word that is due moves the pass on. -/
def State.scrub (s : State) (m : MemInst) (addr : Nat) (e : Ecc) : State :=
  if s.scrubs then
    let due := match s.scrubNow with
      | some (i, c) => decide (c ≤ s.now) && decide (scrubPlace i = (m, eccWord m addr))
      | none => false
    (if due then s.scrubMove else s).scrubFound m addr e
  else s

/-! ### Region tests (R308 to R311) -/

/-- The LCLK edge at which INTERVAL x 16 us from the last start are over; 0 stands for 1 (R38, R308). -/
def State.testInterval (s : State) (m : MemInst) : Nat :=
  let i := fieldN (s.reg (.memTctl m)) 0 16
  wallEnd s.mhz (s.inst m).startAt ((if i = 0 then 1 else i) * 16)

/-- A drill 0x01 or 0x02 on the instance has region tests to run (R427). -/
def State.drillTests (s : State) (m : MemInst) : Bool :=
  match s.drill.cur with
  | some d => (decide (d.code = 0x01) || decide (d.code = 0x02)) && decide (d.arg0.toNat = m.val) && decide (0 < d.left)
  | none => false

/-- One part of the drill in progress has begun or ended. -/
def State.drillPart (s : State) : State :=
  { s with drill := { s.drill with cur := s.drill.cur.map (fun d => { d with left := d.left - 1 }) } }

/-- A region test of the instance starts: EN with its interval over, a NOW write or a drill, with none in progress and
the spare region free. -/
def State.testDue (s : State) (m : MemInst) : Bool :=
  let x := s.inst m
  decide (x.step = .idle) && x.retired.isNone &&
  (x.now_ || s.drillTests m || (bit (s.reg (.memTctl m)) 31 && decide (s.testInterval m ≤ s.now)))

/-- The next region: a marked line's first, then in ascending order. -/
def State.nextRegion (s : State) (m : MemInst) : Nat :=
  let x := s.inst m
  match x.marked with | l :: _ => l / 64 % regionsOf m | [] => x.next

/-- REGION_TEST_START. -/
def State.testStart (s : State) (m : MemInst) : State :=
  if s.testDue m then
    let r := s.nextRegion m
    let s := s.modInst m (fun x => { x with
      step := .copy, region := r, startAt := s.now, now_ := false, lines := [], lineAt := s.now - 1, stepAt := s.now })
    if s.drillTests m then s.drillPart else s
  else s

/-- A write of NOW = 1 starts the next region test at once, unless one is in progress. -/
def State.testNow (s : State) (m : MemInst) : State :=
  if (s.inst m).step = .idle ∧ bit (s.reg (.memTctl m)) 31 then s.modInst m (fun x => { x with now_ := true }) else s

/-- Accesses that a copy or a restore makes of each bank of the instance: lines, or the granules of a hall bank (Table MEM-4). -/
def copyLines (m : MemInst) : Nat := if m = instHall then 16 else 64

/-- The copy or restore in progress has made all its accesses, in an earlier cycle. -/
def State.copied (s : State) (m : MemInst) : Bool :=
  let x := s.inst m
  (List.range (if m = instHall then 16 else 1)).all (fun k => decide (copyLines m ≤ mget 0 x.lines k)) && decide (x.lineAt < s.now)

/-- REGION_COPY_COMPLETE: the switch to the spare region, in the cycle after the last copy write. -/
def State.copyComplete (s : State) (m : MemInst) : State :=
  if (s.inst m).step = .copy ∧ s.copied m then s.modInst m (fun x => { x with step := .test, stepAt := s.now, lines := [] }) else s

/-- The next access of a copy or restore that waits at bank `k` of the instance, as the line or granule within it. -/
def State.copyNext (s : State) (m : MemInst) (k : Nat) : Option Nat :=
  let x := s.inst m
  let i := mget 0 x.lines k
  if (decide (x.step = .copy) || decide (x.step = .restore)) && decide (i < copyLines m) then
    some (if m = instHall then 256 * x.region + 16 * i + k else 64 * x.region + i)
  else none

/-- An access of a copy or restore has been made. -/
def State.copyMove (s : State) (m : MemInst) (k : Nat) : State :=
  s.modInst m (fun x => { x with lines := mput 0 x.lines k (mget 0 x.lines k + 1), lineAt := s.now })

/-- The march test of a region is over (Table MEM-4). -/
def State.marchOver (s : State) (m : MemInst) : Bool :=
  let x := s.inst m
  decide (x.step = .test) && decide (x.stepAt + (if m = instHall then 1280 else 2560) ≤ s.now)

/-- A repair has been written to the repair record: MRAM is written (R310, R317). -/
def State.mramWrite (s : State) : State := { s with memS := { s.memS with mramBusyTo := s.now + 256 } }

/-- Lines of the region that fail or are marked. -/
def State.badLines (s : State) (m : MemInst) (failing : BitVec 64) : List Nat :=
  let x := s.inst m
  (List.range 64).filter (fun i => failing.getLsbD i || x.marked.contains (64 * x.region + i))

/-- Spare lines of the region in test that are in use. -/
def InstS.usedHere (x : InstS) : Nat := (x.spares.filter (fun l => decide (l / 64 = x.region))).length

/-- MARCH_TEST_COMPLETE: the repair of the lines that fail or are marked, one BCLK for each, or four SCLK in hall, or the
retirement of the region; either is written to the repair record (R310, Table MEM-4). -/
def State.marchComplete (s : State) (m : MemInst) (failing : BitVec 64) : State :=
  let x := s.inst m
  if s.marchOver m then
    let bad := s.badLines m failing
    let x := { x with fail := if failing = 0 then x.fail else some s.now, marked := x.marked.filter (fun l => decide (l / 64 ≠ x.region)) }
    if bad = [] then s.setInst m { x with step := .restore, lineAt := s.now - 1 }
    else if 4 < x.usedHere + bad.length then (s.setInst m { x with retired := some x.region, step := .idle }).mramWrite
    else (s.setInst m { x with step := .repair, stepAt := s.now + bad.length * (if m = instHall then 8 else 1)
                               spares := x.spares ++ bad.map (64 * x.region + ·) }).mramWrite
  else s

/-- The repair of an instance ends: the restore begins. -/
def State.repairEnd (s : State) (m : MemInst) : State :=
  s.modInst m (fun x => if x.step = .repair ∧ x.stepAt ≤ s.now then { x with step := .restore, lineAt := s.now - 1 } else x)

/-- REGION_TEST_COMPLETE: the switch back, in the cycle after the last restore write; the last region ends a pass. -/
def State.testComplete (s : State) (m : MemInst) : State :=
  let x := s.inst m
  if x.step = .restore ∧ s.copied m then
    let last := decide (x.region + 1 = regionsOf m)
    s.setInst m { x with
      step := .idle
      lines := []
      next := if x.region = x.next then (if last then 0 else x.region + 1) else x.next
      passes := if last && decide (x.region = x.next) then x.passes + 1 else x.passes }
  else s

/-- Spare lines in use. -/
def State.sparesUsed (s : State) (m : MemInst) : Nat := (s.inst m).spares.length

/-- A write to MEM_TCTL: INTERVAL 0 stores 1; NOW starts a test. -/
def State.tctlWrite (s : State) (m : MemInst) (v : Word) : State :=
  let s := s.setReg (.memTctl m) ((v &&& 0x80000000) ||| put 0 (if fieldN v 0 16 = 0 then 1 else fieldN v 0 16))
  if bit v 30 then s.testNow m else s

/-- LOGCLR (R322). -/
def State.logClear (s : State) : State := { s with memS := { s.memS with log := [], nextLog := 0 } }

/-- A write to MEM_ECCCTL: PERIOD 0 stores 1; a change begins a new pass of the scrubber (log entry 46, DESIGN CHOICE). -/
def State.eccctlWrite (s : State) (v : Word) : State :=
  let w := (v &&& 0x80000000) ||| put 0 (if fieldN v 0 8 = 0 then 1 else fieldN v 0 8)
  let s := if s.reg .memEccctl = w then s
    else ({ s with memS := { s.memS with scrubNext := 0, scrubFrom := s.now } } : State).setReg .memEccctl w
  if bit v 30 then s.logClear else s

/-! ### MRAM (R318) -/

/-- Words of 32 bytes in MRAM. -/
def mramWords : Nat := 1048576

/-- The word that the MRAM scrubber is to read next is due: a pass takes 24 h, evenly (R318; log entry 46, DESIGN CHOICE). -/
def State.mramDue (s : State) : Bool :=
  decide (s.memS.mramFrom + s.memS.mramNext * (86400 * 500000 * s.mhz) / mramWords ≤ s.now)

/-- A word of MRAM has been corrected. -/
def State.mramFix (s : State) : State := { s with memS := { s.memS with mramCorr := sat 65535 (s.memS.mramCorr + 1) } }

/-- A block of MRAM is retired to a reserve block, which is recorded; there are 928 of them. What the block holds reads as
before (R318). -/
def State.mramRetire (s : State) (block : Nat) : State :=
  if 928 ≤ s.memS.mramBlocks.length then s
  else ({ s with memS := { s.memS with mramBlocks := s.memS.mramBlocks ++ [block] } } : State).mramWrite

/-- What the MRAM scrubber finds in a word of a block: two bits are rewritten, an uncorrectable error or a write that fails its
read-back check retires the block. -/
def State.mramFound (s : State) (block : Nat) : MramFinding → State
  | .clean => s
  | .oneBit => s.mramFix
  | .twoBits => s.mramFix.mramWrite
  | .uncorrectable => ({ s with memS := { s.memS with mramUe := some s.now, mramUeEver := true } } : State).mramRetire block
  | .writeFailed => s.mramRetire block

/-- A word of MRAM that holds an uncorrectable error keeps it until it is written. -/
def State.mramSpoil (s : State) (word : Nat) : State :=
  if s.memS.mramBad.contains word then s else { s with memS := { s.memS with mramBad := word :: s.memS.mramBad } }

/-- Words of MRAM from `a` on, `n` of them, are written whole. -/
def State.mramHeal (s : State) (a n : Nat) : State :=
  { s with memS := { s.memS with mramBad := s.memS.mramBad.filter (fun w => decide (w < a) || decide (a + n ≤ w)) } }

/-- A read of `n` words of MRAM from `a` on meets an uncorrectable error. -/
def State.mramHurt (s : State) (a n : Nat) : Bool := s.memS.mramBad.any (fun w => decide (a ≤ w) && decide (w < a + n))

/-- MRAM_SCRUB: the next word of the pass, in the block of 128 words that holds it. Nothing is written while RST_COLD_N is low
(R48). -/
def State.mramScrub (s : State) (e : MramFinding) : State :=
  if s.sys.phase = .cold then s
  else
    let x := s.memS
    let block := x.mramNext / 128
    let s := if e = .uncorrectable then s.mramSpoil x.mramNext else s
    let x := s.memS
    let y := if x.mramNext + 1 < mramWords then { x with mramNext := x.mramNext + 1 }
      else { x with mramNext := 0, mramFrom := x.mramFrom + 86400 * 500000 * s.mhz }
    ({ s with memS := y } : State).mramFound block e

/-! ### The commands -/

/-- SECURE_WIPE_END (R315). -/
def execSecureWipeEnd (s : State) : Host.Outcome State Fault Refusal := .next s.endWipe

/-- REGION_TEST_START (R308). -/
def execRegionTestStart (m : MemInst) (s : State) : Host.Outcome State Fault Refusal := .next (s.testStart m)

/-- MEM_TCTL_NOW (R308). -/
def execMemTctlNow (a : Agent) (m : MemInst) (s : State) : Host.Outcome State Fault Refusal :=
  .next (s.regWrite a (s.isOwner a) (fun s => s.testNow m))

/-- REGION_COPY_COMPLETE (R309). -/
def execRegionCopyComplete (m : MemInst) (s : State) : Host.Outcome State Fault Refusal := .next (s.copyComplete m)

/-- MARCH_TEST_COMPLETE (R310). -/
def execMarchTestComplete (m : MemInst) (failing : BitVec 64) (s : State) : Host.Outcome State Fault Refusal :=
  .next (s.marchComplete m failing)

/-- REGION_TEST_COMPLETE (R309). -/
def execRegionTestComplete (m : MemInst) (s : State) : Host.Outcome State Fault Refusal := .next (s.testComplete m)

/-- LOGCLR (R322). -/
def execLogclr (a : Agent) (s : State) : Host.Outcome State Fault Refusal :=
  .next (s.regWrite a (s.isOwner a) State.logClear)

/-- MRAM_SCRUB (R318). -/
def execMramScrub (e : MramFinding) (s : State) : Host.Outcome State Fault Refusal := .next (s.mramScrub e)

end Sys2Proof.Machine
end

