-- ==== Sys2Proof/Machine/Ports.lean ====
section
/-! DEFINITION. Who may use the shared ports of the memories in a cycle: the second port of each desk (R298) and the phases of each hall
bank (R303, Table MEM-2). -/

namespace Sys2Proof.Machine

/-- Who is granted a shared port. -/
inductive Grant where
  | none
  | wipe
  | req (p : PortReq)
  | lock
  | test (unit : Nat)
  | scrub
  deriving DecidableEq, Repr

/-- The first of some grants that grants anything. -/
def Grant.first : List Grant → Grant
  | [] => .none
  | .none :: rest => Grant.first rest
  | g :: _ => g

/-- A waiting access as a grant. -/
def Grant.of : Option PortReq → Grant
  | some p => .req p
  | .none => .none

/-! ### Who waits -/

/-- The host port of a waiting access. -/
def PortReq.host (p : PortReq) : Option Nat := match p.user with | .host h => some h.val | _ => none
/-- The engine of a waiting access. -/
def PortReq.engine (p : PortReq) : Option Nat := match p.user with | .dma c => some (c.val / 16) | _ => none
/-- An access of the queue manager. -/
def PortReq.isQm (p : PortReq) : Bool := decide (p.user = .queueManager)

/-- The first of some accesses whose requester has the next turn after `last` of `n`. -/
def inTurn (key : PortReq → Option Nat) (n last : Nat) (l : List PortReq) : Option PortReq :=
  (List.range n).findSome? (fun i => l.find? (fun p => decide (key p = some ((last + 1 + i) % n))))

/-- The scrubber's word that is due, with the cycle from which it waits. -/
def State.scrubWaits (s : State) : Option ((MemInst × Nat) × Nat) :=
  match s.scrubNow with
  | some (i, c) => if c ≤ s.now then some (scrubPlace i, c) else none
  | none => none

/-! ### The second port of a desk (R298) -/

/-- The port has made no line access in this cycle. -/
def State.deskFree (s : State) (b : Barrel) : Bool := decide ((s.turn b.val).lastAt ≠ some s.now)

/-- The accesses of a desk that wait for its second port in this cycle. -/
def State.deskWaits (s : State) (b : Barrel) : List PortReq := s.ports.filter (fun p => decide (p.desk = some b) && decide (p.from_ ≤ s.now))

/-- The test engine's next line at a desk, and whether it has waited 15 BCLK for it. -/
def State.deskTest (s : State) (b : Barrel) : Option (Nat × Bool) :=
  (s.copyNext (instDesk b) 0).map (fun u => (u, decide ((s.inst (instDesk b)).lineAt + 16 ≤ s.now)))

/-- The scrubber waits for a desk, and whether it has waited 15 BCLK. -/
def State.deskScrub (s : State) (b : Barrel) : Option Bool :=
  match s.scrubWaits with
  | some ((m, _), c) => if m = instDesk b then some (decide (c + 15 ≤ s.now)) else none
  | none => none

/-- Who is granted the second port of a desk; a converter mailbox of the cycle has had it before all others. -/
def State.deskGrant (s : State) (b : Barrel) : Grant :=
  let x := s.turn b.val
  let l := s.deskWaits b
  let host := Grant.of (inTurn PortReq.host 8 x.host l)
  let dma := Grant.of (inTurn PortReq.engine 16 x.eng l)
  let test (long : Bool) : Grant := match s.deskTest b with | some (u, w) => if !long || w then .test u else .none | none => .none
  let clean (long : Bool) : Grant := match s.deskScrub b with | some w => if !long || w then .scrub else .none | none => .none
  if !s.deskFree b then .none
  else Grant.first ([test true, clean true] ++ (if x.dma then [host, dma] else [dma, host]) ++ [test false, clean false])

/-! ### Hall banks (R302, R303, Table MEM-2) -/

/-- The bank of a hall byte. -/
def hallBank (a : Nat) : Nat := a / 16 % 16

/-- The phase of a bank in this SCLK. -/
def State.bankPhase (s : State) (k : Nat) : Nat := (s.now / 2 + 16 - k % 16) % 8

/-- The bank has accepted no access in this SCLK. -/
def State.bankFree (s : State) (k : Nat) : Bool := decide ((s.turn (4 + k)).lastAt ≠ some (s.now / 2))

/-- The head of a barrel's hall queue is presented to a bank. -/
def State.presents (s : State) (b : Nat) (k : Nat) : Bool :=
  let x := s.bar (fin 4 b)
  match x.hq.find? (fun e => e.retireAt.isNone) with
  | some e => decide (x.hqHeadAt ≤ s.now) && decide (hallBank e.addr.toNat = k)
  | none => false

/-- The address of a queued access of the lock unit. -/
def LockReq.addr : LockReq → Nat
  | .abandon a _ _ => a.toNat
  | .host _ _ a _ _ _ => a.toNat

/-- The wipe of the secure region has still to reach a bank (R313). -/
def State.wipeWaits (s : State) (k : Nat) : Bool := s.memS.wiping && decide (mget 0 s.memS.wiped k < 256)

/-- A bank is in a shared or a lent phase and free in this SCLK, and no wipe stands ahead. -/
def State.bankOpen (s : State) (k : Nat) : Bool :=
  s.bankFree k && !(decide (s.bankPhase k < 4) && s.presents (s.bankPhase k) k) && !s.wipeWaits k

/-- The accesses that wait for a bank in this cycle. -/
def State.bankWaits (s : State) (k : Nat) : List PortReq :=
  s.ports.filter (fun p => decide (p.desk = none) && decide (p.unit % 16 = k) && decide (p.from_ ≤ s.now))

/-- Who is granted a bank in a shared or lent phase, in the order of Table MEM-2. -/
def State.bankGrant (s : State) (k : Nat) : Grant :=
  let x := s.turn (4 + k)
  let l := s.bankWaits k
  let host := Grant.of (inTurn PortReq.host 8 x.host l)
  let dma := Grant.of (inTurn PortReq.engine 16 x.eng l)
  let qm := Grant.of (l.find? PortReq.isQm)
  let unit : Grant := if s.locks.queue.any (fun r => decide (hallBank r.addr = k)) then .lock else .none
  let test : Grant := match s.copyNext instHall k with | some u => .test u | none => .none
  let clean : Grant := match s.scrubWaits with
    | some ((m, a), _) => if m = instHall ∧ hallBank a = k then .scrub else .none
    | none => .none
  if s.bankFree k && s.wipeWaits k && !(decide (s.bankPhase k < 4) && s.presents (s.bankPhase k) k) then .wipe
  else if !s.bankOpen k then .none
  else match s.bankPhase k with
    | 4 => Grant.first [host, dma, qm, unit, test, clean]
    | 5 => Grant.first [dma, qm, host, unit, test, clean]
    | 6 => Grant.first [qm, host, dma, unit, test, clean]
    | 7 => Grant.first [unit, test, clean, host, dma, qm]
    | _ => Grant.first [test, clean, host, dma, unit, qm]

/-! ### Uses -/

/-- A desk's second port is used in this cycle. -/
def State.useDesk (s : State) (b : Barrel) : State := s.modTurn b.val (fun x => { x with lastAt := some s.now })
/-- A hall bank is used in this SCLK. -/
def State.useBank (s : State) (k : Nat) : State := s.modTurn (4 + k) (fun x => { x with lastAt := some (s.now / 2) })

/-- The turns after an access of a user. -/
def PortTurn.took (x : PortTurn) (u : PortUser) : PortTurn :=
  match u with
  | .host h => { x with dma := false, host := h.val }
  | .dma c => { x with dma := true, eng := c.val / 16 }
  | _ => x

/-- A wipe's access of a bank (R313). -/
def State.wipeBank (s : State) (k : Nat) : State :=
  if s.bankGrant k = .wipe then
    ({ s with memS := { s.memS with wiped := mput 0 s.memS.wiped k (mget 0 s.memS.wiped k + 1) } } : State).useBank k
  else s

/-- An access of the test engine at an instance's own maintenance or access port, which it has to itself (R296, R301). -/
def State.copyOwn (s : State) (m : MemInst) : State :=
  if m.val < 4 ∨ (8 ≤ m.val ∧ m.val < 12) then
    match s.copyNext m 0 with
    | some u => (s.copyMove m 0).maintRead m (if m.val < 4 then 16 * u else 64 * u) (if m.val < 4 then 16 else 64) agTest
    | none => s
  else s

end Sys2Proof.Machine
end

