-- ==== Sys2Proof/Machine/Queues.lean ====
section
/-! DEFINITION. Rings, buffer pools and the queue manager (R340 to R349). -/

namespace Sys2Proof.Machine

/-! ### Counts -/

/-- Slots of a ring. -/
def RingS.slots (x : RingS) : Nat := 2 ^ x.size
/-- Entries between CONS and PROD. -/
def RingS.used (x : RingS) : Nat := (x.prod - x.cons).toNat

/-- A post finds room (R342); a write error holds the ring full until a DRAIN (R348). -/
def RingS.hasRoom (x : RingS) : Bool := !x.err && decide (x.used + x.rsv < x.slots)

/-- Hall address of entry `n` of a hall ring. -/
def RingS.hallSlot (x : RingS) (n : Word) : Nat := x.base.toNat + 64 * (n.toNat % x.slots)

/-- System address of entry `n` of a ring in the ring window (R340). -/
def State.sysSlot (s : State) (x : RingS) (n : Word) : BitVec 48 :=
  BitVec.ofNat 48 (fieldN (s.reg .qmWin) 0 6 * 2 ^ 42 + x.base.toNat + 64 * (n.toNat % x.slots))

/-! ### Pools (R343) -/

/-- The lowest free cell of a pool. -/
def State.freeCell (s : State) (p : Fin 8) : Option Nat :=
  (List.range (fieldN (s.reg (.qmPoolcnt p)) 0 13)).find? (fun i => !(s.pool p).taken.contains i)

/-- Take a cell. -/
def State.takeCell (s : State) (p : Fin 8) (i : Nat) : State := s.modPool p (fun x => { x with taken := i :: x.taken })

/-- A cell returns to its pool. -/
def State.freeCellOf (s : State) (p : Fin 8) (i : Nat) : State :=
  s.modPool p (fun x => { x with taken := x.taken.filter (fun j => decide (j ≠ i)) })

/-- Hall address of a cell. -/
def State.cellAddr (s : State) (p : Fin 8) (i : Nat) : Nat := (s.reg (.qmPoolbase p)).toNat + 64 * i

/-- 64 bytes as a list. -/
def bytes64 (d : BitVec 512) : List Byte := leBytes d.toNat 64
/-- 64 hall bytes as a number. -/
def State.hall64 (s : State) (a : Nat) : BitVec 512 := BitVec.ofNat 512 (leNat (s.hallRead a 64))

/-! ### Notifiers (R344) -/

/-- PROD of a ring takes a value: the notifier counts when the fill reaches NTHR from below. -/
def State.setProd (s : State) (r : Ring) (prod : Word) : State :=
  let x := s.ring r
  let y := { x with prod := prod }
  let s := s.setRing r y
  if x.nen && decide (x.used < x.nthr) && decide (x.nthr ≤ y.used) then
    let n := x.notif.toNat
    let c := mget ((0 : BitVec 16), (0 : Ring)) s.qm.nstat n
    { s with qm := { s.qm with nstat := mput ((0 : BitVec 16), (0 : Ring)) s.qm.nstat n (c.1 + 1, r) } }.pulse (0x7E0 + n)
  else s

/-- The entries of a ring whose writes to system memory are in flight. -/
def State.inFlight (s : State) (r : Ring) : List Word :=
  s.tags.filterMap (fun t => match t.user with | .post q n _ _ => if q = r then some n else none | _ => none)

/-- PROD advances over the slots whose writes are performed, in slot order (R342): up to the oldest write that is
in flight or has failed. -/
def State.showPosts (s : State) (r : Ring) : State :=
  let x := s.ring r
  let stops := s.inFlight r ++ (match x.errAt with | some n => [n] | none => [])
  let reach := stops.foldl (fun m n => min m (n - x.prod).toNat) (x.next - x.prod).toNat
  let s := s.modRing r (fun x => { x with rsv := x.rsv - reach })
  if reach = 0 then s else s.setProd r (x.prod + BitVec.ofNat 32 reach)

/-! ### Posts (R345) -/

/-- How a post is decided. -/
inductive PostOut where
  | accepted
  | full
  | refused
  deriving DecidableEq, Repr

/-- A post needs a cell: QPUTS, and every post to a ring in system memory (R343). -/
def RingS.needsCell (x : RingS) (staged : Bool) : Bool := staged || !x.inHall

/-- The decision of a post to ring `r`. -/
def State.postDecision (s : State) (r : Ring) (staged : Bool) : PostOut :=
  let x := s.ring r
  if !x.loaded || x.pside then .refused
  else if !x.hasRoom then .full
  else if x.needsCell staged && (s.freeCell (fin 8 x.pool.toNat)).isNone then .full
  else .accepted

/-- Append an item to the queue manager. -/
def State.addItem (s : State) (i : QmItem) : State := { s with qm := { s.qm with items := s.qm.items ++ [i] } }

/-- Take the cell that a post needs, with its entry in it. -/
def State.cellFor (s : State) (r : Ring) (staged : Bool) (data : BitVec 512) : Option (BitVec 3 × Nat) × State :=
  let x := s.ring r
  if x.needsCell staged then
    let p : Fin 8 := fin 8 x.pool.toNat
    match s.freeCell p with
    | none => (none, s)
    | some i => (some (x.pool, i), (s.takeCell p i).hallWrite (s.cellAddr p i) (bytes64 data))
  else (none, s)

/-- An accepted post reserves a slot. -/
def State.reserve (s : State) (r : Ring) : State := s.modRing r (fun x => { x with rsv := x.rsv + 1 })

/-- A post accepted in this cycle becomes an item. -/
def State.postItem (s : State) (r : Ring) (data : BitVec 512) (who : PostBy) : State :=
  let c := (s.reserve r).cellFor r false data
  c.2.addItem (.post r data c.1 who)

/-- A post that finds the ring full is dropped. -/
def State.postDrop (s : State) (r : Ring) : State := s.modRing r (fun x => { x with drop := some s.now })

/-- QPUT and QPUTS of a thread in c6; a class member's QPUTS is staged (R205). -/
def State.qput (s : State) (t : Tid) (r : Ring) (data : BitVec 512) (staged : Bool) : State :=
  match s.postDecision r staged with
  | .refused => s
  | .full => s.postDrop r
  | .accepted =>
    if staged && (s.classOf t).isSome then
      let c := (s.reserve r).cellFor r true data
      match c.1 with
      | some (p, i) => c.2.stage t (.post r p i)
      | none => c.2
    else s.postItem r data (.thread t)

/-- Staged posts of a thread. -/
def State.stagedPosts (s : State) (t : Tid) : Nat :=
  (s.staged.filter (fun e => decide (e.1 = t) && (match e.2 with | .post _ _ _ => true | _ => false))).length

/-- A committed post becomes an item with its reservation and cell (R205). -/
def State.commitPost (s : State) (r : Ring) (p : BitVec 3) (cell : Nat) : State :=
  s.addItem (.post r (s.hall64 (s.cellAddr (fin 8 p.toNat) cell)) (some (p, cell)) .commit)

/-- A discarded post returns its cell and reservation. -/
def State.discardPost (s : State) (r : Ring) (p : BitVec 3) (cell : Nat) : State :=
  (s.freeCellOf (fin 8 p.toNat) cell).modRing r (fun x => { x with rsv := x.rsv - 1 })

/-! ### Gets (R346) -/

/-- CODE of a QGET. -/
def State.getCode (s : State) (r : Ring) : Nat :=
  let x := s.ring r
  if !x.loaded then 2 else if x.cside || !x.inHall then 3 else if x.take = x.prod then 1 else 0

/-- The status word of a QGET (Table DMA-8). -/
def State.getStatus (s : State) (r : Ring) : Word :=
  put 29 (s.getCode r) ||| ((s.ring r).take &&& 0xFFFFFF)

/-- A QGET in c6: an entry taken becomes a fill item. -/
def State.qget (s : State) (t : Tid) (r : Ring) (buf : BitVec 19) : State :=
  if s.getCode r = 0 then
    let n := (s.ring r).take
    (s.modRing r (fun x => { x with take := x.take + 1 })).addItem (.fill r n t buf true)
  else s

/-! ### The queue manager (R347, R348) -/

/-- Whose item it is. -/
def QmItem.owner : QmItem → Option Tid
  | .post _ _ _ (.thread t) => some t
  | .post _ _ _ _ => none
  | .fill _ _ t _ _ => some t
  | .take _ _ _ _ => none

/-- The items that wait and those that have started. -/
def QmS.all (q : QmS) : List QmItem := q.items ++ q.started.map (·.2)

/-- Items of a thread that are pending. -/
def State.itemsOf (s : State) (t : Tid) : Nat :=
  (s.qm.all.filter (fun i => decide (i.owner = some t))).length

/-- An item may start: one per 4 SCLK, at the start of an SCLK. -/
def State.itemDue (s : State) : Bool :=
  !s.qm.items.isEmpty && decide (s.now % 2 = 0) && (decide (s.qm.lastStart = 0) || decide (s.qm.lastStart + 8 ≤ s.now))

/-- A post of a ring. -/
def QmItem.posts (r : Ring) : QmItem → Bool
  | .post q _ _ _ => decide (q = r)
  | _ => false

/-- The first hall granule of the 64 bytes that an item reaches: its slot, or the cell of a post to system memory. -/
def State.itemGranule (s : State) : QmItem → Nat
  | .post r _ cell _ =>
    let x := s.ring r
    (if x.inHall then x.hallSlot (x.next + BitVec.ofNat 32 (s.qm.started.filter (fun i => i.2.posts r)).length)
     else match cell with | some (p, i) => s.cellAddr (fin 8 p.toNat) i | none => 0) / 16 % 524288
  | .fill r n _ _ _ => (s.ring r).hallSlot n / 16
  | .take r n _ _ => (s.ring r).hallSlot n / 16

/-- The accesses of hall banks that an item waits for once it has started (R303, R347). -/
def State.itemPorts (s : State) (i : QmItem) : List PortReq :=
  (List.range 4).map (fun k => { desk := none, unit := s.itemGranule i + k, user := .queueManager, acc := .read
                                 from_ := sclkAfter s.now, tag := s.now, off := 0, len := 16 })

/-- QM_ITEM_START. -/
def State.itemStart (s : State) : State :=
  match s.qm.items with
  | [] => s
  | i :: rest => { s with qm := { s.qm with items := rest, started := s.qm.started ++ [(s.now, i)], lastStart := s.now }
                          ports := s.ports ++ s.itemPorts i }

/-- The banks have accepted every access of the oldest started item. -/
def State.itemReady (s : State) : Bool :=
  match s.qm.started with
  | [] => false
  | (c, _) :: _ => !s.ports.any (fun p => p.isQm && decide (p.tag = c))

/-- The initiator port of an engine. -/
def State.engPort (s : State) (e : Engine) : InitPort := if bit (s.reg (.dmaEcfg e)) 31 then 1 else 0

/-- The port, cap and number of a requester: engines 0 to 15, then the queue manager (R338). -/
def State.reqPort (s : State) (u : Nat) : InitPort := if u < 16 then s.engPort (fin 16 u) else if bit (s.reg .qmCtl) 31 then 1 else 0
/-- The tag cap of a requester. -/
def State.tagCap (s : State) (u : Nat) : Nat := fieldN (if u < 16 then s.reg (.dmaEcfg (fin 16 u)) else s.reg .qmCtl) 0 12
/-- The requester that a tag serves. -/
def TagUser.requester : TagUser → Nat
  | .chan ch _ => ch.val / 16
  | .post _ _ _ _ => 16
  | .drill => 16
  | .ahead e => e.val

/-- A tag that is in use on neither port, where the requester stays within its cap (R30, R338). -/
def State.freeTag (s : State) (u : Nat) : Option (BitVec 12) :=
  if s.tagCap u ≤ (s.tags.filter (fun t => decide (t.user.requester = u))).length then none
  else ((List.range 4096).find? (fun i => !(s.tags.any (fun t => decide (t.tag.toNat = i))))).map (BitVec.ofNat 12)

/-- The reads of an engine's current work that are outstanding. -/
def State.engReads (s : State) (e : Engine) : List TagUse :=
  s.tags.filter (fun t => !t.write && (match t.user with
    | .chan ch n => decide (ch.val / 16 = e.val) && decide (n = (s.eng e).serial)
    | _ => false))

/-- A requester has a request to issue. -/
def State.wants (s : State) (u : Nat) : Bool :=
  if u < 16 then
    let x := s.eng (fin 16 u)
    !x.reads.isEmpty || !x.wrts.isEmpty
  else match s.qm.started with
    | (_, .post r _ _ _) :: _ => !(s.ring r).inHall && s.itemReady
    | _ => false

/-- The requesters from the one after `last` on, in rotation. -/
def rotation (last : Nat) : List Nat := (List.range 17).map (fun i => (last + 1 + i) % 17)

/-- The tag with which a requester may issue now: its port has taken no request in this SCLK and no requester before
it in rotation waits with a free tag. -/
def State.mayIssue (s : State) (u : Nat) : Option (BitVec 12) :=
  let p := mget { } s.iports (s.reqPort u).val
  if p.lastAt = some (s.now / 2) then none
  else if (rotation p.last).find? (fun v => decide (s.reqPort v = s.reqPort u) && (decide (v = u) || s.wants v) && (s.freeTag v).isSome) = some u
  then s.freeTag u
  else none

/-- Issue a request on an initiator port. -/
def State.issueReq (s : State) (x : TagUse) : State :=
  { s with tags := s.tags ++ [x]
           iports := mput { } s.iports x.port.val { lastAt := some (s.now / 2), last := x.user.requester } }

/-- Bytes from an address upward, as a write request enables them. -/
def bytesAt (a : Nat) (l : List Byte) : Bytes := (List.range l.length).zip l |>.map (fun e => (a + e.1, e.2))

/-- The cell of an entry, where it has one, returns to its pool. -/
def State.freeCells (s : State) (cell : Option (BitVec 3 × Nat)) : State :=
  match cell with | some (p, i) => s.freeCellOf (fin 8 p.toNat) i | none => s

/-- A post completes its hall accesses: a hall ring's entry becomes visible, and its cell returns; another ring's goes out through
the initiator port, and waits for a tag where none is free. -/
def State.finishPost (s : State) (r : Ring) (data : BitVec 512) (cell : Option (BitVec 3 × Nat)) (who : PostBy) : Option State :=
  let x := s.ring r
  let n := x.next
  if x.inHall then
    let s := (s.freeCells cell).hallWrite (x.hallSlot n) (bytes64 data) |>.modRing r (fun x => { x with next := n + 1 })
    some (s.showPosts r)
  else match s.mayIssue 16 with
    | none => none
    | some tag =>
      let a := s.sysSlot x n
      let s := s.modRing r (fun x => { x with next := n + 1 })
      some (s.issueReq { tag := tag, port := s.reqPort 16, user := .post r n who cell, write := true, addr := a, beats := 2
                         data := bytesAt a.toNat (bytes64 data) })

/-- What a read of an entry meets (R306): an uncorrectable error stays in its word. -/
def State.entryRead (s : State) (a : Nat) (e : Ecc) : State :=
  ((match e with
    | .ok => s
    | .corrected => s.correctable instHall 1 a agQm
    | .uncorrectable => s.spoil instHall a).noteRead instHall 1 a 64 agQm)

/-- A fill completes: the entry lands in desk, first in the order of R300, unless its thread has gone; CONS advances. -/
def State.finishFill (s : State) (r : Ring) (n : Word) (t : Tid) (buf : BitVec 19) (live : Bool) (e : Ecc) : State :=
  let x := s.ring r
  let a := x.hallSlot n
  let data := s.hall64 a
  let s := s.entryRead a e
  let bad := s.poisoned instHall a 64
  let s := s.modRing r (fun x => { x with cons := x.cons + 1, ue := if bad && live then some s.now else x.ue
                                          lost := if live then x.lost else some s.now })
  if live then s.schedule s.now prioHall (.buffer (barrelOf t) buf data) else s

/-- An entry that a channel takes arrives (R349): CONS advances, and the engine holds its bytes from 0 on. -/
def State.finishTake (s : State) (r : Ring) (n : Word) (ch : DmaCh) (serial : Nat) (e : Ecc) : State :=
  let a := (s.ring r).hallSlot n
  let data := s.hall64 a
  let s := s.entryRead a e
  let bad := s.poisoned instHall a 64
  let s := s.modRing r (fun x => { x with cons := x.cons + 1, ue := if bad then some s.now else x.ue })
  let g : Engine := fin 16 (ch.val / 16)
  if (s.eng g).ringWait ∧ (s.eng g).serial = serial then
    s.modEng g (fun x => { x with ringWait := false, rbuf := pokes [] 0 (bytes64 data), dataAt := s.now })
  else s

/-- QM_ITEM_COMPLETE: the oldest started item, once the banks have accepted its accesses; the entry is read or written as a whole
then (log entry 46, DESIGN CHOICE). -/
def State.itemComplete (s : State) (e : Ecc) : State :=
  if !s.itemReady then s
  else match s.qm.started with
  | [] => s
  | (_, .post r data cell who) :: rest =>
    (match s.finishPost r data cell who with
     | none => s
     | some s => { s with qm := { s.qm with started := rest } })
  | (_, .fill r n t buf live) :: rest =>
    ({ s with qm := { s.qm with started := rest } }).finishFill r n t buf live e
  | (_, .take r n ch serial) :: rest => ({ s with qm := { s.qm with started := rest } }).finishTake r n ch serial e

/-- The oldest started item has made its accesses, and an initiator port takes its write where it needs one. -/
def State.itemOver (s : State) : Bool :=
  s.itemReady && (match s.qm.started with
    | (_, .post r _ _ _) :: _ => (s.ring r).inHall || (s.mayIssue 16).isSome
    | _ => true)

/-- A write of the queue manager to system memory is performed, or failed (R348); its entry's cell returns to its pool (R343). -/
def State.postDone (s : State) (r : Ring) (n : Word) (ok : Bool) (cell : Option (BitVec 3 × Nat)) : State :=
  let s := s.freeCells cell
  if ok then s.showPosts r
  else (s.modRing r (fun x => { x with err := true
                                       errAt := some (match x.errAt with
                                         | some m => if (n - x.prod).toNat < (m - x.prod).toNat then n else m
                                         | none => n) })).showPosts r

/-- A thread's fills are no longer live (R348). -/
def State.dropFills (s : State) (t : Tid) : State :=
  let f := fun (i : QmItem) => match i with
    | .fill r n u buf live => QmItem.fill r n u buf (live && decide (u ≠ t))
    | x => x
  { s with qm := { s.qm with items := s.qm.items.map f, started := s.qm.started.map (fun i => (i.1, f i.2)) } }

/-! ### Commands for rings (R340, R341) -/

/-- A ring descriptor breaks Table DMA-7. -/
def ringDescBad (w0 w1 w2 w3 : DWord) : Bool :=
  let k := w1.toNat % 32
  let base := w0.toNat % 2 ^ 42
  decide (w0.toNat / 2 ^ 42 % 2 ^ 21 ≠ 0) || decide (w1.toNat / 2 ^ 24 % 2 ^ 16 ≠ 0) || decide (w1.toNat / 2 ^ 5 % 2 ^ 9 ≠ 0) ||
  decide (w2 ≠ 0) || decide (w3 ≠ 0) || decide (k < 4) || decide (24 < k) ||
  decide (base % (64 * 2 ^ k) ≠ 0) || (w0.getLsbD 63 && decide (2 ^ 23 ≤ base)) || decide (w1.toNat / 2 ^ 40 = 0)

/-- Every hall byte of a range lies in a segment of the partition, and none in the secure region (R364). -/
def State.hallRangeIn (s : State) (p : Host) (a n : Nat) : Bool :=
  (List.range 128).all (fun seg => decide (65536 * (seg + 1) ≤ a) || decide (a + n ≤ 65536 * seg) || decide (s.partOf kSeg seg = some p)) &&
  decide (a + n ≤ 0x7C0000)

/-- The outcome of a LOAD: 0, or the code of QM_RCMDSTAT.ERR. -/
def State.loadErr (s : State) (p : Host) (r : Ring) (w0 w1 w2 w3 : DWord) : Nat :=
  let k := w1.toNat % 32
  if s.partOf kRing r.val ≠ some p then 1
  else if (s.ring r).loaded then 3
  else if ringDescBad w0 w1 w2 w3 then 2
  else if w0.getLsbD 63 ∧ s.hallRangeIn p (w0.toNat % 2 ^ 42) (64 * 2 ^ k) = false then 1
  else if s.partOf kPool (w1.toNat / 2 ^ 14 % 8) ≠ some p then 5
  else 0

/-- Record the outcome of a command. -/
def State.rcmdDone (s : State) (h : Host) (r : Ring) (err : Nat) : State :=
  { s with qm := { s.qm with rcmd := mput ((0 : BitVec 3), (0 : Ring)) s.qm.rcmd h.val (BitVec.ofNat 3 err, r) } }

/-- LOAD. -/
def State.ringLoad (s : State) (h : Host) (r : Ring) : State :=
  let a := (s.reg .qmRdbase).toNat + 32 * r.val
  let w0 := s.hallWord a
  let w1 := s.hallWord (a + 8)
  let err := s.loadErr h r w0 w1 (s.hallWord (a + 16)) (s.hallWord (a + 24))
  let s := (s.noteRead instHall 1 a 32 agQm).rcmdDone h r err
  if err = 0 then
    s.setRing r { loaded := true, inHall := w0.getLsbD 63, base := w0.setWidth 42, size := w1.toNat % 32
                  pool := (w1 >>> 14).setWidth 3, pside := w1.getLsbD 17, cside := w1.getLsbD 18
                  onFull := w1.getLsbD 19, nthr := w1.toNat / 2 ^ 40, nen := w1.getLsbD 23
                  notif := (w1 >>> 20).setWidth 3
                  drop := (s.ring r).drop, dberr := (s.ring r).dberr, ue := (s.ring r).ue, lost := (s.ring r).lost }
  else s

/-- Items of a ring that are queued or started. -/
def State.ringItems (s : State) (r : Ring) : Nat :=
  (s.qm.all.filter (fun i => match i with
    | .post q _ _ _ => decide (q = r) | .fill q _ _ _ _ => decide (q = r) | .take q _ _ _ => decide (q = r))).length

/-- UNLOAD: refused unless the ring is empty with no post in flight, staged or pending. -/
def State.ringUnload (s : State) (h : Host) (r : Ring) : State :=
  let x := s.ring r
  let err := if s.partOf kRing r.val ≠ some h then 1 else if !x.loaded then 3
    else if x.prod ≠ x.cons ∨ x.rsv ≠ 0 ∨ s.ringItems r ≠ 0 then 4 else 0
  let s := s.rcmdDone h r err
  if err = 0 then s.modRing r (fun x => { drop := x.drop, dberr := x.dberr, ue := x.ue, lost := x.lost }) else s

/-- Engines that wait for an entry of a ring that a DRAIN discards wait for the ring again. -/
def State.dropTakes (s : State) (r : Ring) : State :=
  s.qm.all.foldl (fun s i => match i with
    | .take q _ ch n =>
        let g : Engine := fin 16 (ch.val / 16)
        if q = r ∧ (s.eng g).ringWait ∧ (s.eng g).serial = n then s.modEng g (fun x => { x with ringWait := false, phase := .none }) else s
    | _ => s) s

/-- Gets in progress that engines make of a ring in system memory lose their entry (R341): they begin again with the next one. -/
def State.dropGets (s : State) (r : Ring) : State :=
  { s with engines := s.engines.map (fun e =>
      if e.2.work = .move ∧ e.2.phase = .reading ∧ e.2.ringWait = false ∧ e.2.d0.getLsbD 58 = true ∧ e.2.d0.toNat % 8192 = r.val ∧
          (s.ring r).inHall = false
      then (e.1, { e.2 with getLost := true }) else e) }

/-- Bursts in progress that have reserved a slot of a ring and not yet posted (R349). -/
def State.burstPosts (s : State) (r : Ring) : Nat :=
  (s.engines.filter (fun e => decide (e.2.work = .move) && decide (e.2.phase = .reading) && e.2.d1.getLsbD 63 &&
    decide (e.2.d1.toNat % 8192 = r.val))).length

/-- DRAIN with DMODE = 0 discards every entry; with DMODE = 1 the consumer side passes to hosts. -/
def State.ringDrain (s : State) (h : Host) (r : Ring) (takeover : Bool) : State :=
  let x := s.ring r
  let err := if s.partOf kRing r.val ≠ some h then 1 else if !x.loaded then 3 else 0
  let s := s.rcmdDone h r err
  if err ≠ 0 then s
  else if takeover then s.modRing r (fun x => { x with cside := true })
  else
    let keep := fun (i : QmItem) => match i with | .fill q _ _ _ _ => decide (q ≠ r) | .take q _ _ _ => decide (q ≠ r) | .post _ _ _ _ => true
    let s := (s.dropTakes r).dropGets r
    let s := { s with qm := { s.qm with items := s.qm.items.filter keep, started := s.qm.started.filter (fun i => keep i.2) } }
    let failed := x.errAt.isSome
    let left := s.ringItems r + (s.staged.filter (fun e => match e.2 with | .post q _ _ => decide (q = r) | _ => false)).length +
      s.burstPosts r
    s.modRing r (fun x => { x with
      cons := x.prod, take := x.prod, err := false, errAt := none
      next := if failed then x.prod else x.next
      rsv := if failed then left else x.rsv })

/-- The producer doorbell (R342). -/
def State.prodDoorbell (s : State) (r : Ring) (v : Word) : State :=
  let x := s.ring r
  let d := (v - x.prod).toNat
  if x.loaded && x.pside && decide (0 < d) && decide (d + x.used ≤ x.slots) then
    (s.modRing r (fun x => { x with next := v })).setProd r v
  else s.setRing r { x with dberr := some s.now }

/-- The consumer doorbell (R342). -/
def State.consDoorbell (s : State) (r : Ring) (v : Word) : State :=
  let x := s.ring r
  let d := (v - x.cons).toNat
  if x.loaded && x.cside && decide (0 < d) && decide (d ≤ x.used) then s.setRing r { x with cons := v }
  else s.setRing r { x with dberr := some s.now }

/-- A write to QM_RCMD. -/
def State.rcmdWrite (s : State) (h : Host) (v : Word) : State :=
  let r : Ring := fin 8192 (fieldN v 0 13)
  let c := fieldN v 30 2
  if c = 1 then s.ringLoad h r else if c = 2 then s.ringUnload h r
  else if c = 3 then s.ringDrain h r (bit v 29) else s

/-- A write to QM_POOLBASE or QM_POOLCNT: refused while a cell of the pool is in use (R343). -/
def State.poolWrite (s : State) (p : Fin 8) (r : Reg) (v : Word) : State :=
  if (s.pool p).taken.isEmpty then
    s.setReg r (match r with
      | .qmPoolcnt _ => put 0 (sat 4096 (fieldN v 0 13))
      | _ => v &&& r.rw)
  else s

/-- A tag cap: 0 stores 1. -/
def tagmaxOf (v : Word) : Word := (v &&& 0x80000000) ||| put 0 (if fieldN v 0 12 = 0 then 1 else fieldN v 0 12)

/-! ### The commands -/

/-- QM_ITEM_START (R347). -/
def execQmItemStart (s : State) : Host.Outcome State Fault Refusal := .next s.itemStart

/-- QM_ITEM_COMPLETE (R347). -/
def execQmItemComplete (e : Ecc) (s : State) : Host.Outcome State Fault Refusal := .next (s.itemComplete e)

/-- LOAD (R341). -/
def execLoad (a : Agent) (r : Ring) (s : State) : Host.Outcome State Fault Refusal :=
  .next (s.regWrite a true (fun s => s.ringLoad (s.bankOf a) r))

/-- UNLOAD (R341). -/
def execUnload (a : Agent) (r : Ring) (s : State) : Host.Outcome State Fault Refusal :=
  .next (s.regWrite a true (fun s => s.ringUnload (s.bankOf a) r))

/-- DRAIN with DMODE = 0 (R341). -/
def execDrain (a : Agent) (r : Ring) (s : State) : Host.Outcome State Fault Refusal :=
  .next (s.regWrite a true (fun s => s.ringDrain (s.bankOf a) r false))

/-- DRAIN with DMODE = 1 (R341). -/
def execDrainTakeover (a : Agent) (r : Ring) (s : State) : Host.Outcome State Fault Refusal :=
  .next (s.regWrite a true (fun s => s.ringDrain (s.bankOf a) r true))

/-- PRODUCER_DOORBELL (R342). -/
def execProducerDoorbell (a : Agent) (r : Ring) (v : Word) (s : State) : Host.Outcome State Fault Refusal :=
  .next (s.regWrite a (s.holds a kRing r.val) (fun s => s.prodDoorbell r v))

/-- CONSUMER_DOORBELL (R342). -/
def execConsumerDoorbell (a : Agent) (r : Ring) (v : Word) (s : State) : Host.Outcome State Fault Refusal :=
  .next (s.regWrite a (s.holds a kRing r.val) (fun s => s.consDoorbell r v))

end Sys2Proof.Machine
end

