-- ==== Sys2Proof/Machine/Irq.lean ====
section
/-! DEFINITION. Interrupt lines and the assignment of resources to partitions (R361 to R368). -/

namespace Sys2Proof.Machine

/-! ### Interrupt lines (R367, R368) -/

/-- IRQ_LCTL.COUNT of a line. -/
def State.irqCountOf (s : State) (l : IrqLine) : Nat := fieldN (s.reg (.irqLctl l)) 0 16

/-- ASSERT is set in every SCLK in which PEND has reached COUNT. -/
def State.irqJudge (s : State) (l : IrqLine) : State :=
  s.modIrq l (fun x => { x with isAssert := x.isAssert || decide (s.irqCountOf l ≤ x.pend) })

/-- IRQ_EVENT_COUNT: one event in this SCLK; the timer starts with the first. -/
def State.irqEvent (s : State) (l : IrqLine) : State :=
  (s.modIrq l (fun x => { x with
    pend := sat 65535 (x.pend + 1)
    startAt := if x.pend = 0 then some (lclkAt s.now) else x.startAt
    inSclk := if x.sclk = s.now / 2 then x.inSclk + 1 else 1
    sclk := s.now / 2 })).irqJudge l

/-- The line's timer has reached IRQ_LTIME.TIME µs with events pending (R368). -/
def State.irqTimeout (s : State) (l : IrqLine) : Bool :=
  let x := s.irq l
  let t := fieldN (s.reg (.irqLtime l)) 0 16
  !x.isAssert && decide (0 < t) && decide (0 < x.pend) &&
  (match x.startAt with | some e => decide (e + 8 * usLclk s.mhz t ≤ s.now) | none => false)

/-- IRQ_COALESCE_TIMEOUT. -/
def State.irqCoalesce (s : State) (l : IrqLine) : State :=
  if s.irqTimeout l then s.modIrq l (fun x => { x with isAssert := true }) else s

/-- ACK: events counted in the same SCLK count after it. -/
def State.irqAck (s : State) (l : IrqLine) : State :=
  (s.modIrq l (fun x =>
    let n := if x.sclk = s.now / 2 then x.inSclk else 0
    { x with pend := n, isAssert := false, startAt := if n = 0 then none else some (lclkAt s.now) })).irqJudge l

/-- A write to IRQ_LCTL: COUNT 0 stores 1; a lower COUNT may assert the line. -/
def State.irqLctlWrite (s : State) (l : IrqLine) (v : Word) : State :=
  let c := fieldN v 0 16
  (s.setReg (.irqLctl l) ((v &&& 0x80000000) ||| put 0 (if c = 0 then 1 else c))).irqJudge l

/-- A write to IRQ_TGT: a line outside the writer's partition stores EN = 0 (R367). -/
def State.irqTgtWrite (s : State) (a : Agent) (src : BitVec 11) (v : Word) : State :=
  let w := v &&& 0x8000003F
  s.setReg (.irqTgt src) (if s.holds a kIrq (fieldN v 0 6) then w else w &&& 0x3F)

/-- IRQ_OUT follows ASSERT and EN from the SCLK after a change. -/
def State.irqDrive (s : State) : State :=
  if s.now % 2 = 0 then
    (s.irqs.map (·.1)).foldl (fun s k =>
      let l := fin 64 k
      let on := bit (s.reg (.irqLctl l)) 31
      s.modIrq l (fun x => { x with out := x.isAssert && on })) s
  else s

/-! ### Assignment (R361, R362) -/

/-- The resource is in the state in which Table HST-3 refuses a change of its entry. -/
def State.assignBusy (s : State) (k : Fin 17) (i : Nat) : Bool :=
  match k.val with
  | 0 => bit (s.reg (.thrCtl (fin 128 i))) 0
  | 1 => (s.pinOwner (fin 512 i)).isSome || (s.pin (fin 512 i)).locked
  | 2 => (s.timer (fin 256 i)).run
  | 3 => (s.bell (fin 16 i)).running
  | 4 => bit (s.reg (.cvpCfg (fin 32 i))) 31
  | 5 => decide (fieldN (s.reg (.trpStnCtl (fin 64 i))) 30 2 ≠ 0)
  | 7 => bit (s.reg (.sncCfg (fin 64 i))) 31
  | 11 => decide ((s.ch (fin 256 i)).st = .queued) || decide ((s.ch (fin 256 i)).st = .run) || decide ((s.ch (fin 256 i)).st = .stopped)
  | 12 => !(s.pool (fin 8 i)).taken.isEmpty
  | 14 => (s.irq (fin 64 i)).isAssert
  | 16 => (s.ring (fin 8192 i)).loaded
  | _ => false

/-- HST_PERR of a refused entry. -/
def perrWord (k : Fin 17) (i : Nat) : Word := flagAt 31 true ||| put 16 k.val ||| put 0 i

/-- One entry of an assignment word. -/
def State.assignEntry (s : State) (k : Fin 17) (word : Fin 1024) (j : Nat) (v : Word) : State :=
  let i := 8 * word.val + j
  let old := s.reg (.hstPa k word)
  let m : Word := put (4 * j) 15
  if v &&& m = old &&& m then s
  else if s.assignBusy k i then ({ s with perrNew := some s.now } : State).setReg .hstPerr (perrWord k i)
  else s.setReg (.hstPa k word) ((old &&& ~~~m) ||| (v &&& m))

/-- A write to an assignment word: each entry is judged alone. -/
def State.assignWrite (s : State) (k : Fin 17) (word : Fin 1024) (v : Word) : State :=
  if 8 * word.val < paCount k then (List.range 8).foldl (fun s j => s.assignEntry k word j v) s else s

/-! ### The commands -/

/-- ASSIGNMENT_WRITE (R362). -/
def execAssignmentWrite (a : Agent) (kind : Fin 17) (word : Fin 1024) (v : Word) (s : State) :
    Host.Outcome State Fault Refusal :=
  .next (s.regWriteLow a (s.isOwner a) (fun s => s.assignWrite kind word v))

/-- IRQ_TGT_WRITE (R367). -/
def execIrqTgtWrite (a : Agent) (src : BitVec 11) (v : Word) (s : State) : Host.Outcome State Fault Refusal :=
  .next (s.regWriteLow a (match s.agentPart a with | some p => s.sourceIn p src.toNat | none => false)
    (fun s => s.irqTgtWrite a src v))

/-- IRQ_LCTL_WRITE (R368). -/
def execIrqLctlWrite (a : Agent) (l : IrqLine) (v : Word) (s : State) : Host.Outcome State Fault Refusal :=
  .next (s.regWriteLow a (s.holds a kIrq l.val) (fun s => s.irqLctlWrite l v))

/-- IRQ_EVENT_COUNT (R368). -/
def execIrqEventCount (l : IrqLine) (s : State) : Host.Outcome State Fault Refusal := .next (s.irqEvent l)

/-- IRQ_COALESCE_TIMEOUT (R368). -/
def execIrqCoalesceTimeout (l : IrqLine) (s : State) : Host.Outcome State Fault Refusal := .next (s.irqCoalesce l)

/-- ACK (R368). -/
def execAck (a : Agent) (l : IrqLine) (s : State) : Host.Outcome State Fault Refusal :=
  .next (s.regWriteLow a (s.holds a kIrq l.val) (fun s => s.irqAck l))

end Sys2Proof.Machine
end

