-- ==== Sys2Proof/Machine/Locks.lean ====
section
/-! DEFINITION. The lock unit: lock words, leases, abandonment, watches and host lock commands (R369 to R381). -/

namespace Sys2Proof.Machine

/-! ### Lock words (R369, R370) -/

/-- Owner code of a thread. -/
def ownerThread (t : Tid) : BitVec 16 := BitVec.ofNat 16 (t.val + 1)
/-- Owner code of a host port. -/
def ownerHost (h : Host) : BitVec 16 := BitVec.ofNat 16 (0x100 + h.val)

/-- OWNER of a lock word. -/
def lwOwner (w : DWord) : BitVec 16 := w.setWidth 16
/-- SEQ of a lock word. -/
def lwSeq (w : DWord) : Word := (w >>> 16).setWidth 32
/-- ABANDONED of a lock word. -/
def lwAband (w : DWord) : Bool := w.getLsbD 63

/-- A lock word as the lock unit writes it: bits 61 to 48 are zero. -/
def lockWord (aband expired : Bool) (seq : Word) (owner : BitVec 16) : DWord :=
  (if aband then 1#64 <<< 63 else 0) ||| (if expired then 1#64 <<< 62 else 0) |||
  (seq.setWidth 64 <<< 16) ||| owner.setWidth 64

/-- The word is acquirable. -/
def acquirable (w : DWord) : Bool := decide (lwOwner w = 0) || lwAband w

/-- The requester holds the word. -/
def heldBy (w : DWord) (me : BitVec 16) : Bool := decide (lwOwner w = me) && !lwAband w

/-- The word as read, with RES in bits 51 to 48 and zeros above to bit 61 (R371). -/
def withRes (w : DWord) (res : Nat) : DWord :=
  (w &&& 0xC000FFFFFFFFFFFF#64) ||| (BitVec.ofNat 64 (res % 16) <<< 48)

/-- The word at an aligned address as the lock unit reads it. -/
def State.lockRead (s : State) (a : Nat) : DWord := BitVec.ofNat 64 (leNat (s.hallRead a 8))
/-- Write a word in one granule access. -/
def State.lockStore (s : State) (a : Nat) (w : DWord) : State := s.hallWrite a (leBytes w.toNat 8)

/-! ### Watches (R377) -/

/-- One watcher wakes. -/
def State.wake (s : State) (x : Watch) : State :=
  match x.who with
  | .thread t => s.wakeInput t x.input.toNat
  | .host h =>
    let s := s.modHps h (fun b => { b with wakes := sat 511 (b.wakes + 1), lastWake := x.addr })
    let line := fieldN (s.reg (.hpsHwcfg h)) 0 6
    if s.partOf kIrq line = some h then s.command (sclkAfter s.now) (.irqEventCount (fin 64 line)) else s

/-- Every watch on a word wakes and is removed. -/
def State.wakeAll (s : State) (a : Nat) : State :=
  let hit := s.locks.watches.filter (fun x => decide (x.addr.toNat = a))
  let s := { s with locks := { s.locks with watches := s.locks.watches.filter (fun x => decide (x.addr.toNat ≠ a)) } }
  hit.foldl State.wake s

/-- Remove the watches of a watcher. -/
def State.unwatchAll (s : State) (who : Watcher) : State :=
  { s with locks := { s.locks with watches := s.locks.watches.filter (fun x => decide (x.who ≠ who)) } }

/-- Place a watch: it replaces the watcher's watch on the same word; none where 256 entries are used. -/
def State.placeWatch (s : State) (x : Watch) : Option State :=
  let rest := s.locks.watches.filter (fun y => !(decide (y.who = x.who) && decide (y.addr = x.addr)))
  if 256 ≤ rest.length then none else some { s with locks := { s.locks with watches := rest ++ [x] } }

/-! ### Leases (R372, R373) -/

/-- The partition that a lease counts for (R363). -/
def State.ownerPart (s : State) (owner : BitVec 16) : Option Host :=
  if 0x100 ≤ owner.toNat then some (fin 8 (owner.toNat - 0x100)) else s.partOf kThread (owner.toNat - 1)

/-- The lease of a word, with its entry. -/
def State.leaseOf (s : State) (a : Nat) : Option (Nat × Lease) :=
  s.locks.leases.findSome? (fun e => match e.2 with | some l => if l.addr.toNat = a then some (e.1, l) else none | none => none)

/-- Leases held for a partition. -/
def State.leasesOf (s : State) (p : Option Host) : Nat :=
  (s.locks.leases.filter (fun e => match e.2 with | some l => decide (s.ownerPart l.owner = p) | none => false)).length

/-- Leases of an owner. -/
def State.leasesBy (s : State) (owner : BitVec 16) : List (Nat × Lease) :=
  s.locks.leases.filterMap (fun e => match e.2 with | some l => if l.owner = owner then some (e.1, l) else none | none => none)

/-- Replace a lease entry. -/
def State.setLease (s : State) (i : Nat) (l : Option Lease) : State :=
  { s with locks := { s.locks with leases := mput none s.locks.leases i l } }

/-- The lowest free lease entry. -/
def State.freeLease (s : State) : Option Nat :=
  (List.range 1024).find? (fun i => (mget none s.locks.leases i).isNone)

/-- The cycle at which a lease of `us` µs ends: 0 counts as 1 and more than 10,000,000 as that (R372). -/
def State.leaseEnd (s : State) (us : Word) : Nat :=
  wallEnd s.mhz s.now (if us = 0 then 1 else min us.toNat 10000000)

/-- A lease ends without release: an abandonment write is queued (R373, R374). -/
def State.endLease (s : State) (i : Nat) (expired : Bool) : State :=
  match mget none s.locks.leases i with
  | none => s
  | some l =>
    let s := s.setLease i none
    { s with locks := { s.locks with queue := s.locks.queue ++ [.abandon l.addr l.owner expired] } }

/-- Every lease of an owner ends, in ascending entry order (R374). -/
def State.endLeases (s : State) (owner : BitVec 16) : State :=
  ((s.leasesBy owner).map (·.1)).foldl (fun s i => s.endLease i false) s

/-! ### Operations (Table HST-11) -/

/-- An abandonment write at its bank: the word, then its watchers (R374). -/
def State.abandonWrite (s : State) (a : Nat) (owner : BitVec 16) (expired : Bool) : State :=
  let w := s.lockRead a
  (s.lockStore a (lockWord true expired (lwSeq w + 1) owner)).wakeAll a

/-- A queued abandonment of a word. -/
def LockReq.isAbandon (a : Nat) : LockReq → Bool
  | .abandon b _ _ => decide (b.toNat = a)
  | _ => false

/-- An operation on a word whose abandonment is still queued performs it first and withdraws it (R375). -/
def State.lockSettle (s : State) (a : Nat) : State :=
  match s.locks.queue.find? (LockReq.isAbandon a) with
  | some (.abandon b owner expired) =>
    let s := { s with locks := { s.locks with queue := s.locks.queue.erase (.abandon b owner expired) } }
    s.abandonWrite a owner expired
  | _ => s

/-- HPASS and host ACQUIRE: the word as read, the code RES and the state after. -/
def State.lockAcquire (s : State) (a : BitVec 23) (me : BitVec 16) (us : Word) : DWord × Nat × State :=
  let s := s.lockSettle a.toNat
  let w := s.lockRead a.toNat
  if acquirable w then
    let p := s.ownerPart me
    let cap := match p with | some h => fieldN (s.reg (.hstPcfg h)) 0 11 | none => 0
    let own := s.leaseOf a.toNat
    match (match own with | some (i, _) => some i | none => s.freeLease) with
    | some i =>
      if (match own with | some (_, l) => decide (s.ownerPart l.owner = p) | none => false) || decide (s.leasesOf p < cap) then
        (w, 0, (s.setLease i (some { addr := a, owner := me, deadline := s.leaseEnd us })).lockStore a.toNat
          (lockWord false false (lwSeq w + 1) me))
      else (w, 3, s)
    | none => (w, 3, s)
  else if heldBy w me then
    (w, 1, match s.leaseOf a.toNat with
      | some (i, l) => s.setLease i (some { l with deadline := s.leaseEnd us })
      | none => s)
  else (w, 2, s)

/-- HFREE and host FREE. -/
def State.lockFree (s : State) (a : BitVec 23) (me : BitVec 16) : DWord × Nat × State :=
  let s := s.lockSettle a.toNat
  let w := s.lockRead a.toNat
  if heldBy w me then
    let s := match s.leaseOf a.toNat with | some (i, _) => s.setLease i none | none => s
    (w, 0, (s.lockStore a.toNat (lockWord false false (lwSeq w + 1) 0)).wakeAll a.toNat)
  else (w, 2, s)

/-- HWATCH and host WATCH. -/
def State.lockWatch (s : State) (x : Watch) : DWord × Nat × State :=
  let s := s.lockSettle x.addr.toNat
  let w := s.lockRead x.addr.toNat
  if acquirable w then (w, 4, s.wake x)
  else match s.placeWatch x with
    | some s' => (w, 0, s')
    | none => (w, 3, s)

/-- HCAS and host CAS. -/
def State.lockCas (s : State) (a : BitVec 23) (cmp swp : DWord) : DWord × Nat × State :=
  let s := s.lockSettle a.toNat
  let w := s.lockRead a.toNat
  if w = cmp then (w, 0, s.lockStore a.toNat swp) else (w, 2, s)

/-- Host UNWATCH. -/
def State.lockUnwatch (s : State) (a : BitVec 23) (h : Host) : DWord × Nat × State :=
  let s := s.lockSettle a.toNat
  (s.lockRead a.toNat, 0, { s with locks := { s.locks with
    watches := s.locks.watches.filter (fun y => !(decide (y.who = .host h) && decide (y.addr = a))) } })

/-! ### Host commands (R371, R380) -/

/-- HPS_HCMD.BUSY: until 4 SCLK after the command is performed. -/
def State.hpsBusy (s : State) (h : Host) : Bool :=
  let b := s.hps h
  b.busy || (match b.doneAt with | some c => decide (s.now < c + 8) | none => false)

/-- The address of a host command is one it may use (R371). -/
def State.hpsAddrOk (s : State) (h : Host) (a : BitVec 23) : Bool :=
  decide (a.toNat % 8 = 0) && decide (s.partOf kSeg (a.toNat / 65536) = some h) && (!secureAddr a.toNat || decide (h = s.owner))

/-- A write of GO with an operation: ignored while BUSY; RES 5 at once for an address or an operation that cannot be. -/
def State.hpsGo (s : State) (h : Host) (op : BitVec 3) : State :=
  if s.hpsBusy h then s
  else
    let a : BitVec 23 := (s.reg (.hpsHaddr h)).setWidth 23
    let s := s.modHps h (fun b => { b with op := op })
    if !(s.hpsAddrOk h a) || decide (op = 0) || decide (op = 6) || decide (op = 7) then s.modHps h (fun b => { b with res := 5 })
    else
      let r := LockReq.host h op a (s.reg (.hpsHdur h)) (join64 (s.reg (.hpsHcmpLo h)) (s.reg (.hpsHcmpHi h)))
        (join64 (s.reg (.hpsHswpLo h)) (s.reg (.hpsHswpHi h)))
      let s := s.modHps h (fun b => { b with busy := true })
      { s with locks := { s.locks with queue := s.locks.queue ++ [r] } }

/-- A host command at its bank; its right to the word is judged there again, as the access is made then (R365). -/
def State.hpsPerform (s : State) (h : Host) (op : BitVec 3) (a : BitVec 23) (dur : Word) (cmp swp : DWord) : State :=
  if !s.hpsAddrOk h a then s.modHps h (fun b => { b with busy := false, doneAt := some s.now, res := 5 }) else
  let s := s.noteRead instHall 1 a.toNat 8 agLock
  let r := if op = 1 then s.lockAcquire a (ownerHost h) dur
    else if op = 2 then s.lockFree a (ownerHost h)
    else if op = 3 then s.lockCas a cmp swp
    else if op = 4 then s.lockWatch { who := .host h, addr := a, input := 0 }
    else s.lockUnwatch a h
  r.2.2.modHps h (fun b => { b with busy := false, doneAt := some s.now, res := BitVec.ofNat 3 r.2.1, resWord := withRes r.1 r.2.1 })

/-- The access that is next: the first one queued whose bank is granted to the lock unit (R303, R380). -/
def State.lockNext (s : State) : Option LockReq := s.locks.queue.find? (fun r => decide (s.bankGrant (hallBank r.addr) = .lock))

/-- A queued access is made at its bank. -/
def State.lockMake (s : State) (r : LockReq) : State :=
  let s := ({ s with locks := { s.locks with queue := s.locks.queue.erase r } } : State).useBank (hallBank r.addr)
  match r with
  | .abandon a owner expired => s.abandonWrite a.toNat owner expired
  | .host h op a dur cmp swp => s.hpsPerform h op a dur cmp swp

/-- LOCK_UNIT_ACCESS. -/
def State.lockAccess (s : State) : State := match s.lockNext with | some r => s.lockMake r | none => s

/-- ABANDONMENT_WRITE: the next access, where it is one. -/
def State.abandonNext (s : State) : State :=
  match s.lockNext with
  | some (.abandon a owner expired) => s.lockMake (.abandon a owner expired)
  | _ => s

/-- HPS_FORCE: the word's lease ends as expired (Table HST-12); bits 2 to 0 are ignored. -/
def State.hpsForce (s : State) (a : BitVec 23) : State :=
  match s.leaseOf (a.toNat / 8 * 8) with
  | some (i, _) => ({ s with locks := { s.locks with noLease := false } }).endLease i true
  | none => { s with locks := { s.locks with noLease := true } }

/-- A lease's deadline has passed: it ends in the LCLK after it (Table HST-12). -/
def State.leaseDue (s : State) (i : Nat) : Bool :=
  match mget none s.locks.leases i with | some l => decide (l.deadline + 8 ≤ s.now) | none => false

/-- LEASE_DEADLINE. -/
def State.leaseExpire (s : State) (i : Nat) : State := if s.leaseDue i then s.endLease i true else s

/-- A host port's reset at the lock unit: its watches and its pending command go (R360, R377). Its leases end at recognition
(Table HST-12). -/
def State.lockHostReset (s : State) (h : Host) : State :=
  let mine := fun (r : LockReq) => match r with | .host g _ _ _ _ _ => decide (g = h) | _ => false
  let s := s.unwatchAll (.host h)
  ({ s with locks := { s.locks with queue := s.locks.queue.filter (fun r => !mine r) } }).modHps h (fun b => { b with busy := false })

/-- A write to HPS_HCMD. -/
def State.hcmdWrite (s : State) (h : Host) (v : Word) : State :=
  if bit v 31 then s.hpsGo h (BitVec.ofNat 3 (fieldN v 0 3)) else s.modHps h (fun b => { b with op := BitVec.ofNat 3 (fieldN v 0 3) })

/-! ### The commands -/

/-- ACQUIRE (R371). -/
def execAcquire (a : Agent) (s : State) : Host.Outcome State Fault Refusal :=
  .next (s.regWrite a true (fun s => s.hpsGo (s.bankOf a) 1))

/-- FREE (R371). -/
def execFree (a : Agent) (s : State) : Host.Outcome State Fault Refusal :=
  .next (s.regWrite a true (fun s => s.hpsGo (s.bankOf a) 2))

/-- CAS (R371). -/
def execCas (a : Agent) (s : State) : Host.Outcome State Fault Refusal :=
  .next (s.regWrite a true (fun s => s.hpsGo (s.bankOf a) 3))

/-- WATCH (R377). -/
def execWatch (a : Agent) (s : State) : Host.Outcome State Fault Refusal :=
  .next (s.regWrite a true (fun s => s.hpsGo (s.bankOf a) 4))

/-- UNWATCH (R371). -/
def execUnwatch (a : Agent) (s : State) : Host.Outcome State Fault Refusal :=
  .next (s.regWrite a true (fun s => s.hpsGo (s.bankOf a) 5))

/-- HOST_LOCK_INVALID_OP (R371, Table HST-14): an operation 0, 6 or 7 answers RES 5. -/
def execHostLockInvalidOp (a : Agent) (op : BitVec 3) (s : State) : Host.Outcome State Fault Refusal :=
  .next (s.regWrite a true (fun s =>
    if op = 0 ∨ op = 6 ∨ op = 7 then s.hpsGo (s.bankOf a) op else s))

/-- LOCK_UNIT_ACCESS (R380). -/
def execLockUnitAccess (s : State) : Host.Outcome State Fault Refusal := .next s.lockAccess

/-- HPS_FORCE (R373). -/
def execHpsForce (a : Agent) (addr : BitVec 23) (s : State) : Host.Outcome State Fault Refusal :=
  .next (s.regWrite a (s.isOwner a) (fun s => s.hpsForce addr))

/-- LEASE_DEADLINE (R373). -/
def execLeaseDeadline (e : Fin 1024) (s : State) : Host.Outcome State Fault Refusal := .next (s.leaseExpire e.val)

/-- ABANDONMENT_WRITE (R374). -/
def execAbandonmentWrite (s : State) : Host.Outcome State Fault Refusal := .next s.abandonNext

end Sys2Proof.Machine
end

