-- ==== Sys2Proof/Machine/Halyard.lean ====
section
/-! DEFINITION. The Halyard (chapter 14): links, frames, positions, chain time, tunnels and queries. -/

namespace Sys2Proof.Machine

/-! ### Frames -/

/-- Change the Halyard endpoint. -/
def State.modHly (s : State) (f : HlyS → HlyS) : State := { s with hly := f s.hly }

/-- The node is the head. -/
def State.isHead (s : State) : Bool := bit (s.reg .hlyCtl) 31

/-- The node's position: 0 on the head, 0x3FFF without a valid position (R386). -/
def State.hpos (s : State) : BitVec 14 := if s.isHead then 0 else s.hly.pos

/-- The node has a valid position. -/
def State.hposv (s : State) : Bool := s.isHead || s.hly.posv

/-- The endpoint works: not in a cold reset nor in the ROOT_ERR case of the recovery ROM (R383, R385). -/
def State.hlyOn (s : State) : Bool := !(decide (s.sys.phase = .cold)) && !s.sys.rootErr

/-- A link is fitted (R382): STRAP_HLY_EN bit 0 upstream, bit 1 downstream. -/
def State.fitted (s : State) (down : Bool) : Bool := s.sys.straps.hlyEn.getLsbD (if down then 1 else 0)

/-- HLY_UP_TXEN and HLY_DN_TXEN: a fitted link drives its lane while the endpoint works, in every state of the link (R40, R383). -/
def State.txen (s : State) (down : Bool) : Bool := s.hlyOn && s.fitted down

/-- HLY_UP_PADLOOP and HLY_DN_PADLOOP: the pads of the link loop back for drill 0x14 (R40, R429). -/
def State.padloop (s : State) (down : Bool) : Bool :=
  match s.drill.cur with
  | some d => decide (d.code = 0x14) && decide (d.arg0 = if down then 1 else 0)
  | none => false

/-- A link's state. -/
def State.link (s : State) (down : Bool) : LinkSt := if down then s.hly.dn else s.hly.up

/-- Set a link's state; source 0x7E9 pulses (Table HLY-11). -/
def State.setLink (s : State) (down : Bool) (x : LinkSt) : State :=
  (s.modHly (fun h => if down then { h with dn := x } else { h with up := x })).pulse 0x7E9

/-- A lane. -/
def State.lane (s : State) (down : Bool) : Lane := if down then s.hly.laneDn else s.hly.laneUp

/-- Replace a lane. -/
def State.setLane (s : State) (down : Bool) (x : Lane) : State :=
  s.modHly (fun h => if down then { h with laneDn := x } else { h with laneUp := x })

/-- Bytes of a payload read as a number, least significant byte first. -/
def frameNum (f : Frame) (off n : Nat) : Nat := leNat ((f.payload.drop off).take n)

/-- The payload length in 4-byte words. -/
def lenWords (p : List Byte) : BitVec 7 := BitVec.ofNat 7 (ceilDiv p.length 4)

/-- A frame of this node waits for a lane (R385); SEQ counts the node's frames. -/
def State.sendOwn (s : State) (down : Bool) (typ : BitVec 4) (bc : Bool) (dst : BitVec 14) (p : List Byte) : State :=
  let f : Frame :=
    { typ := typ, bc := bc, upw := !down, dst := dst, src := s.hpos, hops := 0,
      len := lenWords p, seq := s.hly.seq, payload := p }
  let l := s.lane down
  (s.setLane down { l with queue := l.queue ++ [f] }).modHly (fun h => { h with seq := h.seq + 1 })

/-- The cycles a frame takes on a lane: 16 characters and its payload, of 10 HCLK each, which are 30 BCLK at every root (R17, R382,
R396). -/
def frameCycles (f : Frame) : Nat := 30 * (16 + 4 * f.len.toNat)

/-! ### The characters of a frame (R382) -/

/-- A frame's header word (Table HLY-1). -/
def frameHeader (f : Frame) : DWord :=
  f.typ ++ BitVec.ofBool f.bc ++ BitVec.ofBool f.upw ++ f.dst ++ f.src ++ f.hops ++ f.len ++ f.seq

/-- One bit of the CRC register, which is shifted towards its least significant bit. -/
def crcBit (c : Word) : Word := if c.getLsbD 0 then (c >>> 1) ^^^ 0xEDB88320 else c >>> 1

/-- One byte of the CRC register. -/
def crcByte (c : Word) (v : Byte) : Word :=
  (List.range 8).foldl (fun c _ => crcBit c) (c ^^^ v.setWidth 32)

/-- CRC-32 of bytes with the polynomial of IEEE 802.3 (R382), whose register starts at all ones and is complemented (PRESUMED, log
entry 17). -/
def crc32 (l : List Byte) : Word := ~~~ (l.foldl crcByte 0xFFFFFFFF)

/-- The bytes of a frame before its CRC: the header, and the payload with zeros up to the length of the header. -/
def frameBytes (f : Frame) : List Byte :=
  leBytes (frameHeader f).toNat 8 ++ (f.payload ++ List.replicate (4 * f.len.toNat - f.payload.length) 0)

/-- The characters of a whole frame on a lane, control characters marked: /K27.7/, the bytes, their CRC, and /K29.7/, or /K30.7/ on a
forwarded frame whose CRC was bad (R382, R385). -/
def frameChars (x : SentFrame) : List (Bool × Byte) :=
  let body := frameBytes x.frame
  (true, 0xFB) :: (body ++ leBytes (crc32 body).toNat 4).map (fun v => (false, v)) ++ [(true, if x.aborted then 0xFE else 0xFD)]

/-! ### Sending and forwarding -/

/-- Replace payload bytes from an offset on. -/
def putBytes (p : List Byte) (off : Nat) (l : List Byte) : List Byte :=
  p.take off ++ l ++ p.drop (off + l.length)

/-- A node's own frame takes its departure stamp as it leaves (R385, R387, R388): CT of a BEACON, t3 of a DLYRSP. -/
def stampFrame (f : Frame) (stamp : DWord) : Frame :=
  if f.typ = 1 then { f with payload := putBytes f.payload 0 (leBytes stamp.toNat 8) }
  else if f.typ = 3 then { f with payload := putBytes f.payload 8 (leBytes stamp.toNat 8) }
  else f

/-- FRAME_SEND: an idle lane of an UP link takes the oldest waiting frame. -/
def State.frameSend (s : State) (down : Bool) (stamp : DWord) : State :=
  let l := s.lane down
  match l.queue with
  | [] => s
  | f :: rest =>
    if s.hlyOn && decide (s.link down = .up) && decide (l.busyTo ≤ s.now) then
      let f := stampFrame f stamp
      let s := s.setLane down { queue := rest, cur := some f, busyTo := s.now + frameCycles f }
      s.modHly (fun h => { h with
        sent := h.sent ++ [{ down := down, frame := f, aborted := false }]
        t1 := if f.typ = 2 then stamp else h.t1 })
    else s

/-- A lane takes its next frame in this cycle. -/
def State.sendDue (s : State) (down : Bool) : Bool :=
  s.hlyOn && decide (s.link down = .up) && decide ((s.lane down).busyTo ≤ s.now) && !(s.lane down).queue.isEmpty

/-- Mark the newest entry of a lane as aborted. -/
def abortLast (down : Bool) : List SentFrame → List SentFrame
  | [] => []
  | x :: rest =>
    if x.down == down && !(rest.any (fun y => y.down == down)) then { x with aborted := true } :: rest
    else x :: abortLast down rest

/-- A forwarded frame arrives for a lane: an own frame in progress is aborted and waits again (R385). -/
def State.yieldLane (s : State) (down : Bool) : State :=
  let l := s.lane down
  match l.cur with
  | some f =>
    if s.now < l.busyTo then
      (s.setLane down { queue := f :: l.queue, cur := none, busyTo := s.now }).modHly
        (fun h => { h with sent := abortLast down h.sent })
    else s
  | none => s

/-- The frame is addressed to this node (R384). -/
def State.receives (s : State) (f : Frame) : Bool :=
  f.bc || decide (f.typ = 2) || decide (f.typ = 3) || decide (f.typ = 4) || (s.hposv && decide (f.dst = s.hpos))

/-- Types that Table HLY-1 and HLY-2 define, with a permitted length. -/
def frameOk (f : Frame) : Bool :=
  decide (1 ≤ f.typ.toNat) && decide (f.typ.toNat ≤ 11) && decide (f.len.toNat ≤ 65)

/-- A node forwards a frame that it does not consume (R385): its own BC = 0 frames and the types that Table HLY-2
does not forward are consumed; a head drops its own returning frames. -/
def State.forwards (s : State) (f : Frame) : Bool :=
  s.hlyOn && bit (s.reg .hlyCtl) 30 && frameOk f &&
  !(decide (f.typ = 2) || decide (f.typ = 3) || decide (f.typ = 11)) &&
  !(!f.bc && s.hposv && decide (f.dst = s.hpos)) && !(s.isHead && decide (f.src = s.hpos))

/-- The time a forwarded frame spends in the node, in fine units of 1/96 HCLK (R385, R388): a free value between 52 and
60 HCLK. -/
def State.residence (s : State) : Nat := 4992 + Config.residence s.free % 769

/-- The delay of the upstream link: the last value of D (R387). -/
def State.linkDelay (s : State) : Word := s.hly.dly.headD 0

/-- The forwarded copy: HOPS grows by 1; a BEACON's CORR grows by D + R (R385, R388). -/
def State.forwardCopy (s : State) (f : Frame) : Frame :=
  let f := { f with hops := f.hops + 1 }
  if f.typ = 1 then
    { f with payload := putBytes f.payload 8 (leBytes ((frameNum f 8 4 + s.linkDelay.toNat + s.residence) % 4294967296) 4) }
  else f

/-- Forward a frame from one link to the other, which it leaves its residence after its arrival; one with a bad CRC leaves aborted. -/
def State.forward (s : State) (fromDown : Bool) (f : Frame) (crcOk : Bool) : State :=
  if s.forwards f && decide (s.link (!fromDown) = .up) then
    let g := s.forwardCopy f
    let s := s.yieldLane (!fromDown)
    let l := s.lane (!fromDown)
    let s := s.setLane (!fromDown) { l with cur := none, busyTo := s.now + s.residence / 32 + frameCycles g }
    { s with
      hly := { s.hly with sent := s.hly.sent ++ [{ down := !fromDown, frame := g, aborted := !crcOk }] }
      free := s.free + 1 }
  else s

/-- A frame of a type arrives on a fitted link: the node acts on it where it receives it, and forwards it where it does not
consume it. Frames travelling toward the head arrive on the downstream link. -/
def State.arrive (s : State) (typ : BitVec 4) (f : Frame) (act : State → State) : State :=
  if s.hlyOn && s.fitted f.upw && frameOk f && decide (f.typ = typ) then
    let s1 := if s.receives f && !(s.isHead && decide (f.src = 0) && !(decide (typ = 4))) then act s else s
    s1.forward f.upw f true
  else s

/-- FRAME_FORWARD of a frame that the node does not itself receive, or whose CRC is bad; a bad CRC is counted. -/
def State.passOn (s : State) (fromDown : Bool) (f : Frame) (crcOk : Bool) : State :=
  if !(s.hlyOn && s.fitted fromDown) then s else
  let s1 := s.forward fromDown f crcOk
  if crcOk then s1 else s1.modHly (fun h => { h with crcErr := sat 255 (h.crcErr + 1) })

/-- A link is fitted on which frames can arrive, and the endpoint works. -/
def State.hlyHears (s : State) : Bool := s.hlyOn && (s.fitted true || s.fitted false)

/-- BAD_FRAME: the frame is dropped and counted (R384, Table HLY-14). -/
def State.badFrame (s : State) (x : BadFrame) : State :=
  if !s.hlyHears then s else
  match x with
  | .reservedTypeOrLen => s.modHly (fun h => { h with dropErr := sat 255 (h.dropErr + 1) })
  | .badCrc => s.modHly (fun h => { h with crcErr := sat 255 (h.crcErr + 1) })
  | .aborted => s.modHly (fun h => { h with abortErr := sat 255 (h.abortErr + 1) })

/-! ### Chain time (R387 to R390) -/

/-- Change the alignment state; source 0x7EA pulses where it changes. -/
def State.setAlign (s : State) (x : AlignSt) : State :=
  if s.hly.align = x then s else (s.modHly (fun h => { h with align := x })).pulse 0x7EA

/-- An offset in whole FCLK, rounded to nearest, ties upward. -/
def roundFine (o : Int) : Int := (o + 16) / 32

/-- The beacon period in whole LCLK from a cycle on. -/
def State.beaconEnd (s : State) (n e : Nat) : Nat := wallEnd s.mhz e (n * fieldN (s.reg .hlyCtl) 0 16)

/-- Whether an offset is within the limit (Table HLY-3). -/
def State.withinLimit (s : State) (o : Int) : Bool := decide (o.natAbs ≤ 32 * fieldN (s.reg .hlyTctl) 16 16)

/-- Move TBASE; edge entries are judged again, but for those of the value that a forward slew passes (R245). -/
def State.moveTbase (s : State) (d : Int) (skip : Option Nat) : State :=
  (s.addTbase d).edgesMoved skip

/-- BEACON: chain time C := CT + CORR + D, offset O := C − A, and what the alignment state does with it. -/
def State.beacon (s : State) (f : Frame) (stamp : DWord) : State :=
  let c := BitVec.ofNat 64 (frameNum f 0 8 + frameNum f 8 4 + s.linkDelay.toNat)
  let o : Int := (c - stamp).toInt
  let s := s.modHly (fun h => { h with offs := BitVec.ofInt 32 o, lastBeacon := s.now })
  match s.hly.align with
  | .acquire => (s.modHly (fun h => { h with slewOwed := 0 })).moveTbase (roundFine o) none |>.setAlign .locked
  | .locked =>
    if s.withinLimit o then s.modHly (fun h => { h with slewOwed := roundFine o }) else s.setAlign .holdover
  | .holdover => if s.withinLimit o then s.setAlign .locked else s
  | _ => s

/-- BEACON_SEND: the head's period has passed (R388); the 16 bytes hold CT, CORR = 0 and zeros. -/
def State.beaconSend (s : State) : State :=
  if s.isHead then
    (s.sendOwn true 1 true 0 (List.replicate 16 0)).modHly (fun h => { h with nextBeacon := s.beaconEnd 1 s.now })
  else s

/-- The head's beacon period has passed. -/
def State.beaconDue (s : State) : Bool := s.hlyOn && s.isHead && decide (s.hly.nextBeacon ≤ s.now)

/-- LOSTN beacon periods have passed without a beacon. -/
def State.beaconLost (s : State) : Bool :=
  decide (s.hly.align = .locked) && decide (s.beaconEnd (fieldN (s.reg .hlyTctl) 8 8) s.hly.lastBeacon ≤ s.now)

/-- BEACON_LOSS. -/
def State.beaconLoss (s : State) : State := if s.beaconLost then s.setAlign .holdover else s

/-- A slew is owed and 256 FCLK have passed since the last one. -/
def State.slewDue (s : State) : Bool :=
  decide (s.hly.align = .locked) && decide (s.hly.slewOwed ≠ 0) && decide (s.hly.slewAt ≤ s.now)

/-- TBASE_SLEW: TBASE has advanced by 2 or by 0 into this cycle (R389). In HOLDOVER the last rate estimate goes on. -/
def State.slew (s : State) (forward : Bool) : State :=
  if (decide (s.hly.align = .locked) || decide (s.hly.align = .holdover)) && decide (s.hly.slewAt ≤ s.now) then
    let d : Int := if forward then 1 else -1
    let owed := s.hly.slewOwed
    (s.modHly (fun h => { h with
      slewAt := s.now + 256
      slewOwed := if owed = 0 then 0 else owed - d })).moveTbase d (if forward then some s.tbase.toNat else none)
  else s

/-- DELAY_MEASUREMENT: a DLYREQ waits for the upstream lane; its departure is stamped as it leaves (R387). -/
def State.measure (s : State) : State :=
  if s.hlyOn && decide (s.hly.up = .up) then
    (s.sendOwn false 2 false 0x3FFF []).modHly (fun h => { h with nextDly := wallEnd s.mhz s.now 1000000 })
  else s

/-- A second has passed since the last measurement. -/
def State.measureDue (s : State) : Bool := s.hlyOn && decide (s.hly.up = .up) && decide (s.hly.nextDly ≤ s.now)

/-- DLYREQ: answered with a DLYRSP that carries t2 and, as it leaves, t3. -/
def State.dlyreq (s : State) (f : Frame) (stamp : DWord) : State :=
  if s.hlyOn && s.fitted true && decide (f.typ = 2) then
    s.sendOwn true 3 false 0x3FFF (leBytes stamp.toNat 8 ++ List.replicate 8 0)
  else s

/-- DLYRSP: D := ((t4 − t1) − (t3 − t2)) / 2, rounded to nearest, ties upward; the last eight values are kept. -/
def State.dlyrsp (s : State) (f : Frame) (stamp : DWord) : State :=
  if s.hlyOn && s.fitted false && decide (f.typ = 3) then
    let span := (stamp - s.hly.t1) - (BitVec.ofNat 64 (frameNum f 8 8) - BitVec.ofNat 64 (frameNum f 0 8))
    let d : Int := (span.toInt + 1) / 2
    s.modHly (fun h => { h with dly := (BitVec.ofInt 32 d :: h.dly).take 8 })
  else s

/-- HLY_DLY: the mean of the last eight values of D. -/
def State.delayMean (s : State) : Word :=
  match s.hly.dly with
  | [] => 0
  | l => BitVec.ofNat 32 ((l.map BitVec.toNat).sum / l.length)

/-- HLY_CMD REACQ (Table HLY-3): the head stays HEAD; without an UP upstream link the node is FREE. -/
def State.reacq (s : State) : State :=
  if s.isHead then s
  else if s.hly.up = .up then s.setAlign .acquire else s.setAlign .free

/-! ### Links (R383) -/

/-- The upstream link has changed: FREE takes up ACQUIRE when it is UP, ACQUIRE falls to FREE when it is not
(Table HLY-3). -/
def State.alignLink (s : State) : State :=
  match s.hly.align, s.hly.up with
  | .free, .up => s.setAlign .acquire
  | .acquire, .up => s
  | .acquire, _ => s.setAlign .free
  | _, _ => s

/-- LINK_TRAIN: a fitted DOWN link finds a comma. -/
def State.linkTrain (s : State) (down : Bool) : State :=
  if s.hlyOn && s.fitted down && decide (s.link down = .down) then s.setLink down .train else s

/-- LINK_UP: 1,000 clean characters on a training link. -/
def State.linkUp (s : State) (down : Bool) : State :=
  if s.hlyOn && decide (s.link down = .train) then (s.setLink down .up).alignLink else s

/-- LINK_DOWN, with the code and disparity errors counted on the link since its last change. -/
def State.linkDown (s : State) (down : Bool) (errs : BitVec 8) : State :=
  if s.hlyOn && decide (s.link down = .up) then
    ((s.setLink down .down).alignLink).modHly (fun h => { h with codeErr := sat 255 (h.codeErr + errs.toNat) })
  else s

/-! ### Positions (R386) -/

/-- The head writes the node count; source 0x7E9 pulses. -/
def State.setNodes (s : State) (n : Nat) : State :=
  (s.modHly (fun h => { h with nodes := BitVec.ofNat 14 n })).pulse 0x7E9

/-- ROLLCALL received: the head of a ring counts the nodes; another node takes its position, and a tail answers. -/
def State.rollcall (s : State) (f : Frame) : State :=
  if s.isHead then s.setNodes (f.hops.toNat + 1)
  else
    let s := s.modHly (fun h => { h with pos := f.hops + 1, posv := true })
    if s.hly.dn = .up then s else s.sendOwn false 5 false 0 (leBytes (s.hly.pos.toNat + 1) 4)

/-- ROLLEND received by the head. -/
def State.rollend (s : State) (f : Frame) : State := if s.isHead then s.setNodes (frameNum f 0 4) else s

/-- HLY_CMD ROLLCALL on the head; a head without a downstream neighbour is itself the tail. -/
def State.cmdRollcall (s : State) : State :=
  if s.isHead then (if s.hly.dn = .up then s.sendOwn true 4 true 0 [] else s.setNodes 1) else s

/-! ### Tunnels and queries (R414, R415) -/

/-- A received frame enters the eight-entry receive queue; source 0x7EB pulses. -/
def State.receive (s : State) (status : Bool) (f : Frame) : State :=
  if s.hly.rx.length < 8 then
    (s.modHly (fun h => { h with rx := h.rx ++ [{ status := status, src := f.src, data := f.payload.take 64 }] })).pulse 0x7EB
  else s.modHly (fun h => { h with rxOvf := some s.now })

/-- TUNNEL or STATUS received. -/
def State.tunnel (s : State) (f : Frame) : State :=
  s.arrive f.typ f (fun s =>
    if f.typ = 9 then s.receive true f else if f.typ = 10 then s.receive false f else s)

/-- The bytes of the transmit buffer. -/
def State.txBytes (s : State) (n : Nat) : List Byte :=
  ((List.range 16).flatMap (fun i => leBytes (s.reg (.hlyTxbuf (fin 16 i))).toNat 4)).take n

/-- HLY_CMD TXMSG: one TUNNEL frame toward DST; a LEN outside 1 to 64 sends nothing. -/
def State.txmsg (s : State) : State :=
  let n := fieldN (s.reg .hlyTxctl) 16 7
  let dst := (s.reg .hlyTxctl).setWidth 14
  if 1 ≤ n ∧ n ≤ 64 then s.sendOwn (decide (s.hpos.toNat ≤ dst.toNat)) 10 false dst (s.txBytes n) else s

/-- A message of the node waits or is being sent (HLY_TXCTL.BUSY). -/
def State.txBusy (s : State) : Bool :=
  [s.hly.laneUp, s.hly.laneDn].any (fun l => l.queue.any (fun f => decide (f.typ = 10)) ||
    (match l.cur with
     | some f => decide (f.typ = 10) && decide (s.now < l.busyTo)
     | none => false))

/-- POP: the oldest entry of the receive queue goes. -/
def State.rxPop (s : State) : State := s.modHly (fun h => { h with rx := h.rx.tail })

/-- A write of HLY_RXCTL: OVF is W1C, POP removes the oldest entry. -/
def State.rxctlWrite (s : State) (v : Word) : State :=
  let s := s.modHly (fun h => { h with rxOvf := washed s.now (bit v 26) h.rxOvf })
  if bit v 31 then s.rxPop else s

/-- TSTATE as Table HLY-14 numbers it. -/
def AlignSt.code : AlignSt → Nat
  | .free => 0
  | .acquire => 1
  | .locked => 2
  | .holdover => 3
  | .head => 4

/-- QUERY received (R400: only from the head): a node in range whose last outcome differs, or every one for
0xFF, answers p µs later (R38). -/
def State.query (s : State) (f : Frame) : State :=
  let p := s.hpos.toNat
  let want := frameNum f 4 1
  if f.src = 0 && s.hposv && decide (frameNum f 0 2 ≤ p) && decide (p ≤ frameNum f 2 2) &&
      (decide (want = 0xFF) || decide (want ≠ s.upd.outcome.toNat)) then
    s.modHly (fun h => { h with statusAt := some (wallEnd s.mhz s.now p) })
  else s

/-- HLY_CTL written: BCNPER 0 stores 1; HEAD enters and leaves the HEAD state (R389). -/
def State.hlyCtlWrite (s : State) (v : Word) : State :=
  let was := s.isHead
  let s := s.storeRw .hlyCtl (if fieldN v 0 16 = 0 then v ||| 1 else v)
  if s.isHead && !was then
    (s.modHly (fun h => { h with slewOwed := 0, nextBeacon := s.beaconEnd 1 s.now })).setAlign .head
  else if was && !s.isHead then (s.setAlign .free).alignLink
  else s

/-- HLY_TCTL written: LOSTN 0 stores 1. -/
def State.tctlHlyWrite (s : State) (v : Word) : State :=
  s.storeRw .hlyTctl (if fieldN v 8 8 = 0 then v ||| 0x100 else v)

/-- LOOP received (R429): it sets up the far-end loop where the node is parked for it (FWD = 0); a payload whose
first byte is 0 ends it. -/
def State.loopFrame (s : State) (f : Frame) : State :=
  if bit (s.reg .hlyCtl) 30 then s
  else s.modHly (fun h => { h with farLoop := f.payload.headD 1 != 0 })

/-! ### The commands -/

/-- LINK_TRAIN (R383). -/
def execLinkTrain (down : Bool) (s : State) : Host.Outcome State Fault Refusal := .next (s.linkTrain down)

/-- LINK_UP (R383). -/
def execLinkUp (down : Bool) (s : State) : Host.Outcome State Fault Refusal := .next (s.linkUp down)

/-- LINK_DOWN (R383). -/
def execLinkDown (down : Bool) (errs : BitVec 8) (s : State) : Host.Outcome State Fault Refusal :=
  .next (s.linkDown down errs)

/-- FRAME_SEND (R385). -/
def execFrameSend (down : Bool) (stamp : DWord) (s : State) : Host.Outcome State Fault Refusal :=
  .next (s.frameSend down stamp)

/-- FRAME_FORWARD (R385). -/
def execFrameForward (fromDown : Bool) (f : Frame) (crcOk : Bool) (s : State) : Host.Outcome State Fault Refusal :=
  .next (s.passOn fromDown f crcOk)

/-- BEACON (R388). -/
def execBeacon (f : Frame) (stamp : DWord) (s : State) : Host.Outcome State Fault Refusal :=
  .next (s.arrive 1 f (fun s => s.beacon f stamp))

/-- BEACON_SEND (R388). -/
def execBeaconSend (s : State) : Host.Outcome State Fault Refusal := .next s.beaconSend

/-- BEACON_LOSS (R389). -/
def execBeaconLoss (s : State) : Host.Outcome State Fault Refusal := .next s.beaconLoss

/-- TBASE_SLEW (R389). -/
def execTbaseSlew (forward : Bool) (s : State) : Host.Outcome State Fault Refusal := .next (s.slew forward)

/-- DELAY_MEASUREMENT (R387). -/
def execDelayMeasurement (s : State) : Host.Outcome State Fault Refusal := .next s.measure

/-- DLYREQ (R387). -/
def execDlyreq (f : Frame) (stamp : DWord) (s : State) : Host.Outcome State Fault Refusal := .next (s.dlyreq f stamp)

/-- DLYRSP (R387). -/
def execDlyrsp (f : Frame) (stamp : DWord) (s : State) : Host.Outcome State Fault Refusal := .next (s.dlyrsp f stamp)

/-- ROLLCALL (R386). -/
def execRollcall (f : Frame) (s : State) : Host.Outcome State Fault Refusal :=
  .next (s.arrive 4 f (fun s => s.rollcall f))

/-- ROLLEND (R386). -/
def execRollend (f : Frame) (s : State) : Host.Outcome State Fault Refusal :=
  .next (s.arrive 5 f (fun s => s.rollend f))

/-- QUERY (R415). -/
def execQuery (f : Frame) (s : State) : Host.Outcome State Fault Refusal := .next (s.arrive 8 f (fun s => s.query f))

/-- TUNNEL (R414). -/
def execTunnel (f : Frame) (s : State) : Host.Outcome State Fault Refusal := .next (s.tunnel f)

/-- LOOP (R429). -/
def execLoopF (f : Frame) (s : State) : Host.Outcome State Fault Refusal :=
  .next (if s.hlyOn && s.fitted f.upw && decide (f.typ = 11) then s.loopFrame f else s)

/-- HLY_CMD_ROLLCALL (R386). -/
def execHlyCmdRollcall (a : Agent) (s : State) : Host.Outcome State Fault Refusal :=
  .next (s.regWrite a (s.isOwner a) State.cmdRollcall)

/-- REACQ (R389). -/
def execReacq (a : Agent) (s : State) : Host.Outcome State Fault Refusal :=
  .next (s.regWrite a (s.isOwner a) State.reacq)

/-- HLY_CMD_DELAY (R387). -/
def execHlyCmdDelay (a : Agent) (s : State) : Host.Outcome State Fault Refusal :=
  .next (s.regWrite a (s.isOwner a) State.measure)

/-- TXMSG (R414). -/
def execTxmsg (a : Agent) (s : State) : Host.Outcome State Fault Refusal :=
  .next (s.regWrite a (s.isOwner a) State.txmsg)

/-- POP (R414). -/
def execPop (a : Agent) (s : State) : Host.Outcome State Fault Refusal :=
  .next (s.regWrite a (s.isOwner a) State.rxPop)

/-- HLY_CTL_WRITE (R389). -/
def execHlyCtlWrite (a : Agent) (v : Word) (s : State) : Host.Outcome State Fault Refusal :=
  .next (s.regWrite a (s.isOwner a) (fun s => s.hlyCtlWrite v))

/-- BAD_FRAME (R384). -/
def execBadFrame (reason : BadFrame) (s : State) : Host.Outcome State Fault Refusal := .next (s.badFrame reason)

end Sys2Proof.Machine
end

