-- ==== Sys2Proof/Machine/Update.lean ====
section
/-! DEFINITION. Images, updates, the journal, settings and the lifecycle store (chapter 14). -/

namespace Sys2Proof.Machine

/-- Change the update controller. -/
def State.modUpd (s : State) (f : UpdS → UpdS) : State := { s with upd := f s.upd }

/-! ### Images (R391, R392) -/

/-- The image slot. -/
def State.slotImg (s : State) (slotB : Bool) : Mem := if slotB then s.upd.slotB else s.upd.slotA
/-- The image in the staging slot. -/
def State.stagingImg (s : State) : Mem := s.slotImg s.upd.stagingB
/-- The image in the confirmed slot. -/
def State.confirmedImg (s : State) : Mem := s.slotImg (!s.upd.stagingB)

/-- The first word of a slot in MRAM (Table MEM-6). -/
def slotWord (slotB : Bool) : Nat := if slotB then 393216 else 0

/-- The first `len` bytes of a slot hold no uncorrectable error (Table HLY-6, check 7). -/
def State.slotWhole (s : State) (slotB : Bool) (len : Nat) : Bool := !s.mramHurt (slotWord slotB) (ceilDiv (min len 12582912) 32)

/-- A field of an image, least significant byte first. -/
def imgNum (m : Mem) (off n : Nat) : Nat := leNat (peeks m off n)

/-- LENGTH of an image. -/
def imgLength (m : Mem) : Nat := imgNum m 0x00C 4
/-- IMGID of an image. -/
def imgIdOf (m : Mem) : DWord := BitVec.ofNat 64 (imgNum m 0x010 8)
/-- SETFMT of an image. -/
def imgSetfmt (m : Mem) : Nat := imgNum m 0x01C 4

/-- An entry of the section table (Table HLY-5). -/
structure Sect where
  kind : Nat
  arg : Nat
  off : Nat
  len : Nat
  dest : Nat
  deriving DecidableEq, Repr

/-- The section table of an image. -/
def imgSects (m : Mem) : List Sect :=
  (List.range (imgNum m 0x009 1)).map (fun i =>
    let b := 0x040 + 16 * i
    { kind := imgNum m b 2, arg := imgNum m (b + 2) 2, off := imgNum m (b + 4) 4, len := imgNum m (b + 8) 4,
      dest := imgNum m (b + 12) 4 })

/-- The sections of a kind. -/
def sectsOf (m : Mem) (kind : Nat) : List Sect := (imgSects m).filter (fun x => decide (x.kind = kind))

/-- A section's sizes, alignments and kind are valid, and it lies within the image apart from the trailer. -/
def sectOk (len : Nat) (x : Sect) : Bool :=
  decide (1 ≤ x.kind) && decide (x.kind ≤ 8) && decide (x.off % 32 = 0) && decide (x.off + x.len + 256 ≤ len) &&
  (if x.kind = 1 then
     decide (x.len % 4 = 0) && decide (x.len ≤ 262144) && decide (x.arg < 4) && decide (x.dest + x.len / 4 ≤ 65536)
   else if x.kind = 2 then decide (x.arg < 4) && decide (x.dest + x.len ≤ 524288)
   else if x.kind = 3 then decide (x.dest + x.len ≤ 0x7C0000)
   else if x.kind = 4 then decide (x.len = 2048) && decide (x.arg < 128)
   else if x.kind = 5 then decide (x.len = 1024)
   else if x.kind = 8 then decide (x.len = 8)
   else true)

/-- The entries of the start table: OFFSET and VALUE (R420). -/
def startTable (m : Mem) : List (Nat × Word) :=
  match sectsOf m 6 with
  | [] => []
  | x :: _ => (List.range (x.len / 8)).map (fun i =>
      (imgNum m (x.off + 8 * i) 4, BitVec.ofNat 32 (imgNum m (x.off + 8 * i + 4) 4)))

/-- The last value that the table writes to an offset. -/
def lastEntry (l : List (Nat × Word)) (off : Nat) : Option Word :=
  ((l.filter (fun e => decide (e.1 = off))).getLast?).map (·.2)

/-- A bell is a start bell (R422): its EN is held, its period lies in range, and its START stays 0. -/
def isStartBell (l : List (Nat × Word)) (b : Bell) : Bool :=
  let off (r : Bell → Reg) : Option Word := lastEntry l (r b).off
  (match off .belCtl with | some v => bit v 0 | none => false) &&
  (match off .belPeriod with | some v => decide (1200 ≤ v.toNat) && decide (v.toNat ≤ 600000) | none => false) &&
  decide ((off .belStartLo).getD 0 = 0) && decide ((off .belStartHi).getD 0 = 0)

/-- The start bell that a table holds (R422). -/
def startBellOf (l : List (Nat × Word)) : Option Bell := ((List.range 16).map (fin 16)).find? (isStartBell l)

/-- An entry's OFFSET lies in the ranges of R420. -/
def startOffOk (off : Nat) : Bool :=
  decide (off % 4 = 0) &&
  ((decide (0x11000 ≤ off) && decide (off < 0x20000)) || (decide (0x20000 ≤ off) && decide (off < 0x150000)))

/-- The START section meets R420 and R422. -/
def startOk (m : Mem) : Bool :=
  match sectsOf m 6 with
  | [] => false
  | x :: _ =>
    decide (x.len % 8 = 0) && decide (8 ≤ x.len) && decide (x.len ≤ 32768) &&
    (startTable m).all (fun e => startOffOk e.1) && (startBellOf (startTable m)).isSome

/-- Check 4 of Table HLY-6, with the limits of R419. -/
def sectionsOk (m : Mem) : Bool :=
  let l := imgSects m
  let n := imgNum m 0x009 1
  decide (1 ≤ n) && decide (n ≤ 32) && l.all (sectOk (imgLength m)) &&
  decide ((sectsOf m 5).length = 1) &&
  [0, 1, 2, 3].all (fun b => decide (((sectsOf m 1).filter (fun x => decide (x.arg = b))).length ≤ 1)) &&
  decide (((l.filter (fun x => decide (x.kind ≠ 1))).map (·.len)).sum ≤ 1048576) && startOk m

/-- The chunks of a length (R393). -/
def chunksOf (len : Nat) : Nat := ceilDiv len 4096

/-- Every chunk of a length is complete. -/
def State.allChunks (s : State) (len : Nat) : Bool :=
  (List.range (chunksOf len)).all (fun i => mget false s.upd.bitmap i)

/-- Check 5: the lifecycle state accepts the image's key (R392, Table HLY-10). -/
def State.keyOk (s : State) (m : Mem) : Bool :=
  match s.upd.lc with
  | .blank => decide (s.sys.phase = .recovery)
  | .opened => true
  | .owned => decide (Config.sha384 (peeks m (imgLength m - 256) 96) = s.upd.okh)
  | .returned => decide (s.sys.phase = .recovery)
  | .scrapped => false

/-- Check 6: the signature is valid for the digest. -/
def sigOk (m : Mem) : Bool :=
  let n := imgLength m
  Config.ecdsaValid (peeks m (n - 256) 96) (peeks m (n - 160) 96) (Config.sha384 (peeks m 0 (n - 256)))

/-- The first of a list of checks that fails. -/
def firstFail : List (Nat × Bool) → BitVec 4
  | [] => 0
  | (code, ok) :: rest => if ok then firstFail rest else BitVec.ofNat 4 code

/-- Checks 1 to 5 of Table HLY-6; `want` is the length given at BEGIN, where one was. -/
def State.headChecks (s : State) (m : Mem) (want : Option Word) : List (Nat × Bool) :=
  [(1, decide (imgNum m 0 4 = 0x4E524441) && decide (imgNum m 4 2 = 1)),
   (2, decide (imgNum m 6 1 = 3) && decide (imgNum m 7 1 = 2) && decide (imgNum m 8 1 ≤ Config.patch.toNat)),
   (3, decide (imgLength m % 256 = 0) && decide (2048 ≤ imgLength m) && decide (imgLength m ≤ 12582912) &&
       (match want with | some v => decide (imgLength m = v.toNat) | none => true)),
   (4, sectionsOk m),
   (5, s.keyOk m)]

/-- Table HLY-6 on a slot, with what the read of the slot met: 0, or the first check that fails. -/
def State.verifyFail (s : State) (slotB : Bool) (e : Ecc) : BitVec 4 :=
  let m := s.slotImg slotB
  let staged := slotB == s.upd.stagingB
  firstFail ((8, !staged || s.allChunks s.upd.imgLen.toNat) ::
    (s.headChecks m (if staged then some s.upd.imgLen else none) ++
      [(6, sigOk m), (7, !(decide (e = .uncorrectable)) && s.slotWhole slotB (imgLength m))]))

/-- The start check of R418: checks 1 to 5, and check 7 as the start's reads met it. -/
def State.startCheck (s : State) (slotB : Bool) (e : Ecc) : Bool :=
  decide (firstFail (s.headChecks (s.slotImg slotB) none) = 0) && !(decide (e = .uncorrectable)) &&
  s.slotWhole slotB (imgLength (s.slotImg slotB))

/-! ### Threads of an image (R391) -/

/-- The THREADS entry of a thread: ENTRY, HANDOVER, TAKEBACK, FLAGS by index 0 to 3. -/
def imgThread (m : Mem) (t : Tid) (i : Nat) : BitVec 16 :=
  match sectsOf m 5 with
  | [] => 0
  | x :: _ => BitVec.ofNat 16 (imgNum m (x.off + 8 * t.val + 2 * i) 2)

/-! ### Banks (R295, R296) -/

/-- Threads of a barrel whose selector names Y. -/
def State.onY (s : State) (b : Barrel) : Nat := ((List.range 32).filter (fun i => (s.thr (threadOf b i)).bankY)).length

/-- The barrel's threads name both banks, so that it has no standby bank. -/
def State.bankSplit (s : State) (b : Barrel) : Bool := decide (0 < s.onY b) && decide (s.onY b < 32)

/-- The standby bank of a barrel that is not split: Y unless every thread names Y. -/
def State.standbyY (s : State) (b : Barrel) : Bool := decide (s.onY b = 0)

/-- Write the words of a CODE section into a bank. -/
def State.placeWords (s : State) (m : Mem) (b : Barrel) (bankY : Bool) (off dest : Nat) : Nat → State
  | 0 => s
  | n + 1 => (s.placeWords m b bankY off dest n).setIns b bankY (dest + n) (BitVec.ofNat 32 (imgNum m (off + 4 * n) 4))

/-- Copy every CODE section of an image, each into the bank chosen for its barrel; the words written hold no error (R305). -/
def State.placeCode (s : State) (m : Mem) (bankY : Barrel → Bool) : State :=
  (sectsOf m 1).foldl (fun s x =>
    let b : Barrel := fin 4 x.arg
    (s.placeWords m b (bankY b) x.off x.dest (x.len / 4)).heal (instIns b) ((if bankY b then 65536 else 0) + x.dest) (x.len / 4)) s

/-! ### The journal (R404) -/

/-- Records that the log holds: 256 KiB without the chunk bitmap, of 32 bytes each. -/
def journalCap : Nat := 8180

/-- A record is the newest CONFIRMED, or the newest SETCOMMIT of its half, of a log. -/
def JRec.kept (l : List JRec) (r : JRec) : Bool :=
  (decide (r.typ = 5) && decide (l.find? (fun x => decide (x.typ = 5)) = some r)) ||
  (decide (r.typ = 8) && decide (l.find? (fun x => decide (x.typ = 8) && (x.half == r.half)) = some r))

/-- Write a record at the head of the log; where the log then wraps onto a record that it keeps, that record is written again. -/
def UpdS.write (u : UpdS) : Nat → JRec → UpdS
  | 0, _ => u
  | n + 1, r =>
    let l := { r with seq := u.jseq } :: u.journal
    let u := { u with jseq := u.jseq + 1 }
    if l.length ≤ journalCap then { u with journal := l }
    else match l.getLast? with
      | some o => if o.kept l then UpdS.write { u with journal := l.dropLast } n o else { u with journal := l.dropLast }
      | none => u

/-- Write a record: at most three records are written again for it. -/
def State.journal (s : State) (r : JRec) : State := (s.modUpd (fun u => u.write 4 r)).mramWrite

/-- Write an update record for the staging slot. -/
def State.record (s : State) (typ : Nat) (cls : BitVec 4) (bell : DWord) : State :=
  let u := s.upd
  s.journal { typ := typ, slotB := u.stagingB, half := !u.half, imgid := u.imgId, bell := bell, cls := cls }

/-! ### Outcomes -/

/-- Record an order outcome with its cause bits; source 0x7ED pulses (R397). -/
def State.outcome (s : State) (out : BitVec 3) (cause : BitVec 8) : State :=
  (s.modUpd (fun u => { u with outcome := out, cause := cause })).pulse 0x7ED

/-- UPD_CMD.ERR. -/
def State.updErr (s : State) (e : BitVec 4) : State := s.modUpd (fun u => { u with cmdErr := e })

/-- A class reports movement (R398): its source has fired within MOTHOLD. -/
def State.movingSrc (s : State) (src : Nat) : Bool :=
  let at1 := mget 0 s.upd.moving src
  decide (at1 ≠ 0) && decide (s.now < wallEnd s.mhz (at1 - 1) (fieldN (s.reg .updCfg) 0 16))

/-- Some motion-bearing class reports movement. -/
def State.moving (s : State) : Bool :=
  (List.range 16).any (fun c =>
    let v := s.reg (.updMot (fin 16 c))
    bit v 31 && s.movingSrc (fieldN v 0 5))

/-- The refusal states of Table HLY-7 as cause bits. -/
def State.refusals (s : State) : BitVec 8 :=
  BitVec.ofNat 8 (
    (if s.sys.motion then 1 else 0) + (if s.moving then 2 else 0) + (if s.sys.holdup then 0 else 4) +
    (if s.upd.ownLock then 8 else 0) +
    (if (sectsOf s.stagingImg 1).any (fun x => s.bankSplit (fin 4 x.arg)) then 16 else 0))

/-- An armed order is void (R399): VOID record, STAGE VERIFIED. -/
def State.voidOrder (s : State) (cause : BitVec 8) : State :=
  match s.upd.order with
  | some o => (((s.record 7 (BitVec.ofNat 4 o.cls.val) o.bell).modUpd
      (fun u => { u with stage := .verified, order := none })).outcome 4 cause)
  | none => s

/-! ### Download (R393 to R395) -/

/-- Start a download: BEGIN record, bitmap clear, STAGE DOWNLOAD. -/
def State.startDownload (s : State) (id : DWord) (len : Word) : State :=
  (s.modUpd (fun u => { u with imgId := id, imgLen := len })).record 1 0 (len.setWidth 64) |>.modUpd
    (fun u => { u with bitmap := [], seqHost := none, seqHly := none, stage := .download })

/-- Ask for a fall-back at the first bell of the activation class whose number is at least `n` (R402); of two
requests the earlier bell stands. -/
def State.askFallback (s : State) (n : DWord) : State :=
  match s.upd.stage, s.upd.order with
  | .switching, some o | .provisional, some o =>
    let n := match s.upd.fallback with
      | some f => if f.bell.toNat < n.toNat then f.bell else n
      | none => n
    s.modUpd (fun u => { u with fallback := some { o with bell := n } })
  | _, _ => s

/-- BEGIN, as a command or a received order. -/
def State.updBegin (s : State) (id : DWord) (len : Word) : State :=
  let s := (if s.upd.stage = .armed then s.voidOrder 0 else s).updErr 0
  match s.upd.stage with
  | .switching | .provisional => (s.askFallback 0).modUpd (fun u => { u with beginAfter := some (id, len) })
  | .verified => if id = s.upd.imgId ∧ len = s.upd.imgLen then s else s.startDownload id len
  | _ => s.startDownload id len

/-- Store image bytes in the staging slot. -/
def State.storeImage (s : State) (off : Nat) (l : List Byte) : State :=
  ((s.modUpd (fun u => if u.stagingB then { u with slotB := pokes u.slotB off l } else { u with slotA := pokes u.slotA off l })).mramHeal
    (slotWord s.upd.stagingB + ceilDiv off 32) ((off + l.length) / 32 - ceilDiv off 32)).mramWrite

/-- The sequence of a download path after a write of `n` units at a unit of a chunk. -/
def nextSeq (seq : Option (Nat × Nat)) (chunk unit n : Nat) : Option (Nat × Nat) :=
  if unit = 0 then some (chunk, n)
  else if seq = some (chunk, unit) then some (chunk, unit + n) else none

/-- A sequence has reached the end of its chunk: the chunk's bit is set; where this was the last chunk, the
download is complete and source 0x7EC pulses (R396). -/
def State.chunkDone (s : State) (seq : Option (Nat × Nat)) : State :=
  match seq with
  | some (c, 32) =>
    let was := s.allChunks s.upd.imgLen.toNat
    let s := s.modUpd (fun u => { u with bitmap := mput false u.bitmap c true })
    if !was && s.allChunks s.upd.imgLen.toNat then s.pulse 0x7EC else s
  | _ => s

/-- A host write to the image window (R393): a whole unit of 128 bytes follows the sequence, any other write is
stored and ends it. -/
def State.iwinWrite (s : State) (off : Nat) (data : List Byte) : State :=
  let chunk := fieldN (s.reg .updChunk) 8 12
  if s.upd.stage = .download ∧ chunk < 3072 then
    let s := s.storeImage (4096 * chunk + off) (data.take (4096 - off))
    let seq := if off % 128 = 0 ∧ data.length = 128 then nextSeq s.upd.seqHost chunk (off / 128) 1 else none
    (s.modUpd (fun u => { u with seqHost := seq })).chunkDone seq
  else s

/-- An IMAGE frame (R393): written during a download with a matching tag. -/
def State.imageFrame (s : State) (f : Frame) : State :=
  let i := frameNum f 2 2
  if f.src = 0 ∧ s.upd.stage = .download ∧ frameNum f 0 2 = s.upd.imgId.toNat % 65536 ∧ i < 49152 then
    let s := s.storeImage (256 * i) ((f.payload.drop 4).take 256)
    let seq := nextSeq s.upd.seqHly (i / 16) (2 * (i % 16)) 2
    (s.modUpd (fun u => { u with seqHly := seq })).chunkDone seq
  else s

/-- SEND: IMAGE frames for chunks FROM to TO from the head's staging slot (R395, R396). -/
def State.updSend (s : State) : State :=
  if !s.isHead then s.updErr 5
  else if s.upd.stage ≠ .verified ∨ s.sys.phase = .recovery then s.updErr 1
  else
    let v := s.reg .updChunk
    let lo := 16 * fieldN v 20 12
    let hi := min (16 * (fieldN v 8 12 + 1)) (ceilDiv s.upd.imgLen.toNat 256)
    ((List.range (hi - lo)).foldl (fun s k =>
      s.sendOwn true 6 true 0 (leBytes s.upd.imgId.toNat 2 ++ leBytes (lo + k) 2 ++ peeks s.stagingImg (256 * (lo + k)) 256))
      s).updErr 0

/-! ### Verification (R396) -/

/-- A verification of the staging slot begins: it ends within LENGTH / 1.2 GB/s, which is one byte in each BCLK, and 4 ms
(R317, R392). -/
def State.beginVerify (s : State) : State :=
  s.modUpd (fun u => { u with stage := .verifying, vDone := false
                              workEnd := s.now + min 12582912 (imgLength s.stagingImg) + 2000 * s.mhz })

/-- VERIFY. -/
def State.updVerify (s : State) : State :=
  match s.upd.stage with
  | .download | .verified | .recovery => s.beginVerify.updErr 0
  | _ => s.updErr 1

/-- A verification or a code copy has taken its time. -/
def State.workOver (s : State) : Bool := decide (s.upd.workEnd ≤ s.now)

/-- VERIFICATION_END; nothing is written while RST_COLD_N is low (R48). -/
def State.verifyEnd (s : State) (e : Ecc) : State :=
  if s.upd.stage = .verifying ∧ s.sys.phase ≠ .cold then
    let f := s.verifyFail s.upd.stagingB e
    let s := s.modUpd (fun u => { u with vDone := true, vFail := f, stage := if f = 0 then .verified else .download })
    (if f = 0 then s.record 2 0 0 else s).pulse 0x7EC
  else s

/-! ### Activation, confirmation (R397 to R403) -/

/-- T(n) of a bell (R192). -/
def State.bellTime (s : State) (b : Bell) (n : DWord) : DWord :=
  join64 (s.reg (.belStartLo b)) (s.reg (.belStartHi b)) + n * (s.reg (.belPeriod b)).setWidth 64

/-- The bell runs on and T(n) lies at least 16 FCLK ahead. -/
def State.bellAhead (s : State) (b : Bell) (n : DWord) : Bool :=
  (s.bell b).running && !(s.bell b).stopping && decide (16 ≤ (s.bellTime b n - s.tbase).toInt)

/-- The bytes of the staged image's CODE sections, which the copy reads at one byte in each BCLK (R296). -/
def State.codeBytes (s : State) : Nat := ((sectsOf s.stagingImg 1).map (·.len)).sum

/-- ACTIVATE, decided at once. -/
def State.updActivate (s : State) (id : DWord) (b : Bell) (n : DWord) : State :=
  if s.upd.stage ≠ .verified ∨ s.upd.imgId ≠ id then (s.updErr 1).outcome 2 0
  else if s.refusals ≠ 0 then (s.updErr 2).outcome 3 s.refusals
  else if !s.bellAhead b n then (s.updErr 2).outcome 3 0x80
  else
    ((s.record 3 (BitVec.ofNat 4 b.val) n).modUpd (fun u => { u with
      stage := .armed, order := some { imgid := id, cls := b, bell := n }, copyDone := false, copyErr := false,
      workEnd := s.now + s.codeBytes, cmdErr := 0 })).outcome 1 0

/-- An error that the copy met in MRAM is recorded (R306, Table MEM-3): the log names the bank and word that the first CODE section
goes to (log entry 46, DESIGN CHOICE). -/
def State.copyNote (s : State) (e : Ecc) : State :=
  let x := (sectsOf s.stagingImg 1).headD { kind := 1, arg := 0, off := 0, len := 0, dest := 0 }
  let b : Barrel := fin 4 x.arg
  let addr := (if s.standbyY b then 65536 else 0) + x.dest
  match e with
  | .ok => s
  | .corrected => (s.logError false (instIns b) 3 addr agUpd).mramFix
  | .uncorrectable =>
    let s := s.logError true (instIns b) 3 addr agUpd
    { s with memS := { s.memS with mramUe := some s.now, mramUeEver := true } }

/-- CODE_COPY_COMPLETE: the CODE sections of the armed image stand in the standby banks. -/
def State.codeCopied (s : State) (e : Ecc) : State :=
  if s.upd.stage = .armed ∧ ¬s.upd.copyDone ∧ s.sys.phase ≠ .cold then
    let e := if (sectsOf s.stagingImg 1).any (fun x => s.mramHurt (slotWord s.upd.stagingB + x.off / 32) (ceilDiv x.len 32))
      then .uncorrectable else e
    let s := s.copyNote e
    if e = .uncorrectable then s.modUpd (fun u => { u with copyDone := true, copyErr := true })
    else (s.placeCode s.stagingImg s.standbyY).modUpd (fun u => { u with copyDone := true })
  else s

/-- CANCEL. -/
def State.updCancel (s : State) : State :=
  if s.upd.stage = .armed then (s.voidOrder 0).updErr 0 else s.updErr 1

/-- CONFIRM: the new slot and settings half become the confirmed ones (R403). -/
def State.updConfirm (s : State) : State :=
  if s.upd.stage = .provisional then
    ((s.record 5 0 0).modUpd (fun u => { u with
      stage := .idle, stagingB := !u.stagingB, half := !u.half, cid := u.imgId, outcome := 7, cause := 0,
      order := none, fallback := none, confirmBy := none, beginAfter := none, cmdErr := 0
      copyA := if u.half then u.copyA else none
      copyB := if u.half then none else u.copyB })).pulse 0x7EE
  else s.updErr 1

/-- FALLBACK naming a bell (R402). -/
def State.updFallback (s : State) (n : DWord) : State :=
  if s.upd.stage = .switching ∨ s.upd.stage = .provisional then (s.askFallback n).updErr 0 else s.updErr 1

/-- CONFIRMATION_TIMEOUT. -/
def State.confirmTimeout (s : State) : State :=
  match s.upd.confirmBy with
  | some e => if e ≤ s.now then (s.askFallback 0).modUpd (fun u => { u with confirmBy := none }) else s
  | none => s

/-- MOVEMENT_HOLD_END of a class: its source no longer counts as moving. -/
def State.moveEnd (s : State) (c : Bell) : State :=
  let src := fieldN (s.reg (.updMot c)) 0 5
  if s.movingSrc src then s else s.modUpd (fun u => { u with moving := mput 0 u.moving src 0 })

/-! ### Orders (R400) -/

/-- The payload of an ORDER. -/
def orderBytes (op : Nat) (cls : Nat) (len : Word) (id n : DWord) : List Byte :=
  leBytes op 1 ++ leBytes cls 1 ++ leBytes 0 2 ++ leBytes len.toNat 4 ++ leBytes id.toNat 8 ++ leBytes n.toNat 8

/-- UPD_IMGID as written. -/
def State.regImgid (s : State) : DWord := join64 (s.reg .updImgidLo) (s.reg .updImgidHi)
/-- UPD_ABELL as written. -/
def State.regAbell (s : State) : DWord := join64 (s.reg .updAbellLo) (s.reg .updAbellHi)
/-- UPD_ACLS as written. -/
def State.regAcls (s : State) : Bell := fin 16 (fieldN (s.reg .updAcls) 0 4)

/-- One operation of an order or of UPD_CMD with the same fields. -/
def State.updOp (s : State) (op : Nat) (b : Bell) (len : Word) (id n : DWord) : State :=
  if op = 1 then s.updBegin id len
  else if op = 2 then s.updActivate id b n
  else if op = 3 then s.updConfirm
  else if op = 4 then s.updFallback n
  else if op = 5 then s.updCancel
  else if op = 6 then s.updVerify
  else s

/-- A received ORDER. -/
def State.orderFrame (s : State) (f : Frame) : State :=
  if f.src = 0 then
    s.updOp (frameNum f 0 1) (fin 16 (frameNum f 1 1)) (BitVec.ofNat 32 (frameNum f 4 4))
      (BitVec.ofNat 64 (frameNum f 8 8)) (BitVec.ofNat 64 (frameNum f 16 8))
  else s

/-- UPD_CMD with the fields as written; CHAIN = 1 on the head also broadcasts the order. -/
def State.updCommand (s : State) (op : Nat) (chain : Bool) : State :=
  let s1 := s.updOp op s.regAcls (s.reg .updLen) s.regImgid s.regAbell
  if chain && s.isHead then
    s1.sendOwn true 7 true 0 (orderBytes op s.regAcls.val (s.reg .updLen) s.regImgid s.regAbell)
  else s1

/-- STAGE as Table HLY-15 numbers it. -/
def Stage.code : Stage → Nat
  | .idle => 0
  | .download => 1
  | .verifying => 2
  | .verified => 3
  | .armed => 4
  | .switching => 5
  | .provisional => 6
  | .recovery => 7

/-- The complete chunks. -/
def State.chunkCount (s : State) : Nat := s.upd.bitmap.length

/-- STATUS_REPLY: STAGE, TSTATE, outcome, cause, IMGID and the number of complete chunks go to the head (R415). -/
def State.statusReply (s : State) : State :=
  match s.hly.statusAt with
  | none => s
  | some _ =>
    (s.sendOwn false 9 false 0
      (leBytes s.upd.stage.code 1 ++ leBytes s.hly.align.code 1 ++ leBytes s.upd.outcome.toNat 1 ++
       leBytes s.upd.cause.toNat 1 ++ leBytes s.upd.imgId.toNat 8 ++ leBytes s.chunkCount 4)).modHly
      (fun h => { h with statusAt := none })

/-! ### Settings (R406, R407) -/

/-- A settings copy verifies against a settings format. -/
def copyOk (c : SetCopy) (fmt : Nat) : Bool :=
  decide (64 ≤ c.len) && decide (c.len ≤ 32768) && decide (imgNum c.data 0 4 = 0x53544553) &&
  decide (imgNum c.data 12 4 = c.len) && decide (imgNum c.data 4 4 = fmt) &&
  decide (BitVec.ofNat 384 (imgNum c.data 16 48) = Config.sha384 (peeks c.data 64 (c.len - 64)))

/-- The current copy of a half. -/
def State.copyOf (s : State) (half : Bool) : Option SetCopy := if half then s.upd.copyB else s.upd.copyA

/-- The blocks of a half that no copy holds. -/
def State.freeBlocks (s : State) (half : Bool) : List Nat :=
  let held := ((s.copyOf half).map (·.blocks)).getD []
  ((List.range 512).map (fun i => (if half then 512 else 0) + i)).filter (fun i => !(held.contains i))

/-- The least-written of some blocks, the lowest where several tie (R319). -/
def leastWorn (wear : SMap Nat) : List Nat → Option Nat
  | [] => none
  | i :: rest =>
    match leastWorn wear rest with
    | none => some i
    | some j => if mget 0 wear j < mget 0 wear i then some j else some i

/-- Take `n` blocks of a half, each the least written that is free; each counts a write. -/
def allocBlocks (free : List Nat) (wear : SMap Nat) : Nat → List Nat × SMap Nat
  | 0 => ([], wear)
  | n + 1 =>
    match leastWorn wear free with
    | none => ([], wear)
    | some i =>
      let r := allocBlocks (free.filter (fun j => decide (j ≠ i))) (mput 0 wear i (mget 0 wear i + 1)) n
      (i :: r.1, r.2)

/-- SETBEGIN: refused for the confirmed image's half during SWITCHING and PROVISIONAL. -/
def State.setBegin (s : State) : State :=
  let v := s.reg .updSeth
  let half := bit v 31
  if s.sys.phase = .recovery then s.updErr 1
  else if half = s.upd.half ∧ (s.upd.stage = .switching ∨ s.upd.stage = .provisional) then s.updErr 4
  else
    let r := allocBlocks (s.freeBlocks half) s.upd.wear (min 8 (ceilDiv (fieldN v 0 16) 4096))
    s.modUpd (fun u => { u with
      openCopy := some (half, { len := fieldN v 0 16, data := [], blocks := r.1 }), wear := r.2, cmdErr := 0 })

/-- A write to the settings window reaches the open copy. -/
def State.swinWrite (s : State) (off : Nat) (data : List Byte) : State :=
  match s.upd.openCopy with
  | some (half, c) =>
    (s.modUpd (fun u => { u with openCopy := some (half, { c with data := pokes c.data off (data.take (c.len - off)) }) })).mramWrite
  | none => s

/-- The settings format of the image that uses a half: the confirmed image its own, the staged image the other. -/
def State.fmtOf (s : State) (half : Bool) : Nat :=
  imgSetfmt (if half = s.upd.half then s.confirmedImg else s.stagingImg)

/-- SETCOMMIT: the open copy becomes its half's current copy where it verifies; else it is freed. -/
def State.setCommit (s : State) : State :=
  match s.upd.openCopy with
  | none => s.updErr 1
  | some (half, c) =>
    if copyOk c (s.fmtOf half) then
      (s.modUpd (fun u => { u with
        openCopy := none, cmdErr := 0
        copyA := if half then u.copyA else some c
        copyB := if half then some c else u.copyB })).journal
        { typ := 8, slotB := false, half := half, imgid := BitVec.ofNat 64 (imgNum c.data 8 4), bell := BitVec.ofNat 64 (c.blocks.headD 0), cls := 0 }
    else s.modUpd (fun u => { u with openCopy := none, cmdErr := 3 })

/-! ### Lifecycle (R410, R411) -/

/-- The transitions of Table HLY-10. -/
def lcAllows : LcState → LcState → Bool
  | .blank, .opened | .opened, .owned | .owned, .returned | .returned, .opened => true
  | .scrapped, _ => false
  | _, .scrapped => true
  | _, _ => false

/-- LCS_RES.ERR. -/
def State.lcResult (s : State) (e : BitVec 3) : State := s.modUpd (fun u => { u with lcErr := e })

/-- An action that requires physical presence (R411): without an open window ERR 1; accepted, it closes the window. -/
def State.withPresence (s : State) (err : BitVec 3) (act : State → State) : State :=
  if s.sys.window.isNone then s.lcResult 1
  else if err ≠ 0 then s.lcResult err
  else (act { s with sys := { s.sys with window := none } }).lcResult 0

/-- The twelve LCS_OKH words as one value. -/
def State.okhRegs (s : State) : BitVec 384 :=
  BitVec.ofNat 384 (leNat ((List.range 12).flatMap (fun i => leBytes (s.reg (.lcsOkh (fin 12 i))).toNat 4)))

/-- A transition of the lifecycle store: the secure region is wiped and source 0x7EF pulses; entering RETURNED erases
the key hash, the lock, the settings and the slots; entering SCRAPPED erases all MRAM but the store. -/
def State.lcEnter (s : State) (goal : LcState) : State :=
  let s := (((s.startWipe 2).modUpd (fun u => { u with lc := goal })).mramWrite).pulse 0x7EF
  match goal with
  | .owned => s.modUpd (fun u => { u with okh := s.okhRegs })
  | .returned => (s.mramHeal 0 917504).modUpd (fun u => { u with okh := 0, ownLock := false, copyA := none, copyB := none, openCopy := none, slotA := [], slotB := [] })
  | .scrapped => (s.mramHeal 0 925696).modUpd (fun u => { u with copyA := none, copyB := none, openCopy := none, slotA := [], slotB := [], journal := [], bitmap := [] })
  | _ => s

/-- The error of a transition, tested after the window. -/
def State.lcErrOf (s : State) (goal : LcState) : BitVec 3 :=
  if !lcAllows s.upd.lc goal then 2
  else if goal = .owned ∧ s.okhRegs = 0 then 3 else 0

/-! ### The commands -/

/-- IMAGE (R393). -/
def execImage (f : Frame) (s : State) : Host.Outcome State Fault Refusal :=
  .next (s.arrive 6 f (fun s => s.imageFrame f))

/-- ORDER (R400). -/
def execOrder (f : Frame) (s : State) : Host.Outcome State Fault Refusal :=
  .next (s.arrive 7 f (fun s => s.orderFrame f))

/-- STATUS_REPLY (R415). -/
def execStatusReply (s : State) : Host.Outcome State Fault Refusal := .next s.statusReply

/-- BEGIN (R393). -/
def execUpdBegin (a : Agent) (chain : Bool) (s : State) : Host.Outcome State Fault Refusal :=
  .next (s.regWrite a (s.isOwner a) (fun s => s.updCommand 1 chain))

/-- IMAGE_WINDOW_WRITE (R393). -/
def execImageWindowWrite (a : Agent) (off : BitVec 12) (data : List Byte) (s : State) :
    Host.Outcome State Fault Refusal :=
  .next (s.regWrite a (s.isOwner a) (fun s => s.iwinWrite off.toNat data))

/-- VERIFY (R396). -/
def execVerify (a : Agent) (chain : Bool) (s : State) : Host.Outcome State Fault Refusal :=
  .next (s.regWrite a (s.isOwner a) (fun s => s.updCommand 6 chain))

/-- VERIFICATION_END (R396). -/
def execVerificationEnd (e : Ecc) (s : State) : Host.Outcome State Fault Refusal := .next (s.verifyEnd e)

/-- SEND (R395). -/
def execSend (a : Agent) (s : State) : Host.Outcome State Fault Refusal :=
  .next (s.regWrite a (s.isOwner a) State.updSend)

/-- ACTIVATE (R397). -/
def execActivate (a : Agent) (chain : Bool) (s : State) : Host.Outcome State Fault Refusal :=
  .next (s.regWrite a (s.isOwner a) (fun s => s.updCommand 2 chain))

/-- CONFIRM (R403). -/
def execConfirm (a : Agent) (chain : Bool) (s : State) : Host.Outcome State Fault Refusal :=
  .next (s.regWrite a (s.isOwner a) (fun s => s.updCommand 3 chain))

/-- FALLBACK (R402). -/
def execFallback (a : Agent) (chain : Bool) (s : State) : Host.Outcome State Fault Refusal :=
  .next (s.regWrite a (s.isOwner a) (fun s => s.updCommand 4 chain))

/-- CONFIRMATION_TIMEOUT (R402). -/
def execConfirmationTimeout (s : State) : Host.Outcome State Fault Refusal := .next s.confirmTimeout

/-- MOVEMENT_HOLD_END (R398). -/
def execMovementHoldEnd (c : Bell) (s : State) : Host.Outcome State Fault Refusal := .next (s.moveEnd c)

/-- CANCEL (R399). -/
def execCancel (a : Agent) (chain : Bool) (s : State) : Host.Outcome State Fault Refusal :=
  .next (s.regWrite a (s.isOwner a) (fun s => s.updCommand 5 chain))

/-- SETBEGIN (R407). -/
def execSetbegin (a : Agent) (s : State) : Host.Outcome State Fault Refusal :=
  .next (s.regWrite a (s.isOwner a) State.setBegin)

/-- SETTINGS_WINDOW_WRITE (R407). -/
def execSettingsWindowWrite (a : Agent) (off : BitVec 15) (data : List Byte) (s : State) :
    Host.Outcome State Fault Refusal :=
  .next (s.regWrite a (s.isOwner a) (fun s => s.swinWrite off.toNat data))

/-- SETCOMMIT (R407). -/
def execSetcommit (a : Agent) (s : State) : Host.Outcome State Fault Refusal :=
  .next (s.regWrite a (s.isOwner a) State.setCommit)

/-- CODE_COPY_COMPLETE (R296). -/
def execCodeCopyComplete (e : Ecc) (s : State) : Host.Outcome State Fault Refusal := .next (s.codeCopied e)

/-- OWNER_LOCK_SET (R411). -/
def execOwnerLockSet (a : Agent) (s : State) : Host.Outcome State Fault Refusal :=
  .next (s.regWrite a (s.isOwner a) (fun s => ((s.modUpd (fun u => { u with ownLock := true })).mramWrite).lcResult 0))

/-- OWNER_LOCK_CLEAR (R411). -/
def execOwnerLockClear (a : Agent) (s : State) : Host.Outcome State Fault Refusal :=
  .next (s.regWrite a (s.isOwner a) (fun s =>
    s.withPresence 0 (fun s => (s.modUpd (fun u => { u with ownLock := false })).mramWrite)))

/-- WIPE_COMMAND (R411). -/
def execWipeCommand (a : Agent) (s : State) : Host.Outcome State Fault Refusal :=
  .next (s.regWrite a (s.isOwner a) (fun s => s.withPresence 0 (fun s => s.startWipe 5)))

end Sys2Proof.Machine
end

