-- ==== Sys2Proof/Machine/RegRead.lean ====
section
/-! DEFINITION. What every register reads as, what a read does, who reaches it, and the thread I/O space. -/

namespace Sys2Proof.Machine

/-! ### Views of status -/

/-- A level source is high (R156, Table PIN-8). -/
def State.levelHigh (s : State) (src : Nat) : Bool :=
  if 0x100 ≤ src ∧ src < 0x140 then s.lineHigh (fin 64 (src - 0x100))
  else if 0x140 ≤ src ∧ src < 0x160 then s.hoistHigh (fin 32 (src - 0x140))
  else if 0x160 ≤ src ∧ src < 0x170 then s.portRecHigh (fin 16 (src - 0x160))
  else if 0x170 ≤ src ∧ src < 0x180 then s.portEqHigh (fin 16 (src - 0x170))
  else false

/-- STATE of THR_STATE (Table BRL-10). -/
def TState.code : TState → Nat
  | .off => 0
  | .held => 1
  | .run => 2
  | .wait => 3
  | .hwait => 4
  | .handed => 5
  | .halt => 6
  | .maint => 7
  | .lockup => 8

/-- Threads in LOCKUP. -/
def State.lockups (s : State) : Nat := (s.threads.filter (fun e => decide (e.2.st = .lockup))).length

/-- The sum of HQCRED over a barrel's threads (BRL_HQSTAT.CREDSUM). -/
def State.credsum (s : State) (b : Barrel) : Nat :=
  ((List.range 32).map (fun i => fieldN (s.reg (.thrCfg (threadOf b i))) 8 4)).sum

/-- Entries of a thread in its barrel's hall queue. -/
def State.hqOut (s : State) (t : Tid) : Nat :=
  ((s.bar (barrelOf t)).hq.filter (fun e => decide (e.thread = t))).length

/-- Four slot entries of a map as a word (R60). -/
def mapWord (m : List Byte) (i : Nat) : Word := BitVec.ofNat 32 (leNat ((m.drop (4 * i)).take 4))

/-- Members of a class that satisfy a test. -/
def State.membersWhere (s : State) (b : Bell) (f : Thread → Bool) : Nat :=
  ((List.finRange 128).filter (fun t => decide (s.classOf t = some b) && f (s.thr t))).length

/-- EVT_LIVE: pulse sources read 1 in their firing cycle, level sources while they are high (Table EVT-2). -/
def State.evtLive (s : State) (t : Tid) : Word :=
  let e := (s.thr t).ev
  let p := (e.inCycle s.now).pulse
  (List.range 32).foldl (fun w i =>
    let m := mget ((0x7FF : BitVec 11), (0 : BitVec 2)) s.evmap (32 * t.val + i)
    if s.levelHigh m.1.toNat then w ||| bitw i else w) p

/-- EVT_NEST (Table EVT-4): entry 0 is the bottom of the stack. -/
def nestWord (e : Events) : Word :=
  let l := e.nest.reverse
  flagAt 31 e.hf ||| put 16 l.length |||
  (List.range 4).foldl (fun w i =>
    match l[i]? with
    | some x => w ||| flagAt (4 * i + 3) x.wt ||| flagAt (4 * i + 2) x.flt ||| put (4 * i) x.lvl.toNat
    | none => w) 0

/-- Staged items of a kind. -/
def State.stagedAny (s : State) (f : Staged → Bool) : Bool := s.staged.any (fun e => f e.2)

/-- STATE of DMA_CSTAT (Table DMA-10). -/
def ChState.code : ChState → Nat
  | .idle => 0
  | .queued => 1
  | .run => 2
  | .ended => 3
  | .aborted => 4
  | .stopped => 5
  | .derr => 6

/-- STATE of DMA_ESTAT. -/
def EngState.code : EngState → Nat
  | .idle => 0
  | .running => 1
  | .stopping => 2
  | .stopped => 3

/-- Channel `c` of an engine. -/
def chOf (e : Engine) (c : Nat) : DmaCh := fin 256 (16 * e.val + c % 16)

/-- STEP of MEM_TSTAT. -/
def TestStep.code : TestStep → Nat
  | .idle => 0
  | .copy => 1
  | .test => 2
  | .repair => 3
  | .restore => 4

/-- STATE of LCS_STATE. -/
def LcState.code : LcState → Nat
  | .blank => 0
  | .opened => 1
  | .owned => 2
  | .returned => 3
  | .scrapped => 4

/-- UPST and DNST of HLY_STAT. -/
def LinkSt.code : LinkSt → Nat
  | .down => 0
  | .train => 1
  | .up => 2

/-- HLY_STAT. -/
def State.hlyStat (s : State) : Word :=
  put 30 s.hly.up.code ||| put 28 s.hly.dn.code ||| put 25 s.hly.align.code ||| flagAt 24 s.hposv ||| put 0 s.hpos.toNat

/-- HLY_RXCTL. -/
def State.rxctl (s : State) : Word :=
  put 27 s.hly.rx.length ||| markAt 26 s.hly.rxOvf |||
  (match s.hly.rx with
   | [] => 0
   | x :: _ => flagAt 25 x.status ||| put 16 x.data.length ||| put 0 x.src.toNat)

/-- UPD_STAT. -/
def State.updStat (s : State) : Word :=
  let u := s.upd
  put 28 u.stage.code ||| flagAt 27 u.stagingB ||| flagAt 26 u.half ||| flagAt 25 u.setDef ||| put 22 u.outcome.toNat |||
  put 14 u.cause.toNat ||| put 0 s.chunkCount

/-- LCS_STATE. -/
def State.lcsWord (s : State) : Word :=
  put 29 s.upd.lc.code ||| flagAt 28 s.upd.ownLock ||| put 0 s.upd.tampers.toNat

/-- CTL_RSTCAUSE. -/
def State.rstcause (s : State) : Word := s.sys.cause

/-- BRL_STAT. -/
def State.brlStat (s : State) (b : Barrel) : Word :=
  flagAt 31 (s.bar b).gated ||| put 0 ((s.bar b).active.filter (fun x => x.getLsbD 7)).length

/-- A word is the first of a long-form instruction (R86). -/
def isLong (w : Word) : Bool := bit w 31 && bit w 30

/-- What the thread's last instruction to pass W has left (R65). -/
def Thread.passed (x : Thread) : ThreadS := match x.flight with | g :: _ => g.before | [] => x.toThreadS

/-- THR_STATE. -/
def State.thrStateWord (s : State) (t : Tid) : Word :=
  let x := s.thr t
  flagAt 31 (decide (x.st = .lockup)) ||| flagAt 30 x.overrun ||| markAt 29 x.cfgRefused ||| markAt 28 x.ctxRefused |||
  put 24 (s.hqOut t) ||| put 0 x.st.code

/-- BEL_CTL. -/
def State.belCtlWord (s : State) (b : Bell) : Word :=
  let x := s.bell b
  flagAt 30 x.apply.isSome ||| put 28 x.err.toNat ||| flagAt 2 x.stopping ||| flagAt 1 x.running ||| flagAt 0 x.en

/-- BEL_TREC. -/
def State.belTrecWord (s : State) (t : Tid) : Word :=
  let p := (s.thr t).per
  flagAt 31 p.faulted ||| flagAt 30 p.handin ||| flagAt 29 p.isOpen ||| put 20 p.lastOut.toNat

/-- PIN_CHSTAT. -/
def State.chstat (s : State) (c : Chan) : Word :=
  let p := s.pin c
  markAt 31 p.cfgErr ||| markAt 30 p.late ||| markAt 29 p.eqOvf ||| markAt 28 p.recOvf ||| flagAt 27 p.safe |||
  flagAt 26 (s.padHold || p.hold) ||| flagAt 25 (s.conflict c) ||| put 22 p.eq.length ||| put 19 (s.stagedEdges c) |||
  put 15 p.recs.length

/-- PIN_SHD. -/
def State.shdWord (s : State) (c : Chan) : Word :=
  let p := s.pin c
  markAt 31 p.rxv ||| flagAt 30 p.shHold.isNone ||| markAt 29 p.shOvr ||| put 0 p.rx.toNat

/-- SNC_STAT. -/
def State.sncStatWord (s : State) (n : SincNo) : Word :=
  let x := s.sinc n
  markAt 31 x.isNew ||| markAt 30 x.ovr ||| markAt 29 x.sat ||| flagAt 28 x.settle ||| markAt 27 x.cfgErr ||| markAt 26 x.clkErr

/-- TIM_STAT. -/
def State.timStatWord (s : State) (n : TimerNo) : Word :=
  let x := s.timer n
  flagAt 31 x.up ||| markAt 30 x.trunc ||| markAt 29 x.clamp |||
  flagAt 28 (s.stagedAny (fun y => match y with | .reload m _ => decide (m = n) | _ => false))

/-- TIM_CC_STAT. -/
def State.ccStatWord (s : State) (u : UnitNo) : Word :=
  let x := s.unit u
  flagAt 31 (s.unitOut u) ||| markAt 30 x.late ||| flagAt 29 x.valid ||| markAt 28 x.ovr ||| markAt 27 x.wsat |||
  flagAt 26 (s.stagedAny (fun y => match y with | .compare v _ _ => decide (v = u) | _ => false)) |||
  flagAt 25 x.forced.isSome ||| put 0 x.actFine.toNat

/-- CVP_STAT. -/
def State.cvpStatWord (s : State) (n : Cvp) : Word :=
  let x := s.cvp n
  markAt 31 x.close ||| markAt 30 x.ign ||| put 0 x.count.toNat

/-- TRP_STN_STAT. -/
def State.stnStatWord (s : State) (st : Station) : Word :=
  let x := s.stn st
  flagAt 31 (!x.counting.isEmpty) ||| flagAt 30 x.latched ||| flagAt 29 (s.blankOpen st) ||| markAt 28 x.cfgErr |||
  put 0 x.count.toNat

/-- DMA_CSTAT. -/
def State.cstatWord (s : State) (ch : DmaCh) : Word :=
  let x := s.ch ch
  put 29 x.st.code ||| flagAt 28 x.reexam ||| flagAt 27 x.rchk ||| flagAt 26 x.started ||| markAt 25 x.ign |||
  markAt 24 x.plost ||| put 0 x.descs.toNat

/-- DMA_ESTAT. -/
def State.estatWord (s : State) (e : Engine) : Word :=
  put 30 (s.eng e).st.code ||| put 20 (s.eng e).cur.toNat |||
  (List.range 16).foldl (fun w c => if (s.ch (chOf e c)).st = .queued then w ||| bitw c else w) 0

/-- DMA_BERRI. -/
def State.berriWord (s : State) (e : Engine) : Word :=
  match (s.eng e).err with
  | none => 0
  | some x => flagAt 31 (s.eng e).errValid ||| put 28 x.phase.toNat ||| put 25 x.kind.toNat ||| flagAt 24 x.chv |||
      put 20 (s.eng e).errCh.toNat ||| flagAt 12 x.port ||| put 0 x.tag.toNat

/-- QM_TSTAT. -/
def State.qmTstatWord (s : State) (t : Tid) : Word := put 16 (s.itemsOf t) ||| put 0 (s.stagedPosts t)

/-- QM_RFLAG. -/
def State.rflagWord (s : State) (r : Ring) : Word :=
  let x := s.ring r
  flagAt 31 x.loaded ||| flagAt 30 x.inHall ||| flagAt 29 x.pside ||| flagAt 28 x.cside ||| markAt 27 x.drop |||
  markAt 26 x.dberr ||| flagAt 25 x.err ||| markAt 24 x.ue ||| markAt 23 x.lost ||| put 0 x.size

/-- HPS_TSTAT. -/
def State.hpsTstatWord (s : State) (t : Tid) : Word :=
  let x := s.lockStat t
  markAt 31 x.lfull ||| markAt 30 x.wfull ||| markAt 29 x.freemiss ||| put 0 (s.leasesBy (ownerThread t)).length

/-- Abandonment writes that are queued. -/
def State.abandons (s : State) : Nat :=
  (s.locks.queue.filter (fun r => match r with | .abandon _ _ _ => true | _ => false)).length

/-- HPS_LEASE_B: owner and the time left in units of 256 µs, rounded up. -/
def State.leaseBWord (s : State) (i : Nat) : Word :=
  match mget none s.locks.leases i with
  | none => 0
  | some l => put 16 l.owner.toNat ||| put 0 (sat 65535 (ceilDiv ((l.deadline - s.now) * 2) (s.mhz * 256)))

/-- MEM_SECSTAT. -/
def State.secstatWord (s : State) : Word :=
  flagAt 31 s.memS.wiping ||| markAt 30 s.memS.wipeDone ||| put 20 s.memS.wipeCause.toNat ||| put 0 s.memS.wipeCount.toNat

/-- MEM_TSTAT. -/
def State.memTstatWord (s : State) (m : MemInst) : Word :=
  let x := s.inst m
  flagAt 31 (decide (x.step ≠ .idle)) ||| put 28 x.step.code ||| flagAt 27 x.retired.isSome ||| markAt 26 x.fail |||
  put 12 (x.region % 4096) ||| put 0 x.passes.toNat

/-- MEM_IBSTAT. -/
def State.ibstatWord (s : State) (b : Barrel) : Word :=
  flagAt 31 (decide (s.upd.stage = .armed) && !s.upd.copyDone && (sectsOf s.stagingImg 1).any (fun x => decide (x.arg = b.val))) |||
  flagAt 30 (s.standbyY b) ||| flagAt 29 (s.bankSplit b) ||| put 8 (s.onY b) ||| put 0 (32 - s.onY b)

/-- DRL_STAT. -/
def State.drlStatWord (s : State) : Word :=
  markAt 30 s.drill.ign ||| flagAt 29 s.drill.dmode |||
  (match s.drill.cur with
   | none => 0
   | some d => flagAt 31 true ||| put 16 d.code.toNat ||| put 0 (sat 65535 (cyclesUs s.mhz (s.now - d.start))))

/-- DRL_RES. -/
def State.drlResWord (s : State) : Word :=
  markAt 31 s.drill.done ||| put 28 s.drill.res.toNat ||| put 16 s.drill.lastCode.toNat

/-- HST_PSTAT. -/
def State.pstatWord (s : State) (h : Host) : Word :=
  flagAt 31 ((s.host h).inRst || (s.host h).held) ||| put 16 (s.host h).reqs.length ||| put 0 (s.host h).errs

/-- One bit for each of some numbers below a bound for which a test holds. -/
def bitsWhere (n : Nat) (f : Nat → Bool) : Word := (List.range n).foldl (fun w i => if f i then w ||| bitw i else w) 0

/-- The bits of a word of the trip registers that the access's partition holds (R290). -/
def State.tripMask (s : State) (a : Agent) (j : Nat) : Word := bitsWhere 32 (fun i => s.holds a kTrip (32 * j + i))

/-! ### The value of a register -/

/-- A CTL_, HST_, BRL_ or THR_ register. -/
def State.viewCore (s : State) (a : Agent) : Reg → Word
  | .ensign => 0x30200#32 ||| Config.patch.setWidth 32
  | .ctlStraps => flagAt 31 s.sys.rootErr ||| flagAt 30 s.sys.ownerForced ||| flagAt 29 s.sys.straps.recovery |||
      flagAt 28 s.sys.recoveryTaken ||| put 26 s.sys.straps.hlyEn.toNat ||| flagAt 25 s.sys.testRefused |||
      put 16 s.sys.straps.hportEn.toNat ||| put 12 s.owner.val ||| put 0 s.mhz
  | .ctlRstcause => s.rstcause
  | .ctlClkstat => flagAt 8 s.sys.fineLock ||| bitsWhere 4 (fun b => (s.bar (fin 4 b)).gated)
  | .ctlInputs => flagAt 16 s.sys.straps.testMode ||| bitsWhere 16 (fun i => decide (8 ≤ i) && (s.host (fin 8 (i - 8))).inRst) |||
      flagAt 4 s.sys.holdup ||| flagAt 3 s.sys.motion ||| flagAt 2 s.sys.tamper ||| flagAt 1 s.sys.window.isSome |||
      flagAt 0 s.sys.presence
  | .hstSelf => flagAt 8 (decide (s.bankOf a = s.owner)) ||| put 0 (s.bankOf a).val
  | .hstPstat h => s.pstatWord h
  | .brlSmap b i => mapWord (s.bar b).shadow i.val
  | .brlSmapAct b i => mapWord (s.bar b).active i.val
  | .brlSmapCtl b =>
      let x := s.bar b
      flagAt 30 x.pending.isSome ||| put 24 x.err.toNat ||| flagAt 20 x.when_ ||| put 16 x.bellSel.toNat
  | .brlStat b => s.brlStat b
  | .brlHqstat b =>
      let x := s.bar b
      markAt 31 x.dropErr ||| put 8 (s.credsum b) ||| put 4 x.hqPeak ||| put 0 x.hq.length
  | .thrIssued t => (s.thr t).issued
  | .thrLast t => (s.thr t).last
  | .thrPeak t => (s.thr t).peak
  | .thrState t => s.thrStateWord t
  | .thrPc t => ((s.thr t).passed).pc.setWidth 32
  | .thrFp t => ((s.thr t).passed).fp.setWidth 32
  | .thrSp t => ((s.thr t).passed).sp.setWidth 32
  | .thrSw t => ((s.thr t).passed).sw
  | .thrPxlo t n => lo32 (if n = 0 then (s.thr t).px0 else if n = 1 then (s.thr t).px1 else if n = 2 then (s.thr t).px2 else (s.thr t).px3)
  | .thrPxhi t n => hi32 (if n = 0 then (s.thr t).px0 else if n = 1 then (s.thr t).px1 else if n = 2 then (s.thr t).px2 else (s.thr t).px3)
  | r => s.reg r

/-- An EVT_, IRQ_ or BEL_ register. -/
def State.viewEvents (s : State) : Reg → Word
  | .evtEn t => (s.thr t).ev.en
  | .evtPend t => (s.thr t).ev.pend
  | .evtLive t => s.evtLive t
  | .evtLost t => (s.thr t).ev.lost
  | .evtClaim t => (s.thr t).ev.claim
  | .evtCltsLo t => lo32 (s.thr t).ev.clts
  | .evtCltsHi t => hi32 (s.thr t).ev.clts
  | .evtNest t => nestWord (s.thr t).ev
  | .evtFstat t => (s.thr t).ev.fstat
  | .evtFpc t => (s.thr t).ev.fpc.setWidth 32
  | .evtFaddr t => (s.thr t).ev.faddr
  | .evtSw t => (s.thr t).sw
  | .evtMap t i =>
      let m := mget ((0x7FF : BitVec 11), (0 : BitVec 2)) s.evmap (32 * t.val + i.val)
      put 11 m.2.toNat ||| put 0 m.1.toNat
  | .evtSwset => 0
  | .irqLstat l =>
      let x := s.irq l
      flagAt 31 x.isAssert ||| flagAt 30 (match x.startAt with | some e => decide (e ≤ s.now) | none => false) ||| put 0 x.pend
  | .irqLack _ => 0
  | .belCtl b => s.belCtlWord b
  | .belNumLo b => lo32 (s.bell b).num
  | .belNumHi b => hi32 (s.bell b).num
  | .belNextLo b => lo32 (s.bell b).next
  | .belNextHi b => hi32 (s.bell b).next
  | .belStat b => put 24 (s.membersWhere b (fun _ => true)) ||| put 16 (s.bell b).commits ||| put 8 (s.bell b).discards |||
      put 0 (s.membersWhere b (fun x => x.per.handin))
  | .belSkip b => (s.bell b).skip
  | .belTrec t => s.belTrecWord t
  | .belTcommit t => (s.thr t).per.commits
  | .belTdisc t => (s.thr t).per.discards
  | .belTnum t => (s.thr t).per.num
  | r => s.reg r

/-- A PIN_ or SNC_ register. -/
def State.viewPins (s : State) (a : Agent) : Reg → Word
  | .pinSwitch c => s.switchWord c
  | .pinShd c => s.shdWord c
  | .pinChstat c => s.chstat c
  | .pinEqpush _ => 0
  | .pinEqctl _ => 0
  | .pinOut p => s.portBits p (·.latch) &&& s.portMask a p
  | .pinSet _ => 0
  | .pinClr _ => 0
  | .pinTgl _ => 0
  | .pinIn p => bitsWhere 32 (fun i => s.chF (chanOf p i)) &&& s.portMask a p
  | .pinConfl p => bitsWhere 32 (fun i => s.conflict (chanOf p i)) &&& s.portMask a p
  | .pinLocksel p => s.reg (.pinLocksel p) &&& s.portMask a p
  | .pinLocked p => s.portBits p (·.locked) &&& s.portMask a p
  | .pinLockviol p => s.portBits p (·.lockViol.isSome) &&& s.portMask a p
  | .pinOwnign p => s.portBits p (·.ownIgn.isSome) &&& s.portMask a p
  | .pinLine k => flagAt 31 (s.lineLevel k) ||| s.reg (.pinLine k)
  | .pinHcfg h => flagAt 31 (s.hoistHigh h) ||| s.reg (.pinHcfg h)
  | .pinHsnap h => (s.hoist h).snap
  | .pinLock => 0
  | .pinLockstat => if s.lockSeq.step = 0 then 0 else put 3 s.lockSeq.host.val ||| put 0 s.lockSeq.step
  | .pinCalg g => flagAt 31 (s.cal g).stale ||| put 16 (s.calAge g) ||| s.reg (.pinCalg g)
  | .sncData n => (s.sinc n).data
  | .sncStat n => s.sncStatWord n
  | .sncTsLo n => lo32 (s.sinc n).ts
  | .sncTsHi n => hi32 (s.sinc n).ts
  | r => s.reg r

/-- A TIM_, CVP_ or TRP_ register. -/
def State.viewTimers (s : State) (a : Agent) : Reg → Word
  | .timCtl n => flagAt 31 (s.timer n).run ||| s.reg (.timCtl n)
  | .timCount n => (s.timer n).cnt
  | .timStat n => s.timStatWord n
  | .timCcVal u => (s.unit u).preload
  | .timCcAct u => (s.unit u).act
  | .timCcStat u => s.ccStatWord u
  | .timCaprLo u => lo32 (s.unit u).capR
  | .timCaprHi u => hi32 (s.unit u).capR
  | .timCapfLo u => lo32 (s.unit u).capF
  | .timCapfHi u => hi32 (s.unit u).capF
  | .timCapw u => (s.unit u).capW
  | .timCapcnt u => (s.unit u).capCnt
  | .timGstart h => s.reg (.timGstart h) ||| flagAt 29 (s.gstart h).armed ||| put 27 (s.gstart h).err.toNat
  | .timTbaseLo => lo32 s.tbase
  | .timTbaseHi => (match a with | .thread t => (s.thr t).tbaseHold | _ => mget 0 s.hostHold (s.bankOf a).val)
  | .cvpStat n => s.cvpStatWord n
  | .cvpSwtrig _ => 0
  | .cvpLast n => (s.cvp n).last
  | .trpLevel j => (s.tripLevel >>> (32 * j.val)).setWidth 32 &&& s.tripMask a j.val
  | .trpSeen j => (s.tripSeen >>> (32 * j.val)).setWidth 32 &&& s.tripMask a j.val
  | .trpStnStat st => s.stnStatWord st
  | r => s.reg r

/-- A DMA_, QM_ or HPS_ register. -/
def State.viewQueues (s : State) : Reg → Word
  | .dmaCctl _ => 0
  | .dmaCstat ch => s.cstatWord ch
  | .dmaCptrLo ch => (s.ch ch).cptr.setWidth 32
  | .dmaCptrHi ch => ((s.ch ch).cptr >>> 32).setWidth 32
  | .dmaCres ch => (s.ch ch).cres
  | .dmaKick _ => 0
  | .dmaEctl _ => 0
  | .dmaEstat e => s.estatWord e
  | .dmaBerrLo e => (match (s.eng e).err with | some x => x.addr.setWidth 32 | none => 0)
  | .dmaBerrHi e => (match (s.eng e).err with | some x => (x.addr >>> 32).setWidth 32 | none => 0)
  | .dmaBerri e => s.berriWord e
  | .dmaStray k => put 0 (mget 0 s.strays k.val)
  | .qmStat => put 0 (sat 65535 s.qm.items.length)
  | .qmRcmd _ => 0
  | .qmRcmdstat h =>
      let x := mget ((0 : BitVec 3), (0 : Ring)) s.qm.rcmd h.val
      put 28 x.1.toNat ||| put 0 x.2.val
  | .qmPoolfree p => put 0 ((s.reg (.qmPoolcnt p)).toNat - (s.pool p).taken.length)
  | .qmNstat n =>
      let x := mget ((0 : BitVec 16), (0 : Ring)) s.qm.nstat n.val
      put 16 x.1.toNat ||| put 0 x.2.val
  | .qmTstat t => s.qmTstatWord t
  | .qmRflag r => s.rflagWord r
  | .qmRprod r => (s.ring r).prod
  | .qmRcons r => (s.ring r).cons
  | .hpsHcmd h => flagAt 30 (s.hpsBusy h) ||| put 27 (s.hps h).res.toNat ||| put 0 (s.hps h).op.toNat
  | .hpsHresLo h => lo32 (s.hps h).resWord
  | .hpsHresHi h => hi32 (s.hps h).resWord
  | .hpsHwstat h => put 23 (s.hps h).wakes ||| put 0 (s.hps h).lastWake.toNat
  | .hpsForce => flagAt 31 s.locks.noLease
  | .hpsStat => put 21 s.locks.leases.length ||| put 12 s.locks.watches.length ||| put 0 s.abandons
  | .hpsLeaseA i => (match mget none s.locks.leases i.val with | some l => flagAt 31 true ||| put 0 l.addr.toNat | none => 0)
  | .hpsLeaseB i => s.leaseBWord i.val
  | .hpsTstat t => s.hpsTstatWord t
  | r => s.reg r

/-- A MEM_, DRL_, HLY_, UPD_ or LCS_ register. -/
def State.viewSystem (s : State) : Reg → Word
  | .memEccstat => put 20 s.memS.ce ||| put 8 s.memS.ue ||| put 0 s.memS.nextLog
  | .memSecstat => s.secstatWord
  | .memMrstat => flagAt 31 (decide (s.now < s.memS.mramBusyTo)) ||| markAt 30 s.memS.mramUe ||| put 16 s.memS.mramBlocks.length ||| put 0 s.memS.mramCorr
  | .memMrwear => put 0 (((s.upd.wear.map (·.2)).foldl Nat.max 0) / 1024)
  | .memErrlog i j =>
      let e := mget { valid := false, w0 := 0, w1 := 0 } s.memS.log i.val
      if j = 0 then e.w0 else e.w1
  | .memTstat m => s.memTstatWord m
  | .memTrepair m => put 16 (s.sparesUsed m) ||| flagAt 0 (s.inst m).retired.isSome
  | .memIbstat b => s.ibstatWord b
  | .drlCmd => 0
  | .drlRes => s.drlResWord
  | .drlData => s.drill.data
  | .drlStat => s.drlStatWord
  | .drlRc i => mget 0 s.drill.card i.val
  | .hlyStat => s.hlyStat
  | .hlyCmd => 0
  | .hlyNodes => put 0 s.hly.nodes.toNat
  | .hlyDly => s.delayMean
  | .hlyOffs => s.hly.offs
  | .hlyErr => put 24 s.hly.crcErr ||| put 16 s.hly.codeErr ||| put 8 s.hly.abortErr ||| put 0 s.hly.dropErr
  | .hlyTxctl => flagAt 31 s.txBusy ||| s.reg .hlyTxctl
  | .hlyRxctl => s.rxctl
  | .hlyRxbuf i =>
      (match s.hly.rx with
       | [] => 0
       | x :: _ => BitVec.ofNat 32 (leNat ((x.data.drop (4 * i.val)).take 4)))
  | .updCmd => put 24 s.upd.cmdErr.toNat
  | .updStat => s.updStat
  | .updVres => flagAt 31 s.upd.vDone ||| put 0 s.upd.vFail.toNat
  | .updCidlo => lo32 s.upd.cid
  | .updCidhi => hi32 s.upd.cid
  | .updBmap i => bitsWhere 32 (fun k => mget false s.upd.bitmap (32 * i.val + k))
  | .updIwin _ => 0
  | .updSwin i =>
      (match s.upd.openCopy with
       | some (_, c) => BitVec.ofNat 32 (imgNum c.data (4 * i.val) 4)
       | none => 0)
  | .lcsState => s.lcsWord
  | .lcsCmd => 0
  | .lcsRes => put 0 s.upd.lcErr.toNat
  | .lcsOkh i => if s.upd.lc = .opened then s.reg (.lcsOkh i) else (s.upd.okh >>> (32 * i.val)).setWidth 32
  | r => s.reg r

/-- The chapter that a register's offset lies in: the index of its 128 KiB region of Table ARC-5. -/
def Reg.region (r : Reg) : Nat := r.off / 0x20000

/-- What a register reads as for an agent. -/
def State.view (s : State) (a : Agent) (r : Reg) : Word :=
  if r.region ≤ 1 then s.viewCore a r
  else if r.region ≤ 3 then s.viewEvents r
  else if r.region = 4 then s.viewPins a r
  else if r.region = 6 then (if 0xD0000 ≤ r.off then s.viewPins a r else s.viewTimers a r)
  else if r.region = 5 then s.viewTimers a r
  else if r.region ≤ 9 then s.viewQueues r
  else s.viewSystem r

/-- What a read does: RC fields clear, but for a flag that is set in the same cycle (R9), TIM_CAPW clears VALID, TIM_TBASE_LO fills the reader's holding register. -/
def State.readEffect (s : State) (a : Agent) : Reg → State
  | .thrPeak t => s.modAll t (fun x => { x with peak := 0 })
  | .brlHqstat b => s.modBar b (fun x => { x with hqPeak := x.hq.length })
  | .belSkip b => s.modBell b (fun x => { x with skip := 0 })
  | .pinShd c => s.modPin c (fun p => { p with rxv := washed s.now true p.rxv, shOvr := washed s.now true p.shOvr })
  | .sncStat n => s.modSinc n (fun x => { x with isNew := washed s.now true x.isNew, ovr := washed s.now true x.ovr })
  | .memEccstat => { s with memS := { s.memS with ce := 0, ue := 0 } }
  | .memMrstat => { s with memS := { s.memS with mramCorr := 0 } }
  | .hstPstat h => s.modHost h (fun x => { x with errs := 0 })
  | .hpsHwstat h => s.modHps h (fun x => { x with wakes := 0 })
  | .dmaStray k => { s with strays := mput 0 s.strays k.val 0 }
  | .hlyErr => s.modHly (fun x => { x with crcErr := 0, codeErr := 0, abortErr := 0, dropErr := 0 })
  | .timCapw u => s.capwRead u
  | .timTbaseLo => s.tbaseRead a
  | _ => s

/-! ### Who reaches a register -/

/-- The resource a register belongs to, where it has one. -/
def Reg.resource : Reg → Option (Fin 17 × Nat)
  | .thrCtl t | .thrCfg t | .thrCeil t | .thrEntry t | .thrFpinit t | .thrSpinit t | .thrBudget t | .thrIssued t
  | .thrLast t | .thrPeak t | .thrState t | .thrPc t | .thrFp t | .thrSp t | .thrSw t | .thrPxlo t _ | .thrPxhi t _
  | .evtEn t | .evtPend t | .evtLive t | .evtLost t | .evtClaim t | .evtCltsLo t | .evtCltsHi t | .evtNest t
  | .evtFstat t | .evtFpc t | .evtFaddr t | .evtSw t | .evtMap t _ | .evtVbase t | .evtFlvl t
  | .belTrec t | .belTcommit t | .belTdisc t | .belTnum t | .hpsTstat t | .qmTstat t => some (kThread, t.val)
  | .irqLctl l | .irqLtime l | .irqLstat l | .irqLack l => some (kIrq, l.val)
  | .belCtl b | .belPeriod b | .belStartLo b | .belStartHi b | .belSperiod b | .belSstartLo b | .belSstartHi b
  | .belApplyat b | .belNumLo b | .belNumHi b | .belNextLo b | .belNextHi b | .belStat b | .belSkip b => some (kBell, b.val)
  | .pinFcfg c _ | .pinSwitch c | .pinPad c | .pinOwner c | .pinShcfg c | .pinShd c | .pinChstat c | .pinEqtLo c
  | .pinEqtHi c | .pinEqpush c | .pinEqctl c => some (kPin, c.val)
  | .pinLine k => some (kLine, k.val)
  | .pinHcfg h | .pinHmask h | .pinHpat h | .pinHsnap h => some (kHoist, h.val)
  | .sncCfg n | .sncClk n | .sncData n | .sncStat n | .sncTsLo n | .sncTsHi n => some (kSinc, n.val)
  | .timCtl n | .timReload n | .timCount n | .timPhase n | .timStat n => some (kTimer, n.val)
  | .timCcCtl u | .timCcVal u | .timCcFv u | .timCcAct u | .timCcStat u | .timCaprLo u | .timCaprHi u | .timCapfLo u
  | .timCapfHi u | .timCapw u | .timCapcnt u => some (kTimer, u.val / 4)
  | .cvpCfg n | .cvpTrig n | .cvpStat n | .cvpSwtrig n | .cvpLast n => some (kCvp, n.val)
  | .trpStnCtl st | .trpStnPins st | .trpStnTim st | .trpStnTmask st _ | .trpStnStat st => some (kStation, st.val)
  | .dmaCctl ch | .dmaCstat ch | .dmaCheadLo ch | .dmaCheadHi ch | .dmaCptrLo ch | .dmaCptrHi ch | .dmaCres ch
  | .dmaKick ch => some (kDma, ch.val)
  | .qmPoolbase p | .qmPoolcnt p | .qmPoolfree p => some (kPool, p.val)
  | .qmNstat n => some (kNotif, n.val)
  | .qmRflag r | .qmRprod r | .qmRcons r => some (kRing, r.val)
  | _ => none

/-- The port of a port register (R220). -/
def Reg.port : Reg → Option PinPort
  | .pinOut p | .pinSet p | .pinClr p | .pinTgl p | .pinIn p | .pinPolicy p | .pinConfl p | .pinLocksel p | .pinLocked p
  | .pinLockviol p | .pinOwnign p => some p
  | _ => none

/-- The access holds the resource of a register. -/
def State.holdsReg (s : State) (a : Agent) (r : Reg) : Bool :=
  match r.resource with
  | some (k, i) => s.holds a k i
  | none => false

/-- The access holds a channel of an engine (R363). -/
def State.holdsEngine (s : State) (a : Agent) (e : Engine) : Bool :=
  match s.agentPart a with
  | none => false
  | some h => s.holdsAny h kDma (16 * e.val) 16

/-- The access holds a channel of a calibration group. -/
def State.holdsGroup (s : State) (a : Agent) (g : CalGroup) : Bool :=
  match s.agentPart a with
  | none => false
  | some h => s.holdsAny h kPin (16 * g.val) 16

/-- A read reaches the register (R49, R59, R63, R163, R198, R220, R253, R290, R321, R350, R351, R362, R381, R416, R432). -/
def State.readable (s : State) (a : Agent) (r : Reg) : Bool :=
  match r with
  | .thrCtl _ | .thrCfg _ | .thrCeil _ | .thrEntry _ | .thrFpinit _ | .thrSpinit _ | .thrBudget _ | .thrIssued _
  | .thrLast _ | .thrPeak _ | .thrState _ | .thrPc _ | .thrFp _ | .thrSp _ | .thrSw _ | .thrPxlo _ _ | .thrPxhi _ _
  | .evtEn _ | .evtPend _ | .evtLive _ | .evtLost _ | .evtClaim _ | .evtCltsLo _ | .evtCltsHi _ | .evtNest _
  | .evtFstat _ | .evtFpc _ | .evtFaddr _ | .evtSw _ | .evtMap _ _ | .evtVbase _ | .evtFlvl _ =>
      s.holdsReg a r || s.isOwner a
  | .belTrec _ | .belTcommit _ | .belTdisc _ | .belTnum _ | .hpsTstat _
  | .irqLctl _ | .irqLtime _ | .irqLstat _ | .irqLack _
  | .pinFcfg _ _ | .pinSwitch _ | .pinPad _ | .pinOwner _ | .pinShcfg _ | .pinShd _ | .pinChstat _ | .pinEqtLo _
  | .pinEqtHi _ | .pinEqpush _ | .pinEqctl _
  | .sncCfg _ | .sncClk _ | .sncData _ | .sncStat _ | .sncTsLo _ | .sncTsHi _
  | .qmRflag _ | .qmRprod _ | .qmRcons _ => s.holdsReg a r
  | .pinOut p | .pinSet p | .pinClr p | .pinTgl p | .pinIn p | .pinPolicy p | .pinConfl p | .pinLocksel p | .pinLocked p
  | .pinLockviol p | .pinOwnign p => s.portInside a p
  | .pinCalg g => s.holdsGroup a g
  | .dmaEctl e | .dmaEstat e | .dmaEcfg e | .dmaBerrLo e | .dmaBerrHi e | .dmaBerri e => s.holdsEngine a e
  | .dmaStray _ | .hpsForce | .hpsStat | .hpsLeaseA _ | .hpsLeaseB _ => s.isOwner a
  | .drlEcho _ _ => true
  | r => if 10 ≤ r.region then s.isOwner a else true

/-- A write reaches the register. -/
def State.writable (s : State) (a : Agent) (r : Reg) : Bool :=
  match r with
  | .ctlWarm | .ctlBgate | .ctlRstcause | .hstPcfg _ | .hstPerr | .hstPa _ _
  | .brlSmap _ _ | .brlSmapAct _ _ | .brlSmapCtl _ | .brlStat _ | .brlHqstat _
  | .dmaEctl _ | .dmaEstat _ | .dmaEcfg _ | .dmaBerrLo _ | .dmaBerrHi _ | .dmaBerri _ | .dmaStray _
  | .qmCtl | .qmRdbase | .qmWin | .hpsForce | .hpsStat | .hpsLeaseA _ | .hpsLeaseB _ => s.isOwner a
  | .qmPoolbase _ | .qmPoolcnt _ | .qmPoolfree _ => s.isOwner a && s.holdsReg a r
  | .irqTgt src => (match s.agentPart a with | some p => s.sourceIn p src.toNat | none => false)
  | .pinOut p | .pinSet p | .pinClr p | .pinTgl p | .pinIn p | .pinPolicy p | .pinConfl p | .pinLocksel p | .pinLocked p
  | .pinLockviol p | .pinOwnign p => s.portInside a p
  | .pinCalg g => s.holdsGroup a g
  | .drlEcho _ _ => true
  | r => if 10 ≤ r.region then s.isOwner a else match r.resource with | some (k, i) => s.holds a k i | none => true

/-! ### The thread I/O space (R163, R217, R259, R292, R352, R381) -/

/-- Who writes a register through the I/O space: nobody (RO), every level, or S level only (R165). -/
inductive IoWrite where
  | ro
  | any
  | superv
  deriving DecidableEq, Repr

/-- An I/O register: its name, how it is written, and whether a write needs the channel's ownership (R219). -/
structure IoReg where
  reg : Reg
  wr : IoWrite
  owned : Option Chan := none
  deriving DecidableEq, Repr

/-- The register at an address of thread `t`'s I/O space; none where no chapter lists it. -/
def ioReg (t : Tid) (io : Nat) : Option IoReg :=
  if io < 0x1000 then
    pick io [(0, ⟨.evtEn t, .superv, none⟩), (1, ⟨.evtPend t, .ro, none⟩), (2, ⟨.evtLive t, .ro, none⟩),
      (3, ⟨.evtLost t, .superv, none⟩), (4, ⟨.evtClaim t, .ro, none⟩), (5, ⟨.evtCltsLo t, .ro, none⟩),
      (6, ⟨.evtCltsHi t, .ro, none⟩), (7, ⟨.evtNest t, .ro, none⟩), (8, ⟨.evtFstat t, .superv, none⟩),
      (9, ⟨.evtFpc t, .ro, none⟩), (10, ⟨.evtFaddr t, .ro, none⟩), (11, ⟨.evtSw t, .ro, none⟩)]
  else if io < 0x1010 then some ⟨.pinIn (fin 16 (io - 0x1000)), .ro, none⟩
  else if io < 0x1020 then some ⟨.pinOut (fin 16 (io - 0x1010)), .ro, none⟩
  else if io < 0x1030 then some ⟨.pinConfl (fin 16 (io - 0x1020)), .ro, none⟩
  else if 0x1100 ≤ io ∧ io < 0x1300 then some ⟨.pinChstat (fin 512 (io - 0x1100)), .superv, none⟩
  else if 0x1300 ≤ io ∧ io < 0x1500 then some ⟨.pinShd (fin 512 (io - 0x1300)), .any, some (fin 512 (io - 0x1300))⟩
  else if 0x1500 ≤ io ∧ io < 0x1700 then some ⟨.pinSwitch (fin 512 (io - 0x1500)), .superv, some (fin 512 (io - 0x1500))⟩
  else if 0x1700 ≤ io ∧ io < 0x1740 then some ⟨.pinLine (fin 64 (io - 0x1700)), .ro, none⟩
  else if 0x1740 ≤ io ∧ io < 0x1780 then
    some ⟨if io % 2 = 0 then .pinHcfg (fin 32 ((io - 0x1740) / 2)) else .pinHsnap (fin 32 ((io - 0x1740) / 2)), .ro, none⟩
  else if 0x2000 ≤ io ∧ io < 0x2100 then some ⟨.timReload (fin 256 (io - 0x2000)), .any, none⟩
  else if 0x2100 ≤ io ∧ io < 0x2200 then some ⟨.timCount (fin 256 (io - 0x2100)), .ro, none⟩
  else if 0x2200 ≤ io ∧ io < 0x2300 then some ⟨.timStat (fin 256 (io - 0x2200)), .superv, none⟩
  else if 0x2400 ≤ io ∧ io < 0x2800 then some ⟨.timCcStat (fin 1024 (io - 0x2400)), .superv, none⟩
  else if io = 0x2800 then some ⟨.timTbaseLo, .ro, none⟩
  else if io = 0x2801 then some ⟨.timTbaseHi, .ro, none⟩
  else if 0x3000 ≤ io ∧ io < 0x3020 then some ⟨.cvpStat (fin 32 (io - 0x3000)), .superv, none⟩
  else if 0x3020 ≤ io ∧ io < 0x3040 then some ⟨.cvpSwtrig (fin 32 (io - 0x3020)), .any, none⟩
  else if 0x3040 ≤ io ∧ io < 0x3080 then some ⟨.trpStnStat (fin 64 (io - 0x3040)), .superv, none⟩
  else if 0x3080 ≤ io ∧ io < 0x3084 then some ⟨.trpLevel (fin 4 (io - 0x3080)), .ro, none⟩
  else if 0x3800 ≤ io ∧ io < 0x3900 then
    let n : SincNo := fin 64 ((io - 0x3800) / 4)
    if io % 4 = 0 then some ⟨.sncData n, .ro, none⟩ else if io % 4 = 1 then some ⟨.sncStat n, .superv, none⟩
    else if io % 4 = 2 then some ⟨.sncTsLo n, .ro, none⟩ else some ⟨.sncTsHi n, .ro, none⟩
  else if 0x4000 ≤ io ∧ io < 0x4040 then
    let b : Bell := fin 16 ((io - 0x4000) / 4)
    if io % 4 = 0 then some ⟨.belNumLo b, .ro, none⟩ else if io % 4 = 1 then some ⟨.belNumHi b, .ro, none⟩
    else if io % 4 = 2 then some ⟨.belNextLo b, .ro, none⟩ else some ⟨.belNextHi b, .ro, none⟩
  else if io = 0x4040 then some ⟨.belTrec t, .ro, none⟩
  else if io = 0x5000 then some ⟨.qmTstat t, .ro, none⟩
  else if 0x6000 ≤ io ∧ io < 0x6100 then some ⟨.dmaKick (fin 256 (io - 0x6000)), .any, none⟩
  else if 0x6100 ≤ io ∧ io < 0x6200 then some ⟨.dmaCstat (fin 256 (io - 0x6100)), .superv, none⟩
  else if 0x6200 ≤ io ∧ io < 0x6300 then some ⟨.dmaCres (fin 256 (io - 0x6200)), .ro, none⟩
  else if io = 0x7000 then some ⟨.hpsTstat t, .superv, none⟩
  else none

/-- An I/O register lies in the thread's partition (R24): its own registers always do. -/
def State.ioInside (s : State) (t : Tid) (x : IoReg) : Bool :=
  match x.reg with
  | .evtEn _ | .evtPend _ | .evtLive _ | .evtLost _ | .evtClaim _ | .evtCltsLo _ | .evtCltsHi _ | .evtNest _ | .evtFstat _
  | .evtFpc _ | .evtFaddr _ | .evtSw _ | .belTrec _ | .qmTstat _ | .hpsTstat _ | .timTbaseLo | .timTbaseHi | .trpLevel _ => true
  | .pinIn p | .pinOut p | .pinConfl p => s.portInside (.thread t) p
  | r => s.holdsReg (.thread t) r

/-- A register's word as an IN of a thread reads it, and what the read does. -/
def State.readReg (s : State) (a : Agent) (r : Reg) : Word × State := (s.view a r, s.readEffect a r)

/-! ### The report card (R431) -/

/-- The words of the report card as the block's registers stand. -/
def State.cardWord (s : State) (i : Nat) : Word :=
  let o := s.owner
  let v (r : Reg) : Word := s.view .block r
  if i = 0 then v .ensign else if i = 1 then v .ctlRstcause else if i = 2 then v .lcsState else if i = 3 then v .updStat
  else if i = 4 then v .updCidlo else if i = 5 then v .updCidhi else if i = 6 then s.drill.startUs
  else if i = 7 then flagAt 31 s.drill.dmode ||| flagAt 30 s.upd.setDef ||| flagAt 29 s.drill.prevUsed |||
    put 16 s.drill.refused ||| put 0 s.drill.startBell.toNat
  else if i = 8 then lo32 s.tbase else if i = 9 then hi32 s.tbase
  else if i = 10 then put 24 s.lockups ||| put 0 s.drill.discards.toNat
  else if i = 11 then put 16 (sat 65535 s.memS.ceTotal) ||| put 0 (sat 65535 s.memS.ueTotal)
  else if i = 12 then put 16 (((List.finRange 13).map s.sparesUsed).sum) ||| bitsWhere 13 (fun m => (s.inst (fin 13 m)).retired.isSome)
  else if i = 13 then put 16 s.memS.mramBlocks.length ||| flagAt 0 s.memS.mramUeEver
  else if i = 14 then bitsWhere 32 (fun g => (s.cal (fin 32 g)).stale)
  else if i = 15 then v .hlyStat else if i = 16 then v .hlyDly
  else if i = 17 then put 16 s.upd.tampers.toNat ||| put 0 s.memS.wipeCount.toNat
  else if i = 18 then put 8 o.val ||| bitsWhere 8 (fun h => (s.host (fin 8 h)).inRst)
  else if i = 19 then put 16 s.drill.lastCode.toNat ||| put 0 s.drill.res.toNat
  else if i = 20 then s.drill.data
  else if i = 21 then flagAt 0 s.sys.blockUp ||| flagAt 1 s.sys.lockupAny
  else if i = 22 then s.drill.seq + 1
  else 0

/-- Take a report card: SEQ counts it. -/
def State.takeCard (s : State) : State :=
  { s with drill := { s.drill with
    card := (List.range 32).foldl (fun m i => mput 0 m i (s.cardWord i)) []
    seq := s.drill.seq + 1, cardDue := false } }

/-- A report card is taken at the start of the next SCLK; two triggers in one SCLK take one card. -/
def State.cardSoon (s : State) : State := { s with drill := { s.drill with cardDue := true } }

end Sys2Proof.Machine
end

