-- ==== Sys2Proof/Machine/Ops.lean ====
section
/-! DEFINITION. Threads at work: reads and writes of operand places, landings of the pipeline, slots and budgets,
recognition, entries and faults, lockup, discards and period entries (chapters 03, 06 and 07). -/

namespace Sys2Proof.Machine

/-! ### Places (R67, R92, R98, R210, R211) -/

/-- A product register. -/
def ThreadS.px (x : ThreadS) (n : BitVec 2) : DWord :=
  if n = 0 then x.px0 else if n = 1 then x.px1 else if n = 2 then x.px2 else x.px3

/-- Replace a product register. -/
def ThreadS.setPx (x : ThreadS) (n : BitVec 2) (v : DWord) : ThreadS :=
  if n = 0 then { x with px0 := v } else if n = 1 then { x with px1 := v }
  else if n = 2 then { x with px2 := v } else { x with px3 := v }

/-- The physical copy that a slate read of a line reaches. -/
def State.readCopy (s : State) (t : Tid) (line : Nat) : Bool :=
  if (s.thr t).dirty.getLsbD line then s.workCopy t line else !s.workCopy t line

/-- The slate byte that a read returns: the working copy's where the line is dirty (R210). -/
def State.slateRead (s : State) (t : Tid) (line off : Nat) : Byte :=
  s.slateByte t (s.readCopy t line) line off

/-- The bytes of a slate operand. -/
def State.slateReads (s : State) (t : Tid) (line off : Nat) : Nat → List Byte
  | 0 => []
  | n + 1 => s.slateRead t line off :: s.slateReads t line (off + 1) n

/-- A place's value, of `n` bytes. -/
def State.readLoc (s : State) (l : Loc) (n : Nat) : DWord :=
  match l with
  | .desk b a => BitVec.ofNat 64 (leNat (s.deskBytes b a.toNat n))
  | .slate t line off => BitVec.ofNat 64 (leNat (s.slateReads t line.toNat off.toNat n))
  | .px t k => BitVec.ofNat 64 (((s.thr t).px k).toNat % 2 ^ (8 * n))
  | .imm v => v

/-- Write bytes of a slate copy upward. -/
def State.setSlates (s : State) (t : Tid) (copy : Bool) (line off : Nat) : List Byte → State
  | [] => s
  | v :: rest => (s.setSlate t copy line off v).setSlates t copy line (off + 1) rest

/-- The bytes of a slate copy of a line. -/
def State.slateLine (s : State) (t : Tid) (copy : Bool) (line : Nat) : List Byte :=
  (List.range 64).map (s.slateByte t copy line)

/-- A slate write lands: a class member's in the working copy, filled from the committed copy where the line was
clean; another thread's in the committed copy (R210, R211). -/
def State.slateWrite (s : State) (t : Tid) (line off : Nat) (l : List Byte) : State :=
  let w := s.workCopy t line
  if (s.classOf t).isSome then
    if (s.thr t).dirty.getLsbD line then s.setSlates t w line off l
    else ((s.setSlates t w line 0 (s.slateLine t (!w) line)).setSlates t w line off l).modThr t
      (fun x => { x with dirty := x.dirty ||| (1#32 <<< line) })
  else s.setSlates t (!w) line off l

/-- The address of a slate byte in its instance (Table MEM-9). -/
def slatePhys (t : Tid) (copy : Bool) (line off : Nat) : Nat := t.val % 32 * 4096 + (if copy then 2048 else 0) + line * 64 + off

/-- The physical copy that a slate write of a line reaches. -/
def State.writeCopy (s : State) (t : Tid) (line : Nat) : Bool :=
  if (s.classOf t).isSome then s.workCopy t line else !s.workCopy t line

/-- A value of `n` bytes in a product register: the bits above take copies of its top bit, or zeros (R98). -/
def pxFill (v : DWord) (n : Nat) (sign : Bool) : DWord :=
  let low := v.toNat % 2 ^ (8 * n)
  if sign && decide (2 ^ (8 * n - 1) ≤ low) then BitVec.ofInt 64 ((low : Int) - 2 ^ (8 * n)) else BitVec.ofNat 64 low

/-- A product register takes the write of an instruction issued in cycle `k`; one issued before the period entry is dropped
(R131). -/
def ThreadS.product (k : Nat) (n : BitVec 2) (v : DWord) (x : ThreadS) : ThreadS :=
  if k < x.enteredAt then x else x.setPx n v

/-- A write to a clean line fills the working copy whole from the committed copy, whose errors the fill meets (R210, R306). -/
def State.slateFill (s : State) (t : Tid) (line : Nat) : State :=
  let w := s.workCopy t line
  if (s.classOf t).isSome && !(s.thr t).dirty.getLsbD line then
    (s.noteRead (instSlate (barrelOf t)) 0 (slatePhys t (!w) line 0) 64 (agThread t)).heal (instSlate (barrelOf t)) (slatePhys t w line 0) 64
  else s

/-- A destination takes the value of an instruction issued in cycle `k`. -/
def State.storeAt (s : State) (k : Nat) (d : Dest) (v : DWord) : State :=
  match d.loc with
  | .desk b a => (s.setDesks b a.toNat (leBytes v.toNat d.size)).heal (instDesk b) a.toNat d.size
  | .slate t line off =>
    ((s.slateFill t line.toNat).slateWrite t line.toNat off.toNat (leBytes v.toNat d.size)).heal (instSlate (barrelOf t))
      (slatePhys t (s.writeCopy t line.toNat) line.toNat off.toNat) d.size
  | .px t n => s.modFrom t k (ThreadS.product k n (pxFill v d.size d.signFill))
  | .imm _ => s

/-! ### Landings of the pipeline (R67, R68, R105) -/

/-- A pointer word takes bits 18 to 0 of a new address and keeps its others as they stand (R94). -/
def State.pointerAt (s : State) (b : Barrel) (a p : BitVec 19) : State :=
  let w := BitVec.ofNat 32 (leNat (s.deskBytes b a.toNat 4))
  s.setDesks b a.toNat (leBytes ((w &&& 0xFFF80000) ||| p.setWidth 32).toNat 4)

/-- The cycle at whose end a value stands in its place, for an instruction issued in cycle `k` (R98, R128). -/
def Loc.due (l : Loc) (k : Nat) : Nat := match l with | .px _ _ => k + 8 | _ => k + 7

/-- A landing that another landing of the same issue brings about. -/
def State.landLater (s : State) (t : Tid) (k due : Nat) (e : Eff) : State :=
  { s with agenda := agendaInsert { due := due, prio := prioPipe, thread := some t, issuedAt := k, eff := e } s.agenda }

/-- Flags take bits of a value. -/
def ThreadS.setFlags (m v : BitVec 5) (x : ThreadS) : ThreadS :=
  { x with sw := (x.sw &&& ~~~(m.setWidth 32)) ||| (v &&& m).setWidth 32 }

/-- TAS in its c7: the word is read before the writes of that cycle; then B takes 1 and A the old value, in this order, and Z
tells whether it was 0 (R105, R147). -/
def State.tasAt (s : State) (t : Tid) (k : Nat) (l : Loc) (old : Option Dest) : State :=
  let v := s.readLoc l 4
  let s := s.landLater t k (k + 7) (.store { loc := l, size := 4, signFill := true } 1)
  let s := match old with
    | some d => s.landLater t k (d.loc.due k) (.store d v)
    | none => s
  s.modFrom t k (ThreadS.setFlags 4 (if v = 0 then 4 else 0))

/-- The defined bits of SW (Table EVT-6). -/
def swMask : Word := 0xFFFF035F

/-- PRIV as the ceiling bounds it. -/
def State.privOk (s : State) (t : Tid) : Bool := bit (s.reg (.thrCeil t)) 0

/-- A status word with PRIV given. -/
def withPriv (sw : Word) (p : Bool) : Word := (sw &&& 0xFFFFFFBF) ||| flagAt 6 p

/-- RPT is 0, for an entry (R172). -/
def ThreadS.noRpt (x : ThreadS) : ThreadS := { x with sw := x.sw &&& 0xFFFF }

/-- The PC that a fault or an entry saves: the prefix within a repeat (R141, R143), and the WAIT that parks the thread (R175). -/
def ThreadS.savedPc (x : ThreadS) : BitVec 16 :=
  match x.rep with | some r => r.prefixPc | none => if x.st = .wait then x.waitPc else x.pc

/-- What the thread held before its issue of cycle `k`, with the landings of older instructions since. -/
def Thread.beforeIssue (x : Thread) (k : Nat) : ThreadS :=
  match x.flight.find? (fun g => decide (g.at_ = k)) with
  | some g => g.before
  | none => x.toThreadS

/-- The nesting stack without the entry that had `depth - 1` entries below it; HF for depth 0 (R178). -/
def Events.popAt (e : Events) (depth : Nat) : Events :=
  if depth = 0 then { e with hf := false }
  else { e with nest := e.nest.take (e.nest.length - depth) ++ e.nest.drop (e.nest.length - depth + 1) }

/-- The SW word of a frame: the flags and MASK, PRIV and RPT as the instructions before the entry left them (R171). -/
def frameWord (x : ThreadS) : Word := x.sw &&& swMask

/-- A frame word of an entry of a thread. -/
def State.frameStore (s : State) (t : Tid) (k : Nat) (a : BitVec 19) (v : Word) : State :=
  s.storeAt k { loc := .desk (barrelOf t) a, size := 4, signFill := false } (v.setWidth 64)

/-- A landing of the issue of cycle `k` on memories, product registers, SW, FP and SP. Every other landing leaves them. -/
def State.landPipe (s : State) (k : Nat) : Eff → State
  | .store d v => s.storeAt k d v
  | .pointer b a p => s.pointerAt b a p
  | .tas t l old => s.tasAt t k l old
  | .flags t m v => s.modFrom t k (ThreadS.setFlags m v)
  | .product t n v => s.modFrom t k (ThreadS.product k n v)
  | .setFp t v => s.modFrom t k (fun x => { x with fp := v, fpOld := x.fp, fpAt := s.now })
  | .setSp t v => s.modFrom t k (fun x => { x with sp := v })
  | .setPriv t p => s.modFrom t k (fun x => { x with sw := withPriv x.sw (p && s.privOk t) })
  | .privDown t => s.modAll t (fun x => { x with sw := withPriv x.sw false })
  | .setMask t m => s.modFrom t k (fun x => { x with sw := (x.sw &&& 0xFFFFFCFF) ||| put 8 m.toNat })
  | .enterSw t => s.modFrom t k (fun x => { x.noRpt with sw := withPriv x.noRpt.sw (s.privOk t) })
  | .exitSw t sw depth => s.modFrom t k (fun x => { x with
      sw := withPriv (sw &&& swMask) (bit sw 6 && s.privOk t), ev := x.ev.popAt depth })
  | .retWord t a => s.frameStore t k a (((s.thr t).beforeIssue k).savedPc.setWidth 32)
  | .swWord t a => s.frameStore t k a (frameWord ((s.thr t).beforeIssue k))
  | .insWord b y a v => (s.setIns b y a.toNat v).heal (instIns b) ((if y then 65536 else 0) + a.toNat) 1
  | .buffer b a d => (s.setDesks b a.toNat (bytes64 d)).heal (instDesk b) a.toNat 64
  | .mailbox n e count => (s.writeMailbox n e count).heal (instDesk e.barrel) (0x220 + 0x40 * n.val) 16
  | _ => s

/-- The state with the landings carried out that are entered for the end of this cycle or an earlier one: what stands at the
start of an issue's c1, where SP and the flags of a conditional branch are sampled (R68, R138). -/
def State.nextView (s : State) : State :=
  (s.agenda.filter (fun x => decide (x.due ≤ s.now))).foldl (fun s x => s.landPipe x.issuedAt x.eff) s

/-! ### Issues in flight (Table BRL-12, R65, R181) -/

/-- The flight of the instruction that the thread issued three cycles ago: this cycle is its read point (R67). -/
def State.readFlight (s : State) (t : Tid) : Option Flight := (s.thr t).flight.find? (fun g => decide (g.at_ + 3 = s.now))

/-- What an instruction at its read point reads: the memories as they stand, and its thread as the older instructions have
left it (R67, R68). -/
def State.readView (s : State) (t : Tid) : State :=
  match s.readFlight t with
  | some g => s.modThr t (fun x => { x with toThreadS := g.before })
  | none => s

/-- The frame pointer that an instruction at its read point forms its addresses from: as it stood at the start of c2 (R107). -/
def State.readFp (s : State) (t : Tid) : BitVec 19 :=
  let x := (s.readView t).thr t
  if x.fpAt = s.now then x.fpOld else x.fp

/-- Change the flight of an issue. -/
def Thread.modFlight (x : Thread) (k : Nat) (f : Flight → Flight) : Thread :=
  { x with flight := x.flight.map (fun g => if g.at_ = k then f g else g) }

/-- A thread's issue of this cycle takes off. -/
def State.takeOff (s : State) (t : Tid) (insn : Option Instr) (fetch : Option (BitVec 16)) : State :=
  s.modThr t (fun x => { x with
    flight := x.flight ++ [{ at_ := s.now, insn := insn, fetch := fetch, before := x.toThreadS, entryReg := s.reg (.thrEntry t) }] })

/-- The issue of cycle `k` meets a fault; the first that it meets stands (R116). -/
def State.raiseAt (s : State) (t : Tid) (k : Nat) (f : IssueFault) : State :=
  s.modThr t (fun x => x.modFlight k (fun g => if g.fault.isSome then g else { g with fault := some f }))

/-- An instruction at its read point meets a fault. It makes none of its writes, and its fault is recognised in its c6 (R106,
R181). -/
def State.raise (s : State) (t : Tid) (cause : FCause) (space : BitVec 3) (faddr : Word) : State :=
  s.raiseAt t (s.now - 3) { cause := cause, space := space, faddr := faddr }

/-- The flow of the thread after its issue of cycle `k` is decided at the read point: the thread goes on from there; where an
overrun's entry has taken one of the empty slots, that entry returns there (R74, R79, R140). -/
def Thread.flow (x : Thread) (k : Nat) (f : ThreadS → ThreadS) : Thread :=
  match x.flight.find? (fun g => decide (k < g.at_)) with
  | none => { x with toThreadS := f x.toThreadS }
  | some g =>
    let y := f g.before
    let fix := fun (z : ThreadS) => { z with ev := { z.ev with fpc := y.savedPc } }
    { toThreadS := fix x.toThreadS
      flight := x.flight.map (fun h =>
        if h.at_ = g.at_ then { h with before := y } else if g.at_ < h.at_ then { h with before := fix h.before } else h) }

/-- A thread's state changes; a halted thread that steps takes it as the state to return to. -/
def ThreadS.enter (x : ThreadS) (st : TState) : ThreadS :=
  if x.st = .halt then { x with beforeHalt := st } else { x with st := st }

/-- The thread as the cancellation of its issue `g` and of all later ones leaves it (R181): its charges stay, but for those
under a period entry that an HND among them made, and so does what came from outside its instructions. -/
def Thread.cancelled (x : Thread) (g : Flight) : Thread :=
  let b := g.before
  let old := if b.st = .halt then b.beforeHalt else b.st
  let hnd := (x.flight.filter (fun h => decide (g.at_ ≤ h.at_ ∧ h.before.epoch = b.epoch))).getLast?
  let issued := if x.epoch = b.epoch then x.issued else match hnd with | some h => h.before.issued + 1 | none => x.issued
  { toThreadS := { b with
      st := if x.st = .halt then .halt else old
      beforeHalt := if x.st = .halt then old else x.beforeHalt
      bellPassed := x.bellPassed, stepFrom := x.stepFrom, maintAtBell := x.maintAtBell, maintWait := x.maintWait
      startFrom := x.startFrom, lastIssue := x.lastIssue, cfgRefused := x.cfgRefused, ctxRefused := x.ctxRefused
      haltFrom := x.haltFrom, releaseFrom := x.releaseFrom, decidedAt := x.decidedAt, life := x.life, issued := issued
      sel := x.sel, dirty := x.dirty, per := x.per, tbaseHold := x.tbaseHold
      ev := { b.ev with recog := none, entering := none } }
    flight := x.flight.filter (fun h => decide (h.at_ < g.at_)) }

/-- The issue `g` of a thread and every later one is cancelled (R181). -/
def State.cancelFrom (s : State) (t : Tid) (g : Flight) : State :=
  let back := decide (g.before.bankY ≠ (s.thr t).bankY)
  let s := (s.dropFrom t g.at_).modThr t (fun x => x.cancelled g)
  if back then s.setReg (.thrEntry t) g.entryReg else s

/-- Every issue that has not completed its c7 by the end of the previous cycle is cancelled (R181, R207). -/
def State.cancelAll (s : State) (t : Tid) : State :=
  match (s.thr t).flight with
  | g :: _ => s.cancelFrom t g
  | [] => s

/-- The issues that have passed W leave the pipeline (R65). -/
def State.pruneFlights (s : State) (t : Tid) : State :=
  if (s.thr t).flight.isEmpty then s
  else s.modThr t (fun x => { x with flight := x.flight.filter (fun g => decide (s.now < g.at_ + 8)) })

/-! ### Instruction words (R72, R112, R297) -/

/-- A word of the thread's active bank, and whether it holds an uncorrectable error (R72, R112). -/
def State.fetchWord (s : State) (t : Tid) (pc : BitVec 16) : Word × Bool :=
  let b := barrelOf t
  let y := (s.thr t).bankY
  (s.insWord b y pc.toNat, s.poisoned (instIns b) ((if y then 65536 else 0) + pc.toNat) 1)

/-- The next two words of a thread, with whether they hold an uncorrectable error: from its queue, else from its bank. -/
def State.nextWords (s : State) (t : Tid) : (Word × Bool) × (Word × Bool) :=
  let x := s.thr t
  match x.pq with
  | a :: b :: _ => (a, b)
  | [a] => (a, s.fetchWord t (x.pc + 1))
  | [] => (s.fetchWord t x.pc, s.fetchWord t (x.pc + 1))

/-- The address of the next instruction's second word where that word is marked (R297). -/
def State.badSecond (s : State) (t : Tid) : Option (BitVec 16) :=
  let w := s.nextWords t
  if isLong w.1.1 && w.2.2 then some ((s.thr t).pc + 1) else none

/-! ### Slots and budgets (R55 to R57, R78, R79, R174) -/

/-- The thread that owns a barrel's slot in cycle `c`. -/
def State.ownerAt (s : State) (b : Barrel) (c : Nat) : Option Tid :=
  let e := (s.bar b).active.getD (c % 32) 0
  if e.getLsbD 7 then some (threadOf b (e.toNat % 32)) else none

/-- The thread that owns the current slot of a barrel. -/
def State.slotOwner (s : State) (b : Barrel) : Option Tid := s.ownerAt b s.now

/-- A thread owns the slot of cycle `c`. -/
def State.ownsAt (s : State) (t : Tid) (c : Nat) : Bool := decide (s.ownerAt (barrelOf t) c = some t)

/-- A thread owns the current slot. -/
def State.ownsSlot (s : State) (t : Tid) : Bool := s.ownsAt t s.now

/-- The count has reached the budget and the monitor still charges (R79). -/
def Thread.spent (x : Thread) : Bool := decide (x.budget ≠ 0) && decide (x.budget.toNat ≤ x.issued.toNat) && !x.overrun

/-- The budget leaves the two issues of an event entry or chain (R174). R174 does not say what holds once the overrun has been
raised; entries and chains then start whatever the count (log entry 45, DESIGN CHOICE). -/
def ThreadS.affords (x : ThreadS) : Bool :=
  decide (x.budget = 0) || x.overrun || decide (x.issued.toNat + 2 ≤ x.budget.toNat)

/-- Charge one issue; after an overrun the monitor charges nothing further (R78, R79). -/
def Thread.charged (x : Thread) : Thread := if x.overrun then x else { x with issued := x.issued + 1 }

/-- The queue holds the next instruction whole. -/
def Thread.queueHas (x : Thread) : Bool :=
  match x.pq with
  | [] => false
  | (w, _) :: rest => !isLong w || !rest.isEmpty

/-- What a thread's owned slot is used for: nothing; nothing, between periods; an empty slot that is charged; the
overrun; a fault entry issue; an event entry issue or claim; the next instruction. -/
inductive SlotUse where
  | idle
  | free
  | lost
  | overrun
  | fault
  | event
  | issue
  deriving DecidableEq, Repr

/-- An owned slot in which the thread would not issue although it is in RUN: R73 to R75 and R140 leave it empty, or R65 does. -/
def Thread.emptySlot (x : Thread) (now : Nat) : Bool :=
  decide (0 < x.skipSlots) || decide (now < x.notBefore) || (x.pcWritten && !x.queueHas)

/-- A slot of a thread in RUN. -/
def Thread.runUse (x : Thread) (now : Nat) : SlotUse :=
  match x.fault, x.ev.entering with
  | some _, _ => .fault
  | none, some e =>
    (match e.kind with
     | .event => .event
     | .chain => .event
     | .fault => .fault
     | .hard => .fault)
  | none, none =>
    if x.emptySlot now then (if x.emptyFree then .free else if x.spent then .overrun else .lost)
    else if !x.heldBus.isEmpty && !x.ev.hf then .fault
    else if x.spent then .overrun
    else match x.ev.recog with
      | some r => if r.at_ < now ∧ x.entryFrom ≤ now then (if x.affords then .event else .overrun) else .issue
      | none => .issue

/-- What the current slot is used for by a thread (R57, R79, R168, R181, R183, Table EVT-13). -/
def State.slotUse (s : State) (t : Tid) : SlotUse :=
  let x := s.thr t
  if s.ownsSlot t && decide (x.lastIssue ≠ some s.now) && !x.maintWait then
    match x.st with
    | .run => x.runUse s.now
    | .halt => (match x.stepFrom with | some c => if c ≤ s.now then x.runUse s.now else .idle | none => .idle)
    | .hwait => if !x.heldBus.isEmpty && !x.ev.hf then .fault else if x.spent then .overrun else .lost
    | .wait =>
      if x.fault.isSome then .fault
      else (match x.ev.recog with
       | some r => if r.at_ < s.now ∧ x.entryFrom ≤ s.now then (if x.affords then .event else .overrun) else .idle
       | none => .idle)
    | _ => .idle
  else .idle

/-- An instruction of a thread may issue now. -/
def State.canIssue (s : State) (t : Tid) : Bool := decide (s.slotUse t = .issue)

/-- The instruction that issues takes its words from the queue and moves the PC (R72, R86): in the last repetition of
a repeat, and outside one. A repetition counts RPT down (R140). -/
def Thread.issueOne (x : Thread) (now len : Nat) : Thread :=
  let y := { x.charged with lastIssue := some now, stepFrom := none, emptyFree := false, pcWritten := false }
  match y.rep with
  | none => { y with pc := y.pc + BitVec.ofNat 16 len, pq := y.pq.drop len }
  | some _ =>
    let left := fieldN y.sw 16 16 - 1
    let y := { y with sw := (y.sw &&& 0xFFFF) ||| put 16 left }
    if left = 0 then { y with rep := none, pc := y.pc + BitVec.ofNat 16 len, pq := y.pq.drop len } else y

/-- Issue an instruction of `len` words: it takes off, charged, with the PC past it. -/
def State.issueOf (s : State) (c : Instr) (t : Tid) (len : Nat) : State :=
  (s.takeOff t (some c) (if len = 2 then s.badSecond t else none)).modThr t (fun x => x.issueOne s.now len)

/-- A slot is used without a new instruction: an entry issue or a refused re-issue. -/
def State.useSlot (s : State) (t : Tid) : State :=
  s.modThr t (fun x => { x.charged with lastIssue := some s.now, stepFrom := none })

/-! ### An instruction's two commands: its issue, and its read point (R67, R105, R181) -/

/-- The flight of an instruction that has come to its read point and has not been read. -/
def State.reading (s : State) (t : Tid) (c : Instr) : Option Flight :=
  (s.thr t).flight.find? (fun g => decide (g.at_ + 3 = s.now) && decide (g.insn = some c) && !g.read)

/-- The read point of an instruction in flight: what it does with its operands, unless its issue has met a fault. A marked
second word is a bus error where the instruction meets no other fault (R116, R297). -/
def State.readPoint (s : State) (t : Tid) (g : Flight) (f : State → State) : State :=
  let s := s.modThr t (fun x => x.modFlight g.at_ (fun g => { g with read := true }))
  if g.fault.isSome then s
  else
    let r := f s
    match g.fetch with
    | some a => if ((r.thr t).flight.any (fun h => decide (h.at_ = g.at_) && h.fault.isSome)) then r else s.raise t .bus 5 (a.setWidth 32)
    | none => r

/-- An instruction of `len` words. As a command in its thread's slot it issues, and `issue` says what else its issue does; a
refused one takes its slot and is charged (R82, R347). As a command at its read point it does `read`. At any other time it
leaves the state (R57). -/
def State.insn (s : State) (c : Instr) (t : Tid) (len : Nat) (refused : Bool) (issue read : State → State) : State :=
  match s.reading t c with
  | some g => s.readPoint t g read
  | none => if s.canIssue t then (if refused then s.useSlot t else issue (s.issueOf c t len)) else s

/-! ### Faults (R106, R181 to R184) -/

/-- CAUSE of Table EVT-5. -/
def FCause.code : FCause → Nat
  | .illegal => 1
  | .misaligned => 2
  | .bus => 3
  | .overrun => 4
  | .nesting => 5
  | .privReturn => 6

/-- A fault as the block recognises it, before its route is judged. -/
def pendFault (f : IssueFault) (pc : BitVec 16) (async : Bool) : PendFault :=
  { cause := f.cause, pc := pc, space := f.space, faddr := f.faddr, async := async, entry := f.entry, hard := false, lvl := 0, vec := 0 }

/-- The level of a fault (EVT_FLVL). -/
def State.faultLevel (s : State) (t : Tid) (c : FCause) : BitVec 2 :=
  BitVec.ofNat 2 (fieldN (s.reg (.evtFlvl t)) (2 * (c.code - 1)) 2)

/-- A level exceeds the top of a nesting stack. -/
def above (nest : List Nest) (l : BitVec 2) : Bool :=
  match nest with | [] => true | e :: _ => decide (e.lvl.toNat < l.toNat)

/-- The mask level of SW. -/
def maskOf (sw : Word) : Nat := fieldN sw 8 2

/-- Vector word `i` of a thread: bits 15 to 0 of the word at BASE × 64 + 4i (R169). -/
def State.vecWord (s : State) (t : Tid) (i : Nat) : BitVec 16 :=
  (s.readLoc (.desk (barrelOf t) (BitVec.ofNat 19 ((s.reg (.evtVbase t)).toNat + 4 * i))) 4).setWidth 16

/-- A read of a vector word meets its error (R298, R306). -/
def State.noteVec (s : State) (t : Tid) (i : Nat) : State :=
  s.noteRead (instDesk (barrelOf t)) 1 (((s.reg (.evtVbase t)).toNat + 4 * i) % 524288) 4 (agThread t)

/-- The route of a fault (R182, R184): its level and vector, or the hard-fault handler. -/
def State.judge (s : State) (t : Tid) (f : PendFault) : PendFault :=
  let x := s.thr t
  let l := s.faultLevel t f.cause
  let take := !f.entry && decide (maskOf x.sw ≤ l.toNat) && !x.ev.hf && above x.ev.nest l
  { f with hard := !take, lvl := if take then l else 3, vec := s.vecWord t (if take then 4 + l.toNat else 8) }

/-- FAULTED of the open period (R201). -/
def State.setFaulted (s : State) (t : Tid) : State :=
  s.modPer t (fun p => if p.isOpen then { p with faulted := true } else p)

/-! ### Discards and commits of slate and posts (R207, R209, R210) -/

/-- The count of the period that ends goes to THR_LAST and THR_PEAK (R78). -/
def Thread.countEnd (x : Thread) : Thread :=
  { x with last := x.issued, peak := if x.peak.toNat < x.issued.toNat then x.issued else x.peak }

/-- Timers whose reload a member's bell had already taken get back what they held: the period did not commit after all. -/
def State.undoReloads (s : State) (t : Tid) : State :=
  (s.reloadUndo.filter (fun e => decide (e.1 = t))).foldr
    (fun e s => (s.setReg (.timReload e.2.1) e.2.2.1).setTimer e.2.1 e.2.2.2) s

/-- Return the cells and reservations of a thread's staged posts, then drop all it has staged. -/
def State.dropStaged (s : State) (t : Tid) : State :=
  (((s.staged.filter (fun e => decide (e.1 = t))).foldl (fun s e =>
    match e.2 with | .post r p i => s.discardPost r p i | _ => s) s).unstage t).undoReloads t

/-- Discard a thread's open period with a cause (R207, R209): staged values and working copies go, and the outcome is
recorded. -/
def State.discard (s : State) (t : Tid) (cause : BitVec 4) : State :=
  let s := (s.dropStaged t).modThr t (fun x => { x.countEnd with
    dirty := 0
    per := { x.per with isOpen := false, handin := false, faulted := false, lastOut := cause, discards := x.per.discards + 1 } })
  { s with drill := { s.drill with discards := s.drill.discards + 1 } }

/-! ### Lockup (R185) -/

/-- A thread has switched to the new image (R399). -/
def State.switched (s : State) (t : Tid) : Bool :=
  (decide (s.upd.stage = .switching) || decide (s.upd.stage = .provisional)) && decide ((s.thr t).todo ≠ .toNew)

/-- A thread locks up in the cycle of the fault. Where that is the cycle of its bell, its period is discarded here, with cause
5, and the bell neither counts it nor writes BEL_TNUM (Table BEL-6 does not say; log entry 45, DESIGN CHOICE). -/
def State.lockup (s : State) (t : Tid) (cause : FCause) : State :=
  let s := s.modThr t (fun x => { x with
    st := .lockup, fault := none, rep := none, life := x.life + 1, decidedAt := some s.now
    heldBus := [], stepFrom := none, haltFrom := none, releaseFrom := none, maintWait := false
    ev := { x.ev.inCycle s.now with
      recog := none, entering := none
      fstat := (x.ev.fstat &&& 0xF8FFFFFF) ||| flagAt 31 true ||| put 24 cause.code
      fstatNew := (x.ev.inCycle s.now).fstatNew ||| bitw 31 } })
  let s := if (s.thr t).per.isOpen then s.discard t 5 else s.dropStaged t
  let s := ((s.endLeases (ownerThread t)).unwatchAll (.thread t)).dropFills t
  let s := (s.ownedPins t).foldl (fun s c => s.schedule (s.now + 3) prioUnit (.pinLockSafe c true)) s
  (if s.switched t then s.askFallback 0 else s).pulse (0x020 + t.val)

/-- Recognise the fault of an instruction or entry issue that is in its c6: it and every later issue are cancelled, and the
thread locks up within the hard-fault span, or the fault takes its route (R181, R184). The record that a failed fault entry has
made stands. -/
def State.recogniseFault (s : State) (t : Tid) : State :=
  match (s.thr t).flight.find? (fun g => decide (g.at_ + 6 = s.now) && g.fault.isSome) with
  | some g =>
    (match g.fault with
     | some f =>
       let y := (s.thr t).ev
       let s := s.cancelFrom t g
       let s := if f.entry then s.modEv t (fun ev => { ev with fstat := y.fstat, fpc := y.fpc, faddr := y.faddr }) else s
       let x := s.thr t
       if f.lock ∨ x.ev.hf then s.lockup t f.cause
       else
        let f := s.judge t (pendFault f x.savedPc false)
        ((s.setFaulted t).noteVec t (if f.hard then 8 else 4 + f.lvl.toNat)).modThr t (fun x => { x with fault := some f })
     | none => s)
  | none => s

/-! ### Admission and recognition (R167, R168, R173, R433) -/

/-- The input that a thread would take with a nesting stack: the highest level first, then the lowest number (R167). -/
def State.bestInput (s : State) (t : Tid) (nest : List Nest) : Option (BitVec 5 × BitVec 2) :=
  let x := s.thr t
  let ready := x.ev.en &&& x.ev.pend
  if x.ev.hf ∨ ready = 0 then none
  else
    let lvlOf := fun i => (mget ((0x7FF : BitVec 11), (0 : BitVec 2)) s.evmap (32 * t.val + i)).2
    ([3, 2, 1, 0] : List (BitVec 2)).findSome? (fun l =>
      if maskOf x.sw ≤ l.toNat ∧ above nest l = true then
        ((List.range 32).find? (fun i => bit ready i && decide (lvlOf i = l))).map (fun i => (BitVec.ofNat 5 i, l))
      else none)

/-- A hold keeps a thread from recognising an event (R433). -/
def Thread.held (x : Thread) (now : Nat) : Bool :=
  !(decide (x.st = .run) || decide (x.st = .wait)) || decide (now < x.holdUntil) || x.fault.isSome || x.maintWait ||
  (match x.rep with | some r => !r.interruptible | none => false)

/-- Recognition at the end of a cycle, with the vectors as they stood at its start: a late arrival replaces the event
being entered; else an admitted event is recognised where no hold applies. -/
def State.recognise (s : State) (t : Tid) : State :=
  let x := s.thr t
  match x.ev.entering with
  | some e =>
    if e.kind = .event ∨ e.kind = .chain then
      (match s.bestInput t (if e.kind = .chain then x.ev.nest.tail else x.ev.nest) with
       | some (i, l) =>
         if e.lvl.toNat < l.toNat then
           (s.noteVec t l.toNat).modEv t (fun ev => { ev with entering := some { e with input := i, lvl := l, vec := s.vecWord t l.toNat } })
         else s
       | none => s)
    else s
  | none =>
    if x.held s.now then (if x.ev.recog.isSome then s.modEv t (fun ev => { ev with recog := none }) else s)
    else match x.ev.recog, s.bestInput t x.ev.nest with
      | none, none => s
      | some _, none => s.modEv t (fun ev => { ev with recog := none })
      | none, some (i, l) =>
        (s.noteVec t l.toNat).modEv t (fun ev => { ev with recog := some { input := i, lvl := l, vec := s.vecWord t l.toNat, at_ := s.now } })
      | some r, some (i, l) =>
        if r.lvl.toNat < l.toNat then
          (s.noteVec t l.toNat).modEv t (fun ev => { ev with recog := some { input := i, lvl := l, vec := s.vecWord t l.toNat, at_ := r.at_ } })
        else if bit (x.ev.en &&& x.ev.pend) r.input.toNat then s
        else (s.noteVec t l.toNat).modEv t (fun ev => { ev with recog := some { input := i, lvl := l, vec := s.vecWord t l.toNat, at_ := s.now } })

/-! ### Entries (R171, R172, R182) -/

/-- An operand of `n` bytes at an address crosses an 8-byte row (R108). -/
def crosses (a n : Nat) : Bool := decide (a / 8 ≠ (a + n - 1) / 8)

/-- Write the fault record, with ESC where the fault escalates (R164, R182). -/
def recordFault (now : Nat) (e : Events) (f : PendFault) : Events :=
  let e := e.inCycle now
  { e with
    fstatNew := e.fstatNew ||| flagAt 30 f.hard
    fstat := (e.fstat &&& 0xC7000000) ||| put 16 f.space.toNat ||| put 12 f.lvl.toNat ||| flagAt 9 f.entry |||
      flagAt 8 f.async ||| put 0 f.cause.code ||| flagAt 30 f.hard
    fpc := f.pc, faddr := f.faddr }

/-- SP as CALL, RET and the entries see it: at the start of c1 (R138). -/
def State.spNow (s : State) (t : Tid) : BitVec 19 := (s.nextView.thr t).sp

/-- The first entry issue: SP moves down by 8 at the end of c1 and the return word lands at the end of c7. A frame that
crosses a row fails the entry: it escalates, or locks up within the hard-fault entry (R171, R184), and EVT_FADDR takes the
address of the word that crosses, the first of the two (DEDUCED from R116; log entry 25). -/
def State.enterFirst (s : State) (t : Tid) (kind : EntryKind) (input : BitVec 5) (lvl : BitVec 2) (vec : BitVec 16) : State :=
  let sp := s.spNow t - 8
  let wt := decide ((s.thr t).st = .wait)
  let s := (s.takeOff t none none).modThr t (fun x => { x with
    st := if x.st = .halt then .halt else .run
    fault := none, rep := none, skipSlots := 0, notBefore := 0, emptyFree := false, pcWritten := false
    lastIssue := some s.now, stepFrom := none
    ev := { x.ev with recog := none, entering := some { kind := kind, input := input, lvl := lvl, vec := vec, wt := wt } } })
  if sp.toNat % 4 = 0 then
    (s.scheduleFor t (s.now + 1) prioPipe (.setSp t sp)).scheduleFor t (s.now + 7) prioPipe (.retWord t sp)
  else
    s.raiseAt t s.now { cause := .misaligned, space := 1
                        faddr := (if crosses sp.toNat 4 then sp else sp + 4).setWidth 32
                        entry := true, lock := decide (kind = .hard) }

/-- The second entry issue: the SW word of the frame, PRIV and RPT of the handler at the end of its c1, and the handler's
first instruction next (R171, R172). -/
def State.enterSecond (s : State) (t : Tid) : State :=
  (s.scheduleFor t (s.now + 7) prioPipe (.swWord t (s.spNow t + 4))).scheduleFor t (s.now + 1) prioPipe (.enterSw t)

/-- A claim (R159, R161, R172): the pending bit clears unless a pulse sets it in the same cycle. -/
def State.claim (s : State) (t : Tid) (e : Entering) : State :=
  s.modEv t (fun ev =>
    let i := e.input.toNat
    let ev := ev.inCycle s.now
    let gone := bitw i &&& ~~~ev.pulse
    { ev with
      pend := ev.pend &&& ~~~gone
      wiped := ev.wiped ||| (ev.pend &&& gone)
      claim := flagAt 31 true ||| put 8 e.lvl.toNat ||| put 0 i
      claimAt := some s.now
      clts := mget 0 ev.times i })

/-- The handler's first instruction comes next. -/
def State.toHandler (s : State) (t : Tid) (vec : BitVec 16) : State :=
  s.modThr t (fun x => { x with
    pc := vec, pq := [], skipSlots := 0, notBefore := 0, fetchFrom := 0, ev := { x.ev with entering := none } })

/-- The second entry issue of an event, or the claim of a chain (R172, R180). The nesting entry of an event keeps the address
of the WAIT that it was taken from (R179). -/
def State.claimIssue (s : State) (t : Tid) (e : Entering) : State :=
  let pc := (s.thr t).waitPc
  let s := ((s.takeOff t none none).useSlot t).claim t e
  if e.kind = .chain then
    (s.modEv t (fun ev => { ev with nest := match ev.nest with
      | top :: rest => { top with lvl := e.lvl, flt := false } :: rest
      | [] => [] })).toHandler t e.vec
  else
    ((s.enterSecond t).modEv t (fun ev => { ev with
      nest := { lvl := e.lvl, flt := false, wt := e.wt, waitPc := pc } :: ev.nest })).toHandler t e.vec

/-- An issue of an event entry or chain. -/
def State.eventIssue (s : State) (t : Tid) : State :=
  let x := s.thr t
  match x.ev.entering, x.ev.recog with
  | some e, _ => s.claimIssue t e
  | none, some r => (s.enterFirst t .event r.input r.lvl r.vec).modThr t Thread.charged
  | none, none => s

/-- The first issue of a fault entry: the frame, and the record (R164, R182). -/
def State.faultFirst (s : State) (t : Tid) (f : PendFault) : State :=
  (s.enterFirst t (if f.hard then .hard else .fault) 0 f.lvl f.vec).modEv t (fun ev => recordFault s.now ev f)

/-- The second issue of a fault entry: the nesting entry, or HF. -/
def State.faultSecond (s : State) (t : Tid) (e : Entering) : State :=
  let s := (((s.takeOff t none none).useSlot t).enterSecond t).modEv t (fun ev =>
    if e.kind = .hard then { ev with hf := true }
    else { ev with nest := { lvl := e.lvl, flt := true, wt := false, waitPc := 0 } :: ev.nest })
  s.toHandler t e.vec

/-- An asynchronous fault raised in the slot (R183): within the hard-fault handler it locks the thread up (R184). -/
def State.raiseAsync (s : State) (t : Tid) (f : IssueFault) : State :=
  let x := s.thr t
  if x.ev.hf then s.lockup t f.cause
  else
    let s := s.setFaulted t
    let f := s.judge t (pendFault f x.savedPc true)
    (s.noteVec t (if f.hard then 8 else 4 + f.lvl.toNat)).faultFirst t f

/-- An issue of a fault entry: a fault recognised before, a hall-queue bus error raised in the slot, or the second issue. A
held bus error is raised before an overrun that is due in the same slot (the spec gives no order; log entry 45, DESIGN
CHOICE). -/
def State.faultIssue (s : State) (t : Tid) : State :=
  let x := s.thr t
  match x.fault, x.ev.entering, x.heldBus with
  | some f, _, _ => (s.faultFirst t f).modThr t Thread.charged
  | none, some e, _ => s.faultSecond t e
  | none, none, a :: rest =>
    ((s.modThr t (fun x => { x with heldBus := rest })).raiseAsync t { cause := .bus, space := 3, faddr := a }).modThr t Thread.charged
  | none, none, [] => s

/-- The overrun raised in the slot that the monitor refuses; its first entry issue is not charged (R79, R174). -/
def State.overrunIssue (s : State) (t : Tid) : State :=
  (s.modThr t (fun x => { x with overrun := true })).raiseAsync t { cause := .overrun }

/-! ### Banks and period entries (R66, R295, R401, R402) -/

/-- STAGE becomes PROVISIONAL once every thread has switched (R399). -/
def State.switchEnd (s : State) : State :=
  if s.upd.stage = .switching ∧ (s.threads.all (fun e => decide (e.2.todo ≠ .toNew))) = true then
    (s.modUpd (fun u => { u with stage := .provisional })).pulse 0x7ED
  else s

/-- A thread with a switch to make takes the other bank, and THR_ENTRY the other image's entry point (R399, R402). -/
def State.switchBank (s : State) (t : Tid) : State :=
  match (s.thr t).todo with
  | .none => s
  | .toNew =>
    let old : BitVec 16 := (s.reg (.thrEntry t)).setWidth 16
    ((s.setReg (.thrEntry t) ((imgThread s.stagingImg t 0).setWidth 32)).modThr t (fun x => { x with
      bankY := !x.bankY, todo := .none, handover := true, oldEntry := old })).switchEnd
  | .toOld =>
    (s.setReg (.thrEntry t) ((s.thr t).oldEntry.setWidth 32)).modThr t (fun x => { x with
      bankY := !x.bankY, todo := .none, handover := false, takeback := true })

/-- The PC that a period entry loads (R66, R401, R402). -/
def State.entryPc (s : State) (t : Tid) : BitVec 16 :=
  let x := s.thr t
  if x.takeback then
    (let p := imgThread s.confirmedImg t 2
     if p = 0 then imgThread s.confirmedImg t 0 else p)
  else if x.handover then
    (let p := imgThread s.stagingImg t 1
     if p = 0 then imgThread s.stagingImg t 0 else p)
  else (s.reg (.thrEntry t)).setWidth 16

/-- The context as a period entry loads it (R66), with the count, the nesting stack, HF and the reservation cleared
(R78, R152, R187). -/
def State.entryThread (s : State) (t : Tid) (classed : Bool) : Thread :=
  let x := s.thr t
  { x with
    st := .run, pc := s.entryPc t
    fp := (s.reg (.thrFpinit t)).setWidth 19, sp := (s.reg (.thrSpinit t)).setWidth 19
    sw := withPriv 0 (s.privOk t), px0 := 0, px1 := 0, px2 := 0, px3 := 0
    pq := [], rep := none, fault := none, heldBus := [], skipSlots := 0, notBefore := 0, emptyFree := false, pcWritten := false
    startFrom := none, budget := s.reg (.thrBudget t), issued := 0, overrun := false, epoch := x.epoch + 1, resv := none
    handover := x.handover && classed, takeback := x.takeback && classed, entryFrom := 0, fetchFrom := 0, enteredAt := s.now
    per := { x.per with isOpen := classed, handin := false, faulted := false }
    ev := { x.ev with nest := [], hf := false, recog := none, entering := none } }

/-- A period entry (R66). The pins a locked-up thread held in their safe state leave it 3 cycles later (R229). -/
def State.periodEntry (s : State) (t : Tid) : State :=
  let s := s.switchBank t
  let s := s.setThr t (s.entryThread t (s.classOf t).isSome)
  ((s.ownedPins t).filter (fun c => (s.pin c).lockSafe)).foldl
    (fun s c => s.schedule (s.now + 2) prioUnit (.pinLockSafe c false)) s

/-- A thread outside any class is to start: RUN at its period entry in its first owned slot from cycle `from_` on, and OFF until
then (Table BRL-16). -/
def State.startThread (s : State) (t : Tid) (from_ : Nat) : State :=
  s.modThr t (fun x => { x with st := .off, startFrom := some from_, stepFrom := none })

/-- A thread that is to start has its slot: its period entry. -/
def State.startSlot (s : State) (t : Tid) : State :=
  match (s.thr t).startFrom with
  | some c => if c ≤ s.now then s.periodEntry t else s
  | none => s

end Sys2Proof.Machine
end

