-- ==== Sys2Proof/Machine/Operands.lean ====
section
/-! DEFINITION. Operand forms: types, addressing modes, immediates, roles, alignment and branch targets (chapter 04). -/

namespace Sys2Proof.Machine

/-! ### Types and roles (R92, Table ISA-3) -/

/-- The operand types of Table ISA-3. -/
inductive OpTy where
  | i8
  | i16
  | i32
  | i64
  | q15
  | q31
  | f32
  | v4h
  | v4q
  | v2w
  | v2q
  | ang
  | adr
  | cnt
  | px
  deriving DecidableEq, Repr

/-- The size S of a type in bytes. -/
def OpTy.size : OpTy → Nat
  | .i8 => 1
  | .i16 => 2
  | .i32 => 4
  | .i64 => 8
  | .q15 => 2
  | .q31 => 4
  | .f32 => 4
  | .v4h => 8
  | .v4q => 8
  | .v2w => 8
  | .v2q => 8
  | .ang => 2
  | .adr => 4
  | .cnt => 4
  | .px => 8

/-- The i and q types, whose value's top bit fills a product register (R98). -/
def OpTy.signed : OpTy → Bool
  | .i8 => true
  | .i16 => true
  | .i32 => true
  | .i64 => true
  | .q15 => true
  | .q31 => true
  | _ => false

/-- The integer type of a size suffix. -/
def sizeTy : Size4 → OpTy
  | .b => .i8
  | .h => .i16
  | .w => .i32
  | .d => .i64

/-- The type of a family with a .D variant. -/
def wideTy (wide : Bool) : OpTy := if wide then .i64 else .i32
/-- The type of a fixed-point family with a .H variant. -/
def fixTy (half : Bool) : OpTy := if half then .q15 else .q31

/-- The operand roles d, m, s and p. -/
inductive Role where
  | d
  | m
  | s
  | p
  deriving DecidableEq, Repr

/-- What an instruction that faults reports: cause, space and address. -/
structure OpErr where
  cause : FCause
  space : BitVec 3 := 0
  addr : Word := 0
  deriving DecidableEq, Repr

/-- The illegal-opcode fault, which reports no address. -/
def illegal : OpErr := { cause := .illegal }

/-! ### Immediates (R100, Table ISA-5) -/

/-- A specifier as a two's-complement number. -/
def sx (spec : BitVec 14) : Int := spec.toInt

/-- Every lane of `n` bits takes a value. -/
def lanes (n k : Nat) (v : Nat) : DWord :=
  BitVec.ofNat 64 ((List.range k).foldl (fun a i => a + (v % 2 ^ n) * 2 ^ (n * i)) 0)

/-- The value of a mode 2 operand of a type. -/
def immediate (ty : OpTy) (spec : BitVec 14) : DWord :=
  let i (n : Nat) : Nat := (BitVec.ofInt n (sx spec)).toNat
  match ty with
  | .i8 => lanes 8 1 (i 8)
  | .i16 => lanes 16 1 (i 16)
  | .i32 => lanes 32 1 (i 32)
  | .i64 => BitVec.ofInt 64 (sx spec)
  | .q15 => lanes 16 1 (i 14 * 4)
  | .q31 => lanes 32 1 (i 14 * 2 ^ 18)
  | .f32 => lanes 32 1 (spec.toNat * 2 ^ 18)
  | .v4h => lanes 16 4 (i 16)
  | .v4q => lanes 16 4 (i 14 * 4)
  | .v2w => lanes 32 2 (i 32)
  | .v2q => lanes 32 2 (i 14 * 2 ^ 18)
  | .ang => lanes 16 1 (spec.toNat * 4)
  | .adr => lanes 32 1 spec.toNat
  | .cnt => lanes 32 1 spec.toNat
  | .px => 0

/-! ### Addressing (R93 to R99, R108) -/

/-- A resolved operand: its place, and the pointer word's address and new value where the mode updates it. -/
structure Place where
  loc : Loc
  ptr : Option (BitVec 19 × BitVec 19) := none
  deriving DecidableEq, Repr

/-- A desk operand of `n` bytes at an address, with a pointer update. -/
def deskPlace (b : Barrel) (a : BitVec 19) (n : Nat) (ptr : Option (BitVec 19 × BitVec 19)) : Except OpErr Place :=
  if crosses a.toNat n then .error { cause := .misaligned, space := 1, addr := a.setWidth 32 }
  else .ok { loc := .desk b a, ptr := ptr }

/-- The pointer, index or descriptor word at a desk address. -/
def State.deskWordAt (s : State) (b : Barrel) (a : BitVec 19) : Except OpErr Word :=
  if crosses a.toNat 4 then .error { cause := .misaligned, space := 1, addr := a.setWidth 32 }
  else .ok ((s.readLoc (.desk b a) 4).setWidth 32)

/-- The new pointer of mode 7 (R96). -/
def circular (p : BitVec 19) (desc : Word) (n : Nat) : BitVec 19 :=
  let base := fieldN desc 13 19
  let len := if fieldN desc 0 13 = 0 then 65536 else 8 * fieldN desc 0 13
  let off := (p - BitVec.ofNat 19 base).toNat + n
  BitVec.ofNat 19 (base + (if len ≤ off then off - len else off))

/-- A pointer-based mode 3 to 7: `v` is the state at the read point and `fp` the frame pointer. -/
def State.pointerMode (v : State) (b : Barrel) (fp : BitVec 19) (mode : Nat) (spec : BitVec 14) (n : Nat) : Except OpErr Place :=
  let size : BitVec 19 := BitVec.ofNat 19 n
  if mode = 6 then do
    let p ← v.deskWordAt b (fp + BitVec.ofNat 19 (4 * (spec.toNat / 128)))
    let x ← v.deskWordAt b (fp + BitVec.ofNat 19 (4 * (spec.toNat % 128)))
    deskPlace b (p.setWidth 19 + BitVec.ofInt 19 (x.toInt * n)) n none
  else do
    let pa : BitVec 19 := fp + BitVec.ofInt 19 (sx spec * 4)
    let w ← v.deskWordAt b pa
    let p : BitVec 19 := w.setWidth 19
    if mode = 3 then deskPlace b p n none
    else if mode = 4 then deskPlace b p n (some (pa, p + size))
    else if mode = 5 then deskPlace b (p - size) n (some (pa, p - size))
    else do
      let desc ← v.deskWordAt b (pa + 4)
      deskPlace b p n (some (pa, circular p desc n))

/-- A slate operand (R97). -/
def slatePlace (t : Tid) (spec : BitVec 14) (n : Nat) : Except OpErr Place :=
  if 2048 ≤ spec.toNat then .error illegal
  else if crosses (spec.toNat % 64) n then .error { cause := .misaligned, space := 2, addr := spec.setWidth 32 }
  else .ok { loc := .slate t (BitVec.ofNat 5 (spec.toNat / 64)) (BitVec.ofNat 6 (spec.toNat % 64)) }

/-- A product register operand of mode 9 (R98). -/
def pxPlace (t : Tid) (spec : BitVec 14) : Except OpErr Place :=
  if 4 ≤ spec.toNat then .error illegal else .ok { loc := .px t (BitVec.ofNat 2 spec.toNat) }

/-- A mode that needs no reading of desk and is illegal for its role or by its bits (R93, R99, R101, R102). -/
def opIllegal (long : Bool) (o : Opnd) (role : Role) : Bool :=
  match role, long with
  | .p, true => decide (o.mode ≠ 9) || decide (4 ≤ o.spec.toNat)
  | .p, false => decide (4 ≤ o.spec.toNat)
  | _, false => false
  | r, true =>
    decide (10 ≤ o.mode.toNat) || (decide (o.mode = 2) && decide (r ≠ .s)) ||
    (decide (o.mode = 8) && decide (2048 ≤ o.spec.toNat)) || (decide (o.mode = 9) && decide (4 ≤ o.spec.toNat))

/-- Resolve an operand of a type at the read point `v`, with the frame pointer `fp` (R93, R102). -/
def State.resolve (v : State) (t : Tid) (fp : BitVec 19) (long : Bool) (o : Opnd) (ty : OpTy) (role : Role) :
    Except OpErr Place :=
  let n := ty.size
  if opIllegal long o role then .error illegal
  else match role, long with
  | .p, _ => pxPlace t o.spec
  | _, false => deskPlace (barrelOf t) (fp + BitVec.ofNat 19 (o.spec.toNat % 256 * n)) n none
  | _, true =>
    let m := o.mode.toNat
    if m = 0 then deskPlace (barrelOf t) (fp + BitVec.ofInt 19 (sx o.spec * n)) n none
    else if m = 1 then deskPlace (barrelOf t) (BitVec.ofNat 19 (o.spec.toNat * n)) n none
    else if m = 2 then .ok { loc := .imm (immediate ty o.spec) }
    else if m = 8 then slatePlace t o.spec n
    else if m = 9 then pxPlace t o.spec
    else v.pointerMode (barrelOf t) fp m o.spec n

/-! ### Landing a result -/

/-- Enter a pointer update (R94, R105). -/
def State.bump (s : State) (t : Tid) (p : Place) : State :=
  match p.ptr with
  | some (a, v) => s.enter t 7 prioPipe (.pointer (barrelOf t) a v)
  | none => s

/-- A destination as it takes its value. -/
def Place.dest (p : Place) (ty : OpTy) : Dest := { loc := p.loc, size := ty.size, signFill := ty.signed }

/-- Enter the write of a destination: at the end of c7, or of c8 in a product register (R98, R105, R128). -/
def State.putResult (s : State) (t : Tid) (p : Place) (ty : OpTy) (v : DWord) : State :=
  s.enter t (p.loc.due 0) prioPipe (.store (p.dest ty) v)

/-- Enter a write of flags: `m` says which of Q N Z C V take the bits of `v` (R68, R114). -/
def State.putFlags (s : State) (t : Tid) (m v : BitVec 5) : State :=
  if m = 0 then s else s.enter t 7 prioPipe (.flags t m v)

/-- A pipeline read meets the errors of its place (R306). -/
def State.noteLoc (s : State) (l : Loc) (n : Nat) (t : Tid) : State :=
  match l with
  | .desk b a => s.noteRead (instDesk b) 0 a.toNat n (agThread t)
  | .slate u line off =>
    s.noteRead (instSlate (barrelOf u)) 0 (slatePhys u (s.readCopy u line.toNat) line.toNat off.toNat) n (agThread t)
  | _ => s

/-! ### Branch targets (R103, R104) -/

/-- Where a target comes from. -/
inductive Dest16 where
  | direct (pc : BitVec 16)
  | desk (pc : BitVec 16) (p : Place)
  deriving DecidableEq, Repr

/-- The target of a branch at `pc`. -/
def State.target (v : State) (t : Tid) (fp : BitVec 19) (pc : BitVec 16) (tg : Target) : Except OpErr Dest16 :=
  match tg with
  | .short d => .ok (.direct (BitVec.ofInt 16 ((pc.toNat : Int) + d.toInt)))
  | .long o =>
    if o.mode = 2 then .ok (.direct (BitVec.ofInt 16 ((pc.toNat : Int) + sx o.spec)))
    else if o.mode = 1 then .ok (.direct (BitVec.ofNat 16 (o.spec.toNat * 4)))
    else if o.mode.toNat = 9 ∨ 10 ≤ o.mode.toNat then .error illegal
    else do
      let p ← v.resolve t fp true o .i32 .s
      pure (.desk ((v.readLoc p.loc 4).setWidth 16) p)

/-- Words of a branch. -/
def targetWords : Target → Nat
  | .short _ => 1
  | .long _ => 2

/-- Words of an instruction. -/
def wordsOf (i : Issue) : Nat := if i.long then 2 else 1

/-! ### One instruction over its operands (R105, R106, R114, R116) -/

/-- An operand's role and type; `none` is an unused operand, whose field the block ignores (R91). -/
abbrev OpSpec := Option (Role × OpTy)

/-- The operand is read: a source, a modified operand or a product operand. -/
def OpSpec.reads : OpSpec → Bool
  | some (.d, _) => false
  | some _ => true
  | none => false

/-- Bytes of an operand. -/
def OpSpec.size : OpSpec → Nat
  | some (_, ty) => ty.size
  | none => 0

/-- An operand breaks Table ISA-7 or a required-zero bit. -/
def OpSpec.bad (x : OpSpec) (long : Bool) (o : Opnd) : Bool :=
  match x with | some (r, _) => opIllegal long o r | none => false

/-- The places of an instruction's operands. -/
structure Places where
  a : Place
  b : Place
  c : Place
  deriving DecidableEq, Repr

/-- Resolve one operand. -/
def State.place (v : State) (i : Issue) (fp : BitVec 19) (o : Opnd) (x : OpSpec) : Except OpErr Place :=
  match x with
  | some (r, ty) => v.resolve i.thread fp i.long o ty r
  | none => .ok { loc := .imm 0 }

/-- Resolve three operands at the read point `v`: an illegal opcode comes before a misaligned operand (R116). -/
def State.places (v : State) (i : Issue) (fp : BitVec 19) (a b c : OpSpec) : Except OpErr Places :=
  if a.bad i.long i.a || b.bad i.long i.b || c.bad i.long i.c then .error illegal
  else do
    let pa ← v.place i fp i.a a
    let pb ← v.place i fp i.b b
    let pc ← v.place i fp i.c c
    pure { a := pa, b := pb, c := pc }

/-- The operand values of an instruction; an operand that is not read counts as 0. -/
structure Vals where
  a : DWord
  b : DWord
  c : DWord
  deriving DecidableEq, Repr

/-- Read one operand. -/
def State.valOf (v : State) (p : Place) (x : OpSpec) : DWord := if x.reads then v.readLoc p.loc x.size else 0

/-- Read three operands. -/
def State.vals (v : State) (p : Places) (a b c : OpSpec) : Vals :=
  { a := v.valOf p.a a, b := v.valOf p.b b, c := v.valOf p.c c }

/-- The reads meet the errors of their places. -/
def State.noteOperand (s : State) (p : Place) (x : OpSpec) (t : Tid) : State :=
  if x.reads then s.noteLoc p.loc x.size t else s

/-- The reads of an operand's pointer, index and descriptor words meet their errors (R94 to R96, R306). -/
def State.notePointers (s : State) (t : Tid) (long : Bool) (o : Opnd) (x : OpSpec) : State :=
  let word (s : State) (a : BitVec 19) : State := s.noteLoc (.desk (barrelOf t) a) 4 t
  let fp := s.readFp t
  let pa : BitVec 19 := fp + BitVec.ofInt 19 (sx o.spec * 4)
  match x with
  | none | some (.p, _) => s
  | some _ =>
    if !long then s
    else if o.mode = 6 then
      word (word s (fp + BitVec.ofNat 19 (4 * (o.spec.toNat / 128)))) (fp + BitVec.ofNat 19 (4 * (o.spec.toNat % 128)))
    else if o.mode = 7 then word (word s pa) (pa + 4)
    else if o.mode = 3 ∨ o.mode = 4 ∨ o.mode = 5 then word s pa
    else s

/-- What every instruction that passes its checks does at its read point: its reads meet their errors and its pointer words are
updated in the order A, B, C (R105). -/
def State.startRead (s : State) (i : Issue) (p : Places) (a b c : OpSpec) : State :=
  let t := i.thread
  let s := ((s.notePointers t i.long i.a a).notePointers t i.long i.b b).notePointers t i.long i.c c
  let s := ((s.noteOperand p.a a t).noteOperand p.b b t).noteOperand p.c c t
  ((s.bump t p.a).bump t p.b).bump t p.c

/-- An instruction at its read point: its operands are resolved and read; a fault is raised, or `f` completes it from its
places and values. -/
def State.instruct (s : State) (i : Issue) (a b c : OpSpec) (f : State → Places → Vals → State) : State :=
  let v := s.readView i.thread
  match v.places i (s.readFp i.thread) a b c with
  | .error e => s.raise i.thread e.cause e.space e.addr
  | .ok p => f s p (v.vals p a b c)

/-- An instruction that does nothing but issue before its read point, where it does `read`. -/
def State.plainly (s : State) (c : Instr) (i : Issue) (read : State → State) : State :=
  s.insn c i.thread (wordsOf i) false id read

/-- What an operation yields: the value of A, and which of Q N Z C V take which bits. -/
structure Out where
  v : DWord
  mask : BitVec 5 := 0
  flags : BitVec 5 := 0
  deriving DecidableEq, Repr

/-- An operation that writes A and flags. -/
def State.operate (s : State) (i : Issue) (a b c : OpSpec) (f : Vals → Out) : State :=
  s.instruct i a b c (fun s p x =>
    let r := f x
    let s := (s.startRead i p a b c).putResult i.thread p.a ((a.map (·.2)).getD .i32) r.v
    s.putFlags i.thread r.mask r.flags)

/-- An operation that writes flags only. -/
def State.testOnly (s : State) (i : Issue) (a b c : OpSpec) (f : Vals → Out) : State :=
  s.instruct i a b c (fun s p x =>
    let r := f x
    (s.startRead i p a b c).putFlags i.thread r.mask r.flags)

end Sys2Proof.Machine
end

