-- ==== Sys2Proof/Machine/Flags.lean ====
section
/-! DEFINITION. Flag computations and the arithmetic of the integer operations (R117 to R122). -/

namespace Sys2Proof.Machine

/-! ### Flags (Table EVT-6) -/

/-- Q N Z C V as bits 4 to 0. -/
def flagBits (q n z c v : Bool) : BitVec 5 :=
  (if q then 16#5 else 0) ||| (if n then 8#5 else 0) ||| (if z then 4#5 else 0) ||| (if c then 2#5 else 0) ||| (if v then 1#5 else 0)

/-- Mask of N Z C V. -/
def mNZCV : BitVec 5 := 15
/-- Mask of N Z C. -/
def mNZ : BitVec 5 := 12
/-- Mask of N Z V. -/
def mNZV : BitVec 5 := 13
/-- Mask of Z. -/
def mZ : BitVec 5 := 4

/-- Bit `i` of a number. -/
def tb (a i : Nat) : Bool := a.testBit i

/-- A result of width `w` with N and Z from it, C and V given, and the flags that `m` names. -/
def outFlags (w : Nat) (m : BitVec 5) (r : Nat) (c v : Bool) : Out :=
  { v := BitVec.ofNat 64 (r % 2 ^ w), mask := m, flags := flagBits false (tb (r % 2 ^ w) (w - 1)) (decide (r % 2 ^ w = 0)) c v }

/-- ADD (R117). -/
def addOut (w a b : Nat) : Out :=
  let r := (a + b) % 2 ^ w
  outFlags w mNZCV r (decide (2 ^ w ≤ a + b)) (decide (tb a (w - 1) = tb b (w - 1)) && decide (tb r (w - 1) ≠ tb a (w - 1)))

/-- SUB, CMP and NEG (R117): carry means no borrow. -/
def subOut (w a b : Nat) : Out :=
  let r := (a + 2 ^ w - b) % 2 ^ w
  outFlags w mNZCV r (decide (b ≤ a)) (decide (tb a (w - 1) ≠ tb b (w - 1)) && decide (tb r (w - 1) ≠ tb a (w - 1)))

/-- AND, OR, XOR and NOT: N, Z and V := 0 (Table INS-3). -/
def logicOut (w r : Nat) : Out := outFlags w mNZV r false false

/-! ### Shifts (R120) -/

/-- The four shifts. -/
inductive ShiftOp where
  | shl
  | shr
  | asr
  | rol
  deriving DecidableEq, Repr

/-- A number of width `w` as a signed number. -/
def sgn (w a : Nat) : Int := if 2 ^ (w - 1) ≤ a % 2 ^ w then ((a % 2 ^ w : Nat) : Int) - 2 ^ w else ((a % 2 ^ w : Nat) : Int)

/-- A signed number as its pattern of width `w`. -/
def pat (w : Nat) (x : Int) : Nat := (x % (2 ^ w : Int)).toNat

/-- Result and carry of a shift of width `w` by `k`. -/
def shiftRes (op : ShiftOp) (w b k : Nat) : Nat × Bool :=
  if k = 0 then (b, false)
  else match op with
  | .shl => if k ≤ w then ((b <<< k) % 2 ^ w, tb b (w - k)) else (0, false)
  | .shr => if k ≤ w then (b >>> k, tb b (k - 1)) else (0, false)
  | .asr =>
    if k ≤ w then (pat w (sgn w b >>> k), tb b (k - 1))
    else (if tb b (w - 1) then 2 ^ w - 1 else 0, tb b (w - 1))
  | .rol =>
    let j := k % w
    if j = 0 then (b, false) else
      let r := ((b <<< j) ||| (b >>> (w - j))) % 2 ^ w
      (r, tb r 0)

/-- A shift: N Z C, V := 0 (Table INS-3). -/
def shiftOut (op : ShiftOp) (w b k : Nat) : Out :=
  let r := shiftRes op w b k
  outFlags w mNZCV r.1 r.2 false

/-! ### Bits and fields (R121, R122) -/

/-- BEXT: N and Z. -/
def bextOut (b d : Nat) : Out :=
  outFlags 32 mNZ ((b >>> (d % 32)) % 2 ^ (d / 32 % 32 + 1)) false false

/-- BINS: the low bits of B replace a field of A; what falls above bit 31 is discarded. -/
def binsVal (a b d : Nat) : Nat :=
  let p := d % 32
  let m := ((2 ^ (d / 32 % 32 + 1) - 1) <<< p) % 2 ^ 32
  (a &&& (2 ^ 32 - 1 - m)) ||| ((b <<< p) &&& m)

/-- Leading zeros of a number of width `w`. -/
def clzOf : Nat → Nat → Nat
  | 0, _ => 0
  | w + 1, b => if tb b w then 0 else clzOf w b + 1

/-- CLZ: Z := 1 when the count is 0. -/
def clzOut (w b : Nat) : Out :=
  { v := BitVec.ofNat 64 (clzOf w b), mask := mZ, flags := flagBits false false (tb b (w - 1)) false false }

/-- ABS: the most negative value stays, with V (Table INS-3). -/
def absOut (b : Nat) : Out :=
  outFlags 32 mNZV (if tb b 31 then (2 ^ 32 - b) % 2 ^ 32 else b) false (decide (b = 2 ^ 31))

/-! ### Conditions (R119, Table INS-2) -/

/-- A condition holds for flags N Z C V in bits 3 to 0. -/
def condHolds (c : Cond) (sw : Word) : Bool :=
  let n := bit sw 3
  let z := bit sw 2
  let k := bit sw 1
  let v := bit sw 0
  match c with
  | .eq => z
  | .ne => !z
  | .cs => k
  | .cc => !k
  | .mi => n
  | .pl => !n
  | .vs => v
  | .vc => !v
  | .hi => k && !z
  | .ls => !k || z
  | .ge => n == v
  | .lt => n != v
  | .gt => !z && (n == v)
  | .le => z || (n != v)

end Sys2Proof.Machine
end

