-- ==== Sys2Proof/Machine/Integer.lean ====
section
/-! DEFINITION. The integer operations (R117, R120 to R122). -/

namespace Sys2Proof.Machine

/-- Operand A written, B and C read, of one type. -/
def State.binary (s : State) (i : Issue) (ty tc : OpTy) (f : Nat → Nat → Nat → Out) : State :=
  s.operate i (some (.d, ty)) (some (.s, ty)) (some (.s, tc)) (fun x => f (8 * ty.size) x.b.toNat x.c.toNat)

/-- Operand A written, B read, C unused. -/
def State.unary (s : State) (i : Issue) (ta tb_ : OpTy) (f : Nat → Out) : State :=
  s.operate i (some (.d, ta)) (some (.s, tb_)) none (fun x => f x.b.toNat)

/-- A value and no flags. -/
def plain (v : Nat) : Out := { v := BitVec.ofNat 64 v }

/-- MOV (R122). -/
def execMov (i : Issue) (z : Size4) (s : State) : Host.Outcome State Fault Refusal := .next (s.plainly (.mov i z) i (fun s => s.unary i (sizeTy z) (sizeTy z) plain))

/-- ADD (R117). -/
def execAdd (i : Issue) (z : Size4) (s : State) : Host.Outcome State Fault Refusal := .next (s.plainly (.add i z) i (fun s => s.binary i (sizeTy z) (sizeTy z) addOut))

/-- SUB (R117). -/
def execSub (i : Issue) (z : Size4) (s : State) : Host.Outcome State Fault Refusal := .next (s.plainly (.sub i z) i (fun s => s.binary i (sizeTy z) (sizeTy z) subOut))

/-- CMP (R117): flags of A − B, no write. -/
def execCmp (i : Issue) (z : Size4) (s : State) : Host.Outcome State Fault Refusal :=
  .next (s.plainly (.cmp i z) i (fun s => s.testOnly i (some (.s, (sizeTy z))) (some (.s, (sizeTy z))) none (fun x => subOut (8 * (sizeTy z).size) x.a.toNat x.b.toNat)))

/-- AND (R122). -/
def execAndB (i : Issue) (wide : Bool) (s : State) : Host.Outcome State Fault Refusal :=
  .next (s.plainly (.andB i wide) i (fun s => s.binary i (wideTy wide) (wideTy wide) (fun w b c => logicOut w (b &&& c))))

/-- OR (R122). -/
def execOrB (i : Issue) (wide : Bool) (s : State) : Host.Outcome State Fault Refusal :=
  .next (s.plainly (.orB i wide) i (fun s => s.binary i (wideTy wide) (wideTy wide) (fun w b c => logicOut w (b ||| c))))

/-- XOR (R122). -/
def execXorB (i : Issue) (wide : Bool) (s : State) : Host.Outcome State Fault Refusal :=
  .next (s.plainly (.xorB i wide) i (fun s => s.binary i (wideTy wide) (wideTy wide) (fun w b c => logicOut w (b ^^^ c))))

/-- NOT (R122). -/
def execNotB (i : Issue) (wide : Bool) (s : State) : Host.Outcome State Fault Refusal :=
  .next (s.plainly (.notB i wide) i (fun s => s.unary i (wideTy wide) (wideTy wide) (fun b =>
    logicOut (8 * (wideTy wide).size) (2 ^ (8 * (wideTy wide).size) - 1 - b))))

/-- SHL (R120). -/
def execShl (i : Issue) (wide : Bool) (s : State) : Host.Outcome State Fault Refusal :=
  .next (s.plainly (.shl i wide) i (fun s => s.binary i (wideTy wide) .i8 (shiftOut .shl)))

/-- SHR (R120). -/
def execShr (i : Issue) (wide : Bool) (s : State) : Host.Outcome State Fault Refusal :=
  .next (s.plainly (.shr i wide) i (fun s => s.binary i (wideTy wide) .i8 (shiftOut .shr)))

/-- ASR (R120). -/
def execAsr (i : Issue) (wide : Bool) (s : State) : Host.Outcome State Fault Refusal :=
  .next (s.plainly (.asr i wide) i (fun s => s.binary i (wideTy wide) .i8 (shiftOut .asr)))

/-- ROL (R120). -/
def execRol (i : Issue) (wide : Bool) (s : State) : Host.Outcome State Fault Refusal :=
  .next (s.plainly (.rol i wide) i (fun s => s.binary i (wideTy wide) .i8 (shiftOut .rol)))

/-- SXB (R122). -/
def execSxb (i : Issue) (s : State) : Host.Outcome State Fault Refusal :=
  .next (s.plainly (.sxb i) i (fun s => s.unary i .i32 .i8 (fun b => plain (pat 32 (sgn 8 b)))))

/-- SXH (R122). -/
def execSxh (i : Issue) (s : State) : Host.Outcome State Fault Refusal :=
  .next (s.plainly (.sxh i) i (fun s => s.unary i .i32 .i16 (fun b => plain (pat 32 (sgn 16 b)))))

/-- ZXB (R122). -/
def execZxb (i : Issue) (s : State) : Host.Outcome State Fault Refusal := .next (s.plainly (.zxb i) i (fun s => s.unary i .i32 .i8 plain))

/-- ZXH (R122). -/
def execZxh (i : Issue) (s : State) : Host.Outcome State Fault Refusal := .next (s.plainly (.zxh i) i (fun s => s.unary i .i32 .i16 plain))

/-- SXW.D (R122). -/
def execSxwD (i : Issue) (s : State) : Host.Outcome State Fault Refusal :=
  .next (s.plainly (.sxwD i) i (fun s => s.unary i .i64 .i32 (fun b => plain (pat 64 (sgn 32 b)))))

/-- ZXW.D (R122). -/
def execZxwD (i : Issue) (s : State) : Host.Outcome State Fault Refusal := .next (s.plainly (.zxwD i) i (fun s => s.unary i .i64 .i32 plain))

/-- NEG (R117). -/
def execNeg (i : Issue) (wide : Bool) (s : State) : Host.Outcome State Fault Refusal :=
  .next (s.plainly (.neg i wide) i (fun s => s.unary i (wideTy wide) (wideTy wide) (fun b => subOut (8 * (wideTy wide).size) 0 b)))

/-- BTST (R122). -/
def execBtst (i : Issue) (s : State) : Host.Outcome State Fault Refusal :=
  .next (s.plainly (.btst i) i (fun s => s.testOnly i (some (.s, .i32)) (some (.s, .i8)) none (fun x =>
    { v := 0, mask := mZ, flags := flagBits false false (!(tb x.a.toNat (x.b.toNat % 32))) false false })))

/-- BSET (R122). -/
def execBset (i : Issue) (s : State) : Host.Outcome State Fault Refusal :=
  .next (s.plainly (.bset i) i (fun s => s.operate i (some (.m, .i32)) (some (.s, .i8)) none (fun x => plain (x.a.toNat ||| 2 ^ (x.b.toNat % 32)))))

/-- BCLR (R122). -/
def execBclr (i : Issue) (s : State) : Host.Outcome State Fault Refusal :=
  .next (s.plainly (.bclr i) i (fun s => s.operate i (some (.m, .i32)) (some (.s, .i8)) none (fun x =>
    plain (x.a.toNat &&& (2 ^ 32 - 1 - 2 ^ (x.b.toNat % 32))))))

/-- BEXT (R121). -/
def execBext (i : Issue) (s : State) : Host.Outcome State Fault Refusal :=
  .next (s.plainly (.bext i) i (fun s => s.binary i .i32 .i16 (fun _ b c => bextOut b c)))

/-- BINS (R121). -/
def execBins (i : Issue) (s : State) : Host.Outcome State Fault Refusal :=
  .next (s.plainly (.bins i) i (fun s => s.operate i (some (.m, .i32)) (some (.s, .i32)) (some (.s, .i16)) (fun x =>
    plain (binsVal x.a.toNat x.b.toNat x.c.toNat))))

/-- CLZ (R122): the count is an i32 for either width. -/
def execClz (i : Issue) (wide : Bool) (s : State) : Host.Outcome State Fault Refusal :=
  .next (s.plainly (.clz i wide) i (fun s => s.unary i .i32 (wideTy wide) (clzOut (8 * (wideTy wide).size))))

/-- ABS (R122). -/
def execAbs (i : Issue) (s : State) : Host.Outcome State Fault Refusal := .next (s.plainly (.abs i) i (fun s => s.unary i .i32 .i32 absOut))

end Sys2Proof.Machine
end

