-- ==== Sys2Proof/Machine/Fixed.lean ====
section
/-! DEFINITION. The fixed-point operations (R123) and the packed operations (R127). -/

namespace Sys2Proof.Machine

/-! ### Saturation (R123) -/

/-- Clamp to −2^f to 2^f − 1. -/
def clampFix (f : Nat) (x : Int) : Int := if 2 ^ f ≤ x then 2 ^ f - 1 else if x < -(2 ^ f) then -(2 ^ f) else x

/-- The clamp changes the value. -/
def satFix (f : Nat) (x : Int) : Bool := decide (clampFix f x ≠ x)

/-- A fixed-point result with `f` fraction bits: saturated, N and Z from it, Q where it saturated. -/
def fixOut (f : Nat) (x : Int) : Out :=
  let r := clampFix f x
  { v := BitVec.ofNat 64 (pat (f + 1) r), mask := mNZ ||| (if satFix f x then 16 else 0)
    flags := flagBits true (decide (r < 0)) (decide (r = 0)) false false }

/-- Halves round toward +∞: add half of the last kept bit, then shift arithmetically (R123). -/
def roundShift (x : Int) (k : Nat) : Int := if k = 0 then x else (x + 2 ^ (k - 1)) >>> k

/-- Fraction bits of a fixed-point family. -/
def fracOf (half : Bool) : Nat := if half then 15 else 31

/-- A lane's multiplication of patterns (Table INS-4). -/
def mulFix (f : Nat) (b c : Int) : Int := (b * c + 2 ^ (f - 1)) >>> f

/-- QSHL: `k` is C as s8 (Table INS-4). -/
def shlFix (f : Nat) (b k : Int) : Int :=
  if 0 ≤ k then b * 2 ^ k.toNat
  else if -((f : Int) + 1) < k then (b + 2 ^ ((-k).toNat - 1)) >>> (-k).toNat
  else 0

/-- An operation on one or two fixed-point sources. -/
def State.fixed2 (s : State) (i : Issue) (half : Bool) (f : Nat → Int → Int → Int) : State :=
  let w := fracOf half + 1
  s.operate i (some (.d, fixTy half)) (some (.s, fixTy half)) (some (.s, fixTy half))
    (fun x => fixOut (w - 1) (f (w - 1) (sgn w x.b.toNat) (sgn w x.c.toNat)))

/-- An operation on one fixed-point source. -/
def State.fixed1 (s : State) (i : Issue) (half : Bool) (f : Int → Int) : State :=
  let w := fracOf half + 1
  s.operate i (some (.d, fixTy half)) (some (.s, fixTy half)) none (fun x => fixOut (w - 1) (f (sgn w x.b.toNat)))

/-- QADD (R123). -/
def execQadd (i : Issue) (half : Bool) (s : State) : Host.Outcome State Fault Refusal := .next (s.plainly (.qadd i half) i (fun s => s.fixed2 i half (fun _ b c => b + c)))

/-- QSUB (R123). -/
def execQsub (i : Issue) (half : Bool) (s : State) : Host.Outcome State Fault Refusal := .next (s.plainly (.qsub i half) i (fun s => s.fixed2 i half (fun _ b c => b - c)))

/-- QMUL (R123). -/
def execQmul (i : Issue) (half : Bool) (s : State) : Host.Outcome State Fault Refusal := .next (s.plainly (.qmul i half) i (fun s => s.fixed2 i half mulFix))

/-- QNEG (R123). -/
def execQneg (i : Issue) (half : Bool) (s : State) : Host.Outcome State Fault Refusal := .next (s.plainly (.qneg i half) i (fun s => s.fixed1 i half (fun b => -b)))

/-- QABS (R123). -/
def execQabs (i : Issue) (half : Bool) (s : State) : Host.Outcome State Fault Refusal :=
  .next (s.plainly (.qabs i half) i (fun s => s.fixed1 i half (fun b => if b < 0 then -b else b)))

/-- QSHL (R123). -/
def execQshl (i : Issue) (half : Bool) (s : State) : Host.Outcome State Fault Refusal :=
  let w := fracOf half + 1
  .next (s.plainly (.qshl i half) i (fun s => s.operate i (some (.d, fixTy half)) (some (.s, fixTy half)) (some (.s, .i8))
    (fun x => fixOut (w - 1) (shlFix (w - 1) (sgn w x.b.toNat) (sgn 8 x.c.toNat)))))

/-- CVQ.H (R123): q31 to q15. -/
def execCvqH (i : Issue) (s : State) : Host.Outcome State Fault Refusal :=
  .next (s.plainly (.cvqH i) i (fun s => s.operate i (some (.d, .q15)) (some (.s, .q31)) none (fun x => fixOut 15 (roundShift (sgn 32 x.b.toNat) 16))))

/-- CVQ (R123): q15 to q31, exact. -/
def execCvq (i : Issue) (s : State) : Host.Outcome State Fault Refusal :=
  .next (s.plainly (.cvq i) i (fun s => s.operate i (some (.d, .q31)) (some (.s, .q15)) none (fun x => fixOut 31 (sgn 16 x.b.toNat * 65536))))

/-! ### Packed lanes (R127) -/

/-- Lane `k` of width `w`. -/
def laneVal (w : Nat) (v : DWord) (k : Nat) : Nat := v.toNat / 2 ^ (w * k) % 2 ^ w

/-- A packed value from its lanes, lane 0 first. -/
def packLanes (w : Nat) : List Nat → Nat
  | [] => 0
  | x :: rest => x % 2 ^ w + 2 ^ w * packLanes w rest

/-- Lanes of a 64-bit value. -/
def laneCount (half : Bool) : Nat := if half then 4 else 2

/-- An operation on the lanes of two packed sources; a lane may set Q. -/
def State.packed (s : State) (i : Issue) (half q : Bool) (f : Nat → Int → Int → Int × Bool) : State :=
  let w := fracOf half + 1
  let ty : OpTy := if q then (if half then .v4q else .v2q) else (if half then .v4h else .v2w)
  s.operate i (some (.d, ty)) (some (.s, ty)) (some (.s, ty)) (fun x =>
    let r := (List.range (laneCount half)).map (fun k => f (w - 1) (sgn w (laneVal w x.b k)) (sgn w (laneVal w x.c k)))
    { v := BitVec.ofNat 64 (packLanes w (r.map (fun y => pat w y.1))), mask := if r.any (·.2) then 16 else 0, flags := 16 })

/-- A lane that saturates. -/
def satLane (f : Nat) (x : Int) : Int × Bool := (clampFix f x, satFix f x)

/-- PADD (R127). -/
def execPadd (i : Issue) (half : Bool) (s : State) : Host.Outcome State Fault Refusal :=
  .next (s.plainly (.padd i half) i (fun s => s.packed i half false (fun _ b c => (b + c, false))))

/-- PSUB (R127). -/
def execPsub (i : Issue) (half : Bool) (s : State) : Host.Outcome State Fault Refusal :=
  .next (s.plainly (.psub i half) i (fun s => s.packed i half false (fun _ b c => (b - c, false))))

/-- PQADD (R127). -/
def execPqadd (i : Issue) (half : Bool) (s : State) : Host.Outcome State Fault Refusal :=
  .next (s.plainly (.pqadd i half) i (fun s => s.packed i half true (fun f b c => satLane f (b + c))))

/-- PQSUB (R127). -/
def execPqsub (i : Issue) (half : Bool) (s : State) : Host.Outcome State Fault Refusal :=
  .next (s.plainly (.pqsub i half) i (fun s => s.packed i half true (fun f b c => satLane f (b - c))))

/-- PQMUL (R127). -/
def execPqmul (i : Issue) (half : Bool) (s : State) : Host.Outcome State Fault Refusal :=
  .next (s.plainly (.pqmul i half) i (fun s => s.packed i half true (fun f b c => satLane f (mulFix f b c))))

/-- PMIN (R127). -/
def execPmin (i : Issue) (s : State) : Host.Outcome State Fault Refusal :=
  .next (s.plainly (.pmin i) i (fun s => s.packed i true false (fun _ b c => (if b ≤ c then b else c, false))))

/-- PMAX (R127). -/
def execPmax (i : Issue) (s : State) : Host.Outcome State Fault Refusal :=
  .next (s.plainly (.pmax i) i (fun s => s.packed i true false (fun _ b c => (if b ≤ c then c else b, false))))

/-- PSWAP (R127). -/
def execPswap (i : Issue) (s : State) : Host.Outcome State Fault Refusal :=
  .next (s.plainly (.pswap i) i (fun s => s.operate i (some (.d, .v2w)) (some (.s, .v2w)) none (fun x =>
    { v := BitVec.ofNat 64 (packLanes 32 [laneVal 32 x.b 1, laneVal 32 x.b 0]) })))

end Sys2Proof.Machine
end

