-- ==== Sys2Proof/Machine/Floating.lean ====
section
/-! DEFINITION. The floating-point operations (R124 to R126). -/

namespace Sys2Proof.Machine

/-! ### Numbers (R124) -/

/-- An operand as the arithmetic reads it: a NaN, an infinity, or the exact value ±m × 2^e; a subnormal pattern
reads as zero. -/
inductive Flt where
  | nan
  | inf (neg : Bool)
  | fin (neg : Bool) (m : Nat) (e : Int)
  deriving DecidableEq, Repr

/-- The number of a pattern. -/
def fltOf (p : Nat) : Flt :=
  let neg := tb p 31
  let e : Nat := p / 2 ^ 23 % 256
  let f := p % 2 ^ 23
  if e = 255 then (if f = 0 then .inf neg else .nan)
  else if e = 0 then .fin neg 0 0
  else .fin neg (2 ^ 23 + f) ((e : Int) - 150)

/-- The pattern of every NaN result. -/
def nanPat : Nat := 0x7FC00000
/-- The sign bit. -/
def signPat (neg : Bool) : Nat := if neg then 2 ^ 31 else 0
/-- An infinity. -/
def infPat (neg : Bool) : Nat := signPat neg + 0x7F800000

/-- Bits of a number. -/
def bitLen (m : Nat) : Nat := if m = 0 then 0 else Nat.log2 m + 1

/-- m / 2^k rounded to nearest, ties to even. -/
def nearestEven (m k : Nat) : Nat :=
  let q := m / 2 ^ k
  let r := m % 2 ^ k
  if k = 0 then m
  else if 2 ^ (k - 1) < r ∨ (r = 2 ^ (k - 1) ∧ q % 2 = 1) then q + 1 else q

/-- The pattern of ±m × 2^e: rounded to 24 bits as if the exponent were unbounded; below 2^−126 it is zero (R124). -/
def roundFlt (neg : Bool) (m : Nat) (e : Int) : Nat :=
  if m = 0 then signPat neg
  else
    let n := bitLen m
    let q := if n ≤ 24 then m * 2 ^ (24 - n) else nearestEven m (n - 24)
    let e := e + (n : Int) - 24
    let (q, e) := if q = 2 ^ 24 then (2 ^ 23, e + 1) else (q, e)
    let x := e + 23
    if x < -126 then signPat neg
    else if 127 < x then infPat neg
    else signPat neg + (x + 127).toNat * 2 ^ 23 + (q - 2 ^ 23)

/-- The pattern of a number. -/
def fltPat : Flt → Nat
  | .nan => nanPat
  | .inf n => infPat n
  | .fin n m e => roundFlt n m e

/-- The exact sum of two finite values: an exact zero is −0 only where both are negative. -/
def addFin (n1 : Bool) (m1 : Nat) (e1 : Int) (n2 : Bool) (m2 : Nat) (e2 : Int) : Flt :=
  let e := if e1 ≤ e2 then e1 else e2
  let a : Int := (m1 * 2 ^ (e1 - e).toNat : Nat)
  let b : Int := (m2 * 2 ^ (e2 - e).toNat : Nat)
  let r := (if n1 then -a else a) + (if n2 then -b else b)
  if r = 0 then .fin (n1 && n2) 0 0 else .fin (decide (r < 0)) r.natAbs e

/-- B + C. -/
def addFlt : Flt → Flt → Flt
  | .nan, _ => .nan
  | _, .nan => .nan
  | .inf a, .inf b => if a = b then .inf a else .nan
  | .inf a, _ => .inf a
  | _, .inf b => .inf b
  | .fin n1 m1 e1, .fin n2 m2 e2 => addFin n1 m1 e1 n2 m2 e2

/-- −B. -/
def negFlt : Flt → Flt
  | .nan => .nan
  | .inf a => .inf (!a)
  | .fin n m e => .fin (!n) m e

/-- B × C, exact. -/
def mulFlt : Flt → Flt → Flt
  | .nan, _ => .nan
  | _, .nan => .nan
  | .inf a, .inf b => .inf (a != b)
  | .inf a, .fin n m _ => if m = 0 then .nan else .inf (a != n)
  | .fin n m _, .inf b => if m = 0 then .nan else .inf (n != b)
  | .fin n1 m1 e1, .fin n2 m2 e2 => .fin (n1 != n2) (m1 * m2) (e1 + e2)

/-- B ÷ C, with a sticky bit below the bits that rounding reads. -/
def divFlt : Flt → Flt → Flt
  | .nan, _ => .nan
  | _, .nan => .nan
  | .inf _, .inf _ => .nan
  | .inf a, .fin n _ _ => .inf (a != n)
  | .fin n _ _, .inf b => .fin (n != b) 0 0
  | .fin n1 m1 e1, .fin n2 m2 e2 =>
    if m2 = 0 then (if m1 = 0 then .nan else .inf (n1 != n2))
    else if m1 = 0 then .fin (n1 != n2) 0 0
    else
      let a := m1 * 2 ^ 50
      .fin (n1 != n2) (2 * (a / m2) + (if a % m2 = 0 then 0 else 1)) (e1 - e2 - 51)

/-- Integer square root, bit by bit from `2^b` down. -/
def isqrtFrom (n : Nat) : Nat → Nat → Nat
  | 0, r => r
  | b + 1, r => if (r + 2 ^ b) * (r + 2 ^ b) ≤ n then isqrtFrom n b (r + 2 ^ b) else isqrtFrom n b r

/-- The integer square root of a number of at most 200 bits. -/
def isqrt (n : Nat) : Nat := isqrtFrom n 100 0

/-- √B, with a sticky bit. -/
def sqrtFlt : Flt → Flt
  | .nan => .nan
  | .inf n => if n then .nan else .inf false
  | .fin n m e =>
    if m = 0 then .fin n 0 0
    else if n then .nan
    else
      let m := if e % 2 = 0 then m * 2 ^ 52 else m * 2 ^ 53
      let e := if e % 2 = 0 then e - 52 else e - 53
      let r := isqrt m
      .fin false (2 * r + (if r * r = m then 0 else 1)) (e / 2 - 1)

/-- N, Z and V of a floating-point result (R124). -/
def fltOut (p : Nat) : Out :=
  let isNan := decide (p = nanPat)
  let isZero := decide (p % 2 ^ 31 = 0)
  { v := BitVec.ofNat 64 p, mask := mNZV, flags := flagBits false (tb p 31 && !isNan && !isZero) isZero false isNan }

/-- A binary arithmetic operation. -/
def State.float2 (s : State) (i : Issue) (f : Flt → Flt → Flt) : State :=
  s.operate i (some (.d, .f32)) (some (.s, .f32)) (some (.s, .f32))
    (fun x => fltOut (fltPat (f (fltOf x.b.toNat) (fltOf x.c.toNat))))

/-- FADD (R125). -/
def execFadd (i : Issue) (s : State) : Host.Outcome State Fault Refusal := .next (s.plainly (.fadd i) i (fun s => s.float2 i addFlt))

/-- FSUB (R125). -/
def execFsub (i : Issue) (s : State) : Host.Outcome State Fault Refusal := .next (s.plainly (.fsub i) i (fun s => s.float2 i (fun b c => addFlt b (negFlt c))))

/-- FMUL (R125). -/
def execFmul (i : Issue) (s : State) : Host.Outcome State Fault Refusal := .next (s.plainly (.fmul i) i (fun s => s.float2 i mulFlt))

/-- The order of FMIN and FMAX on patterns that are no NaN: −0 is less than +0. -/
def orderKey (p : Nat) : Int := if tb p 31 then -((p % 2 ^ 31 : Nat) : Int) - 1 else ((p % 2 ^ 31 : Nat) : Int)

/-- FMIN and FMAX: one NaN yields the other operand, two yield the NaN pattern. -/
def pickFlt (greater : Bool) : Flt → Flt → Flt
  | .nan, c => c
  | b, .nan => b
  | b, c => if decide (orderKey (fltPat b) ≤ orderKey (fltPat c)) != greater then b else c

/-- FMIN (R125). -/
def execFmin (i : Issue) (s : State) : Host.Outcome State Fault Refusal := .next (s.plainly (.fmin i) i (fun s => s.float2 i (pickFlt false)))

/-- FMAX (R125). -/
def execFmax (i : Issue) (s : State) : Host.Outcome State Fault Refusal := .next (s.plainly (.fmax i) i (fun s => s.float2 i (pickFlt true)))

/-- FABS (R125): the pattern with its sign bit cleared; no flags. -/
def execFabs (i : Issue) (s : State) : Host.Outcome State Fault Refusal :=
  .next (s.plainly (.fabs i) i (fun s => s.unary i .f32 .f32 (fun b => plain (b % 2 ^ 31))))

/-- FNEG (R125): the pattern with its sign bit inverted; no flags. -/
def execFneg (i : Issue) (s : State) : Host.Outcome State Fault Refusal :=
  .next (s.plainly (.fneg i) i (fun s => s.unary i .f32 .f32 (fun b => plain (b ^^^ 2 ^ 31))))

/-- Flags of FCMP (Table INS-6). -/
def fcmpOut (a b : Nat) : Out :=
  match fltOf a, fltOf b with
  | .nan, _ => { v := 0, mask := mNZCV, flags := flagBits false false false false true }
  | _, .nan => { v := 0, mask := mNZCV, flags := flagBits false false false false true }
  | x, y =>
    let k (f : Flt) : Int := (let p := fltPat f; if tb p 31 then -((p % 2 ^ 31 : Nat) : Int) else ((p % 2 ^ 31 : Nat) : Int))
    { v := 0, mask := mNZCV, flags := flagBits false (decide (k x < k y)) (decide (k x = k y)) (decide (k y ≤ k x)) false }

/-- FCMP (R126). -/
def execFcmp (i : Issue) (s : State) : Host.Outcome State Fault Refusal :=
  .next (s.plainly (.fcmp i) i (fun s => s.testOnly i (some (.s, .f32)) (some (.s, .f32)) none (fun x => fcmpOut x.a.toNat x.b.toNat)))

/-- CVTFI: toward zero, saturated to s32 (R125). -/
def cvtfiOut (b : Nat) : Out :=
  let done (x : Int) (v : Bool) : Out :=
    { v := BitVec.ofNat 64 (pat 32 x), mask := mNZV, flags := flagBits false (decide (x < 0)) (decide (x = 0)) false v }
  match fltOf b with
  | .nan => done 0 true
  | .inf n => done (if n then -(2 ^ 31) else 2 ^ 31 - 1) true
  | .fin n m e =>
    let a : Nat := if 0 ≤ e then m * 2 ^ e.toNat else m / 2 ^ (-e).toNat
    let x : Int := if n then -(a : Int) else a
    done (clampFix 31 x) (satFix 31 x)

/-- CVTFI (R125). -/
def execCvtfi (i : Issue) (s : State) : Host.Outcome State Fault Refusal :=
  .next (s.plainly (.cvtfi i) i (fun s => s.unary i .i32 .f32 cvtfiOut))

/-- CVTIF (R125). -/
def execCvtif (i : Issue) (s : State) : Host.Outcome State Fault Refusal :=
  .next (s.plainly (.cvtif i) i (fun s => s.unary i .f32 .i32 (fun b => fltOut (roundFlt (tb b 31) (sgn 32 b).natAbs 0))))

/-- CVTFQ: to nearest, ties to even; a NaN gives 0 and sets Q (R125). -/
def cvtfqOut (b : Nat) : Out :=
  match fltOf b with
  | .nan => { v := 0, mask := mNZ ||| 16, flags := flagBits true false true false false }
  | .inf n => fixOut 31 (if n then -(2 ^ 32) else 2 ^ 32)
  | .fin n m e =>
    let k := e + 31
    let a : Nat := if 0 ≤ k then m * 2 ^ k.toNat else nearestEven m (-k).toNat
    fixOut 31 (if n then -(a : Int) else a)

/-- CVTFQ (R125). -/
def execCvtfq (i : Issue) (s : State) : Host.Outcome State Fault Refusal :=
  .next (s.plainly (.cvtfq i) i (fun s => s.unary i .q31 .f32 cvtfqOut))

/-- CVTQF (R125). -/
def execCvtqf (i : Issue) (s : State) : Host.Outcome State Fault Refusal :=
  .next (s.plainly (.cvtqf i) i (fun s => s.unary i .f32 .q31 (fun b => fltOut (roundFlt (tb b 31) (sgn 32 b).natAbs (-31)))))

/-- FMA (R125): one rounding. -/
def execFma (i : Issue) (s : State) : Host.Outcome State Fault Refusal :=
  .next (s.plainly (.fma i) i (fun s => s.operate i (some (.m, .f32)) (some (.s, .f32)) (some (.s, .f32))
    (fun x => fltOut (fltPat (addFlt (fltOf x.a.toNat) (mulFlt (fltOf x.b.toNat) (fltOf x.c.toNat)))))))

end Sys2Proof.Machine
end

