-- ==== Sys2Proof/Machine/Product.lean ====
section
/-! DEFINITION. The product-register operations (R128 to R130). -/

namespace Sys2Proof.Machine

/-- An operation on a product register at its read point: its value lands at the end of cycle L + 2 (R128). `f` also answers whether
it sets Q. -/
def State.toProduct (s : State) (i : Issue) (b c : OpSpec) (l : Nat) (f : Vals → DWord × Bool) : State :=
  s.instruct i (some (.p, .px)) b c (fun s p x =>
    let r := f x
    let t := i.thread
    let s := s.startRead i p (some (.p, .px)) b c
    let s := match p.a.loc with
      | .px _ n => s.enter t (l + 2) prioPipe (.product t n r.1)
      | _ => s
    s.putFlags t (if r.2 then 16 else 0) 16)

/-- An operation on two 32-bit integers. -/
def State.product2 (s : State) (i : Issue) (f : DWord → Nat → Nat → DWord) : State :=
  s.toProduct i (some (.s, .i32)) (some (.s, .i32)) 6 (fun x => (f x.a x.b.toNat x.c.toNat, false))

/-- The signed product of two 32-bit patterns. -/
def mulS (b c : Nat) : DWord := BitVec.ofInt 64 (sgn 32 b * sgn 32 c)
/-- The unsigned product of two 32-bit patterns. -/
def mulU (b c : Nat) : DWord := BitVec.ofNat 64 (b * c)

/-- MUL (R128). -/
def execMul (i : Issue) (s : State) : Host.Outcome State Fault Refusal := .next (s.plainly (.mul i) i (fun s => s.product2 i (fun _ b c => mulS b c)))

/-- MULU (R128). -/
def execMulu (i : Issue) (s : State) : Host.Outcome State Fault Refusal := .next (s.plainly (.mulu i) i (fun s => s.product2 i (fun _ b c => mulU b c)))

/-- MAC (R128). -/
def execMac (i : Issue) (s : State) : Host.Outcome State Fault Refusal := .next (s.plainly (.mac i) i (fun s => s.product2 i (fun a b c => a + mulS b c)))

/-- MACU (R128). -/
def execMacu (i : Issue) (s : State) : Host.Outcome State Fault Refusal := .next (s.plainly (.macu i) i (fun s => s.product2 i (fun a b c => a + mulU b c)))

/-- MSU (R128). -/
def execMsu (i : Issue) (s : State) : Host.Outcome State Fault Refusal := .next (s.plainly (.msu i) i (fun s => s.product2 i (fun a b c => a - mulS b c)))

/-- The term of QMAC.H and QMAC with 46 fraction bits. -/
def qmacTerm (half : Bool) (b c : Nat) : DWord :=
  if half then BitVec.ofInt 64 (sgn 16 b * sgn 16 c * 65536) else BitVec.ofInt 64 ((sgn 32 b * sgn 32 c) >>> 16)

/-- QMAC (R128). -/
def execQmac (i : Issue) (half : Bool) (s : State) : Host.Outcome State Fault Refusal :=
  .next (s.plainly (.qmac i half) i (fun s => s.toProduct i (some (.s, fixTy half)) (some (.s, fixTy half)) 6
    (fun x => (x.a + qmacTerm half x.b.toNat x.c.toNat, false))))

/-- PXQ (R129). -/
def execPxq (i : Issue) (s : State) : Host.Outcome State Fault Refusal :=
  .next (s.plainly (.pxq i) i (fun s => s.operate i (some (.d, .q31)) (some (.p, .px)) none (fun x => fixOut 31 (roundShift x.b.toInt 15))))

/-- Quotient and remainder as PX holds them. -/
def quoRem (q r : Int) : DWord := join64 (BitVec.ofInt 32 q) (BitVec.ofInt 32 r)

/-- DIV with the operands of R130. -/
def divS (b c : Nat) : DWord :=
  let x := sgn 32 b
  let y := sgn 32 c
  if y = 0 then quoRem (if 0 ≤ x then 2 ^ 31 - 1 else -(2 ^ 31)) x
  else quoRem (x.tdiv y) (x.tmod y)

/-- DIVU with the operands of R130. -/
def divU (b c : Nat) : DWord :=
  if c = 0 then quoRem (2 ^ 32 - 1) b else quoRem (b / c : Nat) (b % c : Nat)

/-- DIV (R130). -/
def execDiv (i : Issue) (s : State) : Host.Outcome State Fault Refusal :=
  .next (s.plainly (.div i) i (fun s => s.toProduct i (some (.s, .i32)) (some (.s, .i32)) 22 (fun x => (divS x.b.toNat x.c.toNat, false))))

/-- DIVU (R130). -/
def execDivu (i : Issue) (s : State) : Host.Outcome State Fault Refusal :=
  .next (s.plainly (.divu i) i (fun s => s.toProduct i (some (.s, .i32)) (some (.s, .i32)) 22 (fun x => (divU x.b.toNat x.c.toNat, false))))

/-- FDIV (R128). -/
def execFdiv (i : Issue) (s : State) : Host.Outcome State Fault Refusal :=
  .next (s.plainly (.fdiv i) i (fun s => s.toProduct i (some (.s, .f32)) (some (.s, .f32)) 16
    (fun x => (BitVec.ofNat 64 (fltPat (divFlt (fltOf x.b.toNat) (fltOf x.c.toNat))), false))))

/-- FSQRT (R128). -/
def execFsqrt (i : Issue) (s : State) : Host.Outcome State Fault Refusal :=
  .next (s.plainly (.fsqrt i) i (fun s => s.toProduct i (some (.s, .f32)) none 16 (fun x => (BitVec.ofNat 64 (fltPat (sqrtFlt (fltOf x.b.toNat))), false))))

/-- √B rounded to q31, for a pattern that is not negative: half of ⌊√(4B · 2^31)⌋ rounded up. -/
def qsqrtVal (b : Nat) : Nat := (isqrt (4 * b * 2 ^ 31) + 1) / 2

/-- QSQRT (R128, R129): 0 and Q for a negative B. -/
def execQsqrt (i : Issue) (s : State) : Host.Outcome State Fault Refusal :=
  .next (s.plainly (.qsqrt i) i (fun s => s.toProduct i (some (.s, .q31)) none 18 (fun x =>
    if tb x.b.toNat 31 then (0, true) else (BitVec.ofNat 64 (qsqrtVal x.b.toNat), false))))

end Sys2Proof.Machine
end

