-- ==== Sys2Proof/Machine/ControlMath.lean ====
section
/-! DEFINITION. The control-math operations (R132 to R136). The manual bounds the error of CLARKE, PARK, IPARK, SINCOS and
ATAN2 and gives no method: each result is a free one of the values within the bound (log entry 7). -/

namespace Sys2Proof.Machine

/-! ### Free results (R133) -/

/-- A real number: the whole number `n`, one that lies so close about `n` that its side is not known, or one between `n` and
`n` + 1. -/
inductive Real1 where
  | whole (n : Int)
  | about (n : Int)
  | above (n : Int)
  deriving DecidableEq, Repr

/-- How many whole numbers are known to lie within `r` > 0 of a number. -/
def Real1.count (x : Real1) (r : Nat) : Nat :=
  match x with | .whole _ => 2 * r + 1 | .about _ => 2 * r - 1 | .above _ => 2 * r

/-- The least whole number that is known to lie within `r` > 0 of a number. -/
def Real1.least (x : Real1) (r : Nat) : Int :=
  match x with | .whole n => n - r | .about n => n + 1 - r | .above n => n + 1 - r

/-- A whole number within `r` > 0 of a number: the `k`th free value says which. -/
def Real1.near (x : Real1) (r k : Nat) : Int := x.least r + ((Config.mathDeviation k).toNat % x.count r : Nat)

/-- The number a / b. -/
def ratio (a : Int) (b : Nat) : Real1 := if a % b = 0 then .whole (a / b) else .above (a / b)

/-- A number known as v / b to within `e` / b, and known to be whole where `exact` holds. -/
def roughly (exact : Bool) (v : Int) (b e : Nat) : Real1 :=
  let n := (2 * v + b) / (2 * b)
  if exact then .whole n else if (v - n * b).natAbs ≤ e then .about n else .above (v / b)

/-- An operation that draws `n` free values; `f` gets the index of the first. -/
def State.operateFree (s : State) (i : Issue) (a b c : OpSpec) (n : Nat) (f : Nat → Vals → Out) : State :=
  s.instruct i a b c (fun s p x =>
    let r := f s.free x
    let s := (s.startRead i p a b c).putResult i.thread p.a ((a.map (·.2)).getD .i32) r.v
    let s := { s with free := s.free + n }
    s.putFlags i.thread r.mask r.flags)

/-! ### Numbers -/

/-- ⌊√n⌋ or ⌈√n⌉ toward −∞ of ±√n: the floor of a signed root. -/
def floorRoot (neg : Bool) (n : Nat) : Int :=
  let r := isqrt n
  if neg then -((if r * r = n then r else r + 1 : Nat) : Int) else r

/-- ⌊q √3⌋. -/
def floorRoot3 (q : Int) : Int := floorRoot (decide (q < 0)) (3 * q.natAbs * q.natAbs)

/-- π × 2^60, rounded. -/
def pi60 : Int := 3622009729038561421

/-- One term after another of the series of sine or cosine, in 60-bit fixed point: `x2` is the square of the angle. -/
def series (x2 : Int) : Nat → Nat → Int → Int → Int
  | 0, _, _, acc => acc
  | n + 1, k, term, acc =>
    let next := -(term * x2 / 2 ^ 60) / ((k + 1) * (k + 2) : Nat)
    series x2 n (k + 2) next (acc + next)

/-- (cos, sin) × 2^60 of `j` / 2^17 turns in the first octant. -/
def octant (j : Nat) : Int × Int :=
  let x := pi60 * j / 65536
  let x2 := x * x / 2 ^ 60
  (series x2 11 0 (2 ^ 60) (2 ^ 60), series x2 11 1 x x)

/-- (cos, sin) × 2^60 of `j` / 2^17 turns. -/
def cosSin (j : Nat) : Int × Int :=
  let j := j % 131072
  let o := j / 16384
  let r := j % 16384
  let a := if o % 2 = 0 then octant r else octant (16384 - r)
  let c := a.1
  let s := a.2
  if o = 0 then (c, s) else if o = 1 then (s, c) else if o = 2 then (-s, c) else if o = 3 then (-c, s)
  else if o = 4 then (-c, -s) else if o = 5 then (-s, -c) else if o = 6 then (s, -c) else (c, -s)

/-- (cos θ, sin θ) × 2^60 of an angle of type ang. -/
def angCosSin (th : Nat) : Int × Int := cosSin (2 * th)

/-- b · sin − a · cos, times 2^60, of `u` / 2^16 turns in the first octant: not positive where a / b is at least the tangent. -/
def beyond (a b : Int) (u : Nat) : Int := (octant (2 * u)).2 * b - a * (octant (2 * u)).1

/-- The largest `u` up to `2^n − 1` above `u` whose tangent, of `u` / 2^16 turns, is at most `a` / `b`, in the first octant. -/
def octantOf (a b : Int) : Nat → Nat → Nat
  | 0, u => u
  | n + 1, u =>
    let k := u + 2 ^ n
    if k < 8192 ∧ beyond a b k ≤ 0 then octantOf a b n k else octantOf a b n u

/-- The number n − x. -/
def Real1.from (x : Real1) (n : Int) : Real1 :=
  match x with | .whole m => .whole (n - m) | .about m => .about (n - m) | .above m => .above (n - m - 1)

/-- atan(a / b) in units of ang, for 0 ≤ a ≤ b, which is whole only on the axis and on the diagonal. -/
def octantAngle (a b : Int) : Real1 :=
  if a = 0 then .whole 0
  else if a = b then .whole 8192
  else
    let u := octantOf a b 13 0
    let e := ((a + b) * 256).natAbs
    if (beyond a b u).natAbs ≤ e then .about u
    else if (beyond a b (u + 1)).natAbs ≤ e then .about (u + 1)
    else .above u

/-- The angle of a vector in units of ang. -/
def angleOf (x y : Int) : Real1 :=
  let ax : Int := x.natAbs
  let ay : Int := y.natAbs
  let first := if ay ≤ ax then octantAngle ay ax else (octantAngle ax ay).from 16384
  let half := if 0 ≤ x then first else first.from 32768
  if 0 ≤ y then half else half.from 65536

/-! ### Results -/

/-- Two q31 lanes; Q where a lane saturates and `q` holds. -/
def pairOut (q : Bool) (a b : Int) : Out :=
  { v := BitVec.ofNat 64 (packLanes 32 [pat 32 (clampFix 31 a), pat 32 (clampFix 31 b)])
    mask := if q && (satFix 31 a || satFix 31 b) then 16 else 0, flags := 16 }

/-- A lane of q31 as a signed number. -/
def q31Lane (v : DWord) (k : Nat) : Int := sgn 32 (laneVal 32 v k)
/-- A lane of q15 as a signed number. -/
def q15Lane (v : DWord) (k : Nat) : Int := sgn 16 (laneVal 16 v k)

/-- The lanes of CLARKE: (2 ia − ib − ic) · 2^16 / 3, and (ib − ic) · 2^16 / √3 = ±√((ib − ic)² · 2^32 / 3). -/
def clarkeLanes (b : DWord) : Real1 × Real1 :=
  let ia := q15Lane b 0
  let ib := q15Lane b 1
  let ic := q15Lane b 2
  let d := ib - ic
  (ratio ((2 * ia - ib - ic) * 65536) 3,
   if d = 0 then .whole 0
   else
    let r : Int := isqrt (d.natAbs * d.natAbs * 2 ^ 32 / 3)
    .above (if d < 0 then -r - 1 else r))

/-- CLARKE (R133). -/
def execClarke (i : Issue) (s : State) : Host.Outcome State Fault Refusal :=
  .next (s.plainly (.clarke i) i (fun s => s.operateFree i (some (.d, .v2q)) (some (.s, .v4q)) none 2 (fun k x =>
    let n := clarkeLanes x.b
    pairOut true (n.1.near 8 k) (n.2.near 8 (k + 1)))))

/-- x · cos θ + y · sin θ is a whole number: on an axis, on a diagonal where the terms cancel, and of the zero vector. -/
def exactSum (th : Nat) (x y : Int) : Bool :=
  let cs := angCosSin th
  decide (th % 16384 = 0) || (decide (th % 8192 = 0) && decide (x * cs.1.sign + y * cs.2.sign = 0)) || (decide (x = 0) && decide (y = 0))

/-- The lane x · cos θ + y · sin θ. -/
def turnLane (th : Nat) (x y : Int) : Real1 :=
  let cs := angCosSin th
  roughly (exactSum th x y) (x * cs.1 + y * cs.2) (2 ^ 60) (2 ^ 40)

/-- The lanes of PARK or IPARK. -/
def parkLanes (inverse : Bool) (b : DWord) (th : Nat) : Real1 × Real1 :=
  let x := q31Lane b 0
  let y := q31Lane b 1
  let back := if inverse then (65536 - th % 65536) % 65536 else th % 65536
  (turnLane back x y, turnLane back y (-x))

/-- PARK (R133). -/
def execPark (i : Issue) (s : State) : Host.Outcome State Fault Refusal :=
  .next (s.plainly (.park i) i (fun s => s.operateFree i (some (.d, .v2q)) (some (.s, .v2q)) (some (.s, .ang)) 2 (fun k x =>
    let n := parkLanes false x.b x.c.toNat
    pairOut true (n.1.near 8 k) (n.2.near 8 (k + 1)))))

/-- IPARK (R133). -/
def execIpark (i : Issue) (s : State) : Host.Outcome State Fault Refusal :=
  .next (s.plainly (.ipark i) i (fun s => s.operateFree i (some (.d, .v2q)) (some (.s, .v2q)) (some (.s, .ang)) 2 (fun k x =>
    let n := parkLanes true x.b x.c.toNat
    pairOut true (n.1.near 8 k) (n.2.near 8 (k + 1)))))

/-- The lanes of SINCOS. -/
def sincosLanes (th : Nat) : Real1 × Real1 :=
  let cs := angCosSin th
  let axis := decide (th % 16384 = 0)
  (roughly axis cs.1 (2 ^ 29) 256, roughly axis cs.2 (2 ^ 29) 256)

/-- A lane of SINCOS: 1.0 itself saturates to 0x7FFF_FFFF. -/
def sincosLane (x : Real1) (k : Nat) : Int := if x = .whole (2 ^ 31) then 2 ^ 31 else x.near 8 k

/-- SINCOS (R133): 1.0 is written as 0x7FFF_FFFF without Q. -/
def execSincos (i : Issue) (s : State) : Host.Outcome State Fault Refusal :=
  .next (s.plainly (.sincos i) i (fun s => s.operateFree i (some (.d, .v2q)) (some (.s, .ang)) none 2 (fun k x =>
    let n := sincosLanes x.b.toNat
    pairOut false (sincosLane n.1 k) (sincosLane n.2 (k + 1)))))

/-- The result of ATAN2: an angle within one unit, modulo a turn; 0 for the zero vector. -/
def atan2Out (x y : Int) (k : Nat) : Out := plain (if x = 0 ∧ y = 0 then 0 else pat 16 ((angleOf x y).near 1 k))

/-- ATAN2 (R133). -/
def execAtan2 (i : Issue) (s : State) : Host.Outcome State Fault Refusal :=
  .next (s.plainly (.atan2 i) i (fun s => s.operateFree i (some (.d, .ang)) (some (.s, .v2q)) none 1 (fun k x =>
    atan2Out (q31Lane x.b 0) (q31Lane x.b 1) k)))

/-! ### PIU, LIM, SVM (R134 to R136) -/

/-- PIU (R134): A is (I, U); `e` the error, `g` the gain word. -/
def piuOut (a : DWord) (e : Int) (g : DWord) : Out :=
  let int := q31Lane a 0
  let kp := q15Lane g 0
  let ki := q15Lane g 1
  let lim := q15Lane g 2
  let sh := laneVal 16 g 3 % 8
  let pq := roundShift (kp * e * 2 ^ sh) 15
  let di := roundShift (ki * e) 15
  let i1 := int + clampFix 31 di
  let u1 := clampFix 31 pq + clampFix 31 i1
  let q := satFix 31 pq || satFix 31 di || satFix 31 i1 || satFix 31 u1
  let u := clampFix 31 u1
  let d := clampFix 31 di
  let l : Int := (if lim < 0 then 0 else lim) * 65536
  let hi := decide (l < u)
  let lo := decide (u < -l)
  let uo := if hi then l else if lo then -l else u
  let io := if (hi && decide (0 < d)) || (lo && decide (d < 0)) then int else clampFix 31 i1
  { v := BitVec.ofNat 64 (packLanes 32 [pat 32 io, pat 32 uo])
    mask := 14 ||| (if q then 16 else 0), flags := flagBits true (decide (uo < 0)) (decide (uo = 0)) (hi || lo) false }

/-- PIU (R134). -/
def execPiu (i : Issue) (s : State) : Host.Outcome State Fault Refusal :=
  .next (s.plainly (.piu i) i (fun s => s.operate i (some (.m, .v2q)) (some (.s, .q31)) (some (.s, .v4q)) (fun x =>
    piuOut x.a (sgn 32 x.b.toNat) x.c)))

/-- One coordinate of a limited vector: |x| · m / √(x² + y²), rounded toward zero. -/
def limCoord (x : Int) (m ss : Nat) : Int :=
  let r : Nat := isqrt (x.natAbs * x.natAbs * (m * m) / ss)
  if x < 0 then -(r : Int) else r

/-- LIM (R135). -/
def limOut (b : DWord) (c : Nat) : Out :=
  let x := q31Lane b 0
  let y := q31Lane b 1
  let m : Nat := (sgn 32 c).toNat
  let ss := x.natAbs * x.natAbs + y.natAbs * y.natAbs
  let beyond := decide (m * m < ss)
  let v := if beyond then packLanes 32 [pat 32 (limCoord x m ss), pat 32 (limCoord y m ss)] else packLanes 32 [pat 32 x, pat 32 y]
  { v := BitVec.ofNat 64 v, mask := 2, flags := flagBits false false false beyond false }

/-- LIM (R135). -/
def execLim (i : Issue) (s : State) : Host.Outcome State Fault Refusal :=
  .next (s.plainly (.lim i) i (fun s => s.operate i (some (.d, .v2q)) (some (.s, .v2q)) (some (.s, .q31)) (fun x => limOut x.b x.c.toNat)))

/-- p + q √3 with whole p and q. -/
structure Root3 where
  p : Int
  q : Int
  deriving DecidableEq, Repr

/-- p + q √3 < 0. -/
def Root3.negative (x : Root3) : Bool :=
  let pp := x.p * x.p
  let qq := 3 * x.q * x.q
  if 0 ≤ x.p ∧ 0 ≤ x.q then false
  else if x.p ≤ 0 ∧ x.q ≤ 0 then true
  else if x.p < 0 then decide (qq < pp) else decide (pp < qq)

/-- Difference. -/
def Root3.sub (x y : Root3) : Root3 := { p := x.p - y.p, q := x.q - y.q }
/-- Sum. -/
def Root3.add (x y : Root3) : Root3 := { p := x.p + y.p, q := x.q + y.q }
/-- The lesser. -/
def Root3.min (x y : Root3) : Root3 := if (x.sub y).negative then x else y
/-- The greater. -/
def Root3.max (x y : Root3) : Root3 := if (x.sub y).negative then y else x

/-- A lane of SVM: dx × 2^33 clamped to 0 and 2^33, and whether it was clamped; the lane is ⌊dx · n + 1/2⌋. -/
def svmLane (d : Root3) (n : Nat) : Nat × Bool :=
  if d.negative then (0, true)
  else if (Root3.sub { p := 2 ^ 33, q := 0 } d).negative then (n, true)
  else (((d.p * n + 2 ^ 32 + floorRoot3 (d.q * n)) / 2 ^ 33).toNat, false)

/-- The sector of a vector, 1 to 6, by the signs and by y² against 3x² (R136). -/
def sectorOf (a b : Int) : Nat :=
  let steep := decide (3 * a * a < b * b)
  if a = 0 ∧ b = 0 then 1
  else if 0 < b ∨ (b = 0 ∧ 0 < a) then (if steep then 2 else if 0 < a then 1 else 3)
  else if steep then 5 else if a < 0 then 4 else 6

/-- SVM (R136): exact up to the final rounding. -/
def svmOut (b : DWord) (c : Nat) : Out :=
  let va := q31Lane b 0
  let vb := q31Lane b 1
  let n := c % 65536
  let xa : Root3 := { p := 4 * va, q := 0 }
  let xb : Root3 := { p := -(2 * va), q := 2 * vb }
  let xc : Root3 := { p := -(2 * va), q := -(2 * vb) }
  let sum := ((xa.max xb).max xc).add ((xa.min xb).min xc)
  let half : Root3 := { p := 2 ^ 32 - sum.p / 2, q := -(sum.q / 2) }
  let la := svmLane (half.add xa) n
  let lb := svmLane (half.add xb) n
  let lc := svmLane (half.add xc) n
  let clamp := la.2 || lb.2 || lc.2
  { v := BitVec.ofNat 64 (packLanes 16 [la.1, lb.1, lc.1, (if clamp then 32768 else 0) + sectorOf va vb])
    mask := 2, flags := flagBits false false false clamp false }

/-- SVM (R136). -/
def execSvm (i : Issue) (s : State) : Host.Outcome State Fault Refusal :=
  .next (s.plainly (.svm i) i (fun s => s.operate i (some (.d, .v4h)) (some (.s, .v2q)) (some (.s, .i32)) (fun x => svmOut x.b x.c.toNat)))

end Sys2Proof.Machine
end

