-- ==== Sys2Proof/Machine/Flow.lean ====
section
/-! DEFINITION. Flow of control: branches, calls, repeats, waiting, exits, hand-in, levels, TAS, FP and SP (R137 to R147,
R154, R175 to R180). -/

namespace Sys2Proof.Machine

/-! ### Shared forms -/

/-- An instruction that must not be repeated (R142): as the repeated instruction it is an illegal opcode. -/
def State.once (s : State) (c : Instr) (t : Tid) (len : Nat) (issue read : State → State) : State :=
  let repeated := (s.thr t).rep.isSome
  s.insn c t len false (fun s => if repeated then s.raiseAt t s.now { cause := .illegal } else issue s) read

/-- The words at a branch target as D fetches them in c1 (R73). -/
def State.fetchTarget (s : State) (t : Tid) (pc : BitVec 16) : List (Word × Bool) :=
  let v := s.nextView
  [v.fetchWord t pc, v.fetchWord t (pc + 1)]

/-- The flight of the thread's issue of this cycle changes. -/
def State.atIssue (s : State) (t : Tid) (f : Flight → Flight) : State := s.modThr t (fun x => x.modFlight s.now f)

/-- A taken branch with a target of its own (R73): D fetches the target, and the thread's next owned slot stays empty. -/
def State.jumpTo (s : State) (t : Tid) (pc : BitVec 16) : State :=
  let q := s.fetchTarget t pc
  s.modThr t (fun x => { x with pc := pc, pq := q, skipSlots := 1, fetchFrom := s.now + 1 })

/-- A change of flow whose target is read from desk empties the queue (R74). -/
def State.leave (s : State) (t : Tid) : State :=
  s.modThr t (fun x => { x with pq := [], skipSlots := 1, notBefore := s.now + 6, fetchFrom := s.now + 3 })

/-- The target that was read: the thread goes on there (R74). -/
def State.arriveAt (s : State) (t : Tid) (pc : BitVec 16) : State :=
  s.modThr t (fun x => x.flow (s.now - 3) (fun y => { y with pc := pc, pq := [] }))

/-- The reads and pointer updates of a desk target (R137). -/
def State.useTarget (s : State) (t : Tid) (tg : Target) (p : Place) : State :=
  let s := match tg with
    | .short _ => s
    | .long o => s.notePointers t true o (some (.s, .i32))
  (s.noteLoc p.loc 4 t).bump t p

/-- A target that the instruction at `pc` holds itself (R103, R104). -/
def directTarget (pc : BitVec 16) (tg : Target) : Option (BitVec 16) :=
  match tg with
  | .short d => some (BitVec.ofInt 16 ((pc.toNat : Int) + d.toInt))
  | .long o =>
    if o.mode = 2 then some (BitVec.ofInt 16 ((pc.toNat : Int) + sx o.spec))
    else if o.mode = 1 then some (BitVec.ofNat 16 (o.spec.toNat * 4))
    else none

/-- The PC of the instruction that issued in cycle `k`. -/
def State.insnPc (s : State) (t : Tid) (k : Nat) : BitVec 16 := ((s.thr t).beforeIssue k).pc

/-- What a taken branch or call does at its issue. -/
def State.go (s : State) (j : Jump) : State :=
  let t := j.thread
  (match directTarget (s.insnPc t s.now) j.tgt with
   | some pc => s.jumpTo t pc
   | none => s.leave t).atIssue t (fun g => { g with went := true })

/-- A branch or call at its read point: a desk target is read whether the branch is taken or not (R137). -/
def State.arrive16 (s : State) (j : Jump) : State :=
  let t := j.thread
  match (s.readView t).target t (s.readFp t) (s.insnPc t (s.now - 3)) j.tgt with
  | .error e => s.raise t e.cause e.space e.addr
  | .ok (.direct _) => s
  | .ok (.desk pc p) =>
    let went := match s.readFlight t with | some g => g.went | none => false
    let s := s.useTarget t j.tgt p
    if went then s.arriveAt t pc else s

/-- A branch of the thread with its condition decided. -/
def State.branch (s : State) (c : Instr) (j : Jump) (taken : State → Bool) : State :=
  let held := taken s
  s.once c j.thread (targetWords j.tgt) (fun s => if held then s.go j else s) (fun s => s.arrive16 j)

/-- B (R137). -/
def execB (j : Jump) (s : State) : Host.Outcome State Fault Refusal := .next (s.branch (.b j) j (fun _ => true))

/-- A conditional branch samples the flags at the start of its c1 (R68, R119). -/
def execConditionalBranch (j : Jump) (c : Cond) (s : State) : Host.Outcome State Fault Refusal :=
  .next (s.branch (.conditionalBranch j c) j (fun s => condHolds c (s.nextView.thr j.thread).sw))

/-- A call moves SP down at the end of its c1, and its return word lands at the end of its c7 (R138). A call whose return word
crosses a row is a misaligned fault. -/
def State.callIssue (s : State) (j : Jump) : State :=
  let t := j.thread
  let sp := s.spNow t - 4
  let ret := s.insnPc t s.now + BitVec.ofNat 16 (targetWords j.tgt)
  let s := s.atIssue t (fun g => { g with sp := sp })
  ((s.scheduleFor t (s.now + 1) prioPipe (.setSp t sp)).scheduleFor t (s.now + 7) prioPipe
    (.store { loc := .desk (barrelOf t) sp, size := 4, signFill := false } (ret.setWidth 64))).go j

/-- SP as an instruction at its read point found it at the start of its c1. -/
def State.readSp (s : State) (t : Tid) : BitVec 19 := match s.readFlight t with | some g => g.sp | none => (s.thr t).sp

/-- A call at its read point: an illegal target comes before a return word that crosses a row, and that before the operand
(R105, R116). -/
def State.callRead (s : State) (j : Jump) : State :=
  let t := j.thread
  let sp := s.readSp t
  match (s.readView t).target t (s.readFp t) (s.insnPc t (s.now - 3)) j.tgt with
  | .error e =>
    if crosses sp.toNat 4 ∧ e.cause ≠ .illegal then s.raise t .misaligned 1 (sp.setWidth 32) else s.raise t e.cause e.space e.addr
  | .ok _ => if crosses sp.toNat 4 then s.raise t .misaligned 1 (sp.setWidth 32) else s.arrive16 j

/-- CALL (R138). -/
def execCall (j : Jump) (s : State) : Host.Outcome State Fault Refusal :=
  .next (s.once (.call j) j.thread (targetWords j.tgt) (fun s => s.callIssue j) (fun s => s.callRead j))

/-- A return moves SP up at the end of its c1 (R138). -/
def State.retIssue (s : State) (t : Tid) : State :=
  let sp := s.spNow t
  ((s.atIssue t (fun g => { g with sp := sp })).scheduleFor t (s.now + 1) prioPipe (.setSp t (sp + 4))).leave t

/-- A return at its read point: the return word gives the target. -/
def State.retRead (s : State) (t : Tid) : State :=
  let sp := s.readSp t
  match (s.readView t).deskWordAt (barrelOf t) sp with
  | .error e => s.raise t e.cause e.space e.addr
  | .ok w => (s.noteLoc (.desk (barrelOf t) sp) 4 t).arriveAt t (w.setWidth 16)

/-- RET (R138). -/
def execRet (i : Issue) (s : State) : Host.Outcome State Fault Refusal :=
  .next (s.once (.ret i) i.thread (wordsOf i) (fun s => s.retIssue i.thread) (fun s => s.retRead i.thread))

/-! ### Repeats (R140 to R143) -/

/-- REP or REPI of `n` repetitions, decided at the read point of the prefix at `pc`: with 0 the repeated instruction is passed
over. -/
def State.repeatNext (s : State) (t : Tid) (pc : BitVec 16) (n : Nat) (interruptible : Bool) : State :=
  let k := s.now - 3
  if n = 0 then
    s.modThr t (fun x => x.flow k (fun y =>
      let w := (match y.pq with | e :: _ => e | [] => s.fetchWord t y.pc).1
      let len := if isLong w then 2 else 1
      { y with pc := y.pc + BitVec.ofNat 16 len, pq := y.pq.drop len }))
  else
    (s.modThr t (fun x => x.flow k (fun y => { y with rep := some { prefixPc := pc, interruptible := interruptible } }))).modFrom t k
      (fun y => { y with sw := (y.sw &&& 0xFFFF) ||| put 16 n })

/-- A repeat prefix at its read point: a saved count continues without reading the operand (R143). -/
def State.repeatRead (s : State) (i : Issue) (interruptible : Bool) : State :=
  let t := i.thread
  let pc := s.insnPc t (s.now - 3)
  let left := fieldN ((s.readView t).thr t).sw 16 16
  if left ≠ 0 then s.repeatNext t pc left interruptible
  else s.instruct i (some (.s, .cnt)) none none (fun s p v =>
    (s.startRead i p (some (.s, .cnt)) none none).repeatNext t pc (v.a.toNat % 65536) interruptible)

/-- A repeat prefix leaves the owned slots of the next 3 cycles empty (R140). -/
def State.repeatPrefix (s : State) (c : Instr) (i : Issue) (interruptible : Bool) : State :=
  s.once c i.thread (wordsOf i) (fun s => s.modThr i.thread (fun x => { x with notBefore := s.now + 4 }))
    (fun s => s.repeatRead i interruptible)

/-- REP (R140). -/
def execRep (i : Issue) (s : State) : Host.Outcome State Fault Refusal := .next (s.repeatPrefix (.rep i) i false)

/-- REPI (R141). -/
def execRepi (i : Issue) (s : State) : Host.Outcome State Fault Refusal := .next (s.repeatPrefix (.repi i) i true)

/-! ### Waiting, hand-in -/

/-- An instruction that acts at its issue alone. -/
def State.issueOnly (s : State) (c : Instr) (i : Issue) (issue : State → State) : State :=
  s.once c i.thread (wordsOf i) issue id

/-- WAIT (R175): the thread waits; an input that its c3 finds admitted enters from there. -/
def execWait (i : Issue) (s : State) : Host.Outcome State Fault Refusal :=
  let t := i.thread
  .next (s.issueOnly (.wait i) i (fun s =>
    let pc := s.insnPc t s.now
    s.modThr t (fun x => { x with
      toThreadS := { x.toThreadS.enter .wait with
        waitPc := pc, holdUntil := if s.now + 3 < x.holdUntil then x.holdUntil else s.now + 3 } })))

/-- A hall-queue instruction (Table INS-14). -/
def hallQueueOp : Instr → Bool
  | .hld _ _ | .hst _ _ | .hlr _ | .hsc _ | .hcas _ | .hpass _ | .hfree _ | .hwatch _ => true
  | _ => false

/-- Hall-queue instructions of a thread that are outstanding: their entries, and those in flight that have not come to their
c6 (R81). -/
def State.outstanding (s : State) (t : Tid) : Nat :=
  s.hqOut t + ((s.thr t).flight.filter (fun g =>
    decide (s.now < g.at_ + 6) && (match g.insn with | some c => hallQueueOp c | none => false))).length

/-- HWAIT (R154). -/
def execHwait (i : Issue) (s : State) : Host.Outcome State Fault Refusal :=
  let t := i.thread
  .next (s.issueOnly (.hwait i) i (fun s =>
    if s.outstanding t ≠ 0 then s.modThr t (fun x => { x with toThreadS := x.toThreadS.enter .hwait }) else s))

/-- HND (R144, R200, Table BRL-16): a class member's hand-in is recorded at the end of c7; another thread starts its next
period, with the next owned slot empty and uncharged. -/
def execHnd (i : Issue) (s : State) : Host.Outcome State Fault Refusal :=
  let t := i.thread
  .next (s.issueOnly (.hnd i) i (fun s =>
    let s := s.modThr t Thread.countEnd
    if (s.classOf t).isSome then
      (s.scheduleFor t (s.now + 7) prioPipe (.handin t)).modThr t (fun x => { x with toThreadS := x.toThreadS.enter .handed })
    else
      let st := (s.thr t).st
      (s.periodEntry t).modThr t (fun x => { x with
        st := if st = .halt then .halt else .run, beforeHalt := if st = .halt then .run else x.beforeHalt
        skipSlots := 1, emptyFree := true })))

/-! ### Exits (R176 to R180) -/

/-- The exit raises a nesting fault (R176): `n` is DONE's level, none for RTE. -/
def exitNests (e : Events) (n : Option (BitVec 2)) : Bool :=
  match n, e.nest with
  | some l, top :: _ => e.hf || top.flt || decide (top.lvl ≠ l)
  | some _, [] => true
  | none, top :: _ => !e.hf && !top.flt
  | none, [] => !e.hf

/-- The input that an exit chains to (R180): admitted without the top entry, of at least its level. -/
def State.chainInput (s : State) (t : Tid) (rte : Bool) : Option (BitVec 5 × BitVec 2) :=
  let x := s.thr t
  match x.ev.nest with
  | [] => none
  | top :: rest =>
    if rte && x.ev.hf then none
    else match s.bestInput t rest with
      | some (i, l) => if top.lvl.toNat ≤ l.toNat then some (i, l) else none
      | none => none

/-- The exit chains: the claim follows in the next owned slot (R180). -/
def State.chainTo (s : State) (t : Tid) (i : BitVec 5) (l : BitVec 2) : State :=
  (((s.scheduleFor t (s.now + 1) prioPipe (.enterSw t)).noteVec t l.toNat).modThr t (fun x => { x with
    pq := [], fetchFrom := s.now + 1
    ev := { x.ev with
      recog := none
      entering := some { kind := .chain, input := i, lvl := l, vec := s.vecWord t l.toNat, wt := false } } })).atIssue t
    (fun g => { g with went := true })

/-- The entry that a DONE ends was taken from a WAIT: the WAIT that it kept (R179). -/
def keptWait (e : Events) (rte : Bool) : Option (BitVec 16) :=
  match e.nest with
  | top :: _ => if top.wt && !rte && !e.hf then some top.waitPc else none
  | [] => none

/-- An exit that does not chain: SP moves up by 8 at the end of c1, no event entry starts before c4, and the thread resumes as
a desk-target change of flow; or the kept WAIT issues in the next owned slot (R178, R179). -/
def State.exitGo (s : State) (t : Tid) (sp : BitVec 19) (wait : Option (BitVec 16)) : State :=
  let s := (s.scheduleFor t (s.now + 1) prioPipe (.setSp t (sp + 8))).modThr t (fun x => { x with entryFrom := s.now + 4 })
  match wait with
  | some pc => s.modThr t (fun x => { x with pc := pc, pq := [], fetchFrom := s.now + 1 })
  | none => s.leave t

/-- An exit that has issued in this cycle chains or goes, by what is admitted in it, within the budget as it stood at the exit
(R174, R180). -/
def State.exitDecide (s : State) (t : Tid) : State :=
  match (s.thr t).flight.find? (fun g => decide (g.at_ = s.now) && g.fault.isNone) with
  | some g =>
    let rte := match g.insn with | some (.rte _) => true | _ => false
    let isExit := rte || (match g.insn with | some (.doneH _) => true | _ => false)
    if isExit then
      (match (if g.before.affords then s.chainInput t rte else none) with
       | some (i, l) => s.chainTo t i l
       | none => s.exitGo t g.sp (keptWait (s.thr t).ev rte))
    else s
  | none => s

/-- The frame's PC differs from the kept address: the WAIT is cancelled, and the thread resumes at the frame's PC in the slot
of R74, counted from the exit of cycle `k`; every owned slot in between is charged (R179, Table EVT-9). -/
def State.missWait (s : State) (t : Tid) (k : Nat) (pc : BitVec 16) : State :=
  let later := (s.thr t).flight.find? (fun g => decide (k < g.at_))
  let idle := match later with | some g => decide (g.at_ = k + 1) && s.ownsAt t (k + 2) | none => false
  let s := match later with | some g => s.cancelFrom t g | none => s
  let s := if idle then s.modThr t Thread.charged else s
  s.modThr t (fun x => { x with
    pc := pc, pq := [], notBefore := k + 6, fetchFrom := k + 3
    skipSlots := if later.isSome ∨ s.ownsAt t (k + 1) = true ∨ s.ownsAt t (k + 2) = true then 0 else 1 })

/-- An exit at its issue keeps SP as it stands at the start of c1; what it does is decided at the end of the cycle. -/
def State.exitIssue (s : State) (t : Tid) : State := s.atIssue t (fun g => { g with sp := s.spNow t })

/-- The exit's frame at its read point, with the checks of R176 and R177 on what stood before the exit. -/
def State.exitRead (s : State) (i : Issue) (n : Option (BitVec 2)) (start : State → State) : State :=
  let t := i.thread
  let v := s.readView t
  let e := (v.thr t).ev
  let sp := s.readSp t
  match v.deskWordAt (barrelOf t) sp, v.deskWordAt (barrelOf t) (sp + 4) with
  | .error x, _ => s.raise t x.cause x.space x.addr
  | _, .error x => s.raise t x.cause x.space x.addr
  | .ok pc, .ok sw =>
    if exitNests e n then s.raise t .nesting 0 0
    else if bit sw 6 && !(s.privOk t && bit (v.thr t).sw 6) then s.raise t .privReturn 0 0
    else
      let s := start s
      match s.readFlight t with
      | none => s
      | some g =>
        if g.went then s
        else
          let s := ((s.noteLoc (.desk (barrelOf t) sp) 4 t).noteLoc (.desk (barrelOf t) (sp + 4)) 4 t).enter t 3 prioPipe
            (.exitSw t sw (if e.hf then 0 else e.nest.length))
          match keptWait e n.isNone with
          | none => s.arriveAt t (pc.setWidth 16)
          | some w => if w = pc.setWidth 16 then s else s.missWait t g.at_ (pc.setWidth 16)

/-- DONE (R178). -/
def execDoneH (i : Issue) (s : State) : Host.Outcome State Fault Refusal :=
  .next (s.once (.doneH i) i.thread (wordsOf i) (fun s => s.exitIssue i.thread)
    (fun s => s.instruct i (some (.s, .cnt)) none none (fun s p v =>
      s.exitRead i (some (v.a.setWidth 2)) (fun s => s.startRead i p (some (.s, .cnt)) none none))))

/-- RTE (R176). -/
def execRte (i : Issue) (s : State) : Host.Outcome State Fault Refusal :=
  .next (s.once (.rte i) i.thread (wordsOf i) (fun s => s.exitIssue i.thread) (fun s => s.exitRead i none id))

/-! ### Levels, fences, pointers -/

/-- SETLVL and SETMASK need S level (R188) and hold event entries until the end of their c3 (R168); the field is written at the
end of c3 (R145). -/
def State.setLevel (s : State) (c : Instr) (i : Issue) (e : DWord → Eff) : State :=
  let t := i.thread
  s.once c t (wordsOf i) (fun s => s.modThr t (fun x => { x with holdUntil := s.now + 4 }))
    (fun s =>
      if bit ((s.readView t).thr t).sw 6 then
        s.instruct i (some (.s, .cnt)) none none (fun s p v => (s.startRead i p (some (.s, .cnt)) none none).enter t 3 prioPipe (e v.a))
      else s.raise t .illegal 0 0)

/-- SETLVL (R145). -/
def execSetlvl (i : Issue) (s : State) : Host.Outcome State Fault Refusal :=
  .next (s.setLevel (.setlvl i) i (fun v => .setPriv i.thread (v.getLsbD 0)))

/-- SETMASK (R145). -/
def execSetmask (i : Issue) (s : State) : Host.Outcome State Fault Refusal :=
  .next (s.setLevel (.setmask i) i (fun v => .setMask i.thread (v.setWidth 2)))

/-- IFENCE (R75): the words behind it are fetched in the first owned slot at least 5 BCLK later. -/
def execIfence (i : Issue) (s : State) : Host.Outcome State Fault Refusal :=
  .next (s.issueOnly (.ifence i) i (fun s => s.modThr i.thread (fun x => { x with
    pq := [], notBefore := s.now + 5, fetchFrom := s.now + 5 })))

/-- NOP (R146). -/
def execNop (i : Issue) (s : State) : Host.Outcome State Fault Refusal := .next (s.plainly (.nop i) i id)

/-- FPSET and SPSET land at the end of c6 (R107). -/
def State.setPointer (s : State) (c : Instr) (i : Issue) (e : BitVec 19 → Eff) : State :=
  s.once c i.thread (wordsOf i) id (fun s => s.instruct i (some (.s, .adr)) none none (fun s p v =>
    (s.startRead i p (some (.s, .adr)) none none).enter i.thread 6 prioSet (e (v.a.setWidth 19))))

/-- FPSET (R146). -/
def execFpset (i : Issue) (s : State) : Host.Outcome State Fault Refusal := .next (s.setPointer (.fpset i) i (.setFp i.thread))

/-- SPSET (R146). -/
def execSpset (i : Issue) (s : State) : Host.Outcome State Fault Refusal := .next (s.setPointer (.spset i) i (.setSp i.thread))

/-! ### TAS (R147) -/

/-- The reads and the pointer updates of TAS. Its own read and writes come within c7 for a desk or slate word, the read before
the pointer updates of that cycle (R105); a product register is read at the read point. -/
def State.tasRead (s : State) (i : Issue) (p : Places) (b : DWord) : State :=
  let t := i.thread
  match p.b.loc with
  | .px _ _ =>
    let s := s.startRead i p (some (.d, .i32)) (some (.m, .i32)) none
    ((s.putResult t p.b .i32 1).putResult t p.a .i32 b).putFlags t mZ (if b = 0 then mZ else 0)
  | l => (s.enter t 7 prioPipe (.tas t l (some (p.a.dest .i32)))).startRead i p (some (.d, .i32)) (some (.m, .i32)) none

/-- TAS (R147). -/
def execTas (i : Issue) (s : State) : Host.Outcome State Fault Refusal :=
  .next (s.plainly (.tas i) i (fun s => s.instruct i (some (.d, .i32)) (some (.m, .i32)) none (fun s p v => s.tasRead i p v.b)))

/-! ### Reserved operations (R90) -/

/-- The reserved operation numbers (R113). -/
def reservedOp (n : Nat) : Bool :=
  decide (n = 0x3E) || decide (n = 0x3F) || (decide (0x4D ≤ n) && decide (n ≤ 0x4F)) || (decide (0x5D ≤ n) && decide (n ≤ 0x5F)) ||
  (decide (0x6D ≤ n) && decide (n ≤ 0x6F)) || (decide (0x78 ≤ n) && decide (n ≤ 0x7F)) || decide (n = 0xAF) || decide (n = 0xBF) ||
  decide (0xC2 ≤ n)

/-- RESERVED_OPERATION (R90): an illegal-opcode fault in either form. -/
def execReservedOperation (i : Issue) (n : BitVec 8) (s : State) : Host.Outcome State Fault Refusal :=
  .next (if reservedOp n.toNat then
    s.insn (.reservedOperation i n) i.thread (wordsOf i) false (fun s => s.raiseAt i.thread s.now { cause := .illegal }) id
    else s)

end Sys2Proof.Machine
end

