-- ==== Sys2Proof/Machine/IoInsn.lean ====
section
/-! DEFINITION. Instructions on the I/O space: their faults at the read point and the accesses that they make in c6, where
partitions, owners and rings are judged (R110, R111, R148, R149, R165). -/

namespace Sys2Proof.Machine

/-! ### Shared forms -/

/-- A resolvable operand's value; 0 where it faults. -/
def State.looseVal (v : State) (i : Issue) (fp : BitVec 19) (o : Opnd) (x : OpSpec) : DWord :=
  match v.place i fp o x with
  | .ok p => v.valOf p x
  | .error _ => 0

/-- The operand values as far as they resolve. -/
def State.looseVals (v : State) (i : Issue) (fp : BitVec 19) (a b c : OpSpec) : Vals :=
  { a := v.looseVal i fp i.a a, b := v.looseVal i fp i.b b, c := v.looseVal i fp i.c c }

/-- An instruction at its read point whose operand values may themselves be illegal or misaligned, in the precedence of R116:
`bad` tells an illegal value, `align` the space and address of a misaligned access, `at_` those of an illegal I/O address.
Where neither holds, `f` completes it. -/
def State.judged (s : State) (i : Issue) (a b c : OpSpec) (bad : Vals → Bool) (align : Vals → Option (BitVec 3 × Word))
    (f : State → Places → Vals → State) (at_ : Vals → BitVec 3 × Word := fun _ => (0, 0)) : State :=
  let x := (s.readView i.thread).looseVals i (s.readFp i.thread) a b c
  if bad x then s.raise i.thread .illegal (at_ x).1 (at_ x).2
  else s.instruct i a b c (fun s p x =>
    match align x with
    | some e => s.raise i.thread .misaligned e.1 e.2
    | none => f s p x)

/-- No operand value is misaligned of its own. -/
def noErr (_ : Vals) : Option (BitVec 3 × Word) := none

/-- Enter an access for c6. -/
def State.access (s : State) (t : Tid) (x : IoAcc) : State := s.enter t 5 prioUnit (.io t x)

/-- An operand value has a nonzero bit at or above `n` of its 32 bits. -/
def above32 (v : DWord) (n : Nat) : Bool := decide (2 ^ n ≤ v.toNat % 2 ^ 32)

/-- The level of an instruction as it stands at its read point (R68). -/
def State.superv (s : State) (t : Tid) : Bool := bit ((s.readView t).thr t).sw 6

/-! ### Events -/

/-- EVCLR (R159): bits above the input number are ignored. -/
def execEvclr (i : Issue) (s : State) : Host.Outcome State Fault Refusal :=
  .next (s.plainly (.evclr i) i (fun s => s.instruct i (some (.s, .cnt)) none none (fun s p x =>
    (s.startRead i p (some (.s, .cnt)) none none).access i.thread (.evclr (x.a.setWidth 5)))))

/-- EVSIG (R157). -/
def execEvsig (i : Issue) (s : State) : Host.Outcome State Fault Refusal :=
  .next (s.plainly (.evsig i) i (fun s => s.judged i (some (.s, .cnt)) none none (fun x => above32 x.a 5) noErr
    (fun s p x => (s.startRead i p (some (.s, .cnt)) none none).access i.thread (.evsig (x.a.setWidth 5)))))

/-! ### IN and OUT (R24, R111, R165) -/

/-- The I/O address of IN and OUT. -/
def ioAddr (hi : Bool) (v : DWord) : Nat := ((if hi then 0x4000 else 0) + v.toNat) % 65536

/-- IN. -/
def execInp (i : Issue) (hi : Bool) (s : State) : Host.Outcome State Fault Refusal :=
  .next (s.plainly (.inp i hi) i (fun s =>
    s.judged i (some (.d, .i32)) (some (.s, .adr)) none (fun x => (ioReg i.thread (ioAddr hi x.b)).isNone) noErr
      (fun s p x => (s.startRead i p (some (.d, .i32)) (some (.s, .adr)) none).access i.thread
        (.inp (BitVec.ofNat 16 (ioAddr hi x.b)) (p.a.dest .i32)))
      (fun x => (4, BitVec.ofNat 32 (ioAddr hi x.b)))))

/-- OUT. -/
def execOut (i : Issue) (hi : Bool) (s : State) : Host.Outcome State Fault Refusal :=
  .next (s.plainly (.out i hi) i (fun s =>
    s.judged i (some (.s, .adr)) (some (.s, .i32)) none (fun x => (ioReg i.thread (ioAddr hi x.a)).isNone) noErr
      (fun s p x => (s.startRead i p (some (.s, .adr)) (some (.s, .i32)) none).access i.thread
        (.out (BitVec.ofNat 16 (ioAddr hi x.a)) (x.b.setWidth 32) (s.superv i.thread)))
      (fun x => (4, BitVec.ofNat 32 (ioAddr hi x.a)))))

/-! ### Pins (R219, R231, R243, R249) -/

/-- PINRD. -/
def execPinrd (i : Issue) (s : State) : Host.Outcome State Fault Refusal :=
  .next (s.plainly (.pinrd i) i (fun s =>
    s.judged i (some (.d, .i32)) (some (.s, .adr)) none (fun x => above32 x.b 4) noErr
      (fun s p x => (s.startRead i p (some (.d, .i32)) (some (.s, .adr)) none).access i.thread
        (.pinrd (x.b.setWidth 4) (p.a.dest .i32)))))

/-- PINWR and PINWRS at the read point. -/
def State.pinWrite (s : State) (i : Issue) (staged : Bool) : State :=
  s.judged i (some (.s, .adr)) (some (.s, .i32)) (some (.s, .i32)) (fun x => above32 x.a 4) noErr
    (fun s p x => (s.startRead i p (some (.s, .adr)) (some (.s, .i32)) (some (.s, .i32))).access i.thread
      (.pinwr (x.a.setWidth 4) (x.b.setWidth 32) (x.c.setWidth 32) staged))

/-- PINWR (R231). -/
def execPinwr (i : Issue) (s : State) : Host.Outcome State Fault Refusal :=
  .next (s.plainly (.pinwr i) i (fun s => s.pinWrite i false))

/-- PINWRS (R231). -/
def execPinwrs (i : Issue) (s : State) : Host.Outcome State Fault Refusal :=
  .next (s.plainly (.pinwrs i) i (fun s => s.pinWrite i true))

/-- EDGEQ (R243). -/
def execEdgeq (i : Issue) (s : State) : Host.Outcome State Fault Refusal :=
  .next (s.plainly (.edgeq i) i (fun s =>
    s.judged i (some (.s, .adr)) (some (.s, .i8)) (some (.s, .i64)) (fun x => above32 x.a 9) noErr
      (fun s p x => (s.startRead i p (some (.s, .adr)) (some (.s, .i8)) (some (.s, .i64))).access i.thread
        (.edgeq (x.a.setWidth 9) (x.b.setWidth 8) x.c))))

/-- EDGER (R249). -/
def execEdger (i : Issue) (s : State) : Host.Outcome State Fault Refusal :=
  .next (s.plainly (.edger i) i (fun s =>
    s.judged i (some (.d, .i64)) (some (.s, .adr)) none (fun x => above32 x.b 9) noErr
      (fun s p x => (s.startRead i p (some (.d, .i64)) (some (.s, .adr)) none).access i.thread
        (.edger (x.b.setWidth 9) (p.a.dest .i64)))))

/-! ### Timers (R273, R274) -/

/-- TCMP. -/
def execTcmp (i : Issue) (s : State) : Host.Outcome State Fault Refusal :=
  .next (s.plainly (.tcmp i) i (fun s =>
    s.judged i (some (.s, .adr)) (some (.s, .i64)) none (fun x => above32 x.a 10) noErr
      (fun s p x => (s.startRead i p (some (.s, .adr)) (some (.s, .i64)) none).access i.thread (.tcmp (x.a.setWidth 10) x.b))))

/-- TCAP. -/
def execTcap (i : Issue) (s : State) : Host.Outcome State Fault Refusal :=
  .next (s.plainly (.tcap i) i (fun s =>
    s.judged i (some (.d, .i64)) (some (.s, .adr)) (some (.s, .cnt))
      (fun x => above32 x.b 10 || decide (4 < x.c.toNat)) noErr
      (fun s p x => (s.startRead i p (some (.d, .i64)) (some (.s, .adr)) (some (.s, .cnt))).access i.thread
        (.tcap (x.b.setWidth 10) (x.c.setWidth 3) (p.a.dest .i64)))))

/-! ### Rings (R149, R345 to R347) -/

/-- An instruction that makes an item of the queue manager in its c6: a post that is not staged, or a get (R347). -/
def itemOp (classed : Bool) : Instr → Bool
  | .qput _ => true
  | .qputs _ => !classed
  | .qget _ => true
  | _ => false

/-- Items pending with the queue manager, with those of instructions in flight that have not come to their c6 (R347). -/
def State.itemsHeld (s : State) (t : Tid) : Nat :=
  s.itemsOf t + ((s.thr t).flight.filter (fun g =>
    decide (s.now < g.at_ + 6) && (match g.insn with | some c => itemOp (s.classOf t).isSome c | none => false))).length

/-- A ring instruction: refused and charged while four items are pending (R347), before its encoding is looked at (log entry
25). -/
def State.ringInsn (s : State) (c : Instr) (i : Issue) (read : State → State) : State :=
  s.insn c i.thread (wordsOf i) (decide (4 ≤ s.itemsHeld i.thread)) id read

/-- An entry buffer is a multiple of 64 (R149). -/
def bufferErr (v : DWord) : Option (BitVec 3 × Word) := if v.toNat % 64 = 0 then none else some (1, v.setWidth 32)

/-- QPUT and QPUTS read their buffer at the read point. -/
def State.post (s : State) (i : Issue) (staged : Bool) : State :=
  s.judged i (some (.s, .adr)) (some (.s, .adr)) none (fun x => above32 x.a 13) (fun x => bufferErr x.b)
    (fun s p x =>
      let t := i.thread
      let a := x.b.toNat % 524288
      let d := BitVec.ofNat 512 (leNat (s.deskBytes (barrelOf t) a 64))
      ((s.startRead i p (some (.s, .adr)) (some (.s, .adr)) none).noteRead (instDesk (barrelOf t)) 0 a 64 (agThread t)).access t
        (.qput (x.a.setWidth 13) d staged))

/-- QPUT. -/
def execQput (i : Issue) (s : State) : Host.Outcome State Fault Refusal :=
  .next (s.ringInsn (.qput i) i (fun s => s.post i false))

/-- QPUTS. -/
def execQputs (i : Issue) (s : State) : Host.Outcome State Fault Refusal :=
  .next (s.ringInsn (.qputs i) i (fun s => s.post i true))

/-- QGET. -/
def execQget (i : Issue) (s : State) : Host.Outcome State Fault Refusal :=
  .next (s.ringInsn (.qget i) i (fun s =>
    s.judged i (some (.s, .adr)) (some (.s, .adr)) (some (.d, .i32)) (fun x => above32 x.a 13) (fun x => bufferErr x.b)
      (fun s p x => (s.startRead i p (some (.s, .adr)) (some (.s, .adr)) (some (.d, .i32))).access i.thread
        (.qget (x.a.setWidth 13) (x.b.setWidth 19) (p.c.dest .i32)))))

/-! ### Class status (R216) -/

/-- BSTAT. -/
def execBstat (i : Issue) (s : State) : Host.Outcome State Fault Refusal :=
  .next (s.plainly (.bstat i) i (fun s =>
    s.judged i (some (.d, .i32)) (some (.s, .cnt)) none (fun x => above32 x.b 4) noErr
      (fun s p x => (s.startRead i p (some (.d, .i32)) (some (.s, .cnt)) none).access i.thread
        (.bstat (x.b.setWidth 4) (p.a.dest .i32)))))

end Sys2Proof.Machine
end

