-- ==== Sys2Proof/Machine/HallInsn.lean ====
section
/-! DEFINITION. Instructions on hall and on the instruction space: their faults, their refusal for want of credits and the
entries that they write in c6 (R81, R82, R109, R112, R150 to R155, R189). -/

namespace Sys2Proof.Machine

/-! ### Hall-queue instructions -/

/-- Hall queue credits of a thread (THR_CFG.HQCRED). -/
def State.hqCred (s : State) (t : Tid) : Nat := fieldN (s.reg (.thrCfg t)) 8 4

/-- An access of `n` bytes reaches a byte of the secure region. -/
def secureRange (a n : Nat) : Bool := secureAddr a || secureAddr (a + n - 1)

/-- A thread may reach the secure region in this cycle (R189). -/
def State.secureOk (s : State) (t : Tid) : Bool := bit (s.thr t).sw 6 && bit (s.reg (.thrCeil t)) 1

/-- A hall address is misaligned: it crosses a row, or must be a multiple of 8 (R108, R109). -/
def hallAlign (kind : HqKind) (a n : Nat) : Bool :=
  match kind with
  | .hld => crosses a n
  | .hst => crosses a n
  | _ => decide (a % 8 ≠ 0)

/-- A hall access is a bus error wherever the thread stands: no credits, or an address beyond hall (R82, R110). -/
def State.hallBus (s : State) (t : Tid) (a : Nat) : Bool := decide (s.hqCred t = 0) || decide (0x800000 ≤ a)

/-- An entry on its way into the queue is a bus error of its instruction: it reaches the secure region and its thread may not,
in its c6 (R189). -/
def State.hallBarred (s : State) (e : HqEntry) : Bool := secureRange e.addr.toNat e.size && !s.secureOk e.thread

/-- What an instruction gives its entry besides its kind and size: address, data, compare value and destination. -/
structure HallArgs where
  addr : DWord
  data : DWord := 0
  cmp : DWord := 0
  dest : Option Dest := none

/-- The entry of an instruction at its read point. -/
def State.hallEntry (s : State) (t : Tid) (kind : HqKind) (n : Nat) (x : HallArgs) : HqEntry :=
  let y := (s.readView t).thr t
  { kind := kind, thread := t, epoch := y.epoch, life := y.life, addr := x.addr.setWidth 23, size := n
    data := x.data, cmp := x.cmp, dest := x.dest, seq := 0, issued := s.now - 3, written := 0, retireAt := none, result := 0
    busErr := false }

/-- The thread has credits, and all of them are outstanding (R81, R82). -/
def State.hallRefused (s : State) (t : Tid) : Bool := decide (s.hqCred t ≠ 0) && decide (s.hqCred t ≤ s.outstanding t)

/-- A hall-queue instruction of `n` bytes: refused for want of a credit before its encoding is looked at (log entry 25),
faulted, or its entry enters the queue in c6. -/
def State.hallInsn (s : State) (op : Instr) (i : Issue) (kind : HqKind) (n : Nat) (a b c : OpSpec) (f : Places → Vals → HallArgs) :
    State :=
  let t := i.thread
  s.insn op t (wordsOf i) (s.hallRefused t) id (fun s => s.instruct i a b c (fun s p x =>
    let y := f p x
    let h := y.addr.toNat % 2 ^ 32
    if hallAlign kind h n then s.raise t .misaligned 3 (BitVec.ofNat 32 h)
    else if s.hallBus t h then s.raise t .bus 3 (BitVec.ofNat 32 h)
    else (s.startRead i p a b c).enter t 5 prioUnit (.hall (barrelOf t) (s.hallEntry t kind n y))))

/-- HLD (R151). -/
def execHld (i : Issue) (z : Size4) (s : State) : Host.Outcome State Fault Refusal :=
  .next (s.hallInsn (.hld i z) i .hld (sizeTy z).size (some (.d, sizeTy z)) (some (.s, .adr)) none
    (fun p x => { addr := x.b, dest := some (p.a.dest (sizeTy z)) }))

/-- HST (R151). -/
def execHst (i : Issue) (z : Size4) (s : State) : Host.Outcome State Fault Refusal :=
  .next (s.hallInsn (.hst i z) i .hst (sizeTy z).size (some (.s, .adr)) (some (.s, sizeTy z)) none
    (fun _ x => { addr := x.a, data := x.b }))

/-- HLR (R152). -/
def execHlr (i : Issue) (s : State) : Host.Outcome State Fault Refusal :=
  .next (s.hallInsn (.hlr i) i .hlr 8 (some (.d, .i64)) (some (.s, .adr)) none
    (fun p x => { addr := x.b, dest := some (p.a.dest .i64) }))

/-- HSC (R152). -/
def execHsc (i : Issue) (s : State) : Host.Outcome State Fault Refusal :=
  .next (s.hallInsn (.hsc i) i .hsc 8 (some (.d, .i32)) (some (.s, .adr)) (some (.s, .i64))
    (fun p x => { addr := x.b, data := x.c, dest := some (p.a.dest .i32) }))

/-- HCAS (R153). -/
def execHcas (i : Issue) (s : State) : Host.Outcome State Fault Refusal :=
  .next (s.hallInsn (.hcas i) i .hcas 8 (some (.m, .i64)) (some (.s, .adr)) (some (.s, .i64))
    (fun p x => { addr := x.b, data := x.c, cmp := x.a, dest := some (p.a.dest .i64) }))

/-- HPASS (R371): operand C is the duration. -/
def execHpass (i : Issue) (s : State) : Host.Outcome State Fault Refusal :=
  .next (s.hallInsn (.hpass i) i .hpass 8 (some (.d, .i64)) (some (.s, .adr)) (some (.s, .cnt))
    (fun p x => { addr := x.b, data := x.c, dest := some (p.a.dest .i64) }))

/-- HFREE (R371). -/
def execHfree (i : Issue) (s : State) : Host.Outcome State Fault Refusal :=
  .next (s.hallInsn (.hfree i) i .hfree 8 (some (.s, .adr)) none none (fun _ x => { addr := x.a }))

/-- HWATCH (R377): operand B is the event input. -/
def execHwatch (i : Issue) (s : State) : Host.Outcome State Fault Refusal :=
  .next (s.hallInsn (.hwatch i) i .hwatch 8 (some (.s, .adr)) (some (.s, .cnt)) none (fun _ x => { addr := x.a, data := x.b }))

/-! ### Instruction space -/

/-- The test and repair address of a word of an instruction bank. -/
def insPhys (y : Bool) (w : Nat) : Nat := (if y then 65536 else 0) + w

/-- ILD at the read point. -/
def State.ildRead (s : State) (i : Issue) : State :=
  let t := i.thread
  s.judged i (some (.d, .i32)) (some (.s, .adr)) none (fun _ => !i.long) noErr
    (fun s p x =>
      let w := x.b.toNat % 65536
      let y := ((s.readView t).thr t).bankY
      let m := instIns (barrelOf t)
      if s.poisoned m (insPhys y w) 1 then
        (s.noteRead m 0 (insPhys y w) 1 (agThread t)).raise t .bus 5 (BitVec.ofNat 32 w)
      else (s.startRead i p (some (.d, .i32)) (some (.s, .adr)) none).putResult t p.a .i32 ((s.insWord (barrelOf t) y w).setWidth 64))

/-- ILD (R112, R155): the short form does not exist (R89); an uncorrectable error is logged and faults. -/
def execIld (i : Issue) (s : State) : Host.Outcome State Fault Refusal := .next (s.plainly (.ild i) i (fun s => s.ildRead i))

/-- IST (R155, R188): illegal at U level. -/
def execIst (i : Issue) (s : State) : Host.Outcome State Fault Refusal :=
  let t := i.thread
  .next (s.plainly (.ist i) i (fun s =>
    s.judged i (some (.s, .adr)) (some (.s, .i32)) none (fun _ => !i.long || !s.superv t) noErr
      (fun s p x =>
        (s.startRead i p (some (.s, .adr)) (some (.s, .i32)) none).enter t 7 prioPipe
          (.insWord (barrelOf t) ((s.readView t).thr t).bankY (x.a.setWidth 16) (x.b.setWidth 32)))))

end Sys2Proof.Machine
end

