-- ==== Sys2Proof/Machine/Threads.lean ====
section
/-! DEFINITION. Slot maps and the host's control of threads: enable, halt, step, reset, MAINT, configuration and context
(R58 to R66, R76, R190, R424). -/

namespace Sys2Proof.Machine

/-! ### Slot maps (R58 to R62) -/

/-- The owned slots of a map, as (slot, thread index). -/
def mapSlots (m : List Byte) : List (Nat × Nat) :=
  ((List.range 32).map (fun k => (k, m.getD k 0))).filterMap (fun e =>
    if e.2.getLsbD 7 then some (e.1, e.2.toNat % 32) else none)

/-- The slots of a map that thread index `i` owns. -/
def mapOf (m : List Byte) (i : Nat) : List Nat := ((mapSlots m).filter (fun e => decide (e.2 = i))).map (·.1)

/-- Every thread with exactly two slots owns slots 8 to 24 apart (R58). -/
def mapOk (m : List Byte) : Bool :=
  (List.range 32).all (fun i =>
    match mapOf m i with
    | [x, y] => decide (8 ≤ y - x) && decide (y - x ≤ 24)
    | _ => true)

/-- A bell runs and is not stopping. -/
def State.bellGoing (s : State) (b : Bell) : Bool := (s.bell b).running && !(s.bell b).stopping

/-- The outcome of an APPLY (Table BRL-3). -/
def State.applyErr (s : State) (b : Barrel) (atBell : Bool) (bell : Bell) : BitVec 2 :=
  if (s.bar b).pending.isSome then 2
  else if !mapOk (s.bar b).shadow then 1
  else if atBell && !s.bellGoing bell then 3
  else 0

/-- A barrel is gated while it owns no slot, unless CTL_BGATE keeps it; a map that gives it a slot ungates it before that map
takes effect (R51). -/
def State.gateNow (s : State) (b : Barrel) : State :=
  s.modBar b (fun x => { x with
    gated := (mapSlots x.active).isEmpty && (match x.pending with | some p => (mapSlots p.map).isEmpty | none => true) &&
      !bit (s.reg .ctlBgate) b.val })

/-- SLOT_MAP_APPLY_REQUEST: the shadow map as it stands is checked, and waits where it is accepted. -/
def State.slotApply (s : State) (b : Barrel) (atBell : Bool) (bell : Bell) : State :=
  let e := s.applyErr b atBell bell
  (s.modBar b (fun x =>
    { x with
      when_ := atBell, bellSel := BitVec.ofNat 4 bell.val, err := e
      pending := if e = 0 then some { map := x.shadow, from_ := s.now + 16, bell := if atBell then some bell else none }
                 else x.pending })).gateNow b

/-- The pending map takes effect in this cycle. -/
def State.copyDue (s : State) (b : Barrel) : Bool :=
  match (s.bar b).pending with
  | some p => decide (p.from_ ≤ s.now) && (match p.bell with | some c => s.bellDue c | none => decide (s.now % 32 = 0))
  | none => false

/-- SLOT_MAP_CANCEL: a cancel that reaches the barrel in the cycle in which the map takes effect leaves it (R61). ERR keeps its
value, for which R61 states none (log entry 45, DESIGN CHOICE). -/
def State.slotCancel (s : State) (b : Barrel) : State :=
  if s.copyDue b then s else (s.modBar b (fun x => { x with pending := none })).gateNow b

/-- A write to BRL_SMAP_CTL: CANCEL acts alone where both are set. -/
def State.smapCtlWrite (s : State) (b : Barrel) (v : Word) : State :=
  if bit v 29 then (s.modBar b (fun x => { x with when_ := bit v 20, bellSel := (v >>> 16).setWidth 4 })).slotCancel b
  else if bit v 31 then s.slotApply b (bit v 20) (fin 16 (fieldN v 16 4))
  else s.modBar b (fun x => { x with when_ := bit v 20, bellSel := (v >>> 16).setWidth 4 })

/-- SLOT_MAP_COPY (R61). -/
def State.slotCopy (s : State) (b : Barrel) : State :=
  if s.copyDue b then
    (s.modBar b (fun x => match x.pending with
      | some p => { x with active := p.map, pending := none }
      | none => x)).gateNow b
  else s

/-- A write to BRL_SMAP: reserved bits of each entry read zero (Table BRL-2). -/
def State.smapWrite (s : State) (b : Barrel) (i : Nat) (v : Word) : State :=
  s.modBar b (fun x => { x with
    shadow := (List.range 32).map (fun k =>
      if k / 4 = i then (BitVec.ofNat 8 (fieldN v (8 * (k % 4)) 8)) &&& 0x9F else x.shadow.getD k 0) })

/-! ### Thread control (R76, Table BRL-16) -/

/-- The state to which the release of HALT leads a thread that has not started: HELD for a class member; `off` stands
for the start of a thread outside any class. -/
def State.startState (s : State) (t : Tid) : TState := if (s.classOf t).isSome then .held else .off

/-- Threads run in this lifecycle state and phase (R409, Table HLY-10). -/
def State.threadsRun (s : State) : Bool :=
  decide (s.sys.phase = .up) && (decide (s.upd.lc = .opened) || decide (s.upd.lc = .owned))

/-- An enabled thread that is not running starts: HELD, or its period entry in a slot at least 16 BCLK later; with HALT
set it halts (Table BRL-16). -/
def State.restart (s : State) (t : Tid) : State :=
  let w := s.reg (.thrCtl t)
  if !bit w 0 || !s.threadsRun then s.modThr t (fun x => { x with st := .off })
  else if bit w 4 then s.modThr t (fun x => { x with st := .maint })
  else if bit w 1 then s.modThr t (fun x => { x with st := .halt, beforeHalt := s.startState t, bellPassed := false })
  else if (s.classOf t).isSome then s.modThr t (fun x => { x with st := .held })
  else s.startThread t (s.now + 16)

/-- A stopped thread takes a bank switch that it still owes (R401, R402). -/
def State.settleBank (s : State) (t : Tid) : State :=
  match (s.thr t).st with
  | .off => s.switchBank t
  | .held => s.switchBank t
  | .halt => s.switchBank t
  | .maint => s.switchBank t
  | _ => s

/-- What thread reset and disable share: instructions in flight are cancelled and results on their way go, an open period is
discarded, fills are dropped (R77, R181, R207, R209, R348). -/
def State.stopThread (s : State) (t : Tid) (cause : BitVec 4) : State :=
  let s := (s.cancelAll t).dropHall t
  let s := if (s.thr t).per.isOpen then (s.discard t cause).pulse (0x020 + t.val) else s.dropStaged t
  (s.dropFills t).modThr t (fun x => { x with
    fault := none, rep := none, heldBus := [], stepFrom := none, haltFrom := none, releaseFrom := none, maintAtBell := false
    maintWait := false, skipSlots := 0, notBefore := 0, emptyFree := false, pq := [], startFrom := none
    epoch := x.epoch + 1, life := x.life + 1, decidedAt := some s.now
    ev := { x.ev with recog := none, entering := none } })

/-- EN set: an OFF thread starts. -/
def State.enableThread (s : State) (t : Tid) : State :=
  if (s.thr t).st = .off then s.restart t else s

/-- EN cleared: any thread but one in LOCKUP goes OFF in this cycle. -/
def State.disableThread (s : State) (t : Tid) : State :=
  if (s.thr t).st = .lockup then s
  else ((s.stopThread t 7).modThr t (fun x => { x with st := .off })).settleBank t

/-- HALT set: no issue from the first owned slot at least 4 BCLK later. A thread outside any class that waits in OFF for its
first owned slot after EN halts at once, as Table BRL-16 has no row for it (log entry 45, DESIGN CHOICE). -/
def State.haltThread (s : State) (t : Tid) : State :=
  match (s.thr t).st with
  | .run | .wait | .hwait | .held | .handed | .halt => s.modThr t (fun x => { x with haltFrom := some (s.now + 4) })
  | .off => s.modThr t (fun x => if x.startFrom.isSome then { x with st := .halt, beforeHalt := .off, bellPassed := false, startFrom := none } else x)
  | _ => s

/-- HALT cleared: the state held before, or after a bell of its class its period entry while the bell goes on, else HELD. -/
def State.releaseHalt (s : State) (t : Tid) : State :=
  let x := s.thr t
  let held := s.modThr t (fun y => { y with st := .held, stepFrom := none })
  let later := s.modThr t (fun y => { y with releaseFrom := some (s.now + 4), stepFrom := none })
  if x.st = .halt then
    match s.classOf t with
    | some b =>
      if x.bellPassed then
        (if s.bellGoing b then (s.periodEntry t).modThr t (fun y => { y with notBefore := s.now + 4, emptyFree := true, stepFrom := none })
         else held)
      else if x.beforeHalt = .held then held
      else later
    | none => if x.beforeHalt = .off then s.startThread t (s.now + 16) else later
  else if x.haltFrom.isSome then (if x.st = .held then s.modThr t (fun y => { y with haltFrom := none }) else later)
  else s

/-- The 4 BCLK of a HALT or of its release have passed: the thread halts, or takes the state it held (Table BRL-16). -/
def State.haltStep (s : State) (t : Tid) : State :=
  let due := fun (c : Option Nat) => match c with | some c => decide (c ≤ s.now) | none => false
  let x := s.thr t
  if x.st = .halt ∧ due x.releaseFrom = true then
    s.modThr t (fun x => { x with st := x.beforeHalt, releaseFrom := none })
  else if due x.haltFrom then
    s.modThr t (fun x =>
      match x.st with
      | .run | .wait | .hwait | .held | .handed => { x with st := .halt, beforeHalt := x.st, bellPassed := false, haltFrom := none }
      | _ => { x with haltFrom := none })
  else s

/-- STEP: a halted thread issues one instruction in the first owned slot at least 4 BCLK later. -/
def State.stepThread (s : State) (t : Tid) : State :=
  if (s.thr t).st = .halt then s.modThr t (fun x => { x with stepFrom := some (s.now + 4) }) else s

/-- A thread is parked in MAINT. -/
def State.toMaint (s : State) (t : Tid) : State :=
  (s.modThr t (fun x => { x with st := .maint, startFrom := none, maintWait := false, maintAtBell := false })).settleBank t

/-- MAINT set: at once for a thread that does not run; at the next bell of a class member; for another thread once its
instructions in flight have completed (Table BRL-16). -/
def State.enterMaint (s : State) (t : Tid) : State :=
  match (s.thr t).st with
  | .held | .handed | .off => s.toMaint t
  | .run | .wait | .hwait =>
    if (s.classOf t).isSome then s.modThr t (fun x => { x with maintAtBell := true })
    else s.modThr t (fun x => { x with maintWait := true })
  | _ => s

/-- A thread that waits for its instructions in flight before MAINT has none left. -/
def State.maintStep (s : State) (t : Tid) : State :=
  if (s.thr t).maintWait && (s.thr t).flight.isEmpty then
    (s.modThr t (fun x => { x with fault := none, rep := none, ev := { x.ev with recog := none, entering := none } })).toMaint t
  else s

/-- MAINT cleared. -/
def State.leaveMaint (s : State) (t : Tid) : State :=
  if (s.thr t).st = .maint then s.restart t else s.modThr t (fun x => { x with maintAtBell := false, maintWait := false })

/-- The bell of a thread's class is due and has not fired yet in this cycle. -/
def State.bellPending (s : State) (t : Tid) : Bool := match s.classOf t with | some b => s.bellDue b | none => false

/-- A change of MAINT: one that meets the bell of the thread's class acts after it (Table BEL-6). -/
def State.setMaint (s : State) (t : Tid) (on : Bool) : State :=
  if s.bellPending t then s.schedule s.now prioUnit (.thrMaint t on)
  else if on then s.enterMaint t else s.leaveMaint t

/-- Thread reset (R424, Table SUP-3). -/
def State.resetThread (s : State) (t : Tid) : State :=
  let s := (((s.stopThread t 6).endLeases (ownerThread t)).unwatchAll (.thread t)).modThr t (fun x => { x with ev := { }, resv := none })
  (s.restart t).settleBank t

/-- A write to THR_CTL: EN first, then HALT, MAINT, RESET and STEP. -/
def State.thrCtlWrite (s : State) (t : Tid) (v : Word) : State :=
  let old := s.reg (.thrCtl t)
  let s := s.setReg (.thrCtl t) (v &&& 0x13)
  let rises (i : Nat) : Bool := !bit old i && bit v i
  let falls (i : Nat) : Bool := bit old i && !bit v i
  let s := if rises 0 then s.enableThread t else if falls 0 then s.disableThread t else s
  let s := if rises 1 then s.haltThread t else if falls 1 then s.releaseHalt t else s
  let s := if rises 4 then s.setMaint t true else if falls 4 then s.setMaint t false else s
  let s := if bit v 3 then s.resetThread t else s
  if bit v 2 then s.stepThread t else s

/-- A write to THR_CTL that changes one field. -/
def State.thrCtlField (s : State) (a : Agent) (t : Tid) (mask : Word) (on : Bool) : State :=
  s.regWriteLow a (s.holds a kThread t.val) (fun s =>
    let old := s.reg (.thrCtl t) &&& 0x13
    s.thrCtlWrite t (if on then old ||| mask else old &&& ~~~mask))

/-! ### Configuration and context (R64, R65, R190) -/

/-- A write to THR_CFG. -/
def State.cfgWrite (s : State) (t : Tid) (v : Word) : State :=
  let cred := fieldN v 8 4
  if bit (s.reg (.thrCtl t)) 0 || decide (8 < cred) || decide (8 < s.credsum (barrelOf t) - s.hqCred t + cred) then
    s.modThr t (fun x => { x with cfgRefused := some s.now })
  else s.setReg (.thrCfg t) (v &&& 0xF1F)

/-- A product register with one half replaced. -/
def ThreadS.pxHalf (x : ThreadS) (n : Fin 4) (hi : Bool) (v : Word) : ThreadS :=
  let k := BitVec.ofNat 2 n.val
  let p := x.px k
  x.setPx k (if hi then join64 (lo32 p) v else join64 v (hi32 p))

/-- A write to the context table, where the thread is OFF or HALT. A write of the PC empties the queue, and no slot stays empty
for a change of flow before it (R65). -/
def State.ctxWrite (s : State) (t : Tid) (r : CtxReg) (v : Word) : State :=
  match (s.thr t).st with
  | .off | .halt => s.modAll t (fun x =>
      match r with
      | .pc => { x with pc := v.setWidth 16, pq := [], pcWritten := true, rep := none, skipSlots := 0, notBefore := 0, fetchFrom := 0 }
      | .fp => { x with fp := v.setWidth 19 }
      | .sp => { x with sp := v.setWidth 19 }
      | .sw => { x with sw := withPriv (v &&& swMask) (bit v 6 && s.privOk t) }
      | .pxlo n => x.pxHalf n false v
      | .pxhi n => x.pxHalf n true v)
  | _ => s.modThr t (fun x => { x with ctxRefused := some s.now })

/-- A write to THR_CEIL: LEVEL U forces PRIV to U at the end of the cycle (R190). -/
def State.ceilWrite (s : State) (t : Tid) (v : Word) : State :=
  let s := s.setReg (.thrCeil t) (v &&& 0x3)
  if bit v 0 then s else s.schedule s.now prioUnit (.privDown t)

/-! ### The commands -/

/-- SLOT_MAP_APPLY_REQUEST (R61). -/
def execSlotMapApplyRequest (a : Agent) (b : Barrel) (atBell : Bool) (bell : Bell) (s : State) :
    Host.Outcome State Fault Refusal := .next (s.regWriteLow a (s.isOwner a) (fun s => s.slotApply b atBell bell))

/-- SLOT_MAP_CANCEL (R61). -/
def execSlotMapCancel (a : Agent) (b : Barrel) (s : State) : Host.Outcome State Fault Refusal :=
  .next (s.regWriteLow a (s.isOwner a) (fun s => s.slotCancel b))

/-- SLOT_MAP_COPY (R61). -/
def execSlotMapCopy (b : Barrel) (s : State) : Host.Outcome State Fault Refusal := .next (s.slotCopy b)

/-- THREAD_ENABLE (R76). -/
def execThreadEnable (a : Agent) (t : Tid) (s : State) : Host.Outcome State Fault Refusal :=
  .next (s.thrCtlField a t 1 true)

/-- THREAD_DISABLE (R76). -/
def execThreadDisable (a : Agent) (t : Tid) (s : State) : Host.Outcome State Fault Refusal :=
  .next (s.thrCtlField a t 1 false)

/-- THREAD_HALT (R76). -/
def execThreadHalt (a : Agent) (t : Tid) (s : State) : Host.Outcome State Fault Refusal :=
  .next (s.thrCtlField a t 2 true)

/-- THREAD_HALT_RELEASE (R76). -/
def execThreadHaltRelease (a : Agent) (t : Tid) (s : State) : Host.Outcome State Fault Refusal :=
  .next (s.thrCtlField a t 2 false)

/-- THREAD_STEP (R76). -/
def execThreadStep (a : Agent) (t : Tid) (s : State) : Host.Outcome State Fault Refusal :=
  .next (s.thrCtlField a t 4 true)

/-- THREAD_RESET (R424). -/
def execThreadReset (a : Agent) (t : Tid) (s : State) : Host.Outcome State Fault Refusal :=
  .next (s.thrCtlField a t 8 true)

/-- THREAD_MAINT_ENTER (R76). -/
def execThreadMaintEnter (a : Agent) (t : Tid) (s : State) : Host.Outcome State Fault Refusal :=
  .next (s.thrCtlField a t 16 true)

/-- THREAD_MAINT_LEAVE (R76). -/
def execThreadMaintLeave (a : Agent) (t : Tid) (s : State) : Host.Outcome State Fault Refusal :=
  .next (s.thrCtlField a t 16 false)

/-- THR_CFG_WRITE (R64). -/
def execThrCfgWrite (a : Agent) (t : Tid) (v : Word) (s : State) : Host.Outcome State Fault Refusal :=
  .next (s.regWriteLow a (s.holds a kThread t.val) (fun s => s.cfgWrite t v))

/-- CONTEXT_WRITE (R65). -/
def execContextWrite (a : Agent) (t : Tid) (r : CtxReg) (v : Word) (s : State) : Host.Outcome State Fault Refusal :=
  .next (s.regWriteLow a (s.holds a kThread t.val) (fun s => s.ctxWrite t r v))

/-- THR_CEIL_WRITE (R190). -/
def execThrCeilWrite (a : Agent) (t : Tid) (v : Word) (s : State) : Host.Outcome State Fault Refusal :=
  .next (s.regWriteLow a (s.holds a kThread t.val) (fun s => s.ceilWrite t v))

/-- BUDGET_OVERRUN (R79): the monitor refuses the slot and raises the overrun in it. -/
def execBudgetOverrun (t : Tid) (s : State) : Host.Outcome State Fault Refusal :=
  .next (if s.slotUse t = .overrun then s.overrunIssue t else s)

end Sys2Proof.Machine
end

