-- ==== Sys2Proof/Machine/HallQueue.lean ====
section
/-! DEFINITION. The hall queues of the barrels: an entry is written, accepted by its bank in the barrel's phase and
performed there, and retires (R77, R81 to R85, R152, R153, R302, R303, R376, R379). -/

namespace Sys2Proof.Machine

/-- The bank of a hall address (R302). -/
def bankOfHall (a : BitVec 23) : Nat := hallBank a.toNat

/-- An entry is written into its queue. -/
def State.hqWrite (s : State) (b : Barrel) (e : HqEntry) : State :=
  s.modBar b (fun x =>
    let n := x.hq.length + 1
    { x with
      hq := x.hq ++ [{ e with written := s.now, seq := x.hqSeq }]
      hqSeq := x.hqSeq + 1
      hqHeadAt := if x.hq.all (fun y => y.retireAt.isSome) then s.now + 1 else x.hqHeadAt
      hqPeak := if x.hqPeak < n then n else x.hqPeak })

/-- An instruction's entry comes to its queue in its c6, or is the instruction's bus error there (R189). -/
def State.hqEnter (s : State) (b : Barrel) (k : Nat) (e : HqEntry) : State :=
  if s.hallBarred e then s.raiseAt e.thread k { cause := .bus, space := 3, faddr := e.addr.setWidth 32 } else s.hqWrite b e

/-- The entries of a queue up to its head: those a bank has accepted, the head, and the rest. -/
def hqSplit (l : List HqEntry) : List HqEntry × Option (HqEntry × List HqEntry) :=
  (l.takeWhile (fun e => e.retireAt.isSome),
   match l.dropWhile (fun e => e.retireAt.isSome) with
   | [] => none
   | e :: rest => some (e, rest))

/-- The bank of the head accepts it in this cycle: no earlier than the cycle after the entry reached the head, in the
barrel's phase of the bank, and one access of a bank in an SCLK (R83, R303). -/
def State.acceptDue (s : State) (b : Barrel) : Bool :=
  let x := s.bar b
  match hqSplit x.hq with
  | (_, some (e, _)) =>
    decide (x.hqHeadAt + 1 ≤ s.now) && decide (s.bankPhase (bankOfHall e.addr) = b.val) && s.bankFree (bankOfHall e.addr)
  | _ => false

/-- Cycles from acceptance to retirement (R83, R379). -/
def HqKind.time : HqKind → Nat
  | .hld => 12
  | .hlr => 12
  | .hsc => 12
  | .hst => 4
  | _ => 20

/-- A read of the entry's word meets an uncorrectable error (Table MEM-3); the secure region answers normally during a wipe
(R314). -/
def State.hqBad (s : State) (e : HqEntry) (f : Ecc) : Bool :=
  match e.kind with
  | .hst => false
  | _ => !(s.memS.wiping && secureAddr e.addr.toNat) && (decide (f = .uncorrectable) || s.poisoned instHall e.addr.toNat e.size)

/-- The watch that an HWATCH places. -/
def HqEntry.watch (e : HqEntry) : Watch := { who := .thread e.thread, addr := e.addr, input := e.data.setWidth 5 }

/-- What the bank does for an entry, with its result: R151 to R153 and the lock operations of R371. An HPASS, HFREE or
HWATCH of a thread that has been reset, disabled or locked up since does nothing (R376). -/
def State.hqPerform (s : State) (e : HqEntry) : DWord × State :=
  let a := e.addr.toNat
  let live := decide ((s.thr e.thread).life = e.life)
  let me := ownerThread e.thread
  match e.kind with
  | .hld => (BitVec.ofNat 64 (leNat (s.hallRead a e.size)), s)
  | .hst => (0, s.hallWrite a (leBytes e.data.toNat e.size))
  | .hlr => (s.lockRead a, s.modAll e.thread (fun x => { x with resv := some a }))
  | .hsc =>
    let held := decide ((s.thr e.thread).resv = some a)
    let s := if held then s.hallWrite a (leBytes e.data.toNat 8) else s
    (if held then 1 else 0, s.modAll e.thread (fun x => { x with resv := none }))
  | .hcas => let r := s.lockCas e.addr e.cmp e.data
             (r.1, r.2.2)
  | .hpass =>
    if live then
      let r := s.lockAcquire e.addr me (e.data.setWidth 32)
      (withRes r.1 r.2.1, if r.2.1 = 3 then r.2.2.modLockStat e.thread (fun x => { x with lfull := some s.now }) else r.2.2)
    else (0, s)
  | .hfree =>
    if live then
      let r := s.lockFree e.addr me
      (0, if r.2.1 = 0 then r.2.2 else r.2.2.modLockStat e.thread (fun x => { x with freemiss := some s.now }))
    else (0, s)
  | .hwatch =>
    if live then
      let r := s.lockWatch e.watch
      (0, if r.2.1 = 3 then r.2.2.modLockStat e.thread (fun x => { x with wfull := some s.now }) else r.2.2)
    else (0, s)

/-- The error that a bank access of an entry meets is counted and logged, and the word keeps its poison (R305, R306). -/
def State.hqNote (s : State) (e : HqEntry) (f : Ecc) : State :=
  let a := eccWord instHall e.addr.toNat
  if e.kind = .hst then s
  else if s.hqBad e f then (s.spoil instHall a).logError true instHall 1 a (agThread e.thread)
  else match f with
    | .corrected => s.correctable instHall 1 a (agThread e.thread)
    | _ => s

/-- What an entry does whose word holds an uncorrectable error: nothing is written, and any HSC and the next HLR of its thread
end the reservation (R152, Table INS-14). -/
def State.hqSpoilt (s : State) (e : HqEntry) : State :=
  match e.kind with
  | .hlr | .hsc => s.modAll e.thread (fun x => { x with resv := none })
  | _ => s

/-- The cycle in which the entry behind an entry accepted now reaches the head: this one, but not the one in which it was
itself written (R83, R84). -/
def nextHead (now : Nat) : List HqEntry → Nat
  | e :: _ => if now ≤ e.written then e.written + 1 else now
  | [] => now

/-- HALL_ENTRY_ACCEPT: the bank accepts the head and performs it; an uncorrectable error in its word is a bus error on the
entry. -/
def State.hqAccept (s : State) (b : Barrel) (f : Ecc) : State :=
  if s.acceptDue b then
    match hqSplit (s.bar b).hq with
    | (done, some (e, rest)) =>
      let bad := s.hqBad e f
      let r := if bad then (0, s.hqSpoilt e) else s.hqPerform e
      (((r.2.hqNote e f).useBank (bankOfHall e.addr))).modBar b (fun x => { x with
        hq := done ++ { e with retireAt := some (s.now + e.kind.time), result := r.1, busErr := bad } :: rest
        hqHeadAt := nextHead s.now rest })
    | _ => s
  else s

/-- The oldest entry whose retire cycle has come. -/
def State.retiring (s : State) (b : Barrel) : Option HqEntry :=
  (s.bar b).hq.find? (fun e => match e.retireAt with | some c => decide (c ≤ s.now) | none => false)

/-- The thread leaves HWAIT once nothing of it is outstanding (R85, R154). -/
def State.endHwait (s : State) (t : Tid) : State :=
  if s.outstanding t = 0 then
    s.modAll t (fun x =>
      if x.st = .hwait then { x with st := .run }
      else if x.beforeHalt = .hwait then { x with beforeHalt := .run } else x)
  else s

/-- An error response (R85, R201, Table EVT-13): the fault waits for the thread's slot, is recorded for the current period
of a thread in HANDED, or is dropped, as it is outside the member's open period and in the cycle of its bell (R213). -/
def State.hqError (s : State) (b : Barrel) (e : HqEntry) : State :=
  let t := e.thread
  let x := s.thr t
  let drop := s.modBar b (fun y => { y with dropErr := some s.now })
  if e.epoch ≠ x.epoch ∨ ((s.classOf t).isSome ∧ (x.per.isOpen = false ∨ s.bellPending t = true)) then drop
  else match x.st with
    | .run | .wait | .hwait | .halt => s.modAll t (fun x => { x with heldBus := x.heldBus ++ [e.addr.setWidth 32] })
    | .handed => s.setFaulted t
    | _ => drop

/-- A hall result on its way: it lands at the end of the second cycle after its entry retired, in desk before the pipeline's
writes of that cycle (R83, R300), and in a product register in the order of the instructions (R131). R83 states the cycle for
a desk destination; the model takes it for slate and product registers too (log entry 45, DESIGN CHOICE). -/
def State.hallResult (s : State) (e : HqEntry) (d : Dest) : State :=
  let prio := match d.loc with | .px _ _ => prioPipe | _ => prioHall
  { s with agenda := agendaInsert { due := s.now + 2, prio := prio, thread := some e.thread, issuedAt := e.issued, hall := true
                                    eff := .store d e.result } s.agenda }

/-- HALL_ENTRY_RETIRE: the result is on its way to its destination, unless its thread has restarted or been stopped (R77). -/
def State.hqRetire (s : State) (b : Barrel) : State :=
  match s.retiring b with
  | none => s
  | some e =>
    let s := s.modBar b (fun x => { x with hq := x.hq.filter (fun y => decide (y.seq ≠ e.seq)) })
    let s :=
      if e.busErr then s.hqError b e
      else match e.dest with
        | some d => if e.epoch = (s.thr e.thread).epoch then s.hallResult e d else s
        | none => s
    s.endHwait e.thread

/-- HALL_ENTRY_ACCEPT (R83). -/
def execHallEntryAccept (b : Barrel) (e : Ecc) (s : State) : Host.Outcome State Fault Refusal := .next (s.hqAccept b e)

/-- HALL_ENTRY_RETIRE (R83). -/
def execHallEntryRetire (b : Barrel) (s : State) : Host.Outcome State Fault Refusal := .next (s.hqRetire b)

end Sys2Proof.Machine
end

