-- ==== Sys2Proof/Machine/Events.lean ====
section
/-! DEFINITION. Software sources, the event map, and the issues of event and fault entries as commands (R157, R159, R162,
R164, R172, R173, R180, R182). -/

namespace Sys2Proof.Machine

/-- EVT_SWSET: every source written as 1 that lies in the writer's partition fires (R157). -/
def State.swset (s : State) (a : Agent) (v : Word) : State :=
  (List.range 32).foldl (fun s i => if bit v i && s.holds a kSoft i then s.pulse i else s) s

/-- Clear the pending and lost bits of a thread by masks: a bit that a pulse of this cycle sets stays set (R159). -/
def State.clearEvents (s : State) (t : Tid) (pend lost : Word) : State :=
  s.modEvAll t (fun e =>
    let e := e.inCycle s.now
    let gone := pend &&& ~~~e.pulse
    { e with pend := e.pend &&& ~~~gone, wiped := e.wiped ||| (e.pend &&& gone), lost := e.lost &&& ~~~(lost &&& ~~~e.lostNew) })

/-- A write to EVT_MAP (R162): a source outside the writer's partition stores 0x7FF. -/
def State.mapWrite (s : State) (a : Agent) (t : Tid) (i : Fin 32) (v : Word) : State :=
  let src : BitVec 11 := v.setWidth 11
  let own := match s.agentPart a with | some p => s.sourceIn p src.toNat | none => false
  let s := { s with evmap := mput ((0x7FF : BitVec 11), (0 : BitVec 2)) s.evmap (32 * t.val + i.val)
                      (if own then src else 0x7FF, (v >>> 11).setWidth 2) }
  s.modEvAll t (fun e => { e with pend := e.pend &&& ~~~(bitw i.val), lost := e.lost &&& ~~~(bitw i.val) })

/-- EVT_SWSET_WRITE (R157). -/
def execEvtSwsetWrite (a : Agent) (v : Word) (s : State) : Host.Outcome State Fault Refusal :=
  .next (s.regWriteLow a true (fun s => s.swset a v))

/-- EVT_MAP_WRITE (R162). -/
def execEvtMapWrite (a : Agent) (t : Tid) (i : Fin 32) (v : Word) (s : State) : Host.Outcome State Fault Refusal :=
  .next (s.regWriteLow a (s.holds a kThread t.val) (fun s => s.mapWrite a t i v))

/-- EVENT_ENTRY (R172): an entry issue, a claim or a chain's claim in the thread's slot. -/
def execEventEntry (t : Tid) (s : State) : Host.Outcome State Fault Refusal :=
  .next (if s.slotUse t = .event then s.eventIssue t else s)

/-- FAULT_ENTRY (R182): an issue of a fault or hard-fault entry in the thread's slot. -/
def execFaultEntry (t : Tid) (s : State) : Host.Outcome State Fault Refusal :=
  .next (if s.slotUse t = .fault then s.faultIssue t else s)

end Sys2Proof.Machine
end

