-- ==== Sys2Proof/Machine/Bells.lean ====
section
/-! DEFINITION. The bell timers: start, stop, schedule changes, and what a bell decides, commits, discards and releases
(R61, R192 to R213, R228, R233, R240, R399, R402). -/

namespace Sys2Proof.Machine

/-! ### Start, stop, schedule (R193 to R196) -/

/-- A period that a bell may have. -/
def periodOk (p : Word) : Bool := decide (1200 ≤ p.toNat) && decide (p.toNat ≤ 1200000000)

/-- The smallest n with START + n PERIOD ≥ a time. -/
def firstBell (start period from_ : Nat) : Nat := if from_ ≤ start then 0 else ceilDiv (from_ - start) period

/-- START of a bell. -/
def State.bellStart (s : State) (b : Bell) : DWord := join64 (s.reg (.belStartLo b)) (s.reg (.belStartHi b))

/-- A bell's next bell is number `n`, at a time counted from the start of TBASE's present lap. -/
def State.setNext (s : State) (b : Bell) (n : DWord) (time : Nat) : State :=
  s.modBell b (fun x => { x with nextNum := n, next := BitVec.ofNat 64 time, lap := s.lap + ((time / 2 ^ 64 : Nat) : Int) })

/-- A bell is set to the first bell at or after a TBASE value. -/
def State.aimBell (s : State) (b : Bell) (from_ : Nat) : State :=
  let start := (s.bellStart b).toNat
  let period := (s.reg (.belPeriod b)).toNat
  let n := firstBell start period from_
  s.setNext b (BitVec.ofNat 64 n) (start + n * period)

/-- A write that sets EN. -/
def State.startBell (s : State) (b : Bell) : State :=
  let x := s.bell b
  if x.stopping then s.setBell b { x with err := 2 }
  else if x.running then s
  else if !periodOk (s.reg (.belPeriod b)) then s.setBell b { x with err := 1 }
  else (s.setBell b { x with en := true, running := true, err := 0 }).aimBell b (s.tbase.toNat + 16)

/-- A write that clears EN. -/
def State.stopBell (s : State) (b : Bell) : State :=
  s.modBell b (fun x => if x.running && !x.stopping then { x with en := false, stopping := true, err := 0 } else x)

/-- APPLY (R196). -/
def State.applyBell (s : State) (b : Bell) : State :=
  let x := s.bell b
  if !x.running || x.stopping || x.apply.isSome then s.setBell b { x with err := 2 }
  else if !periodOk (s.reg (.belSperiod b)) then s.setBell b { x with err := 1 }
  else
    let at1 := s.reg (.belApplyat b)
    s.setBell b { x with
      err := 0
      apply := some { period := s.reg (.belSperiod b), start := join64 (s.reg (.belSstartLo b)) (s.reg (.belSstartHi b))
                      at_ := at1, nextBell := decide (2 ^ 31 ≤ (at1 - (lo32 x.num + 1)).toNat) } }

/-- A write to BEL_CTL: the change of EN first, then APPLY unless that change was refused. -/
def State.belCtlWrite (s : State) (b : Bell) (en apply : Bool) : State :=
  let x := s.bell b
  let s1 := if en && !x.en then s.startBell b else if !en && x.en then s.stopBell b else s
  let refused := en && !x.en && !(s1.bell b).en
  if apply && !refused then s1.applyBell b else s1

/-- A write to BEL_PERIOD or BEL_START: ignored while the bell runs. -/
def State.scheduleWrite (s : State) (b : Bell) (r : Reg) (v : Word) : State :=
  if (s.bell b).running then s.modBell b (fun x => { x with err := 3 }) else s.storeRw r v

/-- The status word of BSTAT (Table BEL-7). -/
def State.bstatWord (s : State) (t : Tid) (b : Bell) : Word :=
  let x := s.bell b
  let out := (s.thr t).per.lastOut.toNat
  let left := (s.bellGap b).toNat / 64
  put 16 (x.num.toNat % 65536) ||| flagAt 15 x.running |||
  flagAt 14 (decide (s.classOf t = some b) && decide (2 ≤ out) && decide (out ≤ 7)) |||
  (if x.running then put 0 (if 0x3FFF ≤ left then 0x3FFF else left) else 0)

/-! ### Commits (R202 to R206, Table BEL-5) -/

/-- One staged item commits in the bell cycle: a pin as a port write, a compare value as an immediate write of the
previous cycle, a reload as a direct write of the previous cycle. -/
def State.commitItem (s : State) : Staged → State
  | .pin c v => s.latchTo c v
  | .compare u c f => (s.schedule (s.now - 1) prioUnit (.preload u c f)).schedule s.now prioActive (.unitActive u c f)
  | .reload n v => s.landReload n v
  | .edge c time lvl => s.schedule s.now prioUnit (.eqAppend c time lvl)
  | .post r p cell => s.commitPost r p cell

/-- A direct reload write of the bell's own cycle gives way to the reload that a member commits in it (R206, Table BEL-6). -/
def State.reloadLast (s : State) (t : Tid) : State :=
  { s with agenda := s.agenda.filter (fun x => match x.eff with
    | .reload n _ => !(decide (x.due = s.now) && s.reloadUndo.any (fun e => decide (e.1 = t) && decide (e.2.1 = n)))
    | _ => true) }

/-- A period that commits: its staged items in issue order, the slate selectors, the record. -/
def State.commit (s : State) (t : Tid) (n : Word) : State :=
  let items := (s.staged.filter (fun e => decide (e.1 = t))).map (·.2)
  (items.foldl State.commitItem ((s.unstage t).reloadLast t)).modThr t (fun x => { x with
    sel := x.sel ^^^ x.dirty, dirty := 0, handover := false, takeback := false
    per := { x.per with isOpen := false, handin := false, faulted := false, lastOut := 1, commits := x.per.commits + 1, num := n } })

/-- The period of a thread will commit at the bell (R199). -/
def Thread.commits (x : Thread) : Bool := x.per.isOpen && x.per.handin && !x.per.faulted && !x.overrun

/-- The cause of a discard at the bell, in the order of R199. -/
def Thread.cause (x : Thread) : BitVec 4 :=
  if x.st = .lockup then 5 else if x.overrun then 4 else if x.per.faulted then 3 else 2

/-- A discard at a bell (R207). -/
def State.bellDiscard (s : State) (b : Bell) (t : Tid) (n : Word) : State :=
  let c := (s.thr t).cause
  ((((s.cancelAll t).discard t c).modPer t (fun p => { p with num := n })).modBell b
    (fun x => { x with discards := x.discards + 1 })).pulse (0x020 + t.val)

/-- The outcome of one member at its bell (R199, R208, R209). -/
def State.outcomeAt (s : State) (b : Bell) (t : Tid) (n : Word) : State :=
  let x := s.thr t
  if x.decidedAt = some s.now then s
  else if x.st = .lockup then s.bellDiscard b t n
  else if !x.per.isOpen then s
  else if x.commits then (s.commit t n).modBell b (fun y => { y with commits := y.commits + 1 })
  else s.bellDiscard b t n

/-! ### Release (R195, Table BRL-16) -/

/-- A member waits for a bell of its class. -/
def State.holdThread (s : State) (t : Tid) : State :=
  s.modThr t (fun x => { x with
    st := .held, fault := none, rep := none, heldBus := []
    ev := { x.ev with recog := none, entering := none } })

/-- What a bell does with a member after its decision. A member that is leaving HALT counts as having left it. -/
def State.release (s : State) (t : Tid) (stopping : Bool) : State :=
  let x := s.thr t
  if x.decidedAt = some s.now then s
  else match x.st with
    | .held | .handed | .run | .wait | .hwait =>
      if x.maintAtBell && decide (x.st ≠ .held) then
        (s.holdThread t).toMaint t
      else if stopping then s.holdThread t
      else s.periodEntry t
    | .halt =>
      (match x.releaseFrom with
       | some c =>
         let s := s.modThr t (fun y => { y with releaseFrom := none })
         if stopping then s.holdThread t
         else (s.periodEntry t).modThr t (fun y => { y with notBefore := c, emptyFree := true })
       | none => s.modThr t (fun y => { y with bellPassed := true }))
    | _ => s

/-! ### Activation and fall-back at a bell (R398, R399, R402) -/

/-- Bell times beyond the next one that TBASE has passed (R197). -/
def State.bellSkips (s : State) (b : Bell) : Nat :=
  (-(s.bellGap b)).toNat / (if (s.reg (.belPeriod b)).toNat = 0 then 1 else (s.reg (.belPeriod b)).toNat)

/-- The time of the bell that fires now, from the start of TBASE's present lap. -/
def State.bellFires (s : State) (b : Bell) (skips : Nat) : Int :=
  (s.tbase.toNat : Int) + s.bellGap b + skips * (s.reg (.belPeriod b)).toNat

/-- The bell after the one that fires now. -/
def State.nextBell (s : State) (b : Bell) (skips : Nat) (n : DWord) : State :=
  let t := s.bellFires b skips + (s.reg (.belPeriod b)).toNat
  s.modBell b (fun x => { x with nextNum := n + 1, next := BitVec.ofInt 64 t, lap := s.lap + t / 2 ^ 64 })

/-- The number of the bell that fires now. -/
def State.bellNumber (s : State) (b : Bell) : DWord := (s.bell b).nextNum + BitVec.ofNat 64 (s.bellSkips b)

/-- Every thread gets a switch to make; those that have no period entry to come make it at once, and a locked-up one is reset. -/
def State.switchAll (s : State) (todo : Thread → SwitchTodo) : State :=
  let s := (List.finRange 128).foldl (fun s t => s.modThr t (fun x => { x with todo := todo x })) s
  (List.finRange 128).foldl (fun s t =>
    if (s.thr t).st = .lockup then (if (s.thr t).todo = .none then s else s.resetThread t) else s.settleBank t) s

/-- The activation instant. -/
def State.activate (s : State) (o : Order) : State :=
  let s := ((s.record 4 (BitVec.ofNat 4 o.cls.val) o.bell).modUpd (fun u => { u with
    stage := .switching, switchAt := s.bellTime o.cls o.bell
    confirmBy := some (wallEnd s.mhz s.now (1000000 * fieldN (s.reg .updCfg) 16 16)) })).outcome 5 0
  s.switchAll (fun _ => .toNew)

/-- The fall-back. -/
def State.fallBack (s : State) (o : Order) (n : DWord) : State :=
  let after := s.upd.beginAfter
  let s := ((s.record 6 (BitVec.ofNat 4 o.cls.val) n).modUpd (fun u => { u with
    stage := .verified, order := none, fallback := none, confirmBy := none, beginAfter := none, outcome := 6, cause := 0 })).pulse 0x7EE
  let s := s.switchAll (fun x => if x.todo = .toNew then .none else .toOld)
  match after with
  | some (id, len) => s.startDownload id len
  | none => s

/-- What the update controller does at a bell of the order's class. -/
def State.updInstant (s : State) : State :=
  match s.upd.order with
  | none => s
  | some o =>
    if s.bellDue o.cls then
      let n := s.bellNumber o.cls
      match s.upd.stage with
      | .armed =>
        if n.toNat < o.bell.toNat then (if (s.bell o.cls).stopping then s.voidOrder 0x80 else s)
        else if s.refusals ≠ 0 then s.voidOrder s.refusals
        else if !s.upd.copyDone then s.voidOrder 0x20
        else if s.upd.copyErr then s.voidOrder 0x40
        else s.activate o
      | .switching | .provisional =>
        (match s.upd.fallback with
         | some f => if f.bell.toNat ≤ n.toNat then s.fallBack o n else s
         | none => s)
      | _ => s
    else s

/-! ### The bell (R192, R197, R206) -/

/-- The first bell after a start: BLOCK_UP, the report card, a verification that power loss interrupted, and a warm reset
that waited (R45, R46, R405, R431). -/
def State.blockUp (s : State) : State :=
  if s.sys.blockUp || decide (s.sys.phase ≠ .up) then s
  else
    let wait := s.sys.warmPend
    let s := ({ s with
      sys := { s.sys with blockUp := true }
      drill := { s.drill with startUs := BitVec.ofNat 32 (cyclesUs s.mhz (s.now - s.drill.startAt)) } } : State).cardSoon
    let s := if s.upd.reverify then s.beginVerify.modUpd (fun u => { u with reverify := false }) else s
    let s : State := { s with sys := { s.sys with coldBoot := false, warmPend := false } }
    if s.sys.warmByReg || (wait && s.sys.rstWarm) then s.schedule s.now prioUnit (.warmDue s.sys.warmByReg) else s

/-- Staged function switches that name the class (R233). -/
def State.bellSwitches (s : State) (b : Bell) : State :=
  (s.pins.map (·.1)).foldl (fun s k =>
    let c := fin 512 k
    match (s.pin c).pend with
    | some (set, cls) => if cls = b then (s.modPin c (fun p => { p with pend := none })).switchTo c set else s
    | none => s) s

/-- Slot maps at a bell: those that are due take effect, and a stop removes the rest (R61). -/
def State.bellMaps (s : State) (b : Bell) (stopping : Bool) : State :=
  ([0, 1, 2, 3] : List Barrel).foldl (fun s r =>
    let s := s.slotCopy r
    match (s.bar r).pending with
    | some p => if stopping && decide (p.bell = some b) then (s.modBar r (fun x => { x with pending := none, err := 3 })).gateNow r else s
    | none => s) s

/-- Pads that leave the reset hold, and calibration swaps (R228, R240, R241). -/
def State.bellPads (s : State) (b : Bell) : State :=
  let s := if decide (s.sys.phase = .up) && (s.padHold || s.pins.any (fun e => e.2.hold)) then s.schedule (s.now + 2) prioUnit (.padsUnhold [b.val]) else s
  (s.swapGroups [b.val]).foldl (fun s g => (s.schedule s.now prioUnit (.calSwap g)).schedule (s.now + 3) prioUnit (.calSettle g)) s

/-- The bell timer after its bell: the stop, the schedule change, or the next bell time. -/
def State.bellNext (s : State) (b : Bell) (skips : Nat) (n : DWord) : State :=
  let x := s.bell b
  if x.stopping then
    s.setBell b { x with running := false, stopping := false, apply := none, err := if x.apply.isSome then 2 else x.err }
  else match x.apply with
    | some a =>
      if a.nextBell || decide ((lo32 n - a.at_).toNat ≤ skips) then
        let time := s.bellFires b skips
        (((((s.setReg (.belPeriod b) a.period).setReg (.belStartLo b) (lo32 a.start)).setReg (.belStartHi b) (hi32 a.start)).setBell b
          { x with apply := none }).aimBell b (time + 1200).toNat)
      else s.nextBell b skips n
    | none => s.nextBell b skips n

/-- The members of a class, ascending. -/
def State.members (s : State) (b : Bell) : List Tid := (List.finRange 128).filter (fun t => decide (s.classOf t = some b))

/-- BELL_FIRE. A stop or a schedule change that has reached the bell timer by the bell's own cycle counts for that bell (R195 and
R196 leave that cycle open; log entry 45, DESIGN CHOICE). -/
def State.bellFire (s : State) (b : Bell) : State :=
  if s.bellDue b then
    let s := s.updInstant
    let skips := s.bellSkips b
    let n := s.bellNumber b
    let stopping := (s.bell b).stopping
    let s := (s.modBell b (fun x => { x with num := n, commits := 0, discards := 0, skip := x.skip + BitVec.ofNat 32 skips })).pulse (0x680 + b.val)
    let s := (s.members b).foldl (fun s t => s.outcomeAt b t (lo32 n)) s
    let s := (s.bellMaps b stopping).bellSwitches b
    let s := (s.members b).foldl (fun s t => s.release t stopping) s
    (((s.bellPads b).blockUp).bellNext b skips n)
  else s

/-! ### The commands -/

/-- BELL_START (R194). -/
def execBellStart (a : Agent) (b : Bell) (s : State) : Host.Outcome State Fault Refusal :=
  .next (s.regWrite a (s.holds a kBell b.val) (fun s => s.belCtlWrite b true false))

/-- BELL_STOP (R195). -/
def execBellStop (a : Agent) (b : Bell) (s : State) : Host.Outcome State Fault Refusal :=
  .next (s.regWrite a (s.holds a kBell b.val) (fun s => s.belCtlWrite b false false))

/-- BELL_SCHEDULE_APPLY (R196). -/
def execBellScheduleApply (a : Agent) (b : Bell) (en : Bool) (s : State) : Host.Outcome State Fault Refusal :=
  .next (s.regWrite a (s.holds a kBell b.val) (fun s => s.belCtlWrite b en true))

/-- BELL_FIRE (R192). -/
def execBellFire (b : Bell) (s : State) : Host.Outcome State Fault Refusal := .next (s.bellFire b)

end Sys2Proof.Machine
end

