-- ==== Sys2Proof/Machine/Dma.lean ====
section
/-! DEFINITION. DMA channels and engines: commands, descriptors, reads, completions and bus errors (R323 to R339, R349). -/

namespace Sys2Proof.Machine

/-! ### Targets of a DMA address (R323) -/

/-- What a DMA address reaches (Table DMA-1). -/
inductive DmaTarget where
  | sys
  | regRead (off : Nat)
  | reg (off : Nat)
  | desk (b : Barrel) (a : Nat)
  | hall (a : Nat)
  | refused
  deriving DecidableEq, Repr

/-- The target of a DMA address. -/
def dmaTarget (addr : Nat) : DmaTarget :=
  if addr < 0xFFFFFF000000 then .sys
  else
    let o := addr - 0xFFFFFF000000
    if o < 0x060000 then .regRead o
    else if o < 0x200000 then .reg o
    else if o < 0x240000 then .desk (fin 4 ((o - 0x200000) / 0x10000)) (o % 0x10000)
    else if o < 0x800000 then .refused
    else if o < 0xFC0000 then .hall (o - 0x800000)
    else .refused

/-- A DMA address from a number: the space is 48 bits wide. -/
def dmaAddr (n : Int) : BitVec 48 := BitVec.ofInt 48 n

/-- The requests of a range: its 32-byte beats, one or two to a 64-byte aligned block (R324, R339). -/
def blockReqs (a n : Nat) : List (BitVec 48 × Nat) :=
  if n = 0 then [] else
  let lo := a / 32
  let hi := (a + n - 1) / 32
  (List.range (hi / 2 + 1 - lo / 2)).map (fun k =>
    let f := max lo (2 * (lo / 2 + k))
    let l := min hi (2 * (lo / 2 + k) + 1)
    (BitVec.ofNat 48 (32 * f), l + 1 - f))

/-! ### Descriptors (R325, R326) -/

/-- Bits `[hi:lo]` of a 64-bit word, given `lo` and their number. -/
def dfield (w : DWord) (lo n : Nat) : Nat := (w.toNat / 2 ^ lo) % 2 ^ n

/-- The shuffle of the descriptor held. -/
def EngineS.shuf (x : EngineS) : Nat := dfield x.d0 61 3
/-- Element size. -/
def EngineS.esize (x : EngineS) : Nat := 2 ^ dfield x.d0 59 2
/-- The source is a ring. -/
def EngineS.skind (x : EngineS) : Bool := x.d0.getLsbD 58
/-- The destination is a ring. -/
def EngineS.dkind (x : EngineS) : Bool := x.d1.getLsbD 63
/-- Source address. -/
def EngineS.src (x : EngineS) : Nat := dfield x.d0 0 48
/-- Destination address. -/
def EngineS.dst (x : EngineS) : Nat := dfield x.d1 0 48
/-- Rows, or streams. -/
def EngineS.rows (x : EngineS) : Nat := dfield x.d2 20 12 + 1
/-- Bytes per row. -/
def EngineS.len (x : EngineS) : Nat := dfield x.d2 0 20
/-- Bytes of the descriptor. -/
def EngineS.total (x : EngineS) : Nat := x.rows * x.len
/-- A pitch in bytes: a signed count of 8-byte units. -/
def pitch (w : DWord) (lo : Nat) : Int := 8 * (BitVec.ofNat 16 (dfield w lo 16)).toInt
/-- S(r). -/
def EngineS.srcRow (x : EngineS) (r : Nat) : Nat := (dmaAddr (x.src + pitch x.d2 32 * r)).toNat
/-- D(r). -/
def EngineS.dstRow (x : EngineS) (r : Nat) : Nat := (dmaAddr (x.dst + pitch x.d2 48 * r)).toNat
/-- END. -/
def EngineS.isEnd (x : EngineS) : Bool := x.d3.getLsbD 0
/-- BARRIER. -/
def EngineS.barrier (x : EngineS) : Bool := x.d3.getLsbD 3
/-- The address of the next descriptor. -/
def nextOf (d3 : DWord) : BitVec 48 := BitVec.ofNat 48 (32 * dfield d3 5 43)

/-- A descriptor is in error (R326). -/
def EngineS.descBad (x : EngineS) : Bool :=
  decide (dfield x.d0 48 10 ≠ 0) || decide (dfield x.d1 48 15 ≠ 0) || decide (dfield x.d3 59 4 ≠ 0) || x.d3.getLsbD 4 ||
  decide (5 ≤ x.shuf) || decide (x.len = 0) ||
  (decide (x.shuf = 1 ∨ x.shuf = 2) && (decide (x.rows < 2) || decide (32 < x.rows) || decide (x.len % x.esize ≠ 0))) ||
  (decide (x.shuf = 3) && decide (x.len % 8 ≠ 0)) || (decide (x.shuf = 4) && decide (x.len % 128 ≠ 0)) ||
  ((x.skind || x.dkind) && (decide (x.shuf ≠ 0) || decide (x.len % 64 ≠ 0))) || (x.skind && x.dkind)

/-! ### States, events and bus errors -/

/-- The channel an engine runs. -/
def State.curCh (s : State) (e : Engine) : DmaCh := chOf e (s.eng e).cur.toNat

/-- The engine of a channel. -/
def engOf (ch : DmaCh) : Engine := ⟨ch.val / 16, by omega⟩

/-- A channel's event. -/
def State.chPulse (s : State) (ch : DmaCh) : State := s.pulse (0x6D0 + ch.val)

/-- A channel enters ENDED, ABORTED, DERR or STOPPED, which pulses its event. -/
def State.chEnter (s : State) (ch : DmaCh) (st : ChState) : State :=
  (s.modCh ch (fun x => { x with st := st, aborting := false, grant := false })).chPulse ch

/-- An engine becomes free: what its reads still bring is discarded. -/
def State.engFree (s : State) (e : Engine) : State :=
  s.modEng e (fun x => { x with st := .idle, work := .none, phase := .none, reads := [], wrts := [], serial := x.serial + 1
                                ringWait := false, cell := none, freeAt := some s.now
                                ahead := x.ahead.filter (fun a => decide (a.ch ≠ x.cur)) })

/-- A post that a burst has reserved and not made gives its slot and cell back. -/
def State.unreserve (s : State) (e : Engine) : State :=
  let x := s.eng e
  if x.work = .move ∧ x.phase = .reading ∧ x.dkind then
    let r : Ring := fin 8192 (x.dst % 8192)
    let s := match x.cell with | some (p, i) => s.freeCellOf (fin 8 p.toNat) i | none => s
    s.modRing r (fun y => { y with rsv := y.rsv - 1 })
  else s

/-- An engine takes a bus error (R334): from then on it issues no request and is STOPPING. A later error changes nothing. -/
def State.busError (s : State) (e : Engine) (err : BusErr) (ch : BitVec 4) : State :=
  if (s.eng e).st = .stopping ∨ (s.eng e).st = .stopped then s
  else (s.unreserve e).modEng e (fun x => { x with
    st := .stopping, work := .none, phase := .none, reads := [], wrts := [], ringWait := false, cell := none
    ahead := none, err := some err, errValid := true, errCh := ch })

/-- Phases of DMA_BERRI. -/
def EngWork.errPhase : EngWork → BitVec 3
  | .fetch => 0
  | .recheckAt _ => 4
  | .recheckData => 4
  | _ => 2

/-- An error of the engine's current work at an address of the block itself. -/
def State.ownError (s : State) (e : Engine) (phase kind : BitVec 3) (addr : Nat) : State :=
  s.busError e { phase := phase, kind := kind, chv := true, addr := BitVec.ofNat 48 addr, port := false, tag := 0 } (s.eng e).cur

/-! ### Reads -/

/-- A register window beat: every register it covers is read; none where one is outside the rights or reserved. -/
def State.dmaRegs (s : State) (ch : DmaCh) (off : Nat) : Option (List Byte × State) :=
  let a : Agent := .dma ch
  (List.range 8).foldl (fun acc i =>
    match acc with
    | none => none
    | some (l, s) =>
      let o := off + 4 * i
      if reservedOff o then none
      else match decodeReg (s.bankOf a) o with
        | none => some (l ++ [0, 0, 0, 0], s)
        | some r => if s.readable a r then some (l ++ leBytes (s.view a r).toNat 4, s.readEffect a r) else none)
    (some ([], s))

/-- A channel may reach 32 bytes of hall (R25, R323). -/
def State.dmaHallMay (s : State) (ch : DmaCh) (a : Nat) : Bool :=
  match s.agentPart (.dma ch) with | some p => s.hallRangeIn p a 32 | none => false

/-- What an access of an engine carries as its tag: the serial number of the descriptor under way, and whether it fetches
ahead. -/
def EngineS.portTag (x : EngineS) (ahead : Bool) : Nat := 2 * x.serial + (if ahead then 1 else 0)

/-- The line, or the granules, that a read request of a channel inside the memories waits for: they are presented in the next
SCLK (log entry 46, DESIGN CHOICE). -/
def State.dmaPorts (s : State) (ch : DmaCh) (ahead : Bool) (q : BitVec 48 × Nat) : List PortReq :=
  let base : PortReq := { desk := none, unit := 0, user := .dma ch, acc := .read, from_ := sclkAfter s.now
                          tag := (s.eng (engOf ch)).portTag ahead, off := 0, len := 16 }
  match dmaTarget q.1.toNat with
  | .desk b a => [{ base with desk := some b, unit := a / 64, off := a % 64, len := 32 * q.2 }]
  | .hall a => (List.range (2 * q.2)).map (fun i => { base with unit := a / 16 + i })
  | _ => []

/-- The DMA address of the first byte of an access that waits. -/
def PortReq.dmaAddr (p : PortReq) : Nat :=
  match p.desk with
  | some b => 0xFFFFFF200000 + 0x10000 * b.val + 64 * p.unit + p.off
  | none => 0xFFFFFF800000 + 16 * p.unit

/-- Read the beats of one register request. -/
def State.readRegs (s : State) (e : Engine) (q : BitVec 48 × Nat) (off : Nat) : State :=
  (List.range q.2).foldl (fun s i =>
    let a := q.1.toNat + 32 * i
    if (s.eng e).st ≠ .running then s
    else match s.dmaRegs (s.curCh e) (off + 32 * i) with
      | some (l, s) => s.modEng e (fun x => { x with rbuf := pokes x.rbuf a l, dataAt := s.now })
      | none => s.ownError e (s.eng e).work.errPhase 2 a) s

/-- Read the beats of one request: registers at once, the memories through their shared ports, and system memory through the
initiator port. -/
def State.readReq (s : State) (e : Engine) (q : BitVec 48 × Nat) : State :=
  let ch := s.curCh e
  if (s.eng e).st ≠ .running then s
  else match dmaTarget q.1.toNat with
    | .sys => s.modEng e (fun x => { x with reads := x.reads ++ [q] })
    | .regRead o => s.readRegs e q o
    | .reg o => s.readRegs e q o
    | .desk _ _ => { s with ports := s.ports ++ s.dmaPorts ch false q }
    | .hall a =>
      (match (List.range q.2).find? (fun i => !s.dmaHallMay ch (a + 32 * i)) with
       | some i => s.ownError e (s.eng e).work.errPhase 2 (q.1.toNat + 32 * i)
       | none => { s with ports := s.ports ++ s.dmaPorts ch false q })
    | .refused => s.ownError e (s.eng e).work.errPhase 2 q.1.toNat

/-- Begin to read ranges. -/
def State.beginReads (s : State) (e : Engine) (l : List (Nat × Nat)) : State :=
  let s := s.modEng e (fun x => { x with phase := .reading, rbuf := [], reads := [] })
  (l.flatMap (fun r => blockReqs r.1 r.2)).foldl (fun s q => s.readReq e q) s

/-- Issue the next read of an engine, where its port takes it now. -/
def State.issueRead (s : State) (e : Engine) : State :=
  match (s.eng e).reads with
  | [] => s
  | (a, n) :: rest =>
    match s.mayIssue e.val with
    | none => s
    | some tag =>
      (s.modEng e (fun x => { x with reads := rest })).issueReq
        { tag := tag, port := s.engPort e, user := .chan (s.curCh e) (s.eng e).serial, write := false, addr := a, beats := n, data := []
          phase := (s.eng e).work.errPhase }

/-- A read of an access that waits. -/
def PortReq.isRead (p : PortReq) : Bool := match p.acc with | .read => true | _ => false

/-- The reads of an engine's current work have all returned. -/
def State.readsDone (s : State) (e : Engine) : Bool :=
  decide ((s.eng e).phase = .reading) && (s.eng e).reads.isEmpty && (s.engReads e).isEmpty && !(s.eng e).ringWait &&
  !s.ports.any (fun p => decide (p.engine = some e.val) && p.isRead && decide (p.tag = (s.eng e).portTag false))

/-- A 64-bit word of the beat read at an address. -/
def EngineS.readWord (x : EngineS) (a : Nat) : DWord := BitVec.ofNat 64 (leNat (peeks x.rbuf a 8))

/-! ### Descriptors under way -/

/-- Start the descriptor that has been read: it moves its bytes, or sends its channel to DERR. -/
def State.descStart (s : State) (e : Engine) : State :=
  let ch := s.curCh e
  let p := (s.ch ch).cptr.toNat
  let s := s.modEng e (fun x => { x with d0 := x.readWord p, d1 := x.readWord (p + 8), d2 := x.readWord (p + 16), d3 := x.readWord (p + 24) })
  if (s.eng e).descBad then (s.engFree e).chEnter ch .derr
  else
    let s := s.modEng e (fun x => { x with work := .move, phase := .none, serial := x.serial + 1, row := 0, off := 0, written := 0, halfDone := false })
    s.modCh ch (fun x => { x with cres := BitVec.ofNat 32 (s.eng e).total, started := false, grant := false })

/-- A descriptor fetched ahead that is not to be started is discarded. -/
def State.dropAhead (s : State) (e : Engine) : State :=
  ({ s with ports := s.ports.filter (fun p => !(decide (p.engine = some e.val) && decide (p.tag % 2 = 1))) } : State).modEng e
    (fun x => { x with ahead := none })

/-- The fetch of the descriptor at CPTR begins, or takes the descriptor that has been fetched ahead, and waits for it while it
is on its way. -/
def State.beginFetch (s : State) (e : Engine) : State :=
  let p := (s.ch (s.curCh e)).cptr
  let x := s.eng e
  match x.ahead with
  | some a =>
    if a.ch = x.cur ∧ a.addr = p then
      (if a.left = 0 then s.modEng e (fun x => { x with phase := .reading, rbuf := a.data, reads := [], ahead := none, dataAt := s.now })
       else s)
    else (s.dropAhead e).beginReads e [(p.toNat, 32)]
  | none => s.beginReads e [(p.toNat, 32)]

/-- The QUEUED channel with the lowest number of an engine. -/
def State.nextCh (s : State) (e : Engine) : Option Nat :=
  (List.range 16).find? (fun c => decide ((s.ch (chOf e c)).st = .queued))

/-- What a running engine may fetch ahead (R331): the descriptor at NEXT where END is clear, else the first descriptor of the
lowest QUEUED channel. -/
def State.aheadOf (s : State) (e : Engine) : Option (Nat × BitVec 48) :=
  let x := s.eng e
  if !x.isEnd then some (x.cur.toNat, nextOf x.d3)
  else match s.nextCh e with
    | some c => if (s.ch (chOf e c)).rchk then none else some (c, (s.ch (chOf e c)).cptr)
    | none => none

/-- An error in a fetch-ahead, which names no channel (R334). -/
def State.aheadError (s : State) (e : Engine) (kind : BitVec 3) (addr : Nat) : State :=
  s.busError e { phase := 1, kind := kind, chv := false, addr := BitVec.ofNat 48 addr, port := false, tag := 0 } 0

/-- A fetch-ahead is issued, behind the requests that the engine still has to issue. The model fetches none ahead from registers,
as R331 leaves it free to (log entry 32, DESIGN CHOICE). -/
def State.fetchAhead (s : State) (e : Engine) : State :=
  let x := s.eng e
  if x.ahead.isSome || !x.reads.isEmpty || !x.wrts.isEmpty then s
  else match s.aheadOf e with
    | none => s
    | some (c, p) =>
      let on (s : State) (tag : Option (BitVec 12)) : State :=
        s.modEng e (fun x => { x with ahead := some { ch := BitVec.ofNat 4 c, addr := p, tag := tag } })
      match dmaTarget p.toNat with
      | .sys =>
        (match s.mayIssue e.val with
         | none => s
         | some tag => (on s (some tag)).issueReq
            { tag := tag, port := s.engPort e, user := .ahead e, write := false, addr := p, beats := 1, data := [], phase := 1 })
      | .desk _ _ => on { s with ports := s.ports ++ s.dmaPorts (chOf e c) true (p, 1) } none
      | .hall a =>
        if s.dmaHallMay (chOf e c) a then on { s with ports := s.ports ++ s.dmaPorts (chOf e c) true (p, 1) } none
        else s.aheadError e 2 p.toNat
      | .refused => s.aheadError e 2 p.toNat
      | _ => s

/-- DMA_DESCRIPTOR_FETCH: reads the descriptor's beat and, once it is there, starts the descriptor; while a descriptor runs, it
fetches ahead. -/
def State.fetchDesc (s : State) (e : Engine) : State :=
  if (s.eng e).work = .fetch then
    let s := if (s.eng e).phase = .none then s.beginFetch e else s
    let s := s.issueRead e
    if s.readsDone e then s.descStart e else s
  else if (s.eng e).st = .running ∧ (s.eng e).work = .move then s.fetchAhead e
  else s

/-- Nothing of the descriptor that is to be fetched has been written (R333). -/
def DmaChS.fresh (x : DmaChS) : DmaChS := { x with cres := 0, started := false }

/-- Every burst of the descriptor has been moved. -/
def EngineS.moved (x : EngineS) : Bool := decide (x.work = .move) && decide (x.phase = .none) && decide (x.rows ≤ x.row)

/-- A write of a channel's descriptor that has been issued and not performed. -/
def State.unperformed (s : State) (ch : DmaCh) (f : Nat → Bool) : Bool :=
  s.tags.any (fun t => t.write && (match t.user with
    | .chan c n => decide (c = ch) && f n
    | .post _ _ (.chan c n) _ => decide (c = ch) && f n
    | _ => false)) ||
  s.qm.all.any (fun i => match i with
    | .post _ _ _ (.chan c n) => decide (c = ch) && f n
    | _ => false) ||
  s.ports.any (fun p => !p.isRead && decide (p.user = .dma ch) && f (p.tag / 2))

/-- The descriptor is complete (R332). -/
def State.descDone (s : State) (e : Engine) : Bool :=
  let x := s.eng e
  x.moved && !(s.ch (s.curCh e)).aborting &&
  !(x.barrier && s.unperformed (s.curCh e) (fun n => decide (n = x.serial)))

/-- DMA_DESCRIPTOR_COMPLETE. -/
def State.descComplete (s : State) (e : Engine) : State :=
  if s.descDone e then
    let ch := s.curCh e
    let x := s.eng e
    let s := s.modCh ch (fun y => { y with descs := y.descs + 1 })
    let s := if x.d3.getLsbD 2 then s.chPulse ch else s
    if x.isEnd then
      (s.modCh ch (fun y => { y with rchk := true })).modEng e (fun x => { x with work := .recheckAt (s.now / 2 * 2 + 16) })
    else
      (s.modCh ch (fun y => { y.fresh with cptr := nextOf x.d3 })).modEng e (fun x => { x with work := .fetch })
  else s

/-! ### Link recheck (R336) -/

/-- A link recheck is to be issued, or waits for its port. -/
def State.recheckDue (s : State) (e : Engine) : Bool :=
  match (s.eng e).work with
  | .recheckAt c => decide (c ≤ s.now)
  | .recheckData => !(s.eng e).reads.isEmpty
  | _ => false

/-- LINK_RECHECK: reads word 3 of the tail. -/
def State.recheck (s : State) (e : Engine) : State :=
  if s.recheckDue e then
    let s := (match (s.eng e).work with
      | .recheckAt _ =>
          (s.modEng e (fun x => { x with work := .recheckData })).beginReads e [((s.ch (s.curCh e)).cptr.toNat + 24, 8)]
      | _ => s)
    s.issueRead e
  else s

/-- The data of a link recheck returned in an earlier SCLK. -/
def State.decisionDue (s : State) (e : Engine) : Bool :=
  decide ((s.eng e).work = .recheckData) && s.readsDone e && decide (sclkAfter (s.eng e).dataAt ≤ s.now)

/-- LINK_RECHECK_DECISION. -/
def State.recheckDecide (s : State) (e : Engine) : State :=
  if s.decisionDue e then
    let ch := s.curCh e
    let d3 := (s.eng e).readWord ((s.ch ch).cptr.toNat + 24)
    if !d3.getLsbD 0 then
      (s.modCh ch (fun y => { y.fresh with cptr := nextOf d3, rchk := false })).modEng e (fun x => { x with work := .fetch, phase := .none })
    else if (s.ch ch).reexam then
      (s.modCh ch (fun y => { y with reexam := false })).modEng e (fun x => { x with work := .recheckAt (s.now / 2 * 2 + 16), phase := .none })
    else ((s.engFree e).modCh ch (fun y => { y with rchk := false })).chEnter ch .ended
  else s

/-! ### Commands of a channel (Table DMA-5) -/

/-- The head address. -/
def State.headOf (s : State) (ch : DmaCh) : BitVec 48 :=
  (s.reg (.dmaCheadHi ch)).setWidth 16 ++ s.reg (.dmaCheadLo ch)

/-- A command that Table DMA-5 does not list for the channel's state. -/
def State.chIgnored (s : State) (ch : DmaCh) : State := s.modCh ch (fun x => { x with ign := some s.now })

/-- A channel is queued. -/
def State.chQueue (s : State) (ch : DmaCh) (f : DmaChS → DmaChS) : State :=
  (s.modCh ch (fun x => { f x with st := .queued })).modEng (engOf ch) (fun x => if x.st = .idle then { x with freeAt := some s.now } else x)

/-- GO. -/
def State.dmaGo (s : State) (ch : DmaCh) : State :=
  match (s.ch ch).st with
  | .idle | .ended | .aborted | .derr => s.chQueue ch (fun x => { x with cptr := s.headOf ch, rchk := false })
  | _ => s.chIgnored ch

/-- RESUME (R335): the engine is idle when it runs nothing and is neither stopping nor stopped. -/
def State.dmaResume (s : State) (ch : DmaCh) : State :=
  if (s.ch ch).st = .stopped ∧ (s.eng (engOf ch)).st = .idle then s.chQueue ch id else s.chIgnored ch

/-- KICK (R336). -/
def State.dmaKick (s : State) (ch : DmaCh) : State :=
  match (s.ch ch).st with
  | .ended => s.chQueue ch (fun x => { x with rchk := true })
  | .queued | .run => s.modCh ch (fun x => { x with reexam := true })
  | _ => s.chIgnored ch

/-- A running channel's abort may take effect: no burst is in progress and every write issued for it is performed. -/
def State.abortDone (s : State) (ch : DmaCh) : Bool :=
  let e := engOf ch
  let x := s.eng e
  (s.ch ch).aborting && decide ((s.ch ch).st = .run) && decide (x.st = .running) &&
  (decide (x.work ≠ .move) || decide (x.phase = .none)) && !s.unperformed ch (fun _ => true)

/-- DMA_ABORT_COMPLETE. -/
def State.abortComplete (s : State) (ch : DmaCh) : State :=
  if s.abortDone ch then (s.engFree (engOf ch)).chEnter ch .aborted else s

/-- The descriptor's bursts wait for grants. -/
def EngineS.paced (x : EngineS) : Bool := x.d3.getLsbD 63
/-- The pacing source. -/
def EngineS.psrc (x : EngineS) : Nat := dfield x.d3 48 11

/-- The next burst is granted: a pulse's grant is unused, or the level source is high. -/
def State.granted (s : State) (e : Engine) : Bool :=
  let x := s.eng e
  !x.paced || (s.ch (s.curCh e)).grant || s.levelHigh x.psrc

/-- A ring that the channel may not use on this side (R349). -/
def State.ringFault (s : State) (e : Engine) (r : Ring) (hostSide : Bool) : Bool :=
  !(s.ring r).loaded || hostSide || !s.holds (.dma (s.curCh e)) kRing r.val

/-- What the ring of a ring kind says to the next burst. -/
inductive RingTurn where
  | go
  | hold
  | fault
  deriving DecidableEq, Repr

/-- The ring number of the source or of the destination. -/
def EngineS.srcRing (x : EngineS) : Ring := fin 8192 (x.src % 8192)
/-- The ring number of the destination. -/
def EngineS.dstRing (x : EngineS) : Ring := fin 8192 (x.dst % 8192)

/-- A ring that is full, without a cell or empty holds the burst. -/
def State.ringTurn (s : State) (e : Engine) : RingTurn :=
  let x := s.eng e
  if x.dkind then
    if s.ringFault e x.dstRing (s.ring x.dstRing).pside then .fault
    else if s.postDecision x.dstRing false = .accepted then .go else .hold
  else if x.skind then
    if s.ringFault e x.srcRing (s.ring x.srcRing).cside then .fault
    else if (s.ring x.srcRing).take = (s.ring x.srcRing).prod then .hold else .go
  else .go

/-- A running channel waits for a pacing grant or for a ring: no burst is in progress. -/
def State.waitsTurn (s : State) (e : Engine) : Bool :=
  let x := s.eng e
  decide (x.st = .running) && decide (x.work = .move) && decide (x.phase = .none) && !x.moved &&
  (decide (s.ringTurn e = .hold) || !s.granted e)

/-- ABORT (R333). -/
def State.dmaAbort (s : State) (ch : DmaCh) : State :=
  match (s.ch ch).st with
  | .queued =>
    let s := match (s.eng (engOf ch)).ahead with
      | some a => if a.ch.toNat = ch.val % 16 then s.dropAhead (engOf ch) else s
      | none => s
    (s.modCh ch DmaChS.fresh).chEnter ch .aborted
  | .run => if s.waitsTurn (engOf ch) then (s.engFree (engOf ch)).chEnter ch .aborted else (s.modCh ch (fun x => { x with aborting := true })).abortComplete ch
  | _ => s.chIgnored ch

/-! ### Engines -/

/-- A free engine serves its lowest QUEUED channel in the SCLK after it became free, or after the channel was queued. -/
def State.serveDue (s : State) (e : Engine) : Bool :=
  let x := s.eng e
  decide (x.st = .idle) && (s.nextCh e).isSome && (match x.freeAt with | none => true | some c => decide (sclkAfter c ≤ s.now))

/-- DMA_CHANNEL_SERVE (R329). -/
def State.serve (s : State) (e : Engine) : State :=
  if s.serveDue e then
    match s.nextCh e with
    | none => s
    | some c =>
      let ch := chOf e c
      let s := s.modCh ch (fun x => { (if x.rchk then x else x.fresh) with st := .run, aborting := false, grant := false })
      s.modEng e (fun x => { x with st := .running, cur := BitVec.ofNat 4 c, phase := .none
                                    work := if (s.ch ch).rchk then .recheckAt s.now else .fetch })
  else s

/-- Every tag of a stopping engine has retired. -/
def State.stopDue (s : State) (e : Engine) : Bool :=
  decide ((s.eng e).st = .stopping) && !(s.tags.any (fun t => decide (t.user.requester = e.val)))

/-- DMA_ENGINE_STOPPED: its channels in QUEUED or RUN enter STOPPED, keeping CPTR and RCHK. -/
def State.engineStopped (s : State) (e : Engine) : State :=
  if s.stopDue e then
    let s := s.modEng e (fun x => { x with st := .stopped, serial := x.serial + 1 })
    let s := (List.range 16).foldl (fun s c =>
      if (s.ch (chOf e c)).st = .queued ∨ (s.ch (chOf e c)).st = .run then s.chEnter (chOf e c) .stopped else s) s
    s.pulse (0x7D0 + e.val)
  else s

/-- DMA_ENGINE_CLEAR: ignored unless the engine is STOPPED; the record of the error stays, but for VALID. -/
def State.engineClear (s : State) (e : Engine) : State :=
  if (s.eng e).st = .stopped then s.modEng e (fun x => { x with st := .idle, errValid := false, freeAt := some s.now }) else s

/-! ### Answers of the system (R31, R332, R334, R339) -/

/-- The bus-error kind of an answer's status. -/
def statusKind (st : BitVec 2) : BitVec 3 := if st = 2 then 1 else 0

/-- Retire a tag. -/
def State.retireTag (s : State) (tag : BitVec 12) : State := { s with tags := s.tags.filter (fun t => decide (t.tag ≠ tag)) }

/-- A stray beat or completion is counted. -/
def State.stray (s : State) (k : InitPort) : State :=
  { s with strays := mput 0 s.strays k.val (sat 65535 (mget 0 s.strays k.val + 1)) }

/-- An answer with an error status: a bus error of the tag's engine, whatever has become of the work that it was for. -/
def State.answerError (s : State) (x : TagUse) (st : BitVec 2) : State :=
  match x.user with
  | .chan ch _ => s.busError (engOf ch) { phase := x.phase, kind := statusKind st, chv := true, addr := x.addr
                                          port := decide (x.port = 1), tag := x.tag } (BitVec.ofNat 4 ch.val)
  | .ahead e => s.busError e { phase := 1, kind := statusKind st, chv := false, addr := x.addr
                               port := decide (x.port = 1), tag := x.tag } 0
  | _ => s

/-- The block takes the answers of the system: neither reset pin is low (R31). -/
def State.takesAnswers (s : State) : Bool := decide (s.sys.phase ≠ .cold) && !s.sys.rstWarm

/-- The descriptor fetched ahead has been read with a tag. -/
def State.aheadBeat (s : State) (e : Engine) (tag : BitVec 12) (addr : Nat) (l : List Byte) : State :=
  s.modEng e (fun y => { y with ahead := y.ahead.map (fun a =>
    if a.tag = some tag then { a with tag := none, left := 0, data := pokes [] addr l } else a) })

/-- Change the drill in progress. -/
def State.modDrill (s : State) (f : DrillRun → DrillRun) : State := { s with drill := { s.drill with cur := s.drill.cur.map f } }

/-- The data that the initiator drill writes in its pair `k` (R429 does not give it). -/
def drillData (k : Nat) : List Byte := leBytes (Config.drillPattern k).toNat 64

/-- The pair that the initiator drill is at. -/
def DrillRun.pair (d : DrillRun) : Nat := (32 - d.left) / 2

/-- A read-back beat of the initiator drill: `half` is its place in the block. -/
def State.drillBeat (s : State) (half : Nat) (data : BitVec 256) (st : BitVec 2) (last : Bool) : State :=
  s.modDrill (fun d =>
    let want := (drillData d.pair).drop (32 * half) |>.take 32
    let ok := decide (st = 0) && decide (leBytes data.toNat 32 = want)
    { d with bad := if ok then d.bad else d.bad + 1, left := if last then d.left - 1 else d.left })

/-- INITIATOR_READ_BEAT: the beat goes to its place in the engine's buffer; the last beat retires the tag. -/
def State.readBeat (s : State) (k : InitPort) (tag : BitVec 12) (data : BitVec 256) (st : BitVec 2) (last : Bool) : State :=
  if !s.takesAnswers then s
  else match s.tags.find? (fun t => decide (t.tag = tag) && decide (t.port = k) && !t.write) with
  | none => s.stray k
  | some x =>
    let s := if last then s.retireTag tag
      else { s with tags := s.tags.map (fun t => if t.tag = tag then { t with addr := t.addr + 32, beats := t.beats - 1 } else t) }
    if x.user = .drill then s.drillBeat (2 - x.beats) data st last
    else if st ≠ 0 then s.answerError x st
    else match x.user with
      | .chan ch n =>
        let e := engOf ch
        if (s.eng e).st = .running ∧ n = (s.eng e).serial then
          s.modEng e (fun y => { y with rbuf := pokes y.rbuf x.addr.toNat (leBytes data.toNat 32), dataAt := s.now })
        else s
      | .ahead e => s.aheadBeat e tag x.addr.toNat (leBytes data.toNat 32)
      | _ => s

/-- INITIATOR_WRITE_COMPLETION: the write is performed and its tag retires. -/
def State.writeDone (s : State) (k : InitPort) (tag : BitVec 12) (st : BitVec 2) : State :=
  if !s.takesAnswers then s
  else match s.tags.find? (fun t => decide (t.tag = tag) && decide (t.port = k) && t.write) with
  | none => s.stray k
  | some x =>
    let s := s.retireTag tag
    match x.user with
    | .post r n _ cell => s.postDone r n (decide (st = 0)) cell
    | .chan _ _ => if st = 0 then s else s.answerError x st
    | .ahead _ => s
    | .drill => s.modDrill (fun d => { d with left := d.left - 1, bad := if st = 0 then d.bad else d.bad + 2 })

/-! ### The commands -/

/-- INITIATOR_READ_BEAT (R339). -/
def execInitiatorReadBeat (k : InitPort) (tag : BitVec 12) (data : BitVec 256) (st : BitVec 2) (last : Bool) (s : State) :
    Host.Outcome State Fault Refusal := .next (s.readBeat k tag data st last)

/-- INITIATOR_WRITE_COMPLETION (R332). -/
def execInitiatorWriteCompletion (k : InitPort) (tag : BitVec 12) (st : BitVec 2) (s : State) :
    Host.Outcome State Fault Refusal := .next (s.writeDone k tag st)

/-- A write to a channel's command register. -/
def State.chWrite (s : State) (a : Agent) (ch : DmaCh) (eff : State → State) : State :=
  s.regWrite a (s.holds a kDma ch.val) eff

/-- DMA_GO (R328). -/
def execDmaGo (a : Agent) (ch : DmaCh) (s : State) : Host.Outcome State Fault Refusal := .next (s.chWrite a ch (·.dmaGo ch))

/-- DMA_ABORT (R333). -/
def execDmaAbort (a : Agent) (ch : DmaCh) (s : State) : Host.Outcome State Fault Refusal := .next (s.regWriteOut a false none (s.holds a kDma ch.val) (·.dmaAbort ch))

/-- DMA_ABORT_COMPLETE (R333). -/
def execDmaAbortComplete (ch : DmaCh) (s : State) : Host.Outcome State Fault Refusal := .next (s.abortComplete ch)

/-- DMA_RESUME (R335). -/
def execDmaResume (a : Agent) (ch : DmaCh) (s : State) : Host.Outcome State Fault Refusal := .next (s.chWrite a ch (·.dmaResume ch))

/-- KICK (R336). -/
def execKick (a : Agent) (ch : DmaCh) (s : State) : Host.Outcome State Fault Refusal := .next (s.regWriteOut a false none (s.holds a kDma ch.val) (·.dmaKick ch))

/-- DMA_ENGINE_CLEAR (R335). -/
def execDmaEngineClear (a : Agent) (e : Engine) (s : State) : Host.Outcome State Fault Refusal :=
  .next (s.regWrite a (s.isOwner a) (·.engineClear e))

/-- DMA_CHANNEL_SERVE (R329). -/
def execDmaChannelServe (e : Engine) (s : State) : Host.Outcome State Fault Refusal := .next (s.serve e)

/-- DMA_DESCRIPTOR_FETCH (R326). -/
def execDmaDescriptorFetch (e : Engine) (s : State) : Host.Outcome State Fault Refusal := .next (s.fetchDesc e)

/-- DMA_DESCRIPTOR_COMPLETE (R332). -/
def execDmaDescriptorComplete (e : Engine) (s : State) : Host.Outcome State Fault Refusal := .next (s.descComplete e)

/-- LINK_RECHECK (R336). -/
def execLinkRecheck (e : Engine) (s : State) : Host.Outcome State Fault Refusal := .next (s.recheck e)

/-- LINK_RECHECK_DECISION (R336). -/
def execLinkRecheckDecision (e : Engine) (s : State) : Host.Outcome State Fault Refusal := .next (s.recheckDecide e)

/-- DMA_BUS_ERROR (R334): an error that an engine takes while it works, as a fetch-ahead or a memory meets it. -/
def execDmaBusError (e : Engine) (err : BusErr) (s : State) : Host.Outcome State Fault Refusal :=
  .next (if (s.eng e).st = .running then s.busError e err (s.eng e).cur else s)

/-- DMA_ENGINE_STOPPED (R334). -/
def execDmaEngineStopped (e : Engine) (s : State) : Host.Outcome State Fault Refusal := .next (s.engineStopped e)

end Sys2Proof.Machine
end

