-- ==== Sys2Proof/Machine/Drills.lean ====
section
/-! DEFINITION. Drills and loop-backs (R425 to R431). -/

namespace Sys2Proof.Machine

/-! ### Starting and ending -/

/-- A drill ends: its result, a report card and source 0x7F0 (R426). -/
def State.drillResult (s : State) (code : Byte) (res : BitVec 3) (data : Word) : State :=
  (({ s with drill := { s.drill with cur := none, done := some s.now, res := res, lastCode := code, data := data } } : State).cardSoon).pulse 0x7F0

/-- A drill begins with the arguments as they stand, `left` parts to run and the registers to restore. -/
def State.drillBegin (s : State) (code : Byte) (left : Nat) (saved : SMap Word) : State :=
  { s with drill := { s.drill with cur := some (
      { code := code, arg0 := s.reg .drlArg0, arg1 := s.reg .drlArg1, start := s.now, left := left, bad := 0, saved := saved } : DrillRun) } }

/-- A GO (R426 to R428): ignored while a drill runs; an argument that names nothing ends it with RES 4, a target that is
not parked with RES 2. -/
def State.drillGo (s : State) (code : Byte) (argsOk parked : Bool) (begin_ : State → State) : State :=
  if s.drill.cur.isSome then { s with drill := { s.drill with ign := some s.now } }
  else if !argsOk then s.drillResult code 4 0
  else if !parked then s.drillResult code 2 0
  else begin_ s

/-! ### Memory drills -/

/-- Drills 0x01 and 0x02: region tests of an instance that has its spare region. -/
def State.drillRegions (s : State) (code : Byte) (parts : MemInst → Nat) : State :=
  let m := (s.reg .drlArg0).toNat
  s.drillGo code (decide (m < 13) && (s.inst (fin 13 m)).retired.isNone) true (fun s => s.drillBegin code (parts (fin 13 m)) [])

/-- A slot is under verification or being copied by the update controller. -/
def State.slotBusy (s : State) (slotB : Bool) : Bool :=
  (slotB == s.upd.stagingB) &&
  (decide (s.upd.stage = .verifying) || (decide (s.upd.stage = .armed) && !s.upd.copyDone))

/-- Drill 0x05. -/
def State.drillVerify (s : State) : State :=
  let v := (s.reg .drlArg0).toNat
  s.drillGo 0x05 (decide (v < 2) && !s.slotBusy (decide (v = 1))) true (fun s => s.drillBegin 0x05 0 [])

/-! ### Loop-backs -/

/-- The channels of drill 0x10: the masked channels of its port. -/
def drillPins (arg0 arg1 : Word) : List Chan :=
  ((List.range 32).filter (fun i => bit arg1 i)).map (chanOf (fin 16 (fieldN arg0 0 4)))

/-- A channel is parked: without an owner, or with its owner in MAINT. -/
def State.pinParked (s : State) (c : Chan) : Bool :=
  match s.pinOwner c with | none => true | some t => decide ((s.thr t).st = .maint)

/-- Set LOOP of a channel's pad register, as the pad sees it from now + 3, and the depth that a drill holds its path at. -/
def State.setLoop (s : State) (c : Chan) (depth : Nat) (drill : Option (BitVec 2)) : State :=
  let w := (s.reg (.pinPad c) &&& 0x3FFFFFFF) ||| put 30 depth
  ((s.setReg (.pinPad c) w).modPin c (fun p => { p with drill := drill })).schedule (s.now + 2) prioUnit (.pinPadIn c w)

/-- Drill 0x10: the channels loop back at a depth; their own LOOP fields return at the end. -/
def State.drillPinLoop (s : State) : State :=
  let a := s.reg .drlArg0
  let l := drillPins a (s.reg .drlArg1)
  let depth := fieldN a 4 2
  s.drillGo 0x10 (decide (1 ≤ depth)) (l.all s.pinParked) (fun s =>
    let saved := l.map (fun c => (c.val, s.reg (.pinPad c)))
    let s := s.drillBegin 0x10 0 saved
    l.foldl (fun s c => s.setLoop c depth (some (BitVec.ofNat 2 depth))) s)

/-- The end of drill 0x10: every channel's LOOP field as it was, and its path with it. -/
def State.drillPinsBack (s : State) (d : DrillRun) : State :=
  d.saved.foldl (fun s e => s.setLoop (fin 512 e.1) (fieldN e.2 30 2) none) s

/-- Drill 0x11: a converter port that is not enabled. -/
def State.drillConv (s : State) : State :=
  let n := (s.reg .drlArg0).toNat
  s.drillGo 0x11 (decide (n < 32)) (!bit (s.reg (.cvpCfg (fin 32 n))) 31) (fun s => s.drillBegin 0x11 0 [])

/-- The 64 samples of drill 0x11, counting data and tags at 15-FCLK spacing, as they leave the port's mailbox (R429). -/
def State.drillSamples (s : State) (d : DrillRun) : State :=
  let n : Cvp := fin 32 d.arg0.toNat
  let b : Barrel := fin 4 (fieldN (s.reg (.cvpCfg n)) 27 2)
  let t0 := s.tbase - BitVec.ofNat 64 (s.now - d.start)
  (List.range 64).foldl (fun s k =>
    let e : Sample := { word := s.sampleWord n (BitVec.ofNat 18 k) (BitVec.ofNat 6 k), tag := BitVec.ofNat 6 k,
                        time := t0 + BitVec.ofNat 64 (15 * k), writeAt := s.now, barrel := b }
    s.writeMailbox n e ((s.cvp n).boxCount + BitVec.ofNat 32 (k + 1))) s

/-- Drills 0x13 to 0x15: a fitted link of this node (R40), which does not forward; the far-end loop asks the neighbour for it. -/
def State.drillLink (s : State) (code : Byte) : State :=
  let v := (s.reg .drlArg0).toNat
  let down := decide (v = 1)
  s.drillGo code (decide (v < 2) && s.fitted down) (!bit (s.reg .hlyCtl) 30) (fun s =>
    let s := s.drillBegin code 0 []
    if code = 0x15 then s.sendOwn down 0xB false (if down then s.hpos + 1 else s.hpos - 1) [1] else s)

/-- Drill 0x16: 16 write and read-back pairs. -/
def State.drillEcho (s : State) : State := s.drillGo 0x16 true true (fun s => s.drillBegin 0x16 32 [])

/-- The block of system memory that drill 0x16 uses. -/
def DrillRun.echoAddr (d : DrillRun) : BitVec 48 := BitVec.ofNat 48 (fieldN d.arg0 0 16 * 2 ^ 32 + fieldN d.arg1 6 26 * 64)

/-- Drill 0x16 has a request to issue: none of its tags is in use (R429). -/
def State.echoWants (s : State) : Bool :=
  (match s.drill.cur with | some d => decide (d.code = 0x16) && decide (0 < d.left) | none => false) &&
  !(s.tags.any (fun t => decide (t.user = .drill)))

/-- The next request of drill 0x16, at the start of an SCLK in which its port has taken none: a write, then its read-back. -/
def State.echoIssue (s : State) : State :=
  match s.drill.cur with
  | none => s
  | some d =>
    let port : InitPort := if bit d.arg0 16 then 1 else 0
    if s.echoWants && decide (s.now % 2 = 0) && decide ((mget { } s.iports port.val).lastAt ≠ some (s.now / 2)) then
      match s.freeTag 16 with
      | none => s
      | some tag =>
        let a := d.echoAddr
        let w := decide (d.left % 2 = 0)
        s.issueReq { tag := tag, port := port, user := .drill, write := w, addr := a, beats := 2
                     data := if w then bytesAt a.toNat (drillData d.pair) else [] }
    else s

/-! ### Drill ends (R426) -/

/-- The drill in progress may end: its parts are run, and its memory instance is at rest. -/
def State.drillMayEnd (s : State) (d : DrillRun) : Bool :=
  if d.code = 0x01 ∨ d.code = 0x02 then
    let x := s.inst (fin 13 d.arg0.toNat)
    decide (x.step = .idle) && (decide (d.left = 0) || x.retired.isSome)
  else decide (d.left = 0)

/-- DRILL_END: the measured outcome is the sender's, but for the drills whose outcome the block computes: 0x05 shows the
FAIL code, 0x03 the words corrected and 0x16 the mismatched beats. -/
def State.drillEnd (s : State) (pass : Bool) (data : Word) : State :=
  match s.drill.cur with
  | none => s
  | some d =>
    if s.drillMayEnd d then
      let res (ok : Bool) : BitVec 3 := if ok then 0 else 1
      if d.code = 0x05 then
        let f := s.verifyFail (decide (d.arg0 = 1)) (if data = 7 then .uncorrectable else .ok)
        s.drillResult d.code (res (decide (f = 0))) (f.setWidth 32)
      else if d.code = 0x03 then s.drillResult d.code (res pass) (BitVec.ofNat 32 d.bad)
      else if d.code = 0x16 then s.drillResult d.code (res (decide (d.bad = 0))) (BitVec.ofNat 32 d.bad)
      else
        let s := if d.code = 0x10 then s.drillPinsBack d else if d.code = 0x11 then s.drillSamples d
          else if d.code = 0x15 then
            s.sendOwn (decide (d.arg0 = 1)) 0xB false (if d.arg0 = 1 then s.hpos + 1 else s.hpos - 1) [0]
          else s
        s.drillResult d.code (res pass) data
    else s

/-- FAR_END_TIMEOUT: no echoed character within 10 us. -/
def State.farTimeout (s : State) : State :=
  match s.drill.cur with
  | some d => if d.code = 0x15 ∧ wallEnd s.mhz d.start 10 ≤ s.now then s.drillResult 0x15 2 0 else s
  | none => s

/-- A warm reset that a register asks for begins in a cycle. -/
def State.askWarm (s : State) (begins : Nat) : State := s.schedule (begins - 1) prioUnit (.warmDue true)

/-- Drill 0x20 with its key: a warm reset in drill mode (R425); without it its arguments are refused. -/
def State.drillMode (s : State) (key : BitVec 16) : State :=
  s.drillGo 0x20 (decide (key = 0x4D44)) true (fun s =>
    ({ s with sys := { s.sys with drillNext := true } } : State).askWarm (s.now + 1))

/-- A GO of a drill code (Table SUP-4): other codes end with RES 4. -/
def State.drillCode (s : State) (code : Byte) (key : BitVec 16) : State :=
  if code = 0x01 then s.drillRegions 0x01 (fun _ => 1)
  else if code = 0x02 then s.drillRegions 0x02 regionsOf
  else if code = 0x03 then s.drillGo 0x03 true true (fun s => s.drillBegin 0x03 scrubWords [])
  else if code = 0x04 then s.drillGo 0x04 true true (fun s => s.drillBegin 0x04 0 [])
  else if code = 0x05 then s.drillVerify
  else if code = 0x06 then s.drillGo 0x06 (decide ((s.reg .drlArg0).toNat < 32)) true (fun s => s.drillBegin 0x06 17 [])
  else if code = 0x10 then s.drillPinLoop
  else if code = 0x11 then s.drillConv
  else if code = 0x13 ∨ code = 0x14 ∨ code = 0x15 then s.drillLink code
  else if code = 0x16 then s.drillEcho
  else if code = 0x20 then s.drillMode key
  else s.drillGo code false true id

/-- A write to DRL_CMD. -/
def State.drlCmdWrite (s : State) (v : Word) : State :=
  let s := if bit v 31 then s.drillCode (BitVec.ofNat 8 (fieldN v 16 8)) (v.setWidth 16) else s
  if bit v 30 then s.cardSoon else s

/-! ### The commands -/

/-- A write of GO by an agent. -/
def State.drillWrite (s : State) (a : Agent) (eff : State → State) : State := s.regWrite a (s.isOwner a) eff

/-- REGION_TEST_NOW (R427). -/
def execRegionTestNow (a : Agent) (s : State) : Host.Outcome State Fault Refusal := .next (s.drillWrite a (·.drillCode 0x01 0))

/-- INSTANCE_PASS (R427). -/
def execInstancePass (a : Agent) (s : State) : Host.Outcome State Fault Refusal := .next (s.drillWrite a (·.drillCode 0x02 0))

/-- SCRUB_PASS (R427). -/
def execScrubPass (a : Agent) (s : State) : Host.Outcome State Fault Refusal := .next (s.drillWrite a (·.drillCode 0x03 0))

/-- MRAM_READ_PASS (R427). -/
def execMramReadPass (a : Agent) (s : State) : Host.Outcome State Fault Refusal := .next (s.drillWrite a (·.drillCode 0x04 0))

/-- IMAGE_VERIFICATION (R427). -/
def execImageVerification (a : Agent) (s : State) : Host.Outcome State Fault Refusal := .next (s.drillWrite a (·.drillCode 0x05 0))

/-- CALIBRATION_GROUP (R427). -/
def execCalibrationGroup (a : Agent) (s : State) : Host.Outcome State Fault Refusal := .next (s.drillWrite a (·.drillCode 0x06 0))

/-- PIN_LOOP_BACK (R429). -/
def execPinLoopBack (a : Agent) (s : State) : Host.Outcome State Fault Refusal := .next (s.drillWrite a (·.drillCode 0x10 0))

/-- CONVERTER_LOOP_BACK (R429). -/
def execConverterLoopBack (a : Agent) (s : State) : Host.Outcome State Fault Refusal := .next (s.drillWrite a (·.drillCode 0x11 0))

/-- HALYARD_PCS_LOOP (R429). -/
def execHalyardPcsLoop (a : Agent) (s : State) : Host.Outcome State Fault Refusal := .next (s.drillWrite a (·.drillCode 0x13 0))

/-- HALYARD_LINE_LOOP (R429). -/
def execHalyardLineLoop (a : Agent) (s : State) : Host.Outcome State Fault Refusal := .next (s.drillWrite a (·.drillCode 0x14 0))

/-- HALYARD_FAR_END_LOOP (R429). -/
def execHalyardFarEndLoop (a : Agent) (s : State) : Host.Outcome State Fault Refusal := .next (s.drillWrite a (·.drillCode 0x15 0))

/-- FAR_END_TIMEOUT (R428). -/
def execFarEndTimeout (s : State) : Host.Outcome State Fault Refusal := .next s.farTimeout

/-- INITIATOR_ECHO (R429). -/
def execInitiatorEcho (a : Agent) (s : State) : Host.Outcome State Fault Refusal := .next (s.drillWrite a (·.drillCode 0x16 0))

/-- DRILL_MODE_START (R425). -/
def execDrillModeStart (a : Agent) (key : BitVec 16) (s : State) : Host.Outcome State Fault Refusal :=
  .next (s.drillWrite a (·.drillCode 0x20 key))

/-- DRILL_END (R426). -/
def execDrillEnd (pass : Bool) (data : Word) (s : State) : Host.Outcome State Fault Refusal := .next (s.drillEnd pass data)

/-- SNAP (R431). -/
def execSnap (a : Agent) (s : State) : Host.Outcome State Fault Refusal := .next (s.drillWrite a State.cardSoon)

end Sys2Proof.Machine
end

