-- ==== Sys2Proof/Machine/Life.lean ====
section
/-! DEFINITION. Resets as they begin, system inputs and lifecycle commands (R34 to R50, R360, R409 to R412, R423). -/

namespace Sys2Proof.Machine

/-! ### Cold reset begins (Table PRT-9) -/

/-- What MRAM and the repair record keep through a cold reset, and the stage, which the journal replay judges. -/
def UpdS.mram (u : UpdS) : UpdS :=
  { jseq := u.jseq, stage := u.stage, slotA := u.slotA, slotB := u.slotB, stagingB := u.stagingB, half := u.half, bitmap := u.bitmap
    imgLen := u.imgLen, imgId := u.imgId, cid := u.cid, journal := u.journal, copyA := u.copyA, copyB := u.copyB
    wear := u.wear, lc := u.lc, ownLock := u.ownLock, okh := u.okh }

/-- An input level that a reset does not touch, as a settled input path. -/
def PinS.inputOnly (p : PinS) : PinS :=
  { level := p.level, path := p.level, sync := p.level, filt := p.level, f1 := p.level, f2 := p.level }

/-- The level that an input takes once every change of it has been synchronised. -/
def State.inputAfter (s : State) (now_ : Bool) (f : Eff → Option Bool) : Bool :=
  s.agenda.foldl (fun v x => match f x.eff with | some l => l | none => v) now_

/-- MOTION_ACTIVE as it stands at the input. -/
def State.motionIn (s : State) : Bool := s.inputAfter s.sys.motion (fun e => match e with | .motion l => some l | _ => none)
/-- HOLDUP_OK as it stands at the input. -/
def State.holdupIn (s : State) : Bool := s.inputAfter s.sys.holdup (fun e => match e with | .holdup l => some l | _ => none)

/-- RST_COLD_N low: every state but MRAM with the repairs that it records, and the levels at the inputs, takes its reset value;
a wipe of the secure region begins. -/
def State.coldAssert (s : State) : State :=
  { State.reset with
    desk := s.desk, slate := s.slate, hall := wipe s.hall 0x7C0000 0x40000, ins := s.ins
    pins := s.pins.foldl (fun m e => mput { } m e.1 e.2.inputOnly) []
    tripsIn := s.tripsIn, tripLevel := s.tripLevel
    insts := (s.heal instHall 0x7C0000 0x40000).insts.foldl (fun m e =>
      mput { } m e.1 { retired := e.2.retired, spares := e.2.spares, ue := e.2.ue }) []
    memS := { mramBlocks := s.memS.mramBlocks, mramBad := s.memS.mramBad, wipeTrig := 3, wipeCount := 1, wiping := true }
    upd := s.upd.mram
    hosts := s.hosts.foldl (fun m e => mput { } m e.1 { inRst := e.2.inRst, held := e.2.inRst }) []
    sys := { phase := .cold, presenceLowAt := s.sys.presenceLowAt.map (fun _ => 0)
             motion := s.motionIn, holdup := s.holdupIn, rstWarm := s.sys.rstWarm }
    free := s.free, tickStage := s.tickStage, pending := s.pending }

/-! ### Warm reset begins (R423, W1) -/

/-- The registers that a warm reset keeps: DRL_ECHO (R430), and HLY_CTL and HLY_TCTL with the links and the alignment. -/
def warmKeeps (key : Nat) : Bool :=
  let off := key % 0x1000000
  (decide (0x151000 ≤ off) && decide (off < 0x151100)) || decide (off = 0x160000) || decide (off = 0x160018)

/-- The set-up of a locked channel (R237) stands through a warm reset, and its pad shows the safe state until its release. -/
def State.keepLocked (s old : State) (c : Chan) : State :=
  let p := old.pin c
  if p.locked then
    let pad := (old.reg (.pinPad c) &&& padLk) ||| (0x14000000 &&& ~~~padLk)
    let s := ((((s.setReg (.pinFcfg c 0) (old.reg (.pinFcfg c 0))).setReg (.pinFcfg c 1) (old.reg (.pinFcfg c 1))).setReg (.pinPad c) pad).setReg
      (.pinShcfg c) (old.reg (.pinShcfg c))).setReg (.pinOwner c) (old.reg (.pinOwner c))
    let s := s.setReg (.pinPolicy (portOf c)) (old.reg (.pinPolicy (portOf c)))
    s.modPin c (fun q => { q with locked := true, live := p.live, cfg := p.cfg, padCfg := pad, holdSafe := true })
  else s

/-- The endpoint of the chain restarts: waiting frames and received messages go, links, lanes, alignment and counts stay. -/
def HlyS.restarted (h : HlyS) : HlyS :=
  { h with laneUp := { h.laneUp with queue := [] }, laneDn := { h.laneDn with queue := [] }, rx := [], rxOvf := none
           statusAt := none, farLoop := false }

/-- A change of an input that is being synchronised: a warm reset leaves it (R42). -/
def Landing.input (x : Landing) : Bool := match x.eff with | .motion _ | .holdup _ | .hostDrop _ => true | _ => false

/-- Causes of a reset are set in CTL_RSTCAUSE. -/
def State.addCause (s : State) (m : Word) : State :=
  let was := if s.sys.causeAt = s.now then s.sys.causeNew else 0
  { s with sys := { s.sys with cause := s.sys.cause ||| m, causeNew := was ||| m, causeAt := s.now } }

/-- W1: every state takes its reset value but what Table PRT-9 keeps; `byReg` says whether a register asked for the reset. -/
def State.warmBegin (s : State) (byReg : Bool) : State :=
  let t : State := { State.reset with
    now := s.now, tbase := s.tbase, lap := s.lap
    regs := s.regs.filter (fun e => warmKeeps e.1)
    agenda := s.agenda.filter Landing.input
    threads := s.threads.foldl (fun m e => mput { } m e.1 { bankY := e.2.bankY, todo := e.2.todo }) []
    desk := s.desk, slate := s.slate, hall := s.hall, ins := s.ins
    pins := s.pins.foldl (fun m e => mput { } m e.1 e.2.inputOnly) []
    strict := s.strict.filter (fun p => (List.range 32).any (fun i => (s.pin (chanOf (fin 16 p) i)).locked))
    cals := s.cals, tripsIn := s.tripsIn, tripLevel := s.tripLevel, insts := s.insts, memS := s.memS
    hosts := s.hosts.foldl (fun m e => mput { } m e.1 { errs := e.2.errs, inRst := e.2.inRst, held := e.2.held }) []
    hly := s.hly.restarted
    upd := { s.upd with seqHost := none, seqHly := none, openCopy := none, moving := [], cmdErr := 0, lcErr := 0 }
    drill := { s.drill with cur := none, ign := none, dmode := false, cardDue := false }
    sys := { s.sys with
      phase := .warm, blockUp := false, lockupAny := false, lockPipe := 0
      warmPend := false, warmByReg := false, warmKeys := [], warmAt := s.now }
    free := s.free, tickStage := s.tickStage, pending := s.pending }
  (((s.pins.map (·.1)).foldl (fun t k => t.keepLocked s (fin 512 k)) t).addCause (if byReg then 8 else 4)).startWipe 4

/-- WARM_RESET: RST_WARM_N is recognised low, and the warm reset begins 4 LCLK later (R42). -/
def State.warmReset (s : State) : State :=
  ({ s with sys := { s.sys with rstWarm := true } } : State).schedule (lclkAt s.now + 31) prioUnit (.warmDue false)

/-- The cycle in which a warm reset is to begin has come: between a cold release and the first bell it stays pending (R46); where
no bell is to come, in the recovery ROM, in production test and when scrapped, it begins at once (log entry 38). -/
def State.warmFall (s : State) (byReg : Bool) : State :=
  let wait : State := { s with sys :=
    if byReg then { s.sys with warmByReg := true } else { s.sys with warmPend := true } }
  match s.sys.phase with
  | .up | .presenceWait => if s.sys.coldBoot then wait else s.warmBegin byReg
  | .recovery | .prodTest | .scrapped => s.warmBegin byReg
  | .cold | .warm => s

/-- A CTL_WARM write with its key: the warm reset begins 16 SCLK after the write's response is accepted (R50). -/
def State.ctlWarm (s : State) (a : Agent) : State :=
  match a with
  | .host h tag => { s with sys := { s.sys with warmKeys := s.sys.warmKeys ++ [(h, tag)] } }
  | _ => s.askWarm (s.now / 2 * 2 + 32)

/-! ### Host reset (R360, Table PRT-9) -/

/-- HOST_RESET: HOST_RST_N is recognised low. The port's leases end at once (Table HST-12); its other effects begin 3 SCLK later
(R42). -/
def State.hostReset (s : State) (h : Host) : State :=
  let s := (s.endLeases (ownerHost h)).modHost h (fun x => { x with inRst := true })
  (s.addCause (bitw (24 + h.val))).schedule (2 * (s.now / 2 + 3) - 1) prioUnit (.hostDrop h)

/-- The effects of a host reset: what is still to be performed of the port's requests is dropped, with its watches and its pending
command, the interrupt lines of its partition fall, and the port is held while HOST_RST_N is low (R360, Table PRT-9). -/
def State.hostFall (s : State) (h : Host) : State :=
  let s := (s.lockHostReset h).modHost h (fun x => { x with reqs := [], held := x.inRst })
  let s : State := { s with ports := s.ports.filter (fun p => decide (p.user ≠ .host h)) }
  let s := (s.irqs.map (·.1)).foldl (fun s k =>
    if s.partOf kIrq k = some h then s.setIrq (fin 64 k) { } else s) s
  { s with sys := { s.sys with warmKeys := s.sys.warmKeys.filter (fun e => decide (e.1 ≠ h)) } }

/-! ### Lifecycle commands (R409 to R411) -/

/-- Every thread goes OFF. -/
def State.stopAll (s : State) : State := (s.threads.map (·.1)).foldl (fun s k => s.disableThread (fin 128 k)) s

/-- A lifecycle transition: RETURNED and SCRAPPED run no thread, and a SCRAPPED block stays in the ROM. -/
def State.lcMove (s : State) (goal : LcState) : State :=
  let s := s.lcEnter goal
  match goal with
  | .returned => s.stopAll
  | .scrapped => let s := s.stopAll; { s with padHold := true, sys := { s.sys with phase := .scrapped } }
  | _ => s

/-- A transition under presence. -/
def State.lcGo (s : State) (goal : LcState) : State := s.withPresence (s.lcErrOf goal) (·.lcMove goal)

/-- RECOVER: a warm reset that enters the ROM. -/
def State.lcRecover (s : State) : State :=
  s.withPresence 0 (fun s => (s.modUpd (fun u => { u with recoverNext := true })).askWarm (s.now + 1))

/-- RECOVBOOT: the verified staged image becomes the confirmed one, its code is placed in bank X, and a warm reset follows. -/
def State.recovBoot (s : State) : State :=
  if s.sys.phase = .recovery ∧ s.upd.stage = .verified ∧ (s.upd.lc = .opened ∨ s.upd.lc = .owned) then
    let img := s.stagingImg
    let s := (s.record 5 0 0).modUpd (fun u => { u with
      stage := .idle, stagingB := !u.stagingB, half := !u.half, cid := u.imgId, cmdErr := 0 })
    let s := (s.threads.map (·.1)).foldl (fun s k => s.modThr (fin 128 k) (fun x => { x with bankY := false, todo := .none })) s
    (s.placeCode img (fun _ => false)).askWarm (s.now + 1)
  else s.updErr 1

/-! ### Inputs (R34, R42, R43, R412) -/

/-- TAMPER. -/
def State.tamper (s : State) : State :=
  ((({ s with sys := { s.sys with tamper := true } } : State).startWipe 1).modUpd (fun u => { u with
    tampers := if u.tampers = 0xFFFF then u.tampers else u.tampers + 1 })).pulse 0x7EF

/-- PRESENCE_N changes level. -/
def State.presenceN (s : State) (level : Bool) : State :=
  if level then { s with sys := { s.sys with presenceLowAt := none, presence := false, presenceArmed := true } }
  else { s with sys := { s.sys with presenceLowAt := match s.sys.presenceLowAt with | some t => some t | none => some s.now } }

/-- PRESENCE_N has been low for 20 ms and is not yet recognised. -/
def State.presenceDue (s : State) : Bool :=
  match s.sys.presenceLowAt with
  | some t => !s.sys.presence && decide (s.sys.phase ≠ .cold) && decide (wallEnd s.mhz t 20000 ≤ s.now)
  | none => false

/-- The presence window has lasted 30 s. -/
def State.windowOver (s : State) : Bool :=
  match s.sys.window with | some t => decide (wallEnd s.mhz t 30000000 ≤ s.now) | none => false

/-! ### The commands -/

/-- COLD_RESET_ASSERT (R42). -/
def execColdResetAssert (s : State) : Host.Outcome State Fault Refusal := .next s.coldAssert

/-- WARM_RESET (R423). -/
def execWarmReset (s : State) : Host.Outcome State Fault Refusal := .next s.warmReset

/-- CTL_WARM (R50). -/
def execCtlWarm (a : Agent) (s : State) : Host.Outcome State Fault Refusal :=
  .next (s.regWriteLow a (s.isOwner a) (·.ctlWarm a))

/-- HOST_RESET (R360). -/
def execHostReset (h : Host) (s : State) : Host.Outcome State Fault Refusal := .next (s.hostReset h)

/-- HOST_RESET_RELEASE (R360). -/
def execHostResetRelease (h : Host) (s : State) : Host.Outcome State Fault Refusal :=
  .next (s.modHost h (fun x => { x with inRst := false, held := false }))

/-- TAMPER (R412). -/
def execTamper (s : State) : Host.Outcome State Fault Refusal := .next s.tamper

/-- PRESENCE_WINDOW_CLOSE (R43). -/
def execPresenceWindowClose (s : State) : Host.Outcome State Fault Refusal :=
  .next (if s.windowOver then { s with sys := { s.sys with window := none } } else s)

/-- PRESENCE_N_CHANGE (R43). -/
def execPresenceNChange (level : Bool) (s : State) : Host.Outcome State Fault Refusal := .next (s.presenceN level)

/-- MOTION_ACTIVE_CHANGE (R42): visible 3 LCLK after the change. -/
def execMotionActiveChange (level : Bool) (s : State) : Host.Outcome State Fault Refusal :=
  .next (s.schedule (lclkAt s.now + 23) prioUnit (.motion level))

/-- HOLDUP_OK_CHANGE (R34): visible 3 LCLK after the change (R42). -/
def execHoldupOkChange (level : Bool) (s : State) : Host.Outcome State Fault Refusal :=
  .next (s.schedule (lclkAt s.now + 23) prioUnit (.holdup level))

/-- ROOT_CLOCK_FAULT (R37): while RST_COLD_N is high no behaviour is defined from then to the next cold reset; while it is
low R36 asks nothing of CLK_ROOT, and nothing changes. -/
def execRootClockFault (s : State) : Host.Outcome State Fault Refusal :=
  if s.sys.phase = .cold then .next s else .fault .rootClockUndefined

/-- LIFECYCLE_TO_OPEN (R410). -/
def execLifecycleToOpen (a : Agent) (s : State) : Host.Outcome State Fault Refusal :=
  .next (s.regWrite a (s.isOwner a) (·.lcGo .opened))

/-- LIFECYCLE_TO_OWNED (R410). -/
def execLifecycleToOwned (a : Agent) (s : State) : Host.Outcome State Fault Refusal :=
  .next (s.regWrite a (s.isOwner a) (·.lcGo .owned))

/-- LIFECYCLE_TO_RETURNED (R410). -/
def execLifecycleToReturned (a : Agent) (s : State) : Host.Outcome State Fault Refusal :=
  .next (s.regWrite a (s.isOwner a) (·.lcGo .returned))

/-- LIFECYCLE_TO_SCRAPPED (R410). -/
def execLifecycleToScrapped (a : Agent) (s : State) : Host.Outcome State Fault Refusal :=
  .next (s.regWrite a (s.isOwner a) (·.lcGo .scrapped))

/-- RECOVER (R409). -/
def execRecover (a : Agent) (s : State) : Host.Outcome State Fault Refusal :=
  .next (s.regWrite a (s.isOwner a) State.lcRecover)

/-- RECOVBOOT (R409). -/
def execRecovboot (a : Agent) (s : State) : Host.Outcome State Fault Refusal :=
  .next (s.regWrite a (s.isOwner a) State.recovBoot)

end Sys2Proof.Machine
end

