-- ==== Sys2Proof/Machine/RegWrite.lean ====
section
/-! DEFINITION. What a write to each register does (R7 to R10 and the register tables of every chapter). -/

namespace Sys2Proof.Machine

/-- A write to a CTL_, HST_, BRL_ or THR_ register. -/
def State.writeCore (s : State) (a : Agent) (v : Word) : Reg → State
  | .ctlRstcause =>
    let fresh := if s.sys.causeAt = s.now then s.sys.causeNew else 0
    { s with sys := { s.sys with cause := s.sys.cause &&& ~~~(v &&& 0xFF00000E &&& ~~~fresh) } }
  | .ctlWarm => if fieldN v 0 16 = 0xA55A then s.ctlWarm a else s
  | .ctlBgate => ([0, 1, 2, 3] : List Barrel).foldl (fun s b => s.gateNow b) (s.storeRw .ctlBgate v)
  | .hstPerr => if bit v 31 && decide (s.perrNew ≠ some s.now) then s.setReg .hstPerr (s.reg .hstPerr &&& 0x7FFFFFFF) else s
  | .hstPcfg p => s.setReg (.hstPcfg p) (if 1024 < fieldN v 0 11 then 1024 else v &&& 0x7FF)
  | .hstPa k w => s.assignWrite k w v
  | .brlSmap b i => s.smapWrite b i.val v
  | .brlSmapCtl b => s.smapCtlWrite b v
  | .brlHqstat b => if bit v 31 then s.modBar b (fun x => { x with dropErr := washed s.now true x.dropErr }) else s
  | .thrCtl t => s.thrCtlWrite t v
  | .thrCfg t => s.cfgWrite t v
  | .thrCeil t => s.ceilWrite t v
  | .thrState t => s.modThr t (fun x => { x with cfgRefused := washed s.now (bit v 29) x.cfgRefused, ctxRefused := washed s.now (bit v 28) x.ctxRefused })
  | .thrPc t => s.ctxWrite t .pc v
  | .thrFp t => s.ctxWrite t .fp v
  | .thrSp t => s.ctxWrite t .sp v
  | .thrSw t => s.ctxWrite t .sw v
  | .thrPxlo t n => s.ctxWrite t (.pxlo n) v
  | .thrPxhi t n => s.ctxWrite t (.pxhi n) v
  | r => s.storeRw r v

/-- A write to an EVT_, IRQ_ or BEL_ register. -/
def State.writeEvents (s : State) (a : Agent) (v : Word) : Reg → State
  | .evtEn t => s.modEvAll t (fun e => { e with en := v })
  | .evtPend t => s.clearEvents t v 0
  | .evtLost t => s.clearEvents t 0 v
  | .evtFstat t => s.modEvAll t (fun e =>
      let e := e.inCycle s.now
      { e with fstat := e.fstat &&& ~~~(v &&& 0xC0000000 &&& ~~~e.fstatNew) })
  | .evtMap t i => s.mapWrite a t i v
  | .evtSwset => s.swset a v
  | .irqTgt src => s.irqTgtWrite a src v
  | .irqLctl l => s.irqLctlWrite l v
  | .irqLack l => if bit v 0 then s.irqAck l else s
  | .belCtl b => s.belCtlWrite b (bit v 0) (bit v 31)
  | .belPeriod b => s.scheduleWrite b (.belPeriod b) v
  | .belStartLo b => s.scheduleWrite b (.belStartLo b) v
  | .belStartHi b => s.scheduleWrite b (.belStartHi b) v
  | r => s.storeRw r v

/-- Clear a flag of every channel of a port whose bit is written 1, within the writer's partition (R220). -/
def State.portClear (s : State) (a : Agent) (p : PinPort) (v : Word) (f : PinS → PinS) : State :=
  (List.range 32).foldl (fun s i => if bit (v &&& s.portMask a p) i then s.modPin (chanOf p i) f else s) s

/-- A write to a PIN_ or SNC_ register. -/
def State.writePins (s : State) (a : Agent) (v : Word) : Reg → State
  | .pinFcfg c n => s.fcfgWrite c (decide (n = 1)) v
  | .pinSwitch c => s.switchWrite c v
  | .pinPad c => s.padWrite c v
  | .pinOwner c => s.ownerWrite c v
  | .pinShcfg c => s.shcfgWrite c v
  | .pinShd c => s.shdWrite c (v.setWidth 8)
  | .pinChstat c => s.modPin c (fun p => { p with
      cfgErr := washed s.now (bit v 31) p.cfgErr, late := washed s.now (bit v 30) p.late
      eqOvf := washed s.now (bit v 29) p.eqOvf, recOvf := washed s.now (bit v 28) p.recOvf })
  | .pinEqpush c => s.schedule (s.now + 1) prioUnit (.eqAppend c (join64 (s.reg (.pinEqtLo c)) (s.reg (.pinEqtHi c))) (v.setWidth 8))
  | .pinEqctl c => if bit v 0 then s.schedule s.now prioUnit (.eqFlush c) else s
  | .pinSet p => s.latchWrite a p v (fun _ => true)
  | .pinClr p => s.latchWrite a p v (fun _ => false)
  | .pinTgl p => s.latchWrite a p v (fun b => !b)
  | .pinPolicy p => s.policyWrite p v
  | .pinLocksel p =>
      let m := s.portMask a p
      s.setReg (.pinLocksel p) ((s.reg (.pinLocksel p) &&& ~~~m) ||| (v &&& m))
  | .pinLockviol p => s.portClear a p v (fun q => { q with lockViol := washed s.now true q.lockViol })
  | .pinOwnign p => s.portClear a p v (fun q => { q with ownIgn := washed s.now true q.ownIgn })
  | .pinLine k => s.lineWrite k v
  | .pinLock => s.lockWrite a ((v >>> 16).setWidth 16) (fin 16 (fieldN v 0 4))
  | .sncCfg n => s.sncCfgWrite n v
  | .sncClk n => s.sncClkWrite n v
  | .sncStat n => s.modSinc n (fun x => { x with
      sat := washed s.now (bit v 29) x.sat, cfgErr := washed s.now (bit v 27) x.cfgErr, clkErr := washed s.now (bit v 26) x.clkErr })
  | r => s.storeRw r v

/-- A write to a TIM_, CVP_ or TRP_ register. -/
def State.writeTimers (s : State) (a : Agent) (v : Word) : Reg → State
  | .timCtl n => s.timCtlWrite n v
  | .timReload n => s.reloadBy a n v
  | .timStat n => s.modTimer n (fun t => { t with trunc := washed s.now (bit v 30) t.trunc, clamp := washed s.now (bit v 29) t.clamp })
  | .timCcCtl u => s.ccCtlWrite u v
  | .timCcVal u => s.compareBy a u v ((s.reg (.timCcFv u)).setWidth 5)
  | .timCcStat u => s.modUnit u (fun x => { x with late := washed s.now (bit v 30) x.late, ovr := washed s.now (bit v 28) x.ovr, wsat := washed s.now (bit v 27) x.wsat })
  | .timGstart h => s.gstartWrite h v
  | .timGstartMask h j => s.setReg (.timGstartMask h j)
      (v &&& bitsWhere 32 (fun i => decide (s.partOf kTimer (32 * j.val + i) = some h)))
  | .cvpCfg n => s.cvpCfgWrite n v
  | .cvpStat n => s.modCvp n (fun x => { x with close := washed s.now (bit v 31) x.close, ign := washed s.now (bit v 30) x.ign })
  | .cvpSwtrig n => if bit v 0 then s.cvpSwtrig n else s
  | .trpSeen j => { s with tripSeen := s.tripSeen &&& ~~~((((v &&& s.tripMask a j.val).setWidth 128) <<< (32 * j.val)) &&&
      ~~~(if s.seenAt = s.now then s.seenNew else 0)) }
  | .trpStnCtl st => s.stnCtlWrite st v
  | .trpStnPins st => s.stnPinsWrite st v
  | .trpStnTim st => s.stnTimWrite st v
  | .trpStnTmask st j => s.stnTmaskWrite st j v
  | .trpStnStat st =>
      let s := if bit v 30 then s.latchedClear st else s
      if bit v 28 then s.modStn st (fun x => { x with cfgErr := washed s.now true x.cfgErr }) else s
  | r => s.storeRw r v

/-- A write to DMA_CCTL or DMA_KICK: several commands in one write act in the order GO, KICK, ABORT, RESUME. -/
def State.chCommand (s : State) (ch : DmaCh) (go kick abort resume : Bool) : State :=
  let s := if go then s.dmaGo ch else s
  let s := if kick then s.dmaKick ch else s
  let s := if abort then s.dmaAbort ch else s
  if resume then s.dmaResume ch else s

/-- A write to a DMA_, QM_ or HPS_ register. -/
def State.writeQueues (s : State) (v : Word) : Reg → State
  | .dmaCctl ch => s.chCommand ch (bit v 31) false (bit v 30) (bit v 29)
  | .dmaKick ch => s.chCommand ch false (bit v 0) (bit v 1) false
  | .dmaCstat ch => s.modCh ch (fun x => { x with ign := washed s.now (bit v 25) x.ign, plost := washed s.now (bit v 24) x.plost })
  | .dmaEctl e => if bit v 31 then s.engineClear e else s
  | .dmaEcfg e => s.setReg (.dmaEcfg e) (tagmaxOf v)
  | .qmCtl => s.setReg .qmCtl (tagmaxOf v)
  | .qmRcmd h => s.rcmdWrite h v
  | .qmPoolbase p => s.poolWrite p (.qmPoolbase p) v
  | .qmPoolcnt p => s.poolWrite p (.qmPoolcnt p) v
  | .qmRflag r => s.modRing r (fun x => { x with
      drop := washed s.now (bit v 27) x.drop, dberr := washed s.now (bit v 26) x.dberr
      ue := washed s.now (bit v 24) x.ue, lost := washed s.now (bit v 23) x.lost })
  | .qmRprod r => s.prodDoorbell r v
  | .qmRcons r => s.consDoorbell r v
  | .hpsHcmd h => s.hcmdWrite h v
  | .hpsForce => s.hpsForce (v.setWidth 23)
  | .hpsTstat t => s.modLockStat t (fun x => {
      lfull := washed s.now (bit v 31) x.lfull, wfull := washed s.now (bit v 30) x.wfull
      freemiss := washed s.now (bit v 29) x.freemiss })
  | r => s.storeRw r v

/-- A write to UPD_CMD: other values are ignored. -/
def State.updCmdWrite (s : State) (v : Word) : State :=
  let chain := bit v 23
  let c := fieldN v 28 4
  if c = 1 then s.updCommand 1 chain
  else if c = 2 then s.updCommand 6 chain
  else if c = 3 then s.updCommand 2 chain
  else if c = 4 then s.updCommand 3 chain
  else if c = 5 then s.updCommand 4 chain
  else if c = 6 then s.updCommand 5 chain
  else if c = 7 then s.setBegin
  else if c = 8 then s.setCommit
  else if c = 9 then s.recovBoot
  else if c = 10 then s.updSend
  else s

/-- A write to LCS_CMD: only its key makes it a command. -/
def State.lcsCmdWrite (s : State) (v : Word) : State :=
  let c := fieldN v 0 4
  if fieldN v 16 16 ≠ 0x4C43 then s
  else if c = 1 then s.lcGo .opened
  else if c = 2 then s.lcGo .owned
  else if c = 3 then s.lcGo .returned
  else if c = 4 then s.lcGo .scrapped
  else if c = 5 then (s.modUpd (fun u => { u with ownLock := true })).lcResult 0
  else if c = 6 then s.withPresence 0 (fun s => s.modUpd (fun u => { u with ownLock := false }))
  else if c = 7 then s.withPresence 0 (fun s => s.startWipe 5)
  else if c = 8 then s.lcRecover
  else s

/-- A write to HLY_CMD. -/
def State.hlyCmdWrite (s : State) (v : Word) : State :=
  let c := fieldN v 28 4
  if c = 1 then s.cmdRollcall
  else if c = 2 then s.reacq
  else if c = 3 then s.measure
  else if c = 4 then s.txmsg
  else s

/-- A field of a word whose value 0 stores 1. -/
def zeroIsOne (v : Word) (lo n : Nat) : Word := if fieldN v lo n = 0 then v ||| bitw lo else v

/-- A write to a MEM_, DRL_, HLY_, UPD_ or LCS_ register. -/
def State.writeSystem (s : State) (v : Word) : Reg → State
  | .memEccctl => s.eccctlWrite v
  | .memTctl m => s.tctlWrite m v
  | .memTstat m => s.modInst m (fun x => { x with fail := washed s.now (bit v 26) x.fail })
  | .memSecstat => { s with memS := { s.memS with wipeDone := washed s.now (bit v 30) s.memS.wipeDone } }
  | .memMrstat => { s with memS := { s.memS with mramUe := washed s.now (bit v 30) s.memS.mramUe } }
  | .drlCmd => s.drlCmdWrite v
  | .drlRes => { s with drill := { s.drill with done := washed s.now (bit v 31) s.drill.done } }
  | .drlStat => { s with drill := { s.drill with ign := washed s.now (bit v 30) s.drill.ign } }
  | .hlyCtl => s.hlyCtlWrite v
  | .hlyCmd => s.hlyCmdWrite v
  | .hlyTctl => s.tctlHlyWrite v
  | .hlyRxctl => s.rxctlWrite v
  | .updCmd => s.updCmdWrite v
  | .updCfg => s.setReg .updCfg (zeroIsOne (zeroIsOne v 16 16) 0 16)
  | .updIwin i => s.iwinWrite (4 * i.val) (leBytes v.toNat 4)
  | .updSwin i => s.swinWrite (4 * i.val) (leBytes v.toNat 4)
  | .lcsCmd => s.lcsCmdWrite v
  | .lcsOkh i => if s.upd.lc = .opened then s.setReg (.lcsOkh i) v else s
  | r => s.storeRw r v

/-- A write of an agent to a register that it reaches. -/
def State.writeReg (s : State) (a : Agent) (r : Reg) (v : Word) : State :=
  if r.region ≤ 1 then s.writeCore a v r
  else if r.region ≤ 3 then s.writeEvents a v r
  else if r.region = 4 then s.writePins a v r
  else if r.region = 6 then (if 0xD0000 ≤ r.off then s.writePins a v r else s.writeTimers a v r)
  else if r.region = 5 then s.writeTimers a v r
  else if r.region ≤ 9 then s.writeQueues v r
  else s.writeSystem v r

end Sys2Proof.Machine
end

