-- ==== Sys2Proof/Machine/Start.lean ====
section
/-! DEFINITION. Cold and warm starts: straps, journal replay, the choice of the image, memories and the start table (R40,
R41, R404, R405, R408, R409, R417 to R423). -/

namespace Sys2Proof.Machine

/-! ### Journal replay (R404, R405) -/

/-- The newest CONFIRMED record. -/
def UpdS.lastConfirmed (u : UpdS) : Option JRec := u.journal.find? (fun r => decide (r.typ = 5))

/-- The newest update record: any but SETCOMMIT. -/
def UpdS.lastUpdate (u : UpdS) : Option JRec := u.journal.find? (fun r => decide (r.typ ≠ 8))

/-- The previous CONFIRMED image: the other slot's, unless a later download has begun to replace it. -/
def UpdS.prevConfirmed (u : UpdS) : Option JRec :=
  match u.lastConfirmed with
  | none => none
  | some c =>
    match u.journal.find? (fun r => (decide (r.typ = 5) || decide (r.typ = 1)) && (r.slotB == !c.slotB)) with
    | some r => if r.typ = 5 then some r else none
    | none => none

/-- A CONFIRMED record names the confirmed slot and the current settings half. -/
def State.useConfirmed (s : State) (r : Option JRec) : State :=
  match r with
  | some r => s.modUpd (fun u => { u with stagingB := !r.slotB, half := r.half, cid := r.imgid })
  | none => s

/-- The outcome of Table HLY-9. -/
def State.replay (s : State) : State :=
  let verifying := decide (s.upd.stage = .verifying)
  let s := (s.useConfirmed s.upd.lastConfirmed).modUpd (fun u => { u with
    order := none, fallback := none, confirmBy := none, beginAfter := none, copyDone := false, copyErr := false
    seqHost := none, seqHly := none, openCopy := none, moving := [], vDone := false, vFail := 0, reverify := false })
  match s.upd.lastUpdate with
  | none => s.modUpd (fun u => { u with stage := .idle })
  | some r =>
    if r.typ = 1 then s.modUpd (fun u => { u with stage := .download, reverify := verifying })
    else if r.typ = 2 then s.modUpd (fun u => { u with stage := .download, reverify := true })
    else if r.typ = 3 then (s.record 7 r.cls r.bell).modUpd (fun u => { u with stage := .verified, outcome := 4, cause := 0 })
    else if r.typ = 4 then (s.record 6 r.cls r.bell).modUpd (fun u => { u with stage := .verified, outcome := 6, cause := 0 })
    else if r.typ = 5 then s.modUpd (fun u => { u with stage := .idle })
    else s.modUpd (fun u => { u with stage := .verified })

/-! ### Memories and settings (Table SUP-1 step 6, R408) -/

/-- Desk, slate and hall hold zeros, and their ECC words are whole. -/
def State.clearMemories (s : State) : State :=
  { s with desk := [], slate := [], hall := []
           insts := s.insts.foldl (fun m e => if 4 ≤ e.1 then mput { } m e.1 { e.2 with ue := [] } else mput { } m e.1 e.2) [] }

/-- Place slate bytes of a thread into both copies of its lines (R212). -/
def State.placeSlate (s : State) (t : Tid) (l : List Byte) : State :=
  ((List.range l.length).zip l).foldl (fun s e =>
    (s.setSlate t false (e.1 / 64) (e.1 % 64) e.2).setSlate t true (e.1 / 64) (e.1 % 64) e.2) s

/-- Place the init sections of an image. -/
def State.placeInit (s : State) (m : Mem) : State :=
  (imgSects m).foldl (fun s x =>
    let l := peeks m x.off x.len
    if x.kind = 2 then s.setDesks (fin 4 x.arg) x.dest l
    else if x.kind = 3 then s.setHalls x.dest l
    else if x.kind = 4 then s.placeSlate (fin 128 x.arg) l
    else s) s

/-- The payload of the settings goes where SETMAP says. -/
def State.placePayload (s : State) (m : Mem) (l : List Byte) : State :=
  match sectsOf m 8 with
  | [] => s
  | x :: _ =>
    let a := imgNum m (x.off + 4) 4
    if imgNum m x.off 1 = 1 then s.setDesks (fin 4 (imgNum m (x.off + 1) 1)) a l
    else if imgNum m x.off 1 = 2 then s.setHalls a l
    else s

/-- The current copy's payload, or the image's defaults in drill mode and where no copy verifies (R406, R408). -/
def State.placeSettings (s : State) (m : Mem) : State :=
  let defaults := match sectsOf m 7 with | [] => [] | x :: _ => peeks m x.off x.len
  let good := match s.copyOf s.upd.half with
    | some c => if !s.drill.dmode && copyOk c (imgSetfmt m) then some (peeks c.data 64 (c.len - 64)) else none
    | none => none
  match good with
  | some l => (s.modUpd (fun u => { u with setDef := false })).placePayload m l
  | none => (s.modUpd (fun u => { u with setDef := true })).placePayload m defaults

/-! ### The start table (R421) -/

/-- The flag by which a register's unit shows a refused write. -/
def State.refusalFlag (s : State) : Reg → Bool
  | .thrCfg t => (s.thr t).cfgRefused.isSome
  | .thrPc t | .thrFp t | .thrSp t | .thrSw t | .thrPxlo t _ | .thrPxhi t _ => (s.thr t).ctxRefused.isSome
  | .hstPa _ _ => bit (s.reg .hstPerr) 31
  | .brlSmapCtl b => decide ((s.bar b).err ≠ 0)
  | .belCtl b => decide ((s.bell b).err ≠ 0)
  | .pinFcfg c _ | .pinPad c | .pinOwner c | .pinShcfg c | .pinSwitch c => (s.pin c).cfgErr.isSome || (s.pin c).lockViol.isSome || decide ((s.pin c).swErr ≠ 0)
  | .sncCfg n | .sncClk n => (s.sinc n).cfgErr.isSome
  | .trpStnCtl st => (s.stn st).cfgErr.isSome
  | .timGstart h => decide ((s.gstart h).err ≠ 0)
  | .dmaCctl ch | .dmaKick ch => (s.ch ch).ign.isSome
  | .qmRcmd h => decide ((mget ((0 : BitVec 3), (0 : Ring)) s.qm.rcmd h.val).1 ≠ 0)
  | .qmRprod r | .qmRcons r => (s.ring r).dberr.isSome
  | _ => false

/-- An entry of the table that was carried out decides the held bit of its THR_CTL or BEL_CTL. -/
def State.hold (s : State) (r : Reg) (v : Word) : State :=
  let set (l : List Nat) (n : Nat) : List Nat := if bit v 0 then n :: l.erase n else l.erase n
  match r with
  | .thrCtl t => { s with sys := { s.sys with heldThr := set s.sys.heldThr t.val } }
  | .belCtl b => { s with sys := { s.sys with heldBel := set s.sys.heldBel b.val } }
  | _ => s

/-- One entry of the table as the owner host's write: THR_CTL.EN and BEL_CTL.EN stay clear and are held, and a refused entry is
counted. -/
def State.tableEntry (s : State) (e : Nat × Word) : State :=
  match decodeReg s.owner e.1 with
  | none => s
  | some r =>
    let v := match r with | .thrCtl _ => e.2 &&& ~~~1#32 | .belCtl _ => e.2 &&& ~~~1#32 | _ => e.2
    let refuse (s : State) : State := { s with drill := { s.drill with refused := s.drill.refused + 1 } }
    if s.writable .block r then
      let t := s.writeReg .block r v
      let refused := t.refusalFlag r && (!s.refusalFlag r || decide (t.reg r &&& r.rw ≠ v &&& r.rw))
      if refused then refuse t else t.hold r e.2
    else refuse s

/-- Step 8: every held bit is set in one FCLK. -/
def State.applyHeld (s : State) : State :=
  let thr := (List.finRange 128).filter (fun t => s.sys.heldThr.contains t.val)
  let bel := (List.finRange 16).filter (fun b => s.sys.heldBel.contains b.val)
  let s : State := { s with sys := { s.sys with heldThr := [], heldBel := [] } }
  let s := bel.foldl (fun s b => s.belCtlWrite b true false) s
  thr.foldl (fun s t => s.thrCtlWrite t (s.reg (.thrCtl t) ||| 1)) s

/-- Steps 6 and 8 with an image. -/
def State.runImage (s : State) (m : Mem) : State :=
  let l := startTable m
  let s : State := { s with
    drill := { s.drill with refused := 0, discards := 0, startAt := s.now
                            startBell := match startBellOf l with | some b => BitVec.ofNat 4 b.val | none => 0 }
    sys := { s.sys with phase := .up, fineLock := true, heldThr := [], heldBel := [] } }
  let s := (s.clearMemories.placeInit m).placeSettings m
  (l.foldl (fun s e => s.tableEntry e) s).applyHeld

/-- The recovery ROM (R409). -/
def State.enterRom (s : State) : State :=
  { s with
    sys := { s.sys with phase := .recovery, cause := s.sys.cause ||| 1, fineLock := true }
    upd := { s.upd with stage := .recovery, recoverNext := false } }

/-! ### Cold start (Table SUP-1) -/

/-- The code of an image goes into bank X of each barrel. -/
def State.loadCode (s : State) (m : Mem) : State := s.placeCode m (fun _ => false)

/-- Steps 3 to 8. -/
def State.coldImages (s : State) : State :=
  let s := s.replay
  let run (s : State) : State := (s.loadCode s.confirmedImg).runImage s.confirmedImg
  if s.upd.lastConfirmed.isSome && s.startCheck (!s.upd.stagingB) .ok then run s
  else match s.upd.prevConfirmed with
    | none => s.enterRom
    | some r =>
      let s := s.useConfirmed (some r)
      if s.startCheck (!s.upd.stagingB) .ok then run { s with drill := { s.drill with prevUsed := true } } else s.enterRom

/-- Steps 1 and 2 after any presence wait, then the images. -/
def State.coldStart (s : State) : State :=
  let st := s.sys.straps
  let virgin := decide (s.upd.lc = .blank) || decide (s.upd.lc = .returned)
  let s : State := { s with sys := { s.sys with testRefused := st.testMode && !virgin } }
  if s.sys.rootErr || s.sys.recoveryTaken then s.enterRom
  else if st.testMode && virgin then { s with hall := [], desk := [], sys := { s.sys with phase := .prodTest } }
  else if virgin then s.enterRom
    else if s.upd.lc = .scrapped then { s with sys := { s.sys with phase := .scrapped } }
    else s.coldImages

/-- COLD_RESET_RELEASE: the straps are sampled (R40), TBASE counts from 0, and the start runs or waits for presence. -/
def State.coldRelease (s : State) (st : Straps) : State :=
  if s.sys.phase = .cold then
    let mhz := st.rootMhz.toNat
    let forced := !st.hportEn.getLsbD st.owner.val
    let s : State := { s with
      now := 0, tbase := 0
      sys := { s.sys with
        straps := { st with hportEn := st.hportEn ||| (1#8 <<< st.owner.val) }
        rootErr := decide (mhz < 1200) || decide (2400 < mhz), ownerForced := forced, cause := 2
        presenceLowAt := s.sys.presenceLowAt.map (fun _ => 0), presence := false, presenceArmed := true, window := none } }
    if st.recovery then { s with sys := { s.sys with phase := .presenceWait } } else s.coldStart
  else s

/-- The presence wait ends 20.5 ms after sampling (R41). -/
def State.waitOver (s : State) : Bool :=
  decide (s.sys.phase = .presenceWait) && decide (wallEnd s.mhz 0 20500 ≤ s.now)

/-- PRESENCE_WINDOW_OPEN: recognition after 20 ms of continuous low; within the presence wait it honours the request. -/
def State.windowOpen (s : State) : State :=
  if s.presenceDue then
    let opens := s.sys.presenceArmed && s.sys.window.isNone
    let s : State := { s with sys := { s.sys with
      presence := true, presenceArmed := false, window := if opens then some s.now else s.sys.window } }
    let s := if opens then s.pulse 0x7EF else s
    if s.sys.phase = .presenceWait then ({ s with sys := { s.sys with recoveryTaken := true } } : State).coldStart else s
  else s

/-! ### Warm start (Table SUP-2) -/

/-- The bank of a barrel that holds the confirmed image as a warm reset finds it. -/
def State.confirmedBank (s : State) (b : Barrel) : Bool :=
  let l := (List.range 32).map (fun i => s.thr (threadOf b i))
  let here := (s.thr (threadOf b 0)).bankY
  if (s.upd.stage = .switching ∨ s.upd.stage = .provisional) ∧ (sectsOf s.stagingImg 1).any (fun x => decide (x.arg = b.val)) = true then
    match l.find? (fun t => decide (t.todo = .toNew)) with
    | some t => t.bankY
    | none => (match l.find? (fun t => decide (t.todo = .toOld)) with | some t => !t.bankY | none => !here)
  else here

/-- Every bank selector names the chosen image's bank. -/
def State.setBanks (s : State) : State :=
  (List.finRange 128).foldl (fun t i => t.modThr i (fun x => { x with bankY := s.confirmedBank (barrelOf i), todo := .none })) s

/-- W2 to W4: the ROM, or the confirmed image. Production-test mode goes on through a warm reset (log entry 38, DESIGN CHOICE). -/
def State.warmStart (s : State) : State :=
  let s : State := { s.setBanks with
    sys := { s.sys with cause := s.sys.cause &&& ~~~1#32, drillNext := false }
    drill := { s.drill with dmode := s.sys.drillNext, prevUsed := false } }
  let s := s.replay
  if s.sys.rootErr ∨ s.upd.recoverNext then s.enterRom
  else if s.upd.lc = .blank ∨ s.upd.lc = .returned then
    (if s.sys.straps.testMode then { s with sys := { s.sys with phase := .prodTest } } else s.enterRom)
  else if s.upd.lc = .scrapped then { s with sys := { s.sys with phase := .scrapped } }
  else if s.upd.lastConfirmed.isSome && s.startCheck (!s.upd.stagingB) .ok then s.runImage s.confirmedImg
  else s.enterRom

/-- A warm reset that has lasted its 64 LCLK ends when RST_WARM_N is high (R46). -/
def State.warmOver (s : State) : Bool :=
  decide (s.sys.phase = .warm) && !s.sys.rstWarm && decide (s.sys.warmAt + 512 ≤ s.now)

/-- WARM_RESET_END: RST_WARM_N is high. During a warm reset the start follows once 64 LCLK have passed; a request of the
pin that was still pending is dropped (R46). -/
def State.warmEnd (s : State) : State :=
  let s : State := { s with sys := { s.sys with rstWarm := false, warmPend := false } }
  if s.warmOver then s.warmStart else s

/-! ### The commands -/

/-- COLD_RESET_RELEASE (R417). -/
def execColdResetRelease (st : Straps) (s : State) : Host.Outcome State Fault Refusal := .next (s.coldRelease st)

/-- PRESENCE_WAIT_END (R41). -/
def execPresenceWaitEnd (s : State) : Host.Outcome State Fault Refusal := .next (if s.waitOver then s.coldStart else s)

/-- PRESENCE_WINDOW_OPEN (R43). -/
def execPresenceWindowOpen (s : State) : Host.Outcome State Fault Refusal := .next s.windowOpen

/-- WARM_RESET_END (R423). -/
def execWarmResetEnd (s : State) : Host.Outcome State Fault Refusal := .next s.warmEnd

end Sys2Proof.Machine
end

