-- ==== Sys2Proof/Machine/DmaMove.lean ====
section
/-! DEFINITION. Bursts of a DMA engine: what they read, where their bytes go, the writes they issue and how they end (R327, R330, R349). -/

namespace Sys2Proof.Machine

/-! ### What a burst reads (R327, R330) -/

/-- Bytes of the block that a transpose works on. -/
def EngineS.block (x : EngineS) : Nat := if x.shuf = 3 then 8 else 128

/-- Bytes of a copy's next burst: the part of the row within one 64-byte aligned block of the source. -/
def EngineS.piece (x : EngineS) : Nat :=
  let room := 64 - (x.srcRow x.row + x.off) % 64
  if x.len - x.off ≤ room then x.len - x.off else room

/-- The source ranges of the next burst. -/
def EngineS.burstReads (x : EngineS) : List (Nat × Nat) :=
  if x.skind then [(x.getAt, 64)]
  else if x.dkind then [(x.srcRow x.row + x.off, 64)]
  else if x.shuf = 0 then [(x.srcRow x.row + x.off, x.piece)]
  else if x.shuf = 1 then (List.range x.rows).map (fun i => (x.srcRow i + x.off, x.esize))
  else if x.shuf = 2 then [(x.src + x.rows * x.off, x.rows * x.esize)]
  else [(x.srcRow x.row + x.off, x.block)]

/-! ### Where the bytes go (R327) -/

/-- Output byte p, bit t is input byte t, bit p. -/
def transpose8 (l : List Byte) : List Byte :=
  (List.range 8).map (fun p => (bitsWhere 8 (fun t => (l.getD t 0).getLsbD p)).setWidth 8)

/-- Bit t of word p of a block of 32 words. -/
def blockBit (l : List Byte) (p t : Nat) : Bool := (l.getD (4 * p + t / 8) 0).getLsbD (t % 8)

/-- Output word p, bit t is input word t, bit p. -/
def transpose32 (l : List Byte) : List Byte :=
  (List.range 32).flatMap (fun p => leBytes (bitsWhere 32 (fun t => blockBit l t p)).toNat 4)

/-- The bytes that the burst has read, range after range. -/
def EngineS.burstData (x : EngineS) : List Byte := x.burstReads.flatMap (fun r => peeks x.rbuf r.1 r.2)

/-- The destinations of the burst with their bytes. -/
def EngineS.burstPlaces (x : EngineS) : List (Nat × List Byte) :=
  let l := x.burstData
  if x.skind ∨ x.shuf = 0 then [(x.dstRow x.row + x.off, l)]
  else if x.shuf = 1 then [(x.dst + x.rows * x.off, l)]
  else if x.shuf = 2 then (List.range x.rows).map (fun i => (x.dstRow i + x.off, (l.drop (i * x.esize)).take x.esize))
  else if x.shuf = 3 then [(x.dstRow x.row + x.off, transpose8 l)]
  else [(x.dstRow x.row + x.off, transpose32 l)]

/-- The write requests of one destination: the beats of each 64-byte block with the bytes they enable (R324, R339). -/
def writeReqs (a : Nat) (l : List Byte) : List (BitVec 48 × Nat × Bytes) :=
  (blockReqs a l.length).map (fun q =>
    (q.1, q.2, (bytesAt a l).filter (fun e => decide (q.1.toNat ≤ e.1) && decide (e.1 < q.1.toNat + 32 * q.2))))

/-! ### Writes inside the block (R323, R324) -/

/-- The word that a request's bytes give the register at an address, with how many of its bytes they enable. -/
def regBytes (l : Bytes) (a : Nat) : Word × Nat :=
  let mine := l.filter (fun e => decide (a ≤ e.1) && decide (e.1 < a + 4))
  (BitVec.ofNat 32 (leNat (mine.map (·.2))), mine.length)

/-- A DMA channel writes one register of hc:0x06_0000 and above: the kind of the error, where it has no right or gives
only some of the bytes. -/
def State.dmaRegWrite (s : State) (ch : DmaCh) (off : Nat) (v : Word) (enabled : Nat) : Except (BitVec 3) State :=
  if enabled = 0 then .ok s
  else if enabled < 4 then .error 4
  else if reservedOff off then .error 2
  else match decodeReg (s.bankOf (.dma ch)) off with
    | none => .ok s
    | some r => if s.writable (.dma ch) r then .ok (s.writeReg (.dma ch) r v) else .error 2

/-- A request's writes to registers, one register at a time; the first error is the engine's. -/
def State.dmaRegWrites (s : State) (e : Engine) (addr beats off : Nat) (l : Bytes) : State :=
  (List.range (8 * beats)).foldl (fun s i =>
    let w := regBytes l (addr + 4 * i)
    match s.dmaRegWrite (s.curCh e) (off + 4 * i) w.1 w.2 with
    | .ok s => s
    | .error k => s.ownError e 3 k (addr + 4 * i)) s

/-- The bytes that a write enables of the line or granule that begins at a DMA address. -/
def packLine (base n : Nat) (l : Bytes) : LineAccess :=
  let at_ (i : Nat) : Option (Nat × Byte) := l.find? (fun e => decide (e.1 = base + i))
  .write (BitVec.ofNat 512 (leNat ((List.range n).map (fun i => match at_ i with | some e => e.2 | none => 0))))
    (BitVec.ofNat 64 (((List.range n).map (fun i => if (at_ i).isSome then 2 ^ i else 0)).sum))

/-- The line, or the granules, that a write request of a channel inside the memories waits for. -/
def State.dmaWrites (s : State) (ch : DmaCh) (q : BitVec 48 × Nat × Bytes) : List PortReq :=
  ((s.dmaPorts ch false (q.1, q.2.1)).map (fun p =>
    let base := p.dmaAddr - p.off
    let n := if p.desk.isSome then 64 else 16
    { p with acc := packLine base n (q.2.2.filter (fun e => decide (base ≤ e.1) && decide (e.1 < base + n))), off := 0, len := n })).filter
    (fun p => match p.acc with | .write _ strb => decide (strb ≠ 0) | .read => false)

/-- One write request of a burst: to system memory through the initiator port, to registers at once, and to the memories through
their shared ports. -/
def State.writeOut (s : State) (e : Engine) (q : BitVec 48 × Nat × Bytes) : State :=
  let a := q.1.toNat
  let first := (q.2.2.headD (a, 0)).1
  if (s.eng e).st ≠ .running then s
  else match dmaTarget a with
    | .sys => s.modEng e (fun x => { x with wrts := x.wrts ++ [q] })
    | .regRead _ => s.ownError e 3 2 first
    | .reg o => s.dmaRegWrites e a q.2.1 o q.2.2
    | .desk _ _ => { s with ports := s.ports ++ s.dmaWrites (s.curCh e) q }
    | .hall o =>
      (match s.agentPart (.dma (s.curCh e)) with
       | none => s.ownError e 3 2 first
       | some p =>
         if s.hallRangeIn p (o + (first - a)) q.2.2.length then { s with ports := s.ports ++ s.dmaWrites (s.curCh e) q }
         else s.ownError e 3 2 first)
    | .refused => s.ownError e 3 2 first

/-! ### Beginning a burst (R330, R349) -/

/-- A post of a burst reserves its slot and its cell. -/
def State.reserveBurst (s : State) (e : Engine) : State :=
  let r := (s.eng e).dstRing
  let s := s.reserve r
  if (s.ring r).needsCell false then
    let p : Fin 8 := fin 8 (s.ring r).pool.toNat
    match s.freeCell p with
    | none => s
    | some i => (s.takeCell p i).modEng e (fun x => { x with cell := some ((s.ring r).pool, i) })
  else s

/-- A get of a burst takes its entry: the queue manager reads a hall ring's, the engine itself another ring's. -/
def State.takeEntry (s : State) (e : Engine) : State :=
  let r := (s.eng e).srcRing
  let n := (s.ring r).take
  let s := (s.modRing r (fun x => { x with take := x.take + 1 })).modEng e (fun x => { x with getLost := false })
  if (s.ring r).inHall then
    (s.modEng e (fun x => { x with phase := .reading, rbuf := [], reads := [], ringWait := true, getAt := 0 })).addItem
      (.take r n (s.curCh e) (s.eng e).serial)
  else
    let a := (s.sysSlot (s.ring r) n).toNat
    (s.modEng e (fun x => { x with getAt := a })).beginReads e [(a, 64)]

/-- A burst that is granted and that its ring lets go begins. -/
def State.beginBurst (s : State) (e : Engine) : State :=
  let x := s.eng e
  match s.ringTurn e with
  | .fault => s.ownError e 5 5 (if x.dkind then x.dst else x.src)
  | .hold => s
  | .go =>
    if s.granted e then
      let s := if x.paced then s.modCh (s.curCh e) (fun c => { c with grant := false }) else s
      if x.skind then s.takeEntry e
      else if x.dkind then (s.reserveBurst e).beginReads e x.burstReads
      else s.beginReads e x.burstReads
    else s

/-! ### Placing and ending a burst (R330, R332) -/

/-- The row and byte at which the burst after this one begins. -/
def EngineS.advance (x : EngineS) : EngineS :=
  let step := if x.skind ∨ x.dkind then 64 else if x.shuf = 0 then x.piece else if x.shuf = 1 ∨ x.shuf = 2 then x.esize else x.block
  if x.len ≤ x.off + step then
    { x with off := 0, row := if x.shuf = 1 ∨ x.shuf = 2 then x.rows else x.row + 1 }
  else { x with off := x.off + step }

/-- The bytes that the burst moves. -/
def EngineS.burstSize (x : EngineS) : Nat := (x.burstReads.map (·.2)).sum

/-- Post the piece that a burst to a ring has read: it becomes an item of the queue manager with its reservation. -/
def State.burstPost (s : State) (e : Engine) : State :=
  let x := s.eng e
  let data := BitVec.ofNat 512 (leNat x.burstData)
  let s := (match x.cell with
    | some (p, i) => s.hallWrite (s.cellAddr (fin 8 p.toNat) i) (bytes64 data)
    | none => s)
  (s.addItem (.post x.dstRing data x.cell (.chan (s.curCh e) x.serial))).modEng e (fun x => { x with cell := none })

/-- The bytes of a burst have all been read: its writes begin. A get whose entry a DRAIN has discarded moves nothing and is made
again (R341). -/
def State.placeBurst (s : State) (e : Engine) : State :=
  let x := s.eng e
  if x.getLost then s.modEng e (fun x => { x with phase := .none, getLost := false })
  else
  let s := s.modEng e (fun x => { x with phase := .writing })
  if x.dkind then s.burstPost e
  else
    let s := if x.skind && !(s.ring x.srcRing).inHall then s.modRing x.srcRing (fun y => { y with cons := y.cons + 1 }) else s
    (x.burstPlaces.flatMap (fun d => writeReqs d.1 d.2)).foldl (fun s q => s.writeOut e q) s

/-- Issue the next write of an engine, where its port takes it now. -/
def State.issueWrite (s : State) (e : Engine) : State :=
  match (s.eng e).wrts with
  | [] => s
  | (a, n, l) :: rest =>
    match s.mayIssue e.val with
    | none => s
    | some tag =>
      (s.modEng e (fun x => { x with wrts := rest })).issueReq
        { tag := tag, port := s.engPort e, user := .chan (s.curCh e) (s.eng e).serial, write := true, addr := a, beats := n, data := l, phase := 3 }

/-- The last write of a burst has been issued: the residue, STARTED and half completion. -/
def State.endBurst (s : State) (e : Engine) : State :=
  let x := s.eng e
  let ch := s.curCh e
  let done := x.written + x.burstSize
  let half := x.d3.getLsbD 1 && !x.halfDone && decide (ceilDiv x.total 2 ≤ done)
  let s := s.modEng e (fun x => { x.advance with phase := .none, written := done, halfDone := x.halfDone || half })
  let s := s.modCh ch (fun c => { c with started := true, cres := BitVec.ofNat 32 (x.total - done) })
  if half then s.chPulse ch else s

/-- The engine may work at its burst. -/
def State.bursting (s : State) (e : Engine) : Bool :=
  let x := s.eng e
  decide (x.st = .running) && decide (x.work = .move)

/-- DMA_BURST: begins the next burst, issues the read or the write that its port takes now, and ends the burst once
its last write has been issued. An abort lets no further burst begin (R333). -/
def State.burst (s : State) (e : Engine) : State :=
  let s := if s.bursting e && decide ((s.eng e).phase = .none) && !(s.eng e).moved && !(s.ch (s.curCh e)).aborting
    then s.beginBurst e else s
  let s := if s.bursting e && decide ((s.eng e).phase = .reading) then s.issueRead e else s
  let s := if s.bursting e && s.readsDone e then s.placeBurst e else s
  let s := if s.bursting e && decide ((s.eng e).phase = .writing) then s.issueWrite e else s
  if s.bursting e && decide ((s.eng e).phase = .writing) && (s.eng e).wrts.isEmpty then s.endBurst e else s

/-- DMA_BURST (R330). -/
def execDmaBurst (e : Engine) (s : State) : Host.Outcome State Fault Refusal := .next (s.burst e)

end Sys2Proof.Machine
end

