-- ==== Sys2Proof/Machine/Landing.lean ====
section
/-! DEFINITION. Landings: what each entry of the agenda does when its cycle has ended, the accesses to the I/O space in c6
among them (R67, R105, R148). -/

namespace Sys2Proof.Machine

/-! ### Accesses to the I/O space in c6 (R24, R26, R148, R165, R205, R345, R346) -/

/-- IN may read the register at an address: it lies in the thread's partition (R24). -/
def State.inOk (s : State) (t : Tid) (io : Nat) : Bool :=
  match ioReg t io with
  | some x => s.ioInside t x
  | none => false

/-- OUT may write the register at an address: in the partition, not RO, at the level it needs, and on an owned channel (R24,
R165, R219). `superv` is the level of the thread at the read point. -/
def State.outOk (s : State) (t : Tid) (io : Nat) (superv : Bool) : Bool :=
  match ioReg t io with
  | some x =>
    s.ioInside t x &&
    (match x.wr with | .ro => false | .any => true | .superv => superv) &&
    (match x.owned with | some c => decide (s.pinOwner c = some t) | none => true)
  | none => false

/-- A thread's post is no bus error: the ring is loaded, its producer side with threads, and it has room and a cell or drops
what it cannot take; nor is it the seventeenth staged post (R205, R345). -/
def State.postOk (s : State) (t : Tid) (r : Ring) (staged : Bool) : Bool :=
  !(staged && (s.classOf t).isSome && decide (16 ≤ s.stagedPosts t)) &&
  (match s.postDecision r staged with
   | .accepted => true
   | .full => !(s.ring r).onFull
   | .refused => false)

/-- A thread may make an access in this cycle, its c6; else it is a bus error fault. -/
def State.ioMay (s : State) (t : Tid) : IoAcc → Bool
  | .evsig n => s.holds (.thread t) kSoft n.toNat
  | .evclr _ => true
  | .inp io _ => s.inOk t io.toNat
  | .out io _ superv => s.outOk t io.toNat superv
  | .pinrd p _ => s.portInside (.thread t) (fin 16 p.toNat)
  | .pinwr p _ _ _ => s.portInside (.thread t) (fin 16 p.toNat)
  | .edgeq c _ _ => s.pinWritable (.thread t) (fin 512 c.toNat)
  | .edger c _ => s.holds (.thread t) kPin c.toNat
  | .tcmp u _ => s.holds (.thread t) kTimer (u.toNat / 4)
  | .tcap u _ _ => s.holds (.thread t) kTimer (u.toNat / 4)
  | .qput r _ staged => s.holds (.thread t) kRing r.toNat && s.postOk t (fin 8192 r.toNat) staged
  | .qget r _ _ => s.holds (.thread t) kRing r.toNat
  | .bstat b _ => s.holds (.thread t) kBell b.toNat

/-- The number that EVT_FADDR takes for an access that is a bus error, in space 4. -/
def IoAcc.number : IoAcc → Nat
  | .evsig n => n.toNat
  | .evclr n => n.toNat
  | .inp io _ => io.toNat
  | .out io _ _ => io.toNat
  | .pinrd p _ => p.toNat
  | .pinwr p _ _ _ => p.toNat
  | .edgeq c _ _ => c.toNat
  | .edger c _ => c.toNat
  | .tcmp u _ => u.toNat
  | .tcap u _ _ => u.toNat
  | .qput r _ _ => r.toNat
  | .qget r _ _ => r.toNat
  | .bstat b _ => b.toNat

/-- The result of an access made in c6 lands at the end of c7, in a product register one cycle later (R67, R98, R148). -/
def State.ioResult (s : State) (t : Tid) (k : Nat) (d : Dest) (v : DWord) : State := s.landLater t k (d.loc.due k) (.store d v)

/-- The word of an I/O register as an IN reads it. -/
def State.ioWord (s : State) (t : Tid) (io : BitVec 16) : Word :=
  match ioReg t io.toNat with | some x => s.view (.thread t) x.reg | none => 0

/-- What an IN does to the register that it reads. -/
def State.ioEffect (s : State) (t : Tid) (io : BitVec 16) : State :=
  match ioReg t io.toNat with | some x => s.readEffect (.thread t) x.reg | none => s

/-- A register of the DMA engines (R352). -/
def Reg.isDma (r : Reg) : Bool := decide (0xE0000 ≤ r.off) && decide (r.off < 0x100000)

/-- A write of an I/O register; a write to an engine reaches it in the first SCLK that begins after c6 (R352). -/
def State.ioWrite (s : State) (t : Tid) (inC6 : Bool) (io : BitVec 16) (v : Word) (superv : Bool) : State :=
  match ioReg t io.toNat with
  | some x =>
    if x.reg.isDma && inC6 then s.schedule (sclkAfter s.now - 1) prioUnit (.io t (.out io v superv))
    else s.writeReg (.thread t) x.reg v
  | none => s

/-- The field that a TCAP reads (R274). -/
def State.tcapField (s : State) (u : UnitNo) (field : BitVec 3) : DWord :=
  let x := s.unit u
  if field = 0 then x.capR else if field = 1 then x.capF
  else if field = 2 then x.capW.setWidth 64
  else if field = 3 then x.capCnt.setWidth 64
  else (s.view .block (.timCcStat u)).setWidth 64

/-- An access that its thread may make. Registers are read as they stood before the cycle, in `was` (R26). -/
def State.ioDo (s was : State) (t : Tid) (k : Nat) (inC6 : Bool) : IoAcc → State
  | .evsig n => s.pulse n.toNat
  | .evclr n => s.clearEvents t (bitw n.toNat) 0
  | .inp io d => (s.ioEffect t io).ioResult t k d ((was.ioWord t io).setWidth 64)
  | .out io v superv => s.ioWrite t inC6 io v superv
  | .pinrd p d => s.ioResult t k d ((was.view (.thread t) (.pinIn (fin 16 p.toNat))).setWidth 64)
  | .pinwr p mask v staged => s.pinwr t (fin 16 p.toNat) mask v staged
  | .edgeq c lvl time => s.edgeBy t (fin 512 c.toNat) time lvl
  | .edger c d =>
      let r := s.popRecord (fin 512 c.toNat)
      r.2.ioResult t k d r.1
  | .tcmp u v => s.compareBy (.thread t) (fin 1024 u.toNat) ((v >>> 5).setWidth 32) (v.setWidth 5)
  | .tcap u f d =>
      let n : UnitNo := fin 1024 u.toNat
      (if f = 2 then s.capwRead n else s).ioResult t k d (was.tcapField n f)
  | .qput r data staged => s.qput t (fin 8192 r.toNat) data staged
  | .qget r buf d =>
      let n : Ring := fin 8192 r.toNat
      (s.qget t n buf).ioResult t k d ((s.getStatus n).setWidth 64)
  | .bstat b d => s.ioResult t k d ((was.bstatWord t (fin 16 b.toNat)).setWidth 64)

/-- An access of the instruction that issued in cycle `k`: it has its effect, or is a bus error of its instruction. `inC6` is
false for a write that has waited for its SCLK, which was judged in c6. -/
def State.landIo (s was : State) (t : Tid) (k : Nat) (inC6 : Bool) (acc : IoAcc) : State :=
  if !inC6 || s.ioMay t acc then s.ioDo was t k inC6 acc
  else s.raiseAt t k { cause := .bus, space := 4, faddr := BitVec.ofNat 32 acc.number }

/-- The hand-in of an open period is recorded (R200). -/
def State.landHandin (s : State) (t : Tid) : State := s.modPer t (fun p => if p.isOpen then { p with handin := true } else p)

/-- A landing of a unit, an access or a record. -/
def State.landUnit (s : State) (x : Landing) : State :=
  match x.eff with
  | .io t acc => s.landIo s t x.issuedAt x.thread.isSome acc
  | .hall b e => s.hqEnter b x.issuedAt e
  | .handin t => s.landHandin t
  | .thrMaint t on => if on then s.enterMaint t else s.leaveMaint t
  | .pinLatch c v => s.landLatch c v
  | .pinShift c v => s.landShift c v
  | .pinLive c v => s.landLive c v
  | .pinGovern c w => s.landGovern c w
  | .pinPadIn c w => s.landPadIn c w
  | .pinStrict p on => s.landStrict p on
  | .pinLockSafe c on => s.landLockSafe c on
  | .pinStnSafe c st on => s.landStnSafe c st on
  | .padsUnhold l => s.landUnhold l
  | .pinFilter c v time fine => s.landFilter c v time fine
  | .pinRecord c v time fine => s.landRecord c v time fine
  | .pinF1 c v => s.landF1 c v
  | .pinF2 c v => s.landF2 c v
  | .eqAppend c time lvl => s.landEdge c time lvl
  | .eqFlush c => s.landFlush c
  | .calSwap g => s.landSwap g
  | .calSettle g => s.swapSettle g
  | .sincWrite n v time settle sat => s.landSinc n v time settle sat
  | .reload n v => s.landReload n v
  | .jump n v => s.landJump n v
  | .preload u v f => s.landPreload u v f
  | .unitActive u v f => s.landActive u v f
  | .unitInit u => s.landInit u
  | .unitForce u => s.landForce u
  | .trigger n => s.cvTrigger n
  | .tripRegs i on => s.landTrip i on
  | .stationCount st => s.landStation st
  | .source n => s.pulse n.toNat
  | .warmDue byReg => s.warmFall byReg
  | .hostDrop h => s.hostFall h
  | .motion l => { s with sys := { s.sys with motion := l } }
  | .holdup l => { s with sys := { s.sys with holdup := l } }
  | e => s.landPipe x.issuedAt e

/-- What happens within the cycle after the entry's, and not at its start: accesses to the I/O space and hall-queue entries,
which are made in c6, pulses, jumps of counts and compare values, sinc results and station counts. -/
def Eff.inCycle : Eff → Bool
  | .io _ _ => true
  | .hall _ _ => true
  | .source _ => true
  | .jump _ _ => true
  | .unitActive _ _ _ => true
  | .sincWrite _ _ _ _ _ => true
  | .stationCount _ => true
  | _ => false

/-- The entries whose cycle has ended, in their order; commands that come due leave the agenda by the queue. -/
def Landing.landsBy (x : Landing) (c : Nat) : Bool :=
  decide (x.due ≤ c) && (match x.eff with | .command _ => false | e => !e.inCycle)

/-- An entry for what happens within cycle `c`. -/
def Landing.accessIn (x : Landing) (c : Nat) : Bool := decide (x.due < c) && x.eff.inCycle

/-- Land one entry: it leaves the agenda first. -/
def State.landOne (s : State) (x : Landing) : State := ({ s with agenda := s.agenda.erase x }).landUnit x

/-- Everything that lands at the end of the cycles up to `c`. An entry that a landing removes does not land, and one that
a landing enters for such a cycle lands too. -/
def State.landAll : Nat → Nat → State → State
  | 0, _, s => s
  | n + 1, c, s =>
    match s.agenda.find? (fun x => x.landsBy c) with
    | some x => State.landAll n c (s.landOne x)
    | none => s

/-- The thread whose access an entry is. -/
def Eff.accessOf : Eff → Option Tid
  | .io t _ => some t
  | .hall _ e => some e.thread
  | _ => none

/-- An access that waits for the end of its cycle: EVT_LIVE shows what fires in it (Table EVT-2). -/
def Eff.atEnd : Eff → Bool
  | .io _ (.inp a _) => decide (a = 2)
  | _ => false

/-- What happens to the counts and comparators of timers in a cycle. -/
def Eff.isCount : Eff → Bool
  | .jump _ _ => true
  | .unitActive _ _ _ => true
  | _ => false

/-- What else the agenda has for this cycle itself, in its order, of the kind that `p` marks. -/
def State.accessAll (p : Eff → Bool) : Nat → State → State
  | 0, s => s
  | n + 1, s =>
    match s.agenda.find? (fun x => x.accessIn s.now && x.eff.accessOf.isNone && p x.eff) with
    | some x => State.accessAll p n (s.landOne x)
    | none => s

/-- The accesses of thread `t` in this cycle are made, with the registers as they stood before the cycle in `was`. -/
def State.accessBy (was : State) (atEnd : Bool) (s : State) (t : Tid) : State :=
  let mine := fun (x : Landing) => x.accessIn s.now && decide (x.eff.accessOf = some t) && decide (x.eff.atEnd = atEnd)
  (s.agenda.filter mine).foldl (fun s x => match x.eff with
    | .io u acc => s.landIo was u x.issuedAt x.thread.isSome acc
    | _ => s.landUnit x) { s with agenda := s.agenda.filter (fun x => !mine x) }

/-- The accesses of this cycle, in ascending order of the threads (R26). -/
def State.accessThreads (s : State) (atEnd : Bool) : State :=
  if s.agenda.any (fun x => x.accessIn s.now && decide (x.eff.atEnd = atEnd) && x.eff.accessOf.isSome) then
    (List.finRange 128).foldl (State.accessBy s atEnd) s
  else s

end Sys2Proof.Machine
end

