-- ==== Sys2Proof/Machine/HostPort.lean ====
section
/-! DEFINITION. Requests of the host ports: register accesses, accesses of the desk windows and of hall, malformed requests and
responses (R7 to R10, R22, R353 to R360, R364). -/

namespace Sys2Proof.Machine

/-! ### Targets of host control space (R22, Table ARC-5) -/

/-- What an offset of host control space reaches. -/
inductive HcTarget where
  | regs
  | reserved
  | desk (b : Barrel) (a : Nat)
  | hall (a : Nat)
  deriving DecidableEq, Repr

/-- The target of an offset. -/
def hcTarget (off : Nat) : HcTarget :=
  if off < 0x1A0000 then .regs
  else if reservedOff off then .reserved
  else if off < 0x240000 then .desk (fin 4 ((off - 0x200000) / 0x10000)) (off % 0x10000)
  else .hall (off - 0x800000)

/-- A request is malformed: not aligned, or across a 128-byte boundary (R355). -/
def requestBad (addr n : Nat) : Bool := decide (addr % 16 ≠ 0) || decide (addr / 128 ≠ (addr + 16 * n - 1) / 128)

/-- The host reaches a hall byte: its segment lies in the host's partition, and only the owner host reaches the secure
region (R22, R364). -/
def State.hostHall (s : State) (h : Host) (a : Nat) : Bool :=
  decide (s.partOf kSeg (a / 65536) = some h) && (!secureAddr a || decide (h = s.owner))

/-! ### Writes -/

/-- A register write of an agent, with its STATUS (R357, Table HST-1): a register without strobes is left, one with some of
them is refused, an offset that names no register is RZ. -/
def State.regStore (s : State) (a : Agent) (off : Nat) (strb : BitVec 4) (v : Word) : Nat × State :=
  match decodeReg (s.bankOf a) off with
  | none => (0, s)
  | some r =>
    if strb = 0 then (0, s)
    else if strb ≠ 15 then (3, s)
    else if s.writable a r then (0, s.writeReg a r v)
    else (1, s)

/-- One beat of a register write with its STATUS. -/
def State.beatWrite (s : State) (a : Agent) (off : Nat) (b : BitVec 128 × BitVec 16) : Nat × State :=
  (List.range 4).foldl (fun acc i =>
    let r := acc.2.regStore a (off + 4 * i) ((b.2 >>> (4 * i)).setWidth 4) ((b.1 >>> (32 * i)).setWidth 32)
    (max acc.1 r.1, r.2)) (0, s)

/-- The beats of a register write in ascending order; the highest STATUS is sent (R356). -/
def State.beatsWrite (s : State) (a : Agent) (off : Nat) : List (BitVec 128 × BitVec 16) → Nat × State
  | [] => (0, s)
  | b :: rest =>
    let x := s.beatWrite a off b
    let y := x.2.beatsWrite a (off + 16) rest
    (max x.1 y.1, y.2)

/-! ### Reads -/

/-- A register read of an agent with its STATUS: zero outside its rights. -/
def State.regLoad (s : State) (a : Agent) (off : Nat) : Nat × Word × State :=
  match decodeReg (s.bankOf a) off with
  | none => (0, 0, s)
  | some r =>
    if s.sys.phase = .scrapped ∧ r ≠ .ensign ∧ r ≠ .lcsState then (0, 0, s)
    else if s.readable a r then (0, s.view a r, s.readEffect a r)
    else (1, 0, s)

/-- One beat of a register read: STATUS, data and what the read does. A beat reads all four registers that it covers, in
ascending order (R357). -/
def State.beatRead (s : State) (a : Agent) (off : Nat) : Nat × BitVec 128 × State :=
  (List.range 4).foldl (fun acc i =>
    let r := acc.2.2.regLoad a (off + 4 * i)
    (max acc.1 r.1, acc.2.1 ||| (r.2.1.setWidth 128 <<< (32 * i)), r.2.2)) (0, 0, s)

/-- The beats of a register read in ascending order. -/
def State.beatsRead (s : State) (a : Agent) (off : Nat) : Nat → Nat × List (BitVec 128) × State
  | 0 => (0, [], s)
  | n + 1 =>
    let x := s.beatRead a off
    let y := x.2.2.beatsRead a (off + 16) n
    (max x.1 y.1, x.2.1 :: y.2.1, y.2.2)

/-! ### Requests (R354 to R359) -/

/-- The port takes a read: in SCRAPPED only ENSIGN and LCS_STATE answer the owner's port (Table HLY-10). -/
def State.readReady (s : State) (h : Host) (tag : BitVec 5) : Bool :=
  s.portReady h tag || (s.portFree h tag && decide (s.sys.phase = .scrapped) && decide (h = s.owner))

/-- A request joins the port's outstanding ones. -/
def State.take (s : State) (h : Host) (r : Req) : State := s.modHost h (fun p => { p with reqs := p.reqs ++ [r] })

/-- A request that is malformed or falls in a reserved range has no effect and gets STATUS 3, 5 SCLK after its first read beat or its
last write beat; data beats are zero. -/
def State.answerBad (s : State) (h : Host) (tag : BitVec 5) (write : Bool) (n : Nat) : State :=
  s.take h { tag := tag, status := 3, data := if write then [] else List.replicate n 0, performed := true, write := write
             last := s.now / 2, doneAt := s.now / 2, readyAt := s.now / 2 + 5 }

/-- A read request is taken; it waits for its turn. -/
def State.hostRead (s : State) (h : Host) (tag : BitVec 5) (off n : Nat) : State :=
  if s.readReady h tag then
    if requestBad off n || decide (hcTarget off = .reserved) then s.answerBad h tag false n
    else s.take h { tag := tag, status := 0, data := List.replicate n 0, performed := false, addr := off, beats := n, last := s.now / 2 }
  else s

/-- A write request is taken, its last beat in this SCLK; it waits for its turn. -/
def State.hostWrite (s : State) (h : Host) (tag : BitVec 5) (off : Nat) (l : List (BitVec 128 × BitVec 16)) : State :=
  if s.portReady h tag then
    if requestBad off l.length || decide (hcTarget off = .reserved) then s.answerBad h tag true 0
    else s.take h { tag := tag, status := 0, data := [], performed := false, write := true, addr := off, beats := l.length
                    wdata := l, last := s.now / 2 }
  else s

/-- Change the request with a tag. -/
def State.modReq (s : State) (h : Host) (tag : BitVec 5) (f : Req → Req) : State :=
  s.modHost h (fun p => { p with reqs := p.reqs.map (fun r => if r.tag = tag then f r else r) })

/-- The requests of a port that came before one. -/
def State.earlier (s : State) (h : Host) (r : Req) : List Req := (s.host h).reqs.takeWhile (fun q => decide (q.tag ≠ r.tag))

/-- Two requests overlap. -/
def Req.overlaps (q r : Req) : Bool := decide (q.addr < r.addr + 16 * r.beats) && decide (r.addr < q.addr + 16 * q.beats)

/-- A request has been performed in an earlier SCLK. -/
def Req.over (q : Req) (sclk : Nat) : Bool := q.performed && decide (q.doneAt < sclk)

/-- A register request is performed in this SCLK: the later of L + 4 for a write, or a + 3 for a read, and P + 1 (Table HST-2). -/
def State.regTurn (s : State) (h : Host) (r : Req) : Bool :=
  decide (r.last + (if r.write then 4 else 3) ≤ s.now / 2) && (s.earlier h r).all (fun q => q.over (s.now / 2))

/-- A desk or hall request is presented to its port or its banks: from L + 2 on, once every earlier request of the port that
overlaps it has been performed (R358). -/
def State.memTurn (s : State) (h : Host) (r : Req) : Bool :=
  decide (r.last + 2 ≤ s.now / 2) && (s.earlier h r).all (fun q => !q.overlaps r || (q.performed && decide (q.doneAt ≤ s.now / 2)))

/-- A write request that brings a whole unit of 128 bytes of the image window (R393). -/
def Req.imageUnit (r : Req) : Bool :=
  decide (0x181000 ≤ r.addr) && decide (r.addr < 0x182000) && decide (r.addr % 128 = 0) && decide (r.wdata.length = 8) &&
  r.wdata.all (fun b => decide (b.2 = 0xFFFF))

/-- What a write request of registers does, with its STATUS: a whole unit of the image window is one write (R393). -/
def State.regsWrite (s : State) (a : Agent) (r : Req) : Nat × State :=
  if r.imageUnit && s.writable a (.updIwin 0) then
    (0, s.iwinWrite (r.addr - 0x181000) (r.wdata.flatMap (fun b => leBytes b.1.toNat 16)))
  else s.beatsWrite a r.addr r.wdata

/-- A register request is performed; its response may follow 1 SCLK after a write, and 2 after a read. -/
def State.performRegs (s : State) (h : Host) (r : Req) : State :=
  if r.write then
    let x := s.regsWrite (.host h r.tag) r
    x.2.modReq h r.tag (fun q => { q with status := BitVec.ofNat 2 x.1, performed := true, doneAt := s.now / 2, readyAt := s.now / 2 + 1 })
  else
    let x := s.beatsRead (.host h r.tag) r.addr r.beats
    x.2.2.modReq h r.tag (fun q =>
      { q with status := BitVec.ofNat 2 x.1, data := x.2.1, performed := true, doneAt := s.now / 2, readyAt := s.now / 2 + 2 })

/-- Byte `i` of a write request, with its strobe. -/
def Req.byteAt (r : Req) (i : Nat) : Option (Byte × Bool) :=
  match r.wdata[i / 16]? with
  | some (d, st) => some ((d >>> (8 * (i % 16))).setWidth 8, st.getLsbD (i % 16))
  | none => none

/-- What a write request brings of the bytes from a line's or granule's start, of `n` bytes: `base` is the first byte of the
request in the same count. -/
def Req.lineAccess (r : Req) (base start n : Nat) : LineAccess :=
  if r.write then
    let at_ (i : Nat) : Option (Byte × Bool) := if start + i < base then none else r.byteAt (start + i - base)
    .write (BitVec.ofNat 512 (leNat ((List.range n).map (fun i => match at_ i with | some e => e.1 | none => 0))))
      (BitVec.ofNat 64 (((List.range n).map (fun i => match at_ i with | some (_, true) => 2 ^ i | _ => 0)).sum))
  else .read

/-- The lines, or the granules, of a request, in ascending order (R299). -/
def Req.accesses (r : Req) (h : Host) (from_ : Nat) : List PortReq :=
  let base : PortReq := { desk := none, unit := 0, user := .host h, acc := .read, from_ := from_, tag := r.tag.toNat, off := 0, len := 16 }
  match hcTarget r.addr with
  | .desk b a =>
    (List.range ((a + 16 * r.beats - 1) / 64 + 1 - a / 64)).map (fun k =>
      let u := a / 64 + k
      let first := max a (64 * u)
      { base with desk := some b, unit := u, acc := r.lineAccess a (64 * u) 64, off := first - 64 * u
                  len := min (a + 16 * r.beats) (64 * u + 64) - first })
  | .hall a => (List.range r.beats).map (fun k => { base with unit := a / 16 + k, acc := r.lineAccess a (a + 16 * k) 16 })
  | _ => []

/-- A desk or hall request is presented. -/
def State.present (s : State) (h : Host) (r : Req) : State :=
  let l := r.accesses h s.now
  ({ s with ports := s.ports ++ l } : State).modReq h r.tag (fun q => { q with sent := true, left := l.length })

/-- What the turn of a request brings in this SCLK. -/
def State.reqStep (s : State) (h : Host) (r : Req) : State :=
  if r.performed || r.sent then s
  else match hcTarget r.addr with
    | .regs => if s.regTurn h r then s.performRegs h r else s
    | .reserved => s
    | _ => if s.memTurn h r then s.present h r else s

/-- The host ports at the start of an SCLK. -/
def State.hostStep (s : State) : State :=
  if s.now % 2 = 0 then
    (s.hosts.map (·.1)).foldl (fun s k =>
      (s.host (fin 8 k)).reqs.foldl (fun s r => s.reqStep (fin 8 k) r) s) s
  else s

/-- Bytes of a request's data from a beat on. -/
def Req.fill (r : Req) (beat : Nat) (l : List Byte) : Req :=
  { r with data := (List.range (l.length / 16)).foldl (fun d k => d.set (beat + k) (BitVec.ofNat 128 (leNat ((l.drop (16 * k)).take 16)))) r.data }

/-- One line or granule of a request has been served: with the last one it is performed, `late` SCLK after this one, and its
response may follow after `wait` more. -/
def Req.served (r : Req) (sclk status late wait : Nat) : Req :=
  let r := { r with left := r.left - 1, status := BitVec.ofNat 2 (max r.status.toNat status) }
  if r.left = 0 then { r with performed := true, doneAt := sclk + late, readyAt := sclk + late + wait } else r

/-- The first byte of a desk or hall request within its memory. -/
def Req.base (r : Req) : Nat := match hcTarget r.addr with | .desk _ a => a | .hall a => a | _ => 0

/-- A host's line access of a desk is granted (Table HST-2). -/
def State.hostDesk (s : State) (h : Host) (r : Req) (b : Barrel) (p : PortReq) : State :=
  let a := 64 * p.unit + p.off
  match p.acc with
  | .write d st => (s.deskPortWrite b p.unit d st).modReq h r.tag (fun q => q.served (s.now / 2) 0 0 2)
  | .read =>
    if s.sys.phase = .scrapped then s.modReq h r.tag (fun q => q.served (s.now / 2) 0 0 2)
    else
      let bad := s.poisoned (instDesk b) a p.len
      (s.noteRead (instDesk b) 1 a p.len (agHost h)).modReq h r.tag (fun q =>
        (q.fill ((a - r.base) / 16) (s.deskBytes b a p.len)).served (s.now / 2) (if bad then 2 else 0) 0 2)

/-- A host's granule access of hall is accepted by its bank: outside the partition it writes nothing and reads zero (R364, Table
HST-1, Table HST-2). -/
def State.hostGranule (s : State) (h : Host) (r : Req) (p : PortReq) : State :=
  let a := 16 * p.unit
  let may := s.hostHall h a
  let status := if may || decide (s.sys.phase = .scrapped) then 0 else 1
  match p.acc with
  | .write d st => (if may then s.hallPortWrite p.unit d st else s).modReq h r.tag (fun q => q.served (s.now / 2) status 2 2)
  | .read =>
    if s.sys.phase = .scrapped || !may then s.modReq h r.tag (fun q => q.served (s.now / 2) status 0 5)
    else
      let bad := !(s.memS.wiping && secureAddr a) && s.poisoned instHall a 16
      (if bad then s.noteRead instHall 1 a 16 (agHost h) else s).modReq h r.tag (fun q =>
        (q.fill ((a - r.base) / 16) (s.hallRead a 16)).served (s.now / 2) (if bad then 2 else 0) 0 5)

/-- An access of a host port is granted. -/
def State.hostServed (s : State) (h : Host) (p : PortReq) : State :=
  match (s.host h).reqs.find? (fun r => decide (r.tag.toNat = p.tag)) with
  | none => s
  | some r =>
    match p.desk with
    | some b => s.hostDesk h r b p
    | none => s.hostGranule h r p

/-- An OUT of a thread may write a register: its own event and lock registers, and those of the unit chapters, at the level and
with the ownership that each needs (R163, R165, R217, R219, R259, R292, R352, R381). -/
def State.outReaches (s : State) (t : Tid) : Reg → Bool
  | .evtEn u | .evtLost u | .evtFstat u | .hpsTstat u => decide (u = t) && s.outMay t true none
  | .pinChstat _ | .timStat _ | .timCcStat _ | .cvpStat _ | .trpStnStat _ | .sncStat _ | .dmaCstat _ => s.outMay t true none
  | .pinSwitch c => s.outMay t true (some c)
  | .pinShd c => s.outMay t false (some c)
  | .timReload _ | .cvpSwtrig _ | .dmaKick _ => true
  | _ => false

/-- A register that a read clears or latches lies in the threads' I/O space, or TCAP reads it. -/
def Reg.inReaches : Reg → Bool
  | .pinShd _ | .sncStat _ | .timCapw _ | .timTbaseLo => true
  | _ => false

/-- A write of one register by an agent: a host's is answered; a thread reaches what its I/O space lets it write (R14, R23), and
a DMA channel no register below hc:0x06_0000 (R25). -/
def State.registerWrite (s : State) (a : Agent) (off : Nat) (strb : BitVec 4) (v : Word) : State :=
  match a with
  | .host h tag =>
    if s.accepts a then
      (match hcTarget off with
       | .regs => let x := s.regStore a off strb v
                  x.2.answer h tag (BitVec.ofNat 2 x.1) []
       | .reserved => s.answerBad h tag true 0
       | _ => s)
    else s
  | .thread t =>
    (match decodeReg (s.bankOf a) off with
     | some r => if s.outReaches t r then (s.regStore a off strb v).2 else s
     | none => s)
  | .dma _ => if 0x060000 ≤ off ∧ off < 0x1A0000 then (s.regStore a off strb v).2 else s
  | .block => if off < 0x1A0000 then (s.regStore a off strb v).2 else s

/-- A host's read of the beat that holds a register samples in this cycle, in its turn (R357 to R359). -/
def State.readNow (s : State) (h : Host) (tag : BitVec 5) (off : Nat) : State :=
  if s.readReady h tag && (s.host h).reqs.all Req.performed then
    if hcTarget off = .regs then
      let x := s.beatsRead (.host h tag) off 1
      x.2.2.take h { tag := tag, status := BitVec.ofNat 2 x.1, data := x.2.1, performed := true, addr := off, beats := 1
                     last := s.now / 2, doneAt := s.now / 2, readyAt := s.now / 2 + 2 }
    else if hcTarget off = .reserved then s.answerBad h tag false 1
    else s
  else s

/-- A read of one register by an agent: a host reads the whole beat that holds it. -/
def State.registerRead (s : State) (a : Agent) (off : Nat) : State :=
  match a with
  | .host h tag => s.readNow h tag (off / 16 * 16)
  | .thread _ =>
    (match decodeReg (s.bankOf a) off with
     | some r => if r.inReaches then (s.regLoad a off).2.2 else s
     | none => s)
  | _ => if off < 0x1A0000 then (s.regLoad a off).2.2 else s

/-- The response of a request may have been taken whole in this SCLK, its beats in successive SCLK (R356, Table HST-2). -/
def Req.answers (r : Req) (sclk : Nat) : Bool := r.performed && decide (r.readyAt + (r.data.length - 1) ≤ sclk)

/-- HOST_RESPONSE: the last beat of a performed request's response is taken, which frees its tag and counts an error STATUS; the warm
reset that the request asked for begins 16 SCLK later (R50, R354, R356). -/
def State.hostResponse (s : State) (h : Host) (tag : BitVec 5) : State :=
  match (s.host h).reqs.find? (fun r => decide (r.tag = tag) && r.answers (s.now / 2)) with
  | none => s
  | some r =>
    let s := s.modHost h (fun p => { p with
      reqs := p.reqs.filter (fun q => decide (q.tag ≠ tag))
      errs := if r.status = 0 then p.errs else sat 65535 (p.errs + 1) })
    if s.sys.warmKeys.contains (h, tag) then
      ({ s with sys := { s.sys with warmKeys := s.sys.warmKeys.erase (h, tag) } } : State).askWarm (s.now / 2 * 2 + 32)
    else s

/-! ### The commands -/

/-- REGISTER_WRITE (R7). -/
def execRegisterWrite (a : Agent) (off : BitVec 24) (strb : BitVec 4) (v : Word) (s : State) : Host.Outcome State Fault Refusal :=
  .next (s.registerWrite a (off.toNat / 4 * 4) strb v)

/-- RC_READ (R9). -/
def execRcRead (a : Agent) (off : BitVec 24) (s : State) : Host.Outcome State Fault Refusal := .next (s.registerRead a off.toNat)

/-- TIM_CAPW_READ (R272). -/
def execTimCapwRead (a : Agent) (u : UnitNo) (s : State) : Host.Outcome State Fault Refusal :=
  .next (s.registerRead a (Reg.timCapw u).off)

/-- TIM_TBASE_LO_READ (R277). -/
def execTimTbaseLoRead (a : Agent) (s : State) : Host.Outcome State Fault Refusal :=
  .next (s.registerRead a Reg.timTbaseLo.off)

/-- HOST_MEMORY_WRITE (R359): up to 8 beats, the last of which is taken in this SCLK; a request of registers takes its turn alike. -/
def execHostMemoryWrite (h : Host) (tag : BitVec 5) (addr : BitVec 24) (beats : List (BitVec 128 × BitVec 16)) (s : State) :
    Host.Outcome State Fault Refusal :=
  .next (if beats = [] then s else s.hostWrite h tag addr.toNat (beats.take 8))

/-- HOST_MEMORY_READ (R359). -/
def execHostMemoryRead (h : Host) (tag : BitVec 5) (addr : BitVec 24) (beats : Fin 8) (s : State) :
    Host.Outcome State Fault Refusal := .next (s.hostRead h tag addr.toNat (beats.val + 1))

/-- HOST_RESPONSE (R356). -/
def execHostResponse (h : Host) (tag : BitVec 5) (s : State) : Host.Outcome State Fault Refusal := .next (s.hostResponse h tag)

/-- MALFORMED_REQUEST (R355): malformed, a write without LAST on its last beat, or a reserved range. -/
def execMalformedRequest (h : Host) (tag : BitVec 5) (write : Bool) (addr : BitVec 24) (beats : Fin 8) (lastOk : Bool) (s : State) :
    Host.Outcome State Fault Refusal :=
  let bad := requestBad addr.toNat (beats.val + 1) || (write && !lastOk) || decide (hcTarget addr.toNat = .reserved)
  .next (if bad && s.portReady h tag then s.answerBad h tag write (beats.val + 1) else s)

end Sys2Proof.Machine
end

