-- ==== Sys2Proof/Machine/Grants.lean ====
section
/-! DEFINITION. What an access of a shared port does once it is granted, and the grants of a cycle (R298, R299, R302, R303, R307,
R308, R359). -/

namespace Sys2Proof.Machine

/-! ### An engine's accesses (R323, R324, R331, R334) -/

/-- An engine's read of a line or granule returns: to the descriptor fetched ahead, or to the work under way. A word with an
uncorrectable error is a bus error at its beat. -/
def State.dmaReturn (s : State) (e : Engine) (p : PortReq) (bad : List Nat) (a : Nat) (l : List Byte) : State :=
  let x := s.eng e
  let at_ := match bad with | w :: _ => p.dmaAddr + (w - a) / 32 * 32 | [] => p.dmaAddr
  if p.tag % 2 = 1 then
    (if bad.isEmpty then
      s.modEng e (fun y => { y with ahead := y.ahead.map (fun h => { h with left := h.left - l.length, data := pokes h.data p.dmaAddr l }) })
     else s.aheadError e 3 at_)
  else if x.st = .running ∧ p.tag = x.portTag false then
    (if bad.isEmpty then s.modEng e (fun y => { y with rbuf := pokes y.rbuf p.dmaAddr l, dataAt := s.now })
     else s.ownError e x.work.errPhase 3 at_)
  else s

/-- An access of an engine is granted. -/
def State.dmaServed (s : State) (ch : DmaCh) (p : PortReq) : State :=
  match p.desk, p.acc with
  | some b, .write d st => s.deskPortWrite b p.unit d st
  | none, .write d st => s.hallPortWrite p.unit d st
  | some b, .read =>
    let a := 64 * p.unit + p.off
    (s.noteRead (instDesk b) 1 a p.len (agEngine ch)).dmaReturn (engOf ch) p (s.poisonIn (instDesk b) a p.len) a (s.deskBytes b a p.len)
  | none, .read =>
    let a := 16 * p.unit
    (s.noteRead instHall 1 a p.len (agEngine ch)).dmaReturn (engOf ch) p (s.poisonIn instHall a p.len) a (s.hallRead a p.len)

/-- A waiting access is granted: the block presents it no longer, and it does its work. -/
def State.served (s : State) (p : PortReq) : State :=
  let s : State := { s with ports := s.ports.erase p }
  match p.user with
  | .host h => s.hostServed h p
  | .dma ch => s.dmaServed ch p
  | _ => s

/-! ### The accesses -/

/-- The waiting access that a command names. -/
def State.waiting (s : State) (desk : Option Barrel) (unit : Nat) (u : PortUser) (acc : LineAccess) : Option PortReq :=
  s.ports.find? (fun p => decide (p.desk = desk) && decide (p.unit = unit) && decide (p.user = u) && decide (p.acc = acc) && decide (p.from_ ≤ s.now))

/-- SECOND_PORT_ACCESS: one line access in each BCLK (R298). An access that waits is served; the test engine's next one moves its
copy on. -/
def State.deskAccess (s : State) (b : Barrel) (u : PortUser) (line : Nat) (acc : LineAccess) : State :=
  if s.deskFree b then
    let t := (s.useDesk b).modTurn b.val (fun x => x.took u)
    match s.waiting (some b) line u acc with
    | some p => t.served p
    | none =>
      (if u = .test ∧ s.copyNext (instDesk b) 0 = some line then t.copyMove (instDesk b) 0 else t).secondPort b u line acc
  else s

/-- HALL_SHARED_ACCESS: in a shared or lent phase of its bank, which accepts one access in each SCLK (R302, R303). -/
def State.hallAccess (s : State) (u : PortUser) (g : Nat) (acc : LineAccess) : State :=
  let k := g % 16
  if s.bankOpen k then
    let t := (s.useBank k).modTurn (4 + k) (fun x => x.took u)
    match s.waiting none g u acc with
    | some p => t.served p
    | none => (if u = .test ∧ s.copyNext instHall k = some g then t.copyMove instHall k else t).hallShared u g acc
  else s

/-- The scrubber's word lies behind a shared port, which it uses. -/
def State.scrubPort (s : State) (m : MemInst) (addr : Nat) : State :=
  if 4 ≤ m.val ∧ m.val < 8 then s.useDesk (fin 4 (m.val - 4)) else if m = instHall then s.useBank (hallBank addr) else s

/-- SECOND_PORT_ACCESS (R298). -/
def execSecondPortAccess (b : Barrel) (u : PortUser) (line : BitVec 13) (acc : LineAccess) (s : State) :
    Host.Outcome State Fault Refusal := .next (s.deskAccess b u line.toNat acc)

/-- HALL_SHARED_ACCESS (R303). -/
def execHallSharedAccess (u : PortUser) (granule : BitVec 19) (acc : LineAccess) (s : State) : Host.Outcome State Fault Refusal :=
  .next (s.hallAccess u granule.toNat acc)

/-- SCRUB_ACCESS (R307). -/
def execScrubAccess (m : MemInst) (addr : Nat) (e : Ecc) (s : State) : Host.Outcome State Fault Refusal :=
  .next (if s.scrubs then (s.scrubPort m addr).scrub m addr e else s)

/-! ### The grants of a cycle -/

/-- The command for the second port of a desk. -/
def State.deskCommand (s : State) (b : Barrel) : List Instr :=
  match s.deskGrant b with
  | .req p => [.secondPortAccess b p.user (BitVec.ofNat 13 p.unit) p.acc]
  | .test u => [.secondPortAccess b .test (BitVec.ofNat 13 u) .read]
  | .scrub => (match s.scrubWaits with | some ((m, a), _) => [.scrubAccess m a .ok] | none => [])
  | _ => []

/-- The command for a bank of hall. -/
def State.bankCommand (s : State) (k : Nat) : List Instr :=
  match s.bankGrant k with
  | .req p => [.hallSharedAccess p.user (BitVec.ofNat 19 p.unit) p.acc]
  | .test g => [.hallSharedAccess .test (BitVec.ofNat 19 g) .read]
  | .scrub => (match s.scrubWaits with | some ((m, a), _) => [.scrubAccess m a .ok] | none => [])
  | _ => []

/-- The scrubber's word in an instruction memory or a slate, whose ports it has to itself. -/
def State.ownScrub (s : State) : List Instr :=
  match s.scrubWaits with
  | some ((m, a), _) => if m.val < 4 ∨ (8 ≤ m.val ∧ m.val < 12) then [.scrubAccess m a .ok] else []
  | none => []

/-- The accesses that the shared ports grant: of each desk in every BCLK, of each bank of hall in the second BCLK of an SCLK, when the
barrels have had it. -/
def State.dueGrants (s : State) : List Instr :=
  ([0, 1, 2, 3] : List Barrel).flatMap s.deskCommand ++ s.ownScrub ++
  (if s.now % 2 = 1 then (List.range 16).flatMap s.bankCommand ++
      (if (s.lockNext).isSome then [.lockUnitAccess] else [])
   else [])

/-- What the ports do without a command: the accesses of a wipe, and the copies of the instances that have a port to themselves. -/
def State.portsStep (s : State) : State :=
  let s := (List.finRange 13).foldl State.repairEnd s
  let s := (List.finRange 13).foldl State.copyOwn s
  if s.now % 2 = 1 then (List.range 16).foldl State.wipeBank s else s

end Sys2Proof.Machine
end

