-- ==== Sys2Proof/Machine/Dispatch.lean ====
section
/-! DEFINITION. One arm per command: the meaning it calls. -/

namespace Sys2Proof.Machine

/-- The effect of a command on everything but the queue. -/
def exec (i : Instr) (s : State) : Host.Outcome State Fault Refusal :=
  match i with
  | .coldResetAssert => Sys2Proof.Machine.execColdResetAssert s
  | .coldResetRelease st => Sys2Proof.Machine.execColdResetRelease st s
  | .presenceWaitEnd => Sys2Proof.Machine.execPresenceWaitEnd s
  | .warmReset => Sys2Proof.Machine.execWarmReset s
  | .ctlWarm a => Sys2Proof.Machine.execCtlWarm a s
  | .warmResetEnd => Sys2Proof.Machine.execWarmResetEnd s
  | .hostReset h => Sys2Proof.Machine.execHostReset h s
  | .hostResetRelease h => Sys2Proof.Machine.execHostResetRelease h s
  | .tamper => Sys2Proof.Machine.execTamper s
  | .secureWipeEnd => Sys2Proof.Machine.execSecureWipeEnd s
  | .presenceWindowOpen => Sys2Proof.Machine.execPresenceWindowOpen s
  | .presenceWindowClose => Sys2Proof.Machine.execPresenceWindowClose s
  | .motionActiveChange level => Sys2Proof.Machine.execMotionActiveChange level s
  | .holdupOkChange level => Sys2Proof.Machine.execHoldupOkChange level s
  | .registerWrite a off strb v => Sys2Proof.Machine.execRegisterWrite a off strb v s
  | .rcRead a off => Sys2Proof.Machine.execRcRead a off s
  | .hostMemoryWrite h tag addr beats => Sys2Proof.Machine.execHostMemoryWrite h tag addr beats s
  | .hostMemoryRead h tag addr beats => Sys2Proof.Machine.execHostMemoryRead h tag addr beats s
  | .hostResponse h tag => Sys2Proof.Machine.execHostResponse h tag s
  | .initiatorReadBeat k tag data status last => Sys2Proof.Machine.execInitiatorReadBeat k tag data status last s
  | .initiatorWriteCompletion k tag status => Sys2Proof.Machine.execInitiatorWriteCompletion k tag status s
  | .slotMapApplyRequest a b atBell bell => Sys2Proof.Machine.execSlotMapApplyRequest a b atBell bell s
  | .slotMapCancel a b => Sys2Proof.Machine.execSlotMapCancel a b s
  | .slotMapCopy b => Sys2Proof.Machine.execSlotMapCopy b s
  | .threadEnable a t => Sys2Proof.Machine.execThreadEnable a t s
  | .threadDisable a t => Sys2Proof.Machine.execThreadDisable a t s
  | .threadHalt a t => Sys2Proof.Machine.execThreadHalt a t s
  | .threadHaltRelease a t => Sys2Proof.Machine.execThreadHaltRelease a t s
  | .threadStep a t => Sys2Proof.Machine.execThreadStep a t s
  | .threadReset a t => Sys2Proof.Machine.execThreadReset a t s
  | .threadMaintEnter a t => Sys2Proof.Machine.execThreadMaintEnter a t s
  | .threadMaintLeave a t => Sys2Proof.Machine.execThreadMaintLeave a t s
  | .thrCfgWrite a t v => Sys2Proof.Machine.execThrCfgWrite a t v s
  | .contextWrite a t r v => Sys2Proof.Machine.execContextWrite a t r v s
  | .thrCeilWrite a t v => Sys2Proof.Machine.execThrCeilWrite a t v s
  | .budgetOverrun t => Sys2Proof.Machine.execBudgetOverrun t s
  | .hallEntryAccept b e => Sys2Proof.Machine.execHallEntryAccept b e s
  | .hallEntryRetire b => Sys2Proof.Machine.execHallEntryRetire b s
  | .mov x z => Sys2Proof.Machine.execMov x z s
  | .add x z => Sys2Proof.Machine.execAdd x z s
  | .sub x z => Sys2Proof.Machine.execSub x z s
  | .cmp x z => Sys2Proof.Machine.execCmp x z s
  | .andB x wide => Sys2Proof.Machine.execAndB x wide s
  | .orB x wide => Sys2Proof.Machine.execOrB x wide s
  | .xorB x wide => Sys2Proof.Machine.execXorB x wide s
  | .notB x wide => Sys2Proof.Machine.execNotB x wide s
  | .shl x wide => Sys2Proof.Machine.execShl x wide s
  | .shr x wide => Sys2Proof.Machine.execShr x wide s
  | .asr x wide => Sys2Proof.Machine.execAsr x wide s
  | .rol x wide => Sys2Proof.Machine.execRol x wide s
  | .sxb x => Sys2Proof.Machine.execSxb x s
  | .sxh x => Sys2Proof.Machine.execSxh x s
  | .zxb x => Sys2Proof.Machine.execZxb x s
  | .zxh x => Sys2Proof.Machine.execZxh x s
  | .sxwD x => Sys2Proof.Machine.execSxwD x s
  | .zxwD x => Sys2Proof.Machine.execZxwD x s
  | .neg x wide => Sys2Proof.Machine.execNeg x wide s
  | .btst x => Sys2Proof.Machine.execBtst x s
  | .bset x => Sys2Proof.Machine.execBset x s
  | .bclr x => Sys2Proof.Machine.execBclr x s
  | .bext x => Sys2Proof.Machine.execBext x s
  | .bins x => Sys2Proof.Machine.execBins x s
  | .clz x wide => Sys2Proof.Machine.execClz x wide s
  | .abs x => Sys2Proof.Machine.execAbs x s
  | .qadd x half => Sys2Proof.Machine.execQadd x half s
  | .qsub x half => Sys2Proof.Machine.execQsub x half s
  | .qmul x half => Sys2Proof.Machine.execQmul x half s
  | .qneg x half => Sys2Proof.Machine.execQneg x half s
  | .qabs x half => Sys2Proof.Machine.execQabs x half s
  | .qshl x half => Sys2Proof.Machine.execQshl x half s
  | .cvqH x => Sys2Proof.Machine.execCvqH x s
  | .cvq x => Sys2Proof.Machine.execCvq x s
  | .fadd x => Sys2Proof.Machine.execFadd x s
  | .fsub x => Sys2Proof.Machine.execFsub x s
  | .fmul x => Sys2Proof.Machine.execFmul x s
  | .fmin x => Sys2Proof.Machine.execFmin x s
  | .fmax x => Sys2Proof.Machine.execFmax x s
  | .fabs x => Sys2Proof.Machine.execFabs x s
  | .fneg x => Sys2Proof.Machine.execFneg x s
  | .fcmp x => Sys2Proof.Machine.execFcmp x s
  | .cvtfi x => Sys2Proof.Machine.execCvtfi x s
  | .cvtif x => Sys2Proof.Machine.execCvtif x s
  | .cvtfq x => Sys2Proof.Machine.execCvtfq x s
  | .cvtqf x => Sys2Proof.Machine.execCvtqf x s
  | .fma x => Sys2Proof.Machine.execFma x s
  | .padd x half => Sys2Proof.Machine.execPadd x half s
  | .psub x half => Sys2Proof.Machine.execPsub x half s
  | .pqadd x half => Sys2Proof.Machine.execPqadd x half s
  | .pqsub x half => Sys2Proof.Machine.execPqsub x half s
  | .pqmul x half => Sys2Proof.Machine.execPqmul x half s
  | .pmin x => Sys2Proof.Machine.execPmin x s
  | .pmax x => Sys2Proof.Machine.execPmax x s
  | .pswap x => Sys2Proof.Machine.execPswap x s
  | .mul x => Sys2Proof.Machine.execMul x s
  | .mulu x => Sys2Proof.Machine.execMulu x s
  | .mac x => Sys2Proof.Machine.execMac x s
  | .macu x => Sys2Proof.Machine.execMacu x s
  | .msu x => Sys2Proof.Machine.execMsu x s
  | .qmac x half => Sys2Proof.Machine.execQmac x half s
  | .pxq x => Sys2Proof.Machine.execPxq x s
  | .div x => Sys2Proof.Machine.execDiv x s
  | .divu x => Sys2Proof.Machine.execDivu x s
  | .fdiv x => Sys2Proof.Machine.execFdiv x s
  | .fsqrt x => Sys2Proof.Machine.execFsqrt x s
  | .qsqrt x => Sys2Proof.Machine.execQsqrt x s
  | .clarke x => Sys2Proof.Machine.execClarke x s
  | .park x => Sys2Proof.Machine.execPark x s
  | .ipark x => Sys2Proof.Machine.execIpark x s
  | .piu x => Sys2Proof.Machine.execPiu x s
  | .svm x => Sys2Proof.Machine.execSvm x s
  | .lim x => Sys2Proof.Machine.execLim x s
  | .sincos x => Sys2Proof.Machine.execSincos x s
  | .atan2 x => Sys2Proof.Machine.execAtan2 x s
  | .b j => Sys2Proof.Machine.execB j s
  | .conditionalBranch j c => Sys2Proof.Machine.execConditionalBranch j c s
  | .call j => Sys2Proof.Machine.execCall j s
  | .ret x => Sys2Proof.Machine.execRet x s
  | .rep x => Sys2Proof.Machine.execRep x s
  | .repi x => Sys2Proof.Machine.execRepi x s
  | .wait x => Sys2Proof.Machine.execWait x s
  | .doneH x => Sys2Proof.Machine.execDoneH x s
  | .rte x => Sys2Proof.Machine.execRte x s
  | .hnd x => Sys2Proof.Machine.execHnd x s
  | .setlvl x => Sys2Proof.Machine.execSetlvl x s
  | .setmask x => Sys2Proof.Machine.execSetmask x s
  | .ifence x => Sys2Proof.Machine.execIfence x s
  | .nop x => Sys2Proof.Machine.execNop x s
  | .tas x => Sys2Proof.Machine.execTas x s
  | .fpset x => Sys2Proof.Machine.execFpset x s
  | .spset x => Sys2Proof.Machine.execSpset x s
  | .evclr x => Sys2Proof.Machine.execEvclr x s
  | .evsig x => Sys2Proof.Machine.execEvsig x s
  | .inp x hi => Sys2Proof.Machine.execInp x hi s
  | .out x hi => Sys2Proof.Machine.execOut x hi s
  | .pinrd x => Sys2Proof.Machine.execPinrd x s
  | .pinwr x => Sys2Proof.Machine.execPinwr x s
  | .pinwrs x => Sys2Proof.Machine.execPinwrs x s
  | .edgeq x => Sys2Proof.Machine.execEdgeq x s
  | .edger x => Sys2Proof.Machine.execEdger x s
  | .tcmp x => Sys2Proof.Machine.execTcmp x s
  | .tcap x => Sys2Proof.Machine.execTcap x s
  | .qput x => Sys2Proof.Machine.execQput x s
  | .qputs x => Sys2Proof.Machine.execQputs x s
  | .qget x => Sys2Proof.Machine.execQget x s
  | .bstat x => Sys2Proof.Machine.execBstat x s
  | .hld x z => Sys2Proof.Machine.execHld x z s
  | .hst x z => Sys2Proof.Machine.execHst x z s
  | .hlr x => Sys2Proof.Machine.execHlr x s
  | .hsc x => Sys2Proof.Machine.execHsc x s
  | .hcas x => Sys2Proof.Machine.execHcas x s
  | .hpass x => Sys2Proof.Machine.execHpass x s
  | .hfree x => Sys2Proof.Machine.execHfree x s
  | .hwatch x => Sys2Proof.Machine.execHwatch x s
  | .hwait x => Sys2Proof.Machine.execHwait x s
  | .ild x => Sys2Proof.Machine.execIld x s
  | .ist x => Sys2Proof.Machine.execIst x s
  | .evtSwsetWrite a v => Sys2Proof.Machine.execEvtSwsetWrite a v s
  | .evtMapWrite a t x v => Sys2Proof.Machine.execEvtMapWrite a t x v s
  | .eventEntry t => Sys2Proof.Machine.execEventEntry t s
  | .faultEntry t => Sys2Proof.Machine.execFaultEntry t s
  | .bellStart a b => Sys2Proof.Machine.execBellStart a b s
  | .bellStop a b => Sys2Proof.Machine.execBellStop a b s
  | .bellScheduleApply a b en => Sys2Proof.Machine.execBellScheduleApply a b en s
  | .bellFire b => Sys2Proof.Machine.execBellFire b s
  | .pinOwnerWrite a c v => Sys2Proof.Machine.execPinOwnerWrite a c v s
  | .pinFcfgWrite a c set v => Sys2Proof.Machine.execPinFcfgWrite a c set v s
  | .pinSwitchGo a c staged set cls => Sys2Proof.Machine.execPinSwitchGo a c staged set cls s
  | .pinSwitchCancel a c => Sys2Proof.Machine.execPinSwitchCancel a c s
  | .pinPadWrite a c v => Sys2Proof.Machine.execPinPadWrite a c v s
  | .pinSet a p v => Sys2Proof.Machine.execPinSet a p v s
  | .pinClr a p v => Sys2Proof.Machine.execPinClr a p v s
  | .pinTgl a p v => Sys2Proof.Machine.execPinTgl a p v s
  | .pinLock a key p => Sys2Proof.Machine.execPinLock a key p s
  | .pinLockTimeout => Sys2Proof.Machine.execPinLockTimeout s
  | .pinEqpush a c lvl => Sys2Proof.Machine.execPinEqpush a c lvl s
  | .flush a c => Sys2Proof.Machine.execFlush a c s
  | .edgeEntryFire c => Sys2Proof.Machine.execEdgeEntryFire c s
  | .pinShdWrite a c v => Sys2Proof.Machine.execPinShdWrite a c v s
  | .shifterBoundary c => Sys2Proof.Machine.execShifterBoundary c s
  | .padInputTransition c level fine => Sys2Proof.Machine.execPadInputTransition c level fine s
  | .pinLineWrite a k v => Sys2Proof.Machine.execPinLineWrite a k v s
  | .calibrationPassEnd g => Sys2Proof.Machine.execCalibrationPassEnd g s
  | .calibrationStale g => Sys2Proof.Machine.execCalibrationStale g s
  | .sincSample n => Sys2Proof.Machine.execSincSample n s
  | .sincDecimation n => Sys2Proof.Machine.execSincDecimation n s
  | .sncCfgWrite a n v => Sys2Proof.Machine.execSncCfgWrite a n v s
  | .timerTop n => Sys2Proof.Machine.execTimerTop n s
  | .timerValley n => Sys2Proof.Machine.execTimerValley n s
  | .compareMatch u => Sys2Proof.Machine.execCompareMatch u s
  | .timerReloadWrite a n v => Sys2Proof.Machine.execTimerReloadWrite a n v s
  | .compareWrite a u v => Sys2Proof.Machine.execCompareWrite a u v s
  | .timerHold a n => Sys2Proof.Machine.execTimerHold a n s
  | .timerResume a n => Sys2Proof.Machine.execTimerResume a n s
  | .ccCtlWrite a u v => Sys2Proof.Machine.execCcCtlWrite a u v s
  | .timCapwRead a u => Sys2Proof.Machine.execTimCapwRead a u s
  | .timTbaseLoRead a => Sys2Proof.Machine.execTimTbaseLoRead a s
  | .globalStartArm a src bell => Sys2Proof.Machine.execGlobalStartArm a src bell s
  | .globalStartCancel a => Sys2Proof.Machine.execGlobalStartCancel a s
  | .timerStart h => Sys2Proof.Machine.execTimerStart h s
  | .converterSample n data tag => Sys2Proof.Machine.execConverterSample n data tag s
  | .mailboxWrite n => Sys2Proof.Machine.execMailboxWrite n s
  | .cvpSwtrig a n => Sys2Proof.Machine.execCvpSwtrig a n s
  | .tripActive x => Sys2Proof.Machine.execTripActive x s
  | .tripInactive x => Sys2Proof.Machine.execTripInactive x s
  | .blankingWindowEnd st => Sys2Proof.Machine.execBlankingWindowEnd st s
  | .latchedClear a st => Sys2Proof.Machine.execLatchedClear a st s
  | .trpStnCtlWrite a st v => Sys2Proof.Machine.execTrpStnCtlWrite a st v s
  | .secondPortAccess b u line acc => Sys2Proof.Machine.execSecondPortAccess b u line acc s
  | .hallSharedAccess u granule acc => Sys2Proof.Machine.execHallSharedAccess u granule acc s
  | .regionTestStart m => Sys2Proof.Machine.execRegionTestStart m s
  | .memTctlNow a m => Sys2Proof.Machine.execMemTctlNow a m s
  | .regionCopyComplete m => Sys2Proof.Machine.execRegionCopyComplete m s
  | .marchTestComplete m failing => Sys2Proof.Machine.execMarchTestComplete m failing s
  | .regionTestComplete m => Sys2Proof.Machine.execRegionTestComplete m s
  | .scrubAccess m addr e => Sys2Proof.Machine.execScrubAccess m addr e s
  | .logclr a => Sys2Proof.Machine.execLogclr a s
  | .mramScrub e => Sys2Proof.Machine.execMramScrub e s
  | .codeCopyComplete e => Sys2Proof.Machine.execCodeCopyComplete e s
  | .dmaGo a ch => Sys2Proof.Machine.execDmaGo a ch s
  | .dmaAbort a ch => Sys2Proof.Machine.execDmaAbort a ch s
  | .dmaAbortComplete ch => Sys2Proof.Machine.execDmaAbortComplete ch s
  | .dmaResume a ch => Sys2Proof.Machine.execDmaResume a ch s
  | .kick a ch => Sys2Proof.Machine.execKick a ch s
  | .dmaEngineClear a e => Sys2Proof.Machine.execDmaEngineClear a e s
  | .dmaChannelServe e => Sys2Proof.Machine.execDmaChannelServe e s
  | .dmaDescriptorFetch e => Sys2Proof.Machine.execDmaDescriptorFetch e s
  | .dmaBurst e => Sys2Proof.Machine.execDmaBurst e s
  | .dmaDescriptorComplete e => Sys2Proof.Machine.execDmaDescriptorComplete e s
  | .linkRecheck e => Sys2Proof.Machine.execLinkRecheck e s
  | .linkRecheckDecision e => Sys2Proof.Machine.execLinkRecheckDecision e s
  | .dmaBusError e err => Sys2Proof.Machine.execDmaBusError e err s
  | .dmaEngineStopped e => Sys2Proof.Machine.execDmaEngineStopped e s
  | .load a r => Sys2Proof.Machine.execLoad a r s
  | .unload a r => Sys2Proof.Machine.execUnload a r s
  | .drain a r => Sys2Proof.Machine.execDrain a r s
  | .drainTakeover a r => Sys2Proof.Machine.execDrainTakeover a r s
  | .producerDoorbell a r v => Sys2Proof.Machine.execProducerDoorbell a r v s
  | .consumerDoorbell a r v => Sys2Proof.Machine.execConsumerDoorbell a r v s
  | .qmItemStart => Sys2Proof.Machine.execQmItemStart s
  | .qmItemComplete e => Sys2Proof.Machine.execQmItemComplete e s
  | .assignmentWrite a kind word v => Sys2Proof.Machine.execAssignmentWrite a kind word v s
  | .irqTgtWrite a src v => Sys2Proof.Machine.execIrqTgtWrite a src v s
  | .irqLctlWrite a l v => Sys2Proof.Machine.execIrqLctlWrite a l v s
  | .irqEventCount l => Sys2Proof.Machine.execIrqEventCount l s
  | .irqCoalesceTimeout l => Sys2Proof.Machine.execIrqCoalesceTimeout l s
  | .ack a l => Sys2Proof.Machine.execAck a l s
  | .acquire a => Sys2Proof.Machine.execAcquire a s
  | .free a => Sys2Proof.Machine.execFree a s
  | .cas a => Sys2Proof.Machine.execCas a s
  | .watch a => Sys2Proof.Machine.execWatch a s
  | .unwatch a => Sys2Proof.Machine.execUnwatch a s
  | .hostLockInvalidOp a op => Sys2Proof.Machine.execHostLockInvalidOp a op s
  | .lockUnitAccess => Sys2Proof.Machine.execLockUnitAccess s
  | .hpsForce a addr => Sys2Proof.Machine.execHpsForce a addr s
  | .leaseDeadline e => Sys2Proof.Machine.execLeaseDeadline e s
  | .abandonmentWrite => Sys2Proof.Machine.execAbandonmentWrite s
  | .linkTrain down => Sys2Proof.Machine.execLinkTrain down s
  | .linkUp down => Sys2Proof.Machine.execLinkUp down s
  | .linkDown down errs => Sys2Proof.Machine.execLinkDown down errs s
  | .frameSend down stamp => Sys2Proof.Machine.execFrameSend down stamp s
  | .frameForward fromDown f crcOk => Sys2Proof.Machine.execFrameForward fromDown f crcOk s
  | .beacon f stamp => Sys2Proof.Machine.execBeacon f stamp s
  | .beaconSend => Sys2Proof.Machine.execBeaconSend s
  | .beaconLoss => Sys2Proof.Machine.execBeaconLoss s
  | .tbaseSlew forward => Sys2Proof.Machine.execTbaseSlew forward s
  | .delayMeasurement => Sys2Proof.Machine.execDelayMeasurement s
  | .dlyreq f stamp => Sys2Proof.Machine.execDlyreq f stamp s
  | .dlyrsp f stamp => Sys2Proof.Machine.execDlyrsp f stamp s
  | .rollcall f => Sys2Proof.Machine.execRollcall f s
  | .rollend f => Sys2Proof.Machine.execRollend f s
  | .image f => Sys2Proof.Machine.execImage f s
  | .order f => Sys2Proof.Machine.execOrder f s
  | .query f => Sys2Proof.Machine.execQuery f s
  | .statusReply => Sys2Proof.Machine.execStatusReply s
  | .tunnel f => Sys2Proof.Machine.execTunnel f s
  | .loopF f => Sys2Proof.Machine.execLoopF f s
  | .hlyCmdRollcall a => Sys2Proof.Machine.execHlyCmdRollcall a s
  | .reacq a => Sys2Proof.Machine.execReacq a s
  | .hlyCmdDelay a => Sys2Proof.Machine.execHlyCmdDelay a s
  | .txmsg a => Sys2Proof.Machine.execTxmsg a s
  | .pop a => Sys2Proof.Machine.execPop a s
  | .hlyCtlWrite a v => Sys2Proof.Machine.execHlyCtlWrite a v s
  | .updBegin a chain => Sys2Proof.Machine.execUpdBegin a chain s
  | .imageWindowWrite a off data => Sys2Proof.Machine.execImageWindowWrite a off data s
  | .verify a chain => Sys2Proof.Machine.execVerify a chain s
  | .verificationEnd e => Sys2Proof.Machine.execVerificationEnd e s
  | .send a => Sys2Proof.Machine.execSend a s
  | .activate a chain => Sys2Proof.Machine.execActivate a chain s
  | .confirm a chain => Sys2Proof.Machine.execConfirm a chain s
  | .fallback a chain => Sys2Proof.Machine.execFallback a chain s
  | .confirmationTimeout => Sys2Proof.Machine.execConfirmationTimeout s
  | .movementHoldEnd c => Sys2Proof.Machine.execMovementHoldEnd c s
  | .cancel a chain => Sys2Proof.Machine.execCancel a chain s
  | .setbegin a => Sys2Proof.Machine.execSetbegin a s
  | .settingsWindowWrite a off data => Sys2Proof.Machine.execSettingsWindowWrite a off data s
  | .setcommit a => Sys2Proof.Machine.execSetcommit a s
  | .recovboot a => Sys2Proof.Machine.execRecovboot a s
  | .lifecycleToOpen a => Sys2Proof.Machine.execLifecycleToOpen a s
  | .lifecycleToOwned a => Sys2Proof.Machine.execLifecycleToOwned a s
  | .lifecycleToReturned a => Sys2Proof.Machine.execLifecycleToReturned a s
  | .lifecycleToScrapped a => Sys2Proof.Machine.execLifecycleToScrapped a s
  | .ownerLockSet a => Sys2Proof.Machine.execOwnerLockSet a s
  | .ownerLockClear a => Sys2Proof.Machine.execOwnerLockClear a s
  | .wipeCommand a => Sys2Proof.Machine.execWipeCommand a s
  | .recover a => Sys2Proof.Machine.execRecover a s
  | .regionTestNow a => Sys2Proof.Machine.execRegionTestNow a s
  | .instancePass a => Sys2Proof.Machine.execInstancePass a s
  | .scrubPass a => Sys2Proof.Machine.execScrubPass a s
  | .mramReadPass a => Sys2Proof.Machine.execMramReadPass a s
  | .imageVerification a => Sys2Proof.Machine.execImageVerification a s
  | .calibrationGroup a => Sys2Proof.Machine.execCalibrationGroup a s
  | .pinLoopBack a => Sys2Proof.Machine.execPinLoopBack a s
  | .converterLoopBack a => Sys2Proof.Machine.execConverterLoopBack a s
  | .halyardPcsLoop a => Sys2Proof.Machine.execHalyardPcsLoop a s
  | .halyardLineLoop a => Sys2Proof.Machine.execHalyardLineLoop a s
  | .halyardFarEndLoop a => Sys2Proof.Machine.execHalyardFarEndLoop a s
  | .farEndTimeout => Sys2Proof.Machine.execFarEndTimeout s
  | .initiatorEcho a => Sys2Proof.Machine.execInitiatorEcho a s
  | .drillModeStart a key => Sys2Proof.Machine.execDrillModeStart a key s
  | .drillEnd pass data => Sys2Proof.Machine.execDrillEnd pass data s
  | .snap a => Sys2Proof.Machine.execSnap a s
  | .rootClockFault => Sys2Proof.Machine.execRootClockFault s
  | .presenceNChange level => Sys2Proof.Machine.execPresenceNChange level s
  | .badFrame reason => Sys2Proof.Machine.execBadFrame reason s
  | .malformedRequest h tag write addr beats lastOk => Sys2Proof.Machine.execMalformedRequest h tag write addr beats lastOk s
  | .reservedOperation x n => Sys2Proof.Machine.execReservedOperation x n s

end Sys2Proof.Machine
end

