-- ==== Sys2Proof/Decode.lean ====
section
/-! DEFINITION. The rows of the opcode table by their bits, of which there are none, and the instruction words of the threads
(R86 to R91, R102, R103, R113). -/

namespace Sys2Proof

/-- No row of the opcode table has bits: its rows are commands. -/
def decodeTableWord (_nbits _w : Nat) : Option Instr := none

/-! ### Operation numbers (Table ISA-10) -/

/-- Integer operations, 0x00 to 0x2F. -/
def opsInteger : List (Nat × (Issue → Instr)) :=
  [(0x00, fun i => .mov i .b), (0x01, fun i => .mov i .h), (0x02, fun i => .mov i .w), (0x03, fun i => .mov i .d),
   (0x04, fun i => .add i .b), (0x05, fun i => .add i .h), (0x06, fun i => .add i .w), (0x07, fun i => .add i .d),
   (0x08, fun i => .sub i .b), (0x09, fun i => .sub i .h), (0x0A, fun i => .sub i .w), (0x0B, fun i => .sub i .d),
   (0x0C, fun i => .cmp i .b), (0x0D, fun i => .cmp i .h), (0x0E, fun i => .cmp i .w), (0x0F, fun i => .cmp i .d),
   (0x10, fun i => .andB i false), (0x11, fun i => .andB i true), (0x12, fun i => .orB i false), (0x13, fun i => .orB i true),
   (0x14, fun i => .xorB i false), (0x15, fun i => .xorB i true), (0x16, fun i => .notB i false), (0x17, fun i => .notB i true),
   (0x18, fun i => .shl i false), (0x19, fun i => .shl i true), (0x1A, fun i => .shr i false), (0x1B, fun i => .shr i true),
   (0x1C, fun i => .asr i false), (0x1D, fun i => .asr i true), (0x1E, fun i => .rol i false), (0x1F, fun i => .rol i true),
   (0x20, fun i => .sxb i), (0x21, fun i => .sxh i), (0x22, fun i => .zxb i), (0x23, fun i => .zxh i),
   (0x24, fun i => .sxwD i), (0x25, fun i => .zxwD i), (0x26, fun i => .neg i false), (0x27, fun i => .neg i true),
   (0x28, fun i => .btst i), (0x29, fun i => .bset i), (0x2A, fun i => .bclr i), (0x2B, fun i => .bext i),
   (0x2C, fun i => .bins i), (0x2D, fun i => .clz i false), (0x2E, fun i => .clz i true), (0x2F, fun i => .abs i)]

/-- Fixed-point, float, packed, product and control-math operations, 0x30 to 0x77. -/
def opsNumber : List (Nat × (Issue → Instr)) :=
  [(0x30, fun i => .qadd i true), (0x31, fun i => .qadd i false), (0x32, fun i => .qsub i true), (0x33, fun i => .qsub i false),
   (0x34, fun i => .qmul i true), (0x35, fun i => .qmul i false), (0x36, fun i => .qneg i true), (0x37, fun i => .qneg i false),
   (0x38, fun i => .qabs i true), (0x39, fun i => .qabs i false), (0x3A, fun i => .qshl i true), (0x3B, fun i => .qshl i false),
   (0x3C, fun i => .cvqH i), (0x3D, fun i => .cvq i), (0x40, fun i => .fadd i), (0x41, fun i => .fsub i),
   (0x42, fun i => .fmul i), (0x43, fun i => .fmin i), (0x44, fun i => .fmax i), (0x45, fun i => .fabs i),
   (0x46, fun i => .fneg i), (0x47, fun i => .fcmp i), (0x48, fun i => .cvtfi i), (0x49, fun i => .cvtif i),
   (0x4A, fun i => .cvtfq i), (0x4B, fun i => .cvtqf i), (0x4C, fun i => .fma i), (0x50, fun i => .padd i true),
   (0x51, fun i => .padd i false), (0x52, fun i => .psub i true), (0x53, fun i => .psub i false), (0x54, fun i => .pqadd i true),
   (0x55, fun i => .pqadd i false), (0x56, fun i => .pqsub i true), (0x57, fun i => .pqsub i false), (0x58, fun i => .pqmul i true),
   (0x59, fun i => .pqmul i false), (0x5A, fun i => .pmin i), (0x5B, fun i => .pmax i), (0x5C, fun i => .pswap i),
   (0x60, fun i => .mul i), (0x61, fun i => .mulu i), (0x62, fun i => .mac i), (0x63, fun i => .macu i),
   (0x64, fun i => .msu i), (0x65, fun i => .qmac i true), (0x66, fun i => .qmac i false), (0x67, fun i => .pxq i),
   (0x68, fun i => .div i), (0x69, fun i => .divu i), (0x6A, fun i => .fdiv i), (0x6B, fun i => .fsqrt i),
   (0x6C, fun i => .qsqrt i), (0x70, fun i => .clarke i), (0x71, fun i => .park i), (0x72, fun i => .ipark i),
   (0x73, fun i => .piu i), (0x74, fun i => .svm i), (0x75, fun i => .lim i), (0x76, fun i => .sincos i),
   (0x77, fun i => .atan2 i)]

/-- Flow and event operations, 0x90 to 0x9F. -/
def opsFlow : List (Nat × (Issue → Instr)) :=
  [(0x90, fun i => .ret i), (0x91, fun i => .rep i), (0x92, fun i => .repi i), (0x93, fun i => .wait i),
   (0x94, fun i => .doneH i), (0x95, fun i => .rte i), (0x96, fun i => .hnd i), (0x97, fun i => .setlvl i),
   (0x98, fun i => .setmask i), (0x99, fun i => .ifence i), (0x9A, fun i => .nop i), (0x9B, fun i => .tas i),
   (0x9C, fun i => .fpset i), (0x9D, fun i => .spset i), (0x9E, fun i => .evclr i), (0x9F, fun i => .evsig i)]

/-- Operations on the I/O space, hall and instruction space, 0xA0 to 0xC1. -/
def opsUnits : List (Nat × (Issue → Instr)) :=
  [(0xA0, fun i => .inp i false), (0xA1, fun i => .inp i true), (0xA2, fun i => .out i false), (0xA3, fun i => .out i true),
   (0xA4, fun i => .pinrd i), (0xA5, fun i => .pinwr i), (0xA6, fun i => .pinwrs i), (0xA7, fun i => .edgeq i),
   (0xA8, fun i => .edger i), (0xA9, fun i => .tcmp i), (0xAA, fun i => .tcap i), (0xAB, fun i => .qput i),
   (0xAC, fun i => .qputs i), (0xAD, fun i => .qget i), (0xAE, fun i => .bstat i), (0xB0, fun i => .hld i .b),
   (0xB1, fun i => .hld i .h), (0xB2, fun i => .hld i .w), (0xB3, fun i => .hld i .d), (0xB4, fun i => .hst i .b),
   (0xB5, fun i => .hst i .h), (0xB6, fun i => .hst i .w), (0xB7, fun i => .hst i .d), (0xB8, fun i => .hlr i),
   (0xB9, fun i => .hsc i), (0xBA, fun i => .hcas i), (0xBB, fun i => .hpass i), (0xBC, fun i => .hfree i),
   (0xBD, fun i => .hwatch i), (0xBE, fun i => .hwait i), (0xC0, fun i => .ild i), (0xC1, fun i => .ist i)]

/-- The conditions of 0x81 to 0x8E in their order. -/
def branchConds : List Cond := [.eq, .ne, .cs, .cc, .mi, .pl, .vs, .vc, .hi, .ls, .ge, .lt, .gt, .le]

/-- The operation with a number; a number that the table does not list is reserved (R90). -/
def opOf (n : Nat) (i : Issue) (j : Jump) : Instr :=
  if n = 0x80 then .b j
  else if n = 0x8F then .call j
  else if 0x80 < n ∧ n < 0x8F then .conditionalBranch j (branchConds.getD (n - 0x81) .eq)
  else match (opsInteger ++ opsNumber ++ opsFlow ++ opsUnits).find? (fun r => r.1 = n) with
    | some r => r.2 i
    | none => .reservedOperation i (BitVec.ofNat 8 n)

/-! ### Words (Tables ISA-1 and ISA-2) -/

/-- The first word marks the long form (R86). -/
def longForm (w : Word) : Bool := w.getLsbD 31 && w.getLsbD 30

/-- Bits `[lo + n - 1 : lo]` of a 64-bit instruction. -/
def insField (x : DWord) (lo n : Nat) : BitVec n := (x >>> lo).setWidth n

/-- The short form of a thread's instruction. -/
def decodeShort (t : Tid) (w : Word) : Instr :=
  let f := fun (lo : Nat) => ({ mode := 0, spec := ((w >>> lo).setWidth 8 : BitVec 8).setWidth 14 } : Opnd)
  opOf (w >>> 24).toNat { thread := t, long := false, a := f 16, b := f 8, c := f 0 }
    { thread := t, tgt := .short (w.setWidth 24) }

/-- The long form: the first word holds bits [63:32]. -/
def decodeLong (t : Tid) (w0 w1 : Word) : Instr :=
  let x : DWord := w0 ++ w1
  let a : Opnd := { mode := insField x 50 4, spec := insField x 28 14 }
  let b : Opnd := { mode := insField x 46 4, spec := insField x 14 14 }
  let c : Opnd := { mode := insField x 42 4, spec := insField x 0 14 }
  opOf (insField x 54 8).toNat { thread := t, long := true, a := a, b := b, c := c } { thread := t, tgt := .long a }

/-- The instruction that a thread's word starts; the second word counts in the long form only. -/
def decodeInsn (t : Tid) (w0 w1 : Word) : Instr := if longForm w0 then decodeLong t w0 w1 else decodeShort t w0

end Sys2Proof
end

