-- ==== Sys2Proof/Machine/Tick.lean ====
section
/-! DEFINITION. What the block does when no command waits: the commands that come about by themselves in the cycle, stage by
stage, and the move to the next cycle (log entries 1 to 3). -/

namespace Sys2Proof.Machine

/-- The list with `x` where `b` holds. -/
def whenDue (b : Bool) (x : Instr) : List Instr := if b then [x] else []

/-! ### Early in the cycle: TBASE, read points and starts (R67, R276, R389) -/

/-- The slew of TBASE, before all else in its cycle: the bells and edge queues see the new TBASE. -/
def State.dueSlew (s : State) : List Instr := whenDue s.slewDue (.tbaseSlew (decide (0 < s.hly.slewOwed)))

/-- The instruction of a thread that has come to its read point, the start of its c3. -/
def State.dueRead (s : State) (t : Tid) : List Instr :=
  match s.readFlight t with
  | some g => (match g.insn with | some c => whenDue (!g.read) c | none => [])
  | none => []

/-- The threads that the state lists. -/
def State.listed (s : State) : List Tid := (s.threads.map (·.1)).map (fin 128 ·)

/-- The read points of the cycle, then the timers that start. -/
def State.dueStarts (s : State) : List Instr :=
  s.listed.flatMap s.dueRead ++ ((List.finRange 8).filter s.startDue).map .timerStart

/-- Top and valley cycles. -/
def State.dueTimers (s : State) : List Instr :=
  (s.timers.map (·.1)).flatMap (fun k =>
    let n : TimerNo := fin 256 k
    if (s.timer n).topDue then [.timerTop n] else whenDue (s.timer n).valleyDue (.timerValley n))

/-! ### What the units do in the cycle -/

/-- Matches, edge queues, shifters, sinc units, mailboxes, windows and calibration. -/
def State.dueUnits (s : State) : List Instr :=
  (s.timers.map (·.1)).flatMap (fun k => ((unitsOf (fin 256 k)).filter s.matchNow).map .compareMatch) ++
  s.edgesDue.map .edgeEntryFire ++
  (((s.pins.map (·.1)).map (fin 512 ·)).filter s.shiftDue).map .shifterBoundary ++
  ((List.finRange 64).filter s.sincDue).map .sincSample ++
  ((List.finRange 32).filter (fun n => s.mailDue n s.now)).map .mailboxWrite ++
  ((List.finRange 64).filter s.windowEnded).map .blankingWindowEnd ++
  ((List.finRange 32).filter s.passEndDue).map .calibrationPassEnd ++
  ((List.finRange 32).filter (fun g => !(s.cal g).stale && s.pairOld g)).map .calibrationStale ++
  whenDue s.lockSeqOver .pinLockTimeout

/-- The ends of copies, march tests and wipes, and the MRAM scrubber: what errors there are is the sender's to say (log entry 46). -/
def State.dueMemory (s : State) : List Instr :=
  (List.finRange 13).flatMap (fun m =>
    whenDue (decide ((s.inst m).step = .copy) && s.copied m) (.regionCopyComplete m) ++
    whenDue (s.marchOver m) (.marchTestComplete m 0) ++
    whenDue (decide ((s.inst m).step = .restore) && s.copied m) (.regionTestComplete m)) ++
  (if s.now % 2 = 0 then whenDue s.wipeOver .secureWipeEnd else []) ++
  whenDue (s.mramDue && decide (s.sys.phase ≠ .cold)) (.mramScrub .clean)

/-- Slot maps, hall queues, the lock unit, interrupt lines and memory tests. -/
def State.dueShared (s : State) : List Instr :=
  ((List.finRange 4).filter s.copyDue).map .slotMapCopy ++
  ((List.finRange 4).filter s.acceptDue).map (fun b => .hallEntryAccept b .ok) ++
  (List.finRange 4).flatMap (fun b =>
    ((s.bar b).hq.filter (fun e => match e.retireAt with | some c => decide (c ≤ s.now) | none => false)).map
      (fun _ => .hallEntryRetire b)) ++
  ((s.locks.leases.map (·.1)).filter s.leaseDue).map (fun k => .leaseDeadline (fin 1024 k)) ++
  (if s.now % 2 = 0 then (((s.irqs.map (·.1)).map (fin 64 ·)).filter s.irqTimeout).map .irqCoalesceTimeout else []) ++
  ((List.finRange 13).filter s.testDue).map .regionTestStart ++ s.dueMemory

/-- DMA engines and the queue manager, at the start of an SCLK. -/
def State.dueMovers (s : State) : List Instr :=
  if s.now % 2 = 0 then
    whenDue s.itemOver (.qmItemComplete .ok) ++ whenDue s.itemDue .qmItemStart ++
    (List.finRange 16).flatMap (fun e =>
      whenDue (s.stopDue e) (.dmaEngineStopped e) ++
      whenDue (s.abortDone (s.curCh e)) (.dmaAbortComplete (s.curCh e)) ++
      whenDue (s.descDone e) (.dmaDescriptorComplete e) ++
      whenDue (s.decisionDue e) (.linkRecheckDecision e) ++
      whenDue (s.recheckDue e) (.linkRecheck e) ++
      whenDue (s.serveDue e) (.dmaChannelServe e) ++
      whenDue (decide ((s.eng e).work = .fetch)) (.dmaDescriptorFetch e))
  else []

/-- A class whose movement source no longer moves. -/
def State.moveOver (s : State) (c : Bell) : Bool :=
  let src := fieldN (s.reg (.updMot c)) 0 5
  decide (mget 0 s.upd.moving src ≠ 0) && !s.movingSrc src

/-- The chain, updates, drills, resets and the presence switch. A frame of the node's own leaves with TBASE as its stamp. -/
def State.dueSystem (s : State) : List Instr :=
  ([false, true].filter s.sendDue).map (fun d => .frameSend d (fineTime s.tbase 0)) ++
  whenDue s.beaconDue .beaconSend ++ whenDue s.beaconLost .beaconLoss ++ whenDue s.measureDue .delayMeasurement ++
  whenDue (match s.hly.statusAt with | some e => decide (e ≤ s.now) | none => false) .statusReply ++
  whenDue (match s.upd.confirmBy with | some e => decide (e ≤ s.now) | none => false) .confirmationTimeout ++
  ((List.finRange 16).filter s.moveOver).map .movementHoldEnd ++
  whenDue (match s.drill.cur with | some d => decide (d.code = 0x15) && decide (wallEnd s.mhz d.start 10 ≤ s.now) | none => false) .farEndTimeout ++
  whenDue s.waitOver .presenceWaitEnd ++ whenDue s.presenceDue .presenceWindowOpen ++
  whenDue s.windowOver .presenceWindowClose ++ whenDue s.warmOver .warmResetEnd ++
  whenDue (decide (s.upd.stage = .verifying) && s.workOver) (.verificationEnd .ok) ++
  whenDue (decide (s.upd.stage = .armed) && !s.upd.copyDone && s.workOver) (.codeCopyComplete .ok)

/-- The commands of the agenda whose cycle has come. -/
def State.dueCommands (s : State) : List Instr :=
  s.agenda.filterMap (fun x => match x.eff with | .command c => if x.due ≤ s.now then some c else none | _ => none)

/-- They leave the agenda as they enter the queue. -/
def State.dropCommands (s : State) : State :=
  { s with agenda := s.agenda.filter (fun x => match x.eff with | .command _ => decide (s.now < x.due) | _ => true) }

/-! ### Slots (R57, R72, R86, R297) -/

/-- The instruction that a thread issues next. -/
def State.nextInsn (s : State) (t : Tid) : Instr :=
  let w := s.nextWords t
  decodeInsn t w.1.1 w.2.1

/-- The address of the next instruction where its first word is marked (R297). -/
def State.badFirst (s : State) (t : Tid) : Option (BitVec 16) := if (s.nextWords t).1.2 then some (s.thr t).pc else none

/-- The command for a barrel's slot: an entry issue, the overrun, or the instruction, unless its first word is marked. -/
def State.slotCommand (s : State) (b : Barrel) : List Instr :=
  match s.slotOwner b with
  | none => []
  | some t =>
    match s.slotUse t with
    | .overrun => [.budgetOverrun t]
    | .fault => [.faultEntry t]
    | .event => [.eventEntry t]
    | .issue => if (s.badFirst t).isSome then [] else [s.nextInsn t]
    | _ => []

/-- An issue whose first word is marked is a bus error fault, which is recognised in its c6; what would follow it is not known,
so that the PC moves by one word until then. -/
def State.fetchFault (s : State) (b : Barrel) : State :=
  match s.slotOwner b with
  | none => s
  | some t =>
    if s.canIssue t then
      match s.badFirst t with
      | some a =>
        ((s.takeOff t none none).modThr t (fun x => x.issueOne s.now 1)).raiseAt t s.now
          { cause := .bus, space := 5, faddr := a.setWidth 32 }
      | none => s
    else s

/-- The owners of this cycle's slots that are to start do so. -/
def State.slotStarts (s : State) : State :=
  (List.finRange 4).foldl (fun s b => match s.slotOwner b with | some t => s.startSlot t | none => s) s

/-- Decimations and the slots. -/
def State.dueSlots (s : State) : List Instr :=
  ((List.finRange 64).filter s.sincFull).map .sincDecimation ++ (List.finRange 4).flatMap s.slotCommand

/-- The bells of the cycle. -/
def State.dueBells (s : State) : List Instr := ((List.finRange 16).filter s.bellDue).map .bellFire

/-! ### The end of a cycle -/

/-- The owner of a slot that issues nothing in it is charged where R78 says so, and one of the empty slots of a change of flow
is spent (R73, R74). -/
def State.slotEnd (s : State) (t : Tid) : State :=
  let x := s.thr t
  if x.lastIssue = some s.now then s
  else
    let s := if s.slotUse t = .lost then s.modThr t Thread.charged else s
    if x.skipSlots = 0 then s else s.modThr t (fun x => { x with skipSlots := x.skipSlots - 1 })

/-- The queue of a slot's owner receives the next two words, where it has room (R72); after a change of flow or an IFENCE not
before the block knows the words to fetch (R73 to R75). -/
def State.refill (s : State) (t : Tid) : State :=
  let x := s.thr t
  if decide (x.fetchFrom ≤ s.now) && (decide (x.st = .run) || decide (x.st = .wait) || decide (x.st = .hwait) || decide (x.st = .halt)) && decide (x.pq.length ≤ 2) then
    let a := x.pc + BitVec.ofNat 16 x.pq.length
    let m := instIns (barrelOf t)
    let at_ := fun (w : BitVec 16) => (if x.bankY then 65536 else 0) + w.toNat
    ((s.noteRead m 0 (at_ a) 1 (agThread t)).noteRead m 0 (at_ (a + 1)) 1 (agThread t)).modThr t (fun x => { x with
      pq := x.pq ++ [s.fetchWord t a, s.fetchWord t (a + 1)] })
  else s

/-- The end of the slots of a cycle. -/
def State.slotsEnd (s : State) : State :=
  (List.finRange 4).foldl (fun s b => match s.slotOwner b with | some t => (s.slotEnd t).refill t | none => s) s

/-- A level source sets the pending bits of its inputs in every cycle in which it is high, but for an input claimed in this
cycle (R159). -/
def State.pendLevels (s : State) : State :=
  s.evmap.foldl (fun s e =>
    let t : Tid := fin 128 (e.1 / 32)
    let i := e.1 % 32
    let ev := (s.thr t).ev
    if s.levelHigh e.2.1.toNat && !(decide (ev.claimAt = some s.now) && decide (fieldN ev.claim 0 5 = i)) then s.pendLevel t i else s) s

/-- The level sources (Table EVT-1). -/
def levelSources : List Nat := (List.range 128).map (0x100 + ·)

/-- A rise of a level source counts on its interrupt line (R367). -/
def State.levelRises (s : State) : State :=
  let high := levelSources.filter s.levelHigh
  let s := (high.filter (fun n => !s.levelsHigh.contains n)).foldl State.countSource s
  { s with levelsHigh := high }

/-- The end of a cycle: pads, stations, levels, what reads EVT_LIVE, exits and recognition. -/
def State.cycleEnd (s : State) : State :=
  let s := ((((s.padsRefresh).stationsStep).pendLevels).levelRises).accessThreads true
  let s := s.listed.foldl State.exitDecide s
  s.listed.foldl State.recognise s

/-! ### The start of a cycle -/

/-- A member that its bell decides in this cycle. -/
def State.decided (s : State) (t : Tid) : Bool := (s.thr t).per.isOpen && s.bellPending t

/-- The reloads that a member commits at its bell are those of the previous cycle (Table BEL-5), after every direct write of that
cycle (R206); what they replace is kept for a period that the cycle ends instead (log entry 22). -/
def State.preReloads (s : State) (t : Tid) : State :=
  let mine := fun (e : Tid × Staged) => decide (e.1 = t) && (match e.2 with | .reload _ _ => true | _ => false)
  let s' : State := { s with staged := s.staged.filter (fun e => !mine e) }
  (s.staged.filter mine).foldl (fun s e => match e.2 with
    | .reload n v =>
      let s : State := { s with reloadUndo := s.reloadUndo ++ [(t, n, s.reg (.timReload n), s.timer n)] }
      ((s.supersede (s.now - 1) (Eff.isReload n)).landReload n v).landJump n v
    | _ => s) s'

/-- Before anything of a bell's cycle: what a member that has not handed in has in flight is cancelled (R207), and a member that
commits has its reloads taken. A thread that had handed in or waited too late stays so in the slot of the bell's cycle. -/
def State.preBell (s : State) (t : Tid) : State :=
  if s.decided t then
    if !(s.thr t).per.handin then (s.cancelAll t).modThr t (fun x => { x with st := (s.thr t).st })
    else if (s.thr t).commits then s.preReloads t
    else s
  else s

/-- LOCKUP_ANY rises in the third SCLK after a lockup (R185). -/
def State.lockupStep (s : State) : State :=
  if s.now % 2 = 0 then
    let any := decide (0 < s.lockups)
    { s with sys := { s.sys with lockupAny := s.sys.lockPipe.getLsbD 1
                                 lockPipe := (s.sys.lockPipe <<< 1) ||| (if any then 1 else 0) } }
  else s

/-- The report card asked for in the SCLK before (R431). -/
def State.cardStep (s : State) : State := if s.drill.cardDue && decide (s.now % 2 = 0) then s.takeCard else s

/-- The new cycle: clocks, counters, what has landed at the end of the cycle before. -/
def State.cycleStart (s : State) : State :=
  let s : State := { s.addTbase 1 with now := s.now + 1, reloadUndo := [] }
  let s := (s.cvps.map (·.1)).foldl (fun s k => s.modCvp (fin 32 k) (fun x => { x with trig := false })) s
  let s := (s.irqDrive).timersAdvance
  let s := State.landAll (2 * s.agenda.length + 64) (s.now - 1) s
  let s := s.listed.foldl (fun s t => ((s.pruneFlights t).haltStep t).maintStep t) s
  ((s.cardStep).lockupStep).hoistsStep

/-- Early in the cycle: what a bell of the cycle cancels, what happens to the counts of timers, and the threads' accesses of c6
(R148, R207, R269, R270). -/
def State.threadsStep (s : State) : State :=
  let s := State.accessAll Eff.isCount (s.agenda.length + 64) (s.listed.foldl State.preBell s)
  let s := s.accessThreads false
  State.accessAll (fun _ => true) (s.agenda.length + 64) s

/-- The faults of the issues that are in their c6 are recognised (R181). A member that its bell decides in this cycle is judged
with the bell (R213). -/
def State.faultsStep (s : State) : State :=
  s.listed.foldl (fun s t => if s.decided t then s else s.recogniseFault t) s

/-! ### The tick -/

/-- A step without a waiting command (log entry 1): the commands of the next stage of the cycle, or the next cycle. While
RST_COLD_N is low nothing moves. -/
def State.tick (s : State) : State :=
  if s.sys.phase = .cold then s
  else match s.tickStage with
    | 0 => { s with pending := s.dueSlew, tickStage := 1 }
    | 1 =>
      let s := s.threadsStep
      { s with pending := s.dueStarts, tickStage := 2 }
    | 2 => { s with pending := s.dueTimers, tickStage := 3 }
    | 3 =>
      let s := s.hostStep
      let l := s.dueUnits ++ s.dueShared ++ s.dueMovers ++ s.dueSystem ++ s.dueCommands
      { s.dropCommands.echoIssue with pending := l, tickStage := 4 }
    | 4 =>
      let s := s.portsStep.slotStarts
      let l := s.dueGrants ++ s.dueSlots
      { (List.finRange 4).foldl State.fetchFault s with pending := l, tickStage := 5 }
    | 5 =>
      let s := s.slotsEnd.faultsStep
      { s with pending := s.dueBells, tickStage := 6 }
    | _ => { s.cycleEnd.cycleStart with tickStage := 0 }

end Sys2Proof.Machine
end

