-- ==== Sys2Proof/Safety.lean ====
section
/-! DEFINITION. What counts as a sound state and a sound run: the canonical form of the memories, and what no command changes. -/

namespace Sys2Proof.Machine

/-- Every memory is in its canonical form: addresses strictly rising, no entry equal to what an unlisted address reads as. -/
def State.memOk (s : State) : Bool :=
  Memory.wf s.desk && Memory.wf s.slate && Memory.wf s.hall && mwf 0 s.ins

/-- A lifecycle state that no command leaves (Table HLY-10). -/
def State.isScrapped (s : State) : Bool := decide (s.upd.lc = .scrapped)

/-- What the effect of every command keeps: the waiting commands, the canonical form of the memories, and a SCRAPPED lifecycle. -/
structure Keeps (s t : State) : Prop where
  pending : t.pending = s.pending
  stage : t.tickStage = s.tickStage
  mem : s.memOk = true → t.memOk = true
  scrapped : s.isScrapped = true → t.isScrapped = true

end Sys2Proof.Machine
end

