-- ==== Sys2Proof/WellFormed.lean ====
section
/-! DEFINITION. Well-formed commands: operands that the encodings of the manual admit. -/

namespace Sys2Proof

/-- The operand fields of a thread's instruction; branches carry a target instead. -/
def Instr.issue? : Instr → Option Issue
  | .mov i _ | .add i _ | .sub i _ | .cmp i _ | .andB i _ | .orB i _ | .xorB i _ | .notB i _ | .shl i _ | .shr i _
  | .asr i _ | .rol i _ | .sxb i | .sxh i | .zxb i | .zxh i | .sxwD i | .zxwD i | .neg i _ | .btst i | .bset i
  | .bclr i | .bext i | .bins i | .clz i _ | .abs i | .qadd i _ | .qsub i _ | .qmul i _ | .qneg i _ | .qabs i _
  | .qshl i _ | .cvqH i | .cvq i | .fadd i | .fsub i | .fmul i | .fmin i | .fmax i | .fabs i | .fneg i | .fcmp i
  | .cvtfi i | .cvtif i | .cvtfq i | .cvtqf i | .fma i | .padd i _ | .psub i _ | .pqadd i _ | .pqsub i _ | .pqmul i _
  | .pmin i | .pmax i | .pswap i | .mul i | .mulu i | .mac i | .macu i | .msu i | .qmac i _ | .pxq i | .div i
  | .divu i | .fdiv i | .fsqrt i | .qsqrt i | .clarke i | .park i | .ipark i | .piu i | .svm i | .lim i | .sincos i
  | .atan2 i | .ret i | .rep i | .repi i | .wait i | .doneH i | .rte i | .hnd i | .setlvl i | .setmask i | .ifence i
  | .nop i | .tas i | .fpset i | .spset i | .evclr i | .evsig i | .inp i _ | .out i _ | .pinrd i | .pinwr i
  | .pinwrs i | .edgeq i | .edger i | .tcmp i | .tcap i | .qput i | .qputs i | .qget i | .bstat i | .hld i _
  | .hst i _ | .hlr i | .hsc i | .hcas i | .hpass i | .hfree i | .hwatch i | .hwait i | .ild i | .ist i
  | .reservedOperation i _ => some i
  | _ => none

/-- A field of the short form: eight bits of specifier and no mode (R87, R102). -/
def Opnd.short (o : Opnd) : Bool := decide (o.mode = 0) && decide (o.spec.toNat < 256)

/-- The operand fields fit their form. -/
def Issue.wf (i : Issue) : Bool := i.long || (i.a.short && i.b.short && i.c.short)

/-- Addresses of a memory instance: words of two banks, bytes of desk, of the copies of slate lines, or of hall (Table MEM-9). -/
def instSize (m : MemInst) : Nat :=
  if m.val < 4 then 131072 else if m.val < 8 then 524288 else if m.val < 12 then 131072 else 8388608

/-- The operation numbers that Table ISA-10 reserves (R113). -/
def reservedNo (n : Nat) : Bool :=
  decide (n ∈ [0x3E, 0x3F, 0x4D, 0x4E, 0x4F, 0x5D, 0x5E, 0x5F, 0x6D, 0x6E, 0x6F, 0xAF, 0xBF]) ||
  (decide (0x78 ≤ n) && decide (n ≤ 0x7F)) || (decide (0xC2 ≤ n) && decide (n ≤ 0xFF))

/-- A frame whose payload has the length that its header gives, in words of four bytes (Table HLY-1). -/
def Frame.wf (f : Frame) : Bool := decide (f.payload.length = 4 * f.len.toNat) && decide (f.len.toNat ≤ 65)

/-- What each command requires of its own operands. -/
def Instr.wf : Instr → Bool
  | .ild i => i.wf && i.long
  | .ist i => i.wf && i.long
  | .reservedOperation i n => i.wf && reservedNo n.toNat
  | .hostMemoryWrite _ _ _ beats => decide (1 ≤ beats.length) && decide (beats.length ≤ 8)
  | .beacon f _ | .dlyreq f _ | .dlyrsp f _ | .rollcall f | .rollend f | .image f | .order f | .query f | .tunnel f | .loopF f => f.wf
  | .frameForward _ f _ => f.wf
  | .imageWindowWrite _ off data => decide (data ≠ []) && decide (off.toNat + data.length ≤ 4096)
  | .settingsWindowWrite _ off data => decide (data ≠ []) && decide (off.toNat + data.length ≤ 32768)
  | .scrubAccess m addr _ => decide (addr < instSize m)
  | .dmaBusError _ e => decide (e.phase.toNat ≤ 5) && decide (e.kind.toNat ≤ 5)
  | .hostLockInvalidOp _ op => decide (op = 0) || decide (op = 6) || decide (op = 7)
  | i => match i.issue? with | some x => x.wf | none => true

end Sys2Proof
end

