-- ==== Sys2Proof/Certificates/Slice0/Rules.lean ====
section
/-! DEFINITION. The tables of the manual as the statements use them: what an instruction leaves, and results over bit vectors,
integers and rationals. -/

namespace Sys2Proof.Machine

/-! ### An instruction's two commands: its issue in its slot, and its read point three cycles later (R57, R67, R105) -/

/-- The current slot is for the instruction `cmd` of the thread `u`: nothing of the thread has issued in it, and nothing like `cmd` is at
its read point (R57). -/
structure Issues (s : State) (cmd : Instr) (u : Tid) : Prop where
  slot : s.canIssue u = true
  apart : s.reading u cmd = none
  fresh : ∀ g ∈ (s.thr u).flight, g.at_ ≠ s.now

/-- The current slot is for the instruction `cmd` of the thread `u`, outside a repeat. -/
structure IssuesOnce (s : State) (cmd : Instr) (u : Tid) : Prop extends Issues s cmd u where
  outside : (s.thr u).rep = none

/-- `r` is the state at the read point of the instruction `cmd` of `u`: it issued three cycles ago in the flight `g`, which has met no
fault and no marked word and now counts as read. -/
structure AtRead (s r : State) (cmd : Instr) (u : Tid) (g : Flight) : Prop where
  flight : s.reading u cmd = some g
  alone : s.readFlight u = some g
  clean : g.fault = none ∧ g.fetch = none
  mark : r = s.modThr u (fun x => x.modFlight g.at_ (fun h => { h with read := true }))

/-- At its read point, the operands of an instruction resolve to the places `p` (R93 to R102). -/
structure Reads (s r : State) (cmd : Instr) (i : Issue) (a b c : OpSpec) (p : Places) : Prop where
  point : ∃ g, AtRead s r cmd i.thread g
  places : (r.readView i.thread).places i (r.readFp i.thread) a b c = .ok p

/-- The operand values of an instruction at its read point. -/
def State.valuesAt (r : State) (i : Issue) (p : Places) (a b c : OpSpec) : Vals := (r.readView i.thread).vals p a b c

/-- Wherever an instruction issues, it takes off: charged, with the PC past it. -/
def TakesOff (cmd : Instr) (i : Issue) : Prop :=
  ∀ s : State, Issues s cmd i.thread → exec cmd s = .next (s.issueOf cmd i.thread (wordsOf i))

/-- A destination operand of a type. -/
abbrev wr (ty : OpTy) : OpSpec := some (.d, ty)
/-- A source operand of a type. -/
abbrev rd (ty : OpTy) : OpSpec := some (.s, ty)
/-- An operand that is read and written. -/
abbrev rw (ty : OpTy) : OpSpec := some (.m, ty)
/-- A product register. -/
abbrev prd : OpSpec := some (.p, .px)

/-- What an operation yields: the value of A with its type, and which of Q N Z C V take which bits. -/
structure Yield where
  value : Option (OpTy × DWord) := none
  mask : BitVec 5 := 0
  flags : BitVec 5 := 0

/-- The state that an instruction leaves at its read point: its pointer words' updates and the writes of its destination and flags
entered for the end of its c7 (R105). -/
def State.left (s : State) (i : Issue) (a b c : OpSpec) (p : Places) (y : Yield) : State :=
  let s := s.startRead i p a b c
  let s := match y.value with | some (ty, v) => s.putResult i.thread p.a ty v | none => s
  s.putFlags i.thread y.mask y.flags

/-- Wherever a command issues it takes off, and at its read point it answers the next state that a rule gives from the operand
values. -/
def Gives (cmd : Instr) (i : Issue) (a b c : OpSpec) (rule : Vals → Yield) : Prop :=
  TakesOff cmd i ∧
  ∀ (s r : State) (p : Places), Reads s r cmd i a b c p → exec cmd s = .next (r.left i a b c p (rule (r.valuesAt i p a b c)))

/-- Q N Z C V as bits 4 to 0 (Table EVT-6). -/
def qnzcv (q n z c v : Bool) : BitVec 5 := BitVec.ofBool q ++ BitVec.ofBool n ++ BitVec.ofBool z ++ BitVec.ofBool c ++ BitVec.ofBool v

/-! ### Integer operations (R117 to R122) -/

/-- Bits of an operation size. -/
def bitsOf : Size4 → Nat
  | .b => 8
  | .h => 16
  | .w => 32
  | .d => 64

/-- The type of a family with a .D variant has 64 bits in it, else 32. -/
def bitsWide (wide : Bool) : Nat := if wide then 64 else 32

/-- ADD: N and Z from the result, C the carry out, V a signed overflow (R117). -/
def addRule {w : Nat} (ty : OpTy) (x y : BitVec w) : Yield :=
  { value := some (ty, (x + y).setWidth 64), mask := 0b01111
    flags := qnzcv false (x + y).msb (x + y == 0) (decide (2 ^ w ≤ x.toNat + y.toNat)) (decide ((x + y).toInt ≠ x.toInt + y.toInt)) }

/-- The flags of x − y: C where nothing is borrowed, V a signed overflow (R117). -/
def subFlags {w : Nat} (x y : BitVec w) : BitVec 5 :=
  qnzcv false (x - y).msb (x - y == 0) (decide (y.toNat ≤ x.toNat)) (decide ((x - y).toInt ≠ x.toInt - y.toInt))

/-- SUB and NEG. -/
def subRule {w : Nat} (ty : OpTy) (x y : BitVec w) : Yield :=
  { value := some (ty, (x - y).setWidth 64), mask := 0b01111, flags := subFlags x y }

/-- A value whose N and Z are written with V := 0. -/
def logicRule {w : Nat} (ty : OpTy) (r : BitVec w) : Yield :=
  { value := some (ty, r.setWidth 64), mask := 0b01101, flags := qnzcv false r.msb (r == 0) false false }

/-- A value that is written without flags. -/
def valueRule {w : Nat} (ty : OpTy) (r : BitVec w) : Yield := { value := some (ty, r.setWidth 64) }

/-- A shift: N and Z from the result, C given, V := 0 (R120). -/
def shiftRule {w : Nat} (ty : OpTy) (r : BitVec w) (c : Bool) : Yield :=
  { value := some (ty, r.setWidth 64), mask := 0b01111, flags := qnzcv false r.msb (r == 0) c false }

/-- BEXT: the field of B that D names (R121). -/
def fieldOf (x : BitVec 32) (d : BitVec 16) : BitVec 32 :=
  (x >>> (d.extractLsb' 0 5)) &&& ((BitVec.allOnes 32) >>> (31 - (d.extractLsb' 5 5).toNat))

/-- BINS: bits p to p + len of A, as far as bit 31, take the low bits of B (R121). -/
def insertField (x y : BitVec 32) (d : BitVec 16) : BitVec 32 :=
  let p := (d.extractLsb' 0 5).toNat
  let m := ((BitVec.allOnes 32) >>> (31 - (d.extractLsb' 5 5).toNat)) <<< p
  (x &&& ~~~m) ||| ((y <<< p) &&& m)

/-! ### Fixed point and packed lanes (R123, R127) -/

/-- Fraction bits plus one of a fixed-point family. -/
def bitsFix (half : Bool) : Nat := if half then 16 else 32

/-- x clamped to the format of `f` fraction bits. -/
def saturate (f : Nat) (x : Int) : Int := max (-(2 ^ f)) (min (2 ^ f - 1) x)

/-- A fixed-point result: clamped, N and Z from what is written, Q set where the clamp changed it. -/
def fixRule (ty : OpTy) (f : Nat) (x : Int) : Yield :=
  { value := some (ty, (BitVec.ofInt (f + 1) (saturate f x)).setWidth 64)
    mask := if saturate f x = x then 0b01100 else 0b11100
    flags := qnzcv true (decide (saturate f x < 0)) (decide (saturate f x = 0)) false false }

/-- x / 2^k with halves toward +∞. -/
def halfUp (x : Int) (k : Nat) : Int := if k = 0 then x else (x + 2 ^ (k - 1)) / 2 ^ k

/-- QSHL: a shift left that saturates, or right with rounding (Table INS-4). -/
def qshlValue (f : Nat) (b k : Int) : Int :=
  if 0 ≤ k then b * 2 ^ k.toNat else if -(f + 1 : Int) < k then halfUp b (-k).toNat else 0

/-- A saturated lane of width `f + 1`. -/
def satLaneRule (w : Nat) (x : Int) : BitVec w := BitVec.ofInt w (saturate (w - 1) x)

/-- Four lanes of 16 bits, each from the lanes of B and C. -/
def four (g : BitVec 16 → BitVec 16 → BitVec 16) (b c : DWord) : DWord :=
  let l := fun k => g (b.extractLsb' (16 * k) 16) (c.extractLsb' (16 * k) 16)
  l 3 ++ l 2 ++ l 1 ++ l 0

/-- Two lanes of 32 bits. -/
def two (g : BitVec 32 → BitVec 32 → BitVec 32) (b c : DWord) : DWord :=
  let l := fun k => g (b.extractLsb' (32 * k) 32) (c.extractLsb' (32 * k) 32)
  l 1 ++ l 0

/-- Some of `n` lanes of width `w` leaves the range of its format under `g`. -/
def someSat (n w : Nat) (g : Int → Int → Int) (b c : DWord) : Bool :=
  (List.range n).any (fun k =>
    let x := g (b.extractLsb' (w * k) w).toInt (c.extractLsb' (w * k) w).toInt
    decide (saturate (w - 1) x ≠ x))

/-- A packed operation that saturates: Q where a lane does. -/
def packedSat (half : Bool) (g : Nat → Int → Int → Int) (b c : DWord) : Yield :=
  if half then
    { value := some (.v4q, four (fun x y => satLaneRule 16 (g 15 x.toInt y.toInt)) b c)
      mask := if someSat 4 16 (g 15) b c then 0b10000 else 0, flags := qnzcv true false false false false }
  else
    { value := some (.v2q, two (fun x y => satLaneRule 32 (g 31 x.toInt y.toInt)) b c)
      mask := if someSat 2 32 (g 31) b c then 0b10000 else 0, flags := qnzcv true false false false false }

/-- A packed operation without saturation: no flags, which a mask of 0 says. -/
def packedPlain (ty : OpTy) (v : DWord) : Yield := { value := some (ty, v), flags := qnzcv true false false false false }

/-! ### Floating point (R124 to R126) -/

/-- A NaN: exponent all ones, fraction not 0. -/
def isNan (p : BitVec 32) : Bool := p.extractLsb' 23 8 == 255#8 && p.extractLsb' 0 23 != 0#23
/-- An infinity. -/
def isInf (p : BitVec 32) : Bool := p.extractLsb' 23 8 == 255#8 && p.extractLsb' 0 23 == 0#23

/-- The number that a pattern stands for: a subnormal reads as 0, an infinity as ±2^128. -/
def fltVal (p : BitVec 32) : Rat :=
  if p.extractLsb' 23 8 = 0#8 then 0
  else (if p.msb then -1 else 1) * (2 ^ 23 + (p.extractLsb' 0 23).toNat : Rat) * (2 : Rat) ^ ((p.extractLsb' 23 8).toNat - 150 : Int)

/-- The NaN pattern of every result. -/
def nanWord : BitVec 32 := 0x7FC00000
/-- An infinity of a sign. -/
def infWord (neg : Bool) : BitVec 32 := if neg then 0xFF800000 else 0x7F800000
/-- A zero of a sign. -/
def zeroWord (neg : Bool) : BitVec 32 := if neg then 0x80000000 else 0

/-- The whole number nearest to `a`, the even one of two. -/
def NearestEven (a : Rat) (q : Int) : Prop := |a - q| ≤ 1 / 2 ∧ (|a - q| = 1 / 2 → q % 2 = 0)

/-- The pattern of q × 2^(x − 23), where 2^23 ≤ q ≤ 2^24: flushed to zero below 2^−126, an infinity from 2^128 on. -/
def packWord (neg : Bool) (x : Int) (q : Nat) : BitVec 32 :=
  let v : Rat := q * (2 : Rat) ^ (x - 23)
  if v < (2 : Rat) ^ (-126 : Int) then zeroWord neg
  else if (2 : Rat) ^ (128 : Int) ≤ v then infWord neg
  else zeroWord neg + BitVec.ofInt 32 ((x + 127) * 2 ^ 23 + (q - 2 ^ 23))

/-- A pattern is a positive magnitude rounded to 24 bits as if the exponent were unbounded, ties to even, then flushed or
written as an infinity where it leaves the range (R124). -/
def Rounds (neg : Bool) (a : Rat) (r : BitVec 32) : Prop :=
  ∃ (x : Int) (q : Nat), (2 : Rat) ^ x ≤ a ∧ a < (2 : Rat) ^ (x + 1) ∧ NearestEven (a * (2 : Rat) ^ (23 - x)) q ∧ r = packWord neg x q

/-- A number rounded; 0 takes the sign that is given. -/
def RoundsTo (zeroNeg : Bool) (v : Rat) (r : BitVec 32) : Prop :=
  if v = 0 then r = zeroWord zeroNeg else Rounds (decide (v < 0)) |v| r

/-- B + C: an exact zero is −0 only where both are negative. -/
def FAdd (b c r : BitVec 32) : Prop :=
  if isNan b ∨ isNan c then r = nanWord
  else if isInf b then (if isInf c ∧ b.msb ≠ c.msb then r = nanWord else r = b)
  else if isInf c then r = c
  else RoundsTo (b.msb && c.msb) (fltVal b + fltVal c) r

/-- B × C. -/
def FMul (b c r : BitVec 32) : Prop :=
  if isNan b ∨ isNan c then r = nanWord
  else if isInf b ∨ isInf c then (if fltVal b = 0 ∨ fltVal c = 0 then r = nanWord else r = infWord (b.msb != c.msb))
  else RoundsTo (b.msb != c.msb) (fltVal b * fltVal c) r

/-- A + B × C with one rounding. -/
def FMulAdd (a b c r : BitVec 32) : Prop :=
  let n := b.msb != c.msb
  if isNan a ∨ isNan b ∨ isNan c then r = nanWord
  else if isInf b ∨ isInf c then
    (if fltVal b = 0 ∨ fltVal c = 0 then r = nanWord
     else if isInf a ∧ a.msb ≠ n then r = nanWord else r = infWord n)
  else if isInf a then r = a
  else RoundsTo (a.msb && n) (fltVal a + fltVal b * fltVal c) r

/-- B ÷ C. -/
def FDivide (b c r : BitVec 32) : Prop :=
  let n := b.msb != c.msb
  if isNan b ∨ isNan c then r = nanWord
  else if isInf b then (if isInf c then r = nanWord else r = infWord n)
  else if isInf c then r = zeroWord n
  else if fltVal c = 0 then (if fltVal b = 0 then r = nanWord else r = infWord n)
  else RoundsTo n (fltVal b / fltVal c) r

/-- √B: of −0 it is −0, of a number below 0 a NaN. -/
def FRoot (b r : BitVec 32) : Prop :=
  if isNan b then r = nanWord
  else if isInf b then (if b.msb then r = nanWord else r = b)
  else if fltVal b = 0 then r = zeroWord b.msb
  else if b.msb then r = nanWord
  else ∃ (x : Int) (q : Nat), 2 ^ 23 ≤ q ∧ q ≤ 2 ^ 24 ∧
    ((2 * q - 1 : Rat)) ^ 2 * (2 : Rat) ^ (2 * (x - 24)) ≤ fltVal b ∧ fltVal b ≤ ((2 * q + 1 : Rat)) ^ 2 * (2 : Rat) ^ (2 * (x - 24)) ∧
    r = packWord false x q

/-- A result with N, Z and V: −0 is zero and not negative (R124). -/
def fltYield (r : BitVec 32) : Yield :=
  { value := some (.f32, r.setWidth 64), mask := 0b01101
    flags := qnzcv false (r.msb && r != nanWord && r.setWidth 31 != 0#31) (r.setWidth 31 == 0#31) false (r == nanWord) }

/-- A subnormal is read as zero of its sign. -/
def flushed (p : BitVec 32) : BitVec 32 := if p.extractLsb' 23 8 = 0#8 then zeroWord p.msb else p

/-- The order of FMIN and FMAX: by number, −0 below +0. -/
def below (b c : BitVec 32) : Bool := decide (fltVal b < fltVal c) || (decide (fltVal b = fltVal c) && b.msb && !c.msb)

/-- FMIN, or FMAX. -/
def pickRule (greater : Bool) (b c : BitVec 32) : BitVec 32 :=
  if isNan b then (if isNan c then nanWord else flushed c)
  else if isNan c then flushed b
  else if below b c = greater then flushed c else flushed b

/-- Wherever a command issues it takes off, and at its read point it answers the next state of a yield that a relation admits. -/
def GivesSome (cmd : Instr) (i : Issue) (a b c : OpSpec) (rule : Vals → Yield → Prop) : Prop :=
  TakesOff cmd i ∧
  ∀ (s r : State) (p : Places), Reads s r cmd i a b c p →
    ∃ y, rule (r.valuesAt i p a b c) y ∧ exec cmd s = .next (r.left i a b c p y)

/-! ### Product registers (R128 to R130) -/

/-- Wherever a command issues it takes off, and at its read point its product is entered for the end of the issue's cycle L + 2,
in the register that A names; the relation says which products, and whether Q is set. -/
def GivesProduct (cmd : Instr) (i : Issue) (b c : OpSpec) (l : Nat) (rule : Vals → DWord → Bool → Prop) : Prop :=
  TakesOff cmd i ∧
  ∀ (s r : State) (p : Places), Reads s r cmd i prd b c p →
    ∃ k v q, p.a.loc = .px i.thread k ∧ rule (r.valuesAt i p prd b c) v q ∧
      exec cmd s = .next (((r.startRead i p prd b c).enter i.thread (l + 2) prioPipe (.product i.thread k v)).putFlags
        i.thread (if q then 0b10000 else 0) (qnzcv true false false false false))

/-- DIV: quotient in the low half, remainder in the high half (R130). -/
def divRule (b c : BitVec 32) : DWord :=
  if c = 0 then b ++ (if b.msb then 0x80000000#32 else 0x7FFFFFFF#32) else b.srem c ++ b.sdiv c

/-- DIVU. -/
def divuRule (b c : BitVec 32) : DWord := if c = 0 then b ++ 0xFFFFFFFF#32 else b.umod c ++ b.udiv c

/-! ### Control mathematics (R132 to R136) -/

/-- Lane `k` of 16 bits as a signed number. -/
def q15At (v : DWord) (k : Nat) : Int := (v.extractLsb' (16 * k) 16).toInt
/-- Lane `k` of 32 bits as a signed number. -/
def q31At (v : DWord) (k : Nat) : Int := (v.extractLsb' (32 * k) 32).toInt

/-- Two q31 lanes as written. -/
def pairWord (x y : Int) : DWord := BitVec.ofInt 32 (saturate 31 y) ++ BitVec.ofInt 32 (saturate 31 x)

/-- A pair of lanes with Q where one is clamped. -/
def pairYield (q : Bool) (x y : Int) : Yield :=
  { value := some (.v2q, pairWord x y)
    mask := if q && (decide (saturate 31 x ≠ x) || decide (saturate 31 y ≠ y)) then 0b10000 else 0
    flags := qnzcv true false false false false }

/-- Wherever a command issues it takes off, and at its read point it answers the next state of a yield that a relation admits, with
`n` free values drawn (log entry 7). -/
def GivesFree (cmd : Instr) (i : Issue) (a b c : OpSpec) (n : Nat) (rule : Vals → Yield → Prop) : Prop :=
  TakesOff cmd i ∧
  ∀ (s r : State) (p : Places), Reads s r cmd i a b c p →
    ∃ y, rule (r.valuesAt i p a b c) y ∧ exec cmd s = .next { r.left i a b c p y with free := r.free + n }

/-- A lane of q31 within 2^−28 of a real number: 8 units of the format (R133). -/
def Near (x : Int) (r : ℝ) : Prop := |(x : ℝ) - r| ≤ 8

/-- An angle of type ang in radians. -/
noncomputable def radians (v : DWord) : ℝ := 2 * Real.pi * (v.setWidth 16).toNat / 65536

/-- One update of PIU, step by step as R134 writes it: the new integrator, the output, C and Q. -/
def piuRule (integ e kp ki lim : Int) (g : Nat) : Int × Int × Bool × Bool :=
  let p := kp * e * 2 ^ g
  let pq := saturate 31 ((p + 2 ^ 14) / 2 ^ 15)
  let di := saturate 31 ((ki * e + 2 ^ 14) / 2 ^ 15)
  let sum := saturate 31 (integ + di)
  let u := saturate 31 (pq + sum)
  let q := decide (pq ≠ (p + 2 ^ 14) / 2 ^ 15) || decide (di ≠ (ki * e + 2 ^ 14) / 2 ^ 15) || decide (sum ≠ integ + di) ||
    decide (u ≠ pq + sum)
  let l := max lim 0 * 2 ^ 16
  if l < u then (if 0 < di then integ else sum, l, true, q)
  else if u < -l then (if di < 0 then integ else sum, -l, true, q)
  else (sum, u, false, q)

/-- A coordinate of a limited vector: x × m / √n rounded toward zero. -/
def LimitedTo (x m n y : Int) : Prop :=
  0 ≤ x * y ∧ y ^ 2 * n ≤ x ^ 2 * m ^ 2 ∧ x ^ 2 * m ^ 2 < (|y| + 1) ^ 2 * n

/-- A lane of SVM: dx clamped to 0 and 1, times n, rounded with halves upward. -/
def SvmLane (dx : ℝ) (n lane : Nat) : Prop := (lane : ℤ) = ⌊max 0 (min 1 dx) * n + 1 / 2⌋

/-- The sector of a vector by its angle, counted anticlockwise from the first axis; 1 for the zero vector (R136). -/
def SectorOf (a b : ℝ) (k : Nat) : Prop :=
  if a = 0 ∧ b = 0 then k = 1
  else 1 ≤ k ∧ k ≤ 6 ∧ ∃ φ : ℝ, (k - 1 : ℝ) * (Real.pi / 3) ≤ φ ∧ φ < k * (Real.pi / 3) ∧
    a = Real.sqrt (a ^ 2 + b ^ 2) * Real.cos φ ∧ b = Real.sqrt (a ^ 2 + b ^ 2) * Real.sin φ

/-- SVM with min-max zero-sequence injection (R136). -/
def SvmRule (va vb : Int) (n : Nat) (v : DWord) (c : Bool) : Prop :=
  let α : ℝ := va / 2 ^ 31
  let β : ℝ := vb / 2 ^ 31
  let xa := α
  let xb := -α / 2 + Real.sqrt 3 / 2 * β
  let xc := -α / 2 - Real.sqrt 3 / 2 * β
  let v0 := -(max (max xa xb) xc + min (min xa xb) xc) / 2
  let d := fun x : ℝ => 1 / 2 + x + v0
  SvmLane (d xa) n (v.extractLsb' 0 16).toNat ∧ SvmLane (d xb) n (v.extractLsb' 16 16).toNat ∧
  SvmLane (d xc) n (v.extractLsb' 32 16).toNat ∧
  (c = true ↔ ∃ x, (x = xa ∨ x = xb ∨ x = xc) ∧ (d x < 0 ∨ 1 < d x)) ∧
  v.getLsbD 63 = c ∧ SectorOf α β ((v.extractLsb' 48 15).toNat)

/-! ### Frames of a thread's issue -/

/-- Beyond the thread `u`, an issue changes only the agenda, the log of read errors and the counter of free values. -/
structure OnlyThread (s t : State) (u : Tid) : Prop where
  rest : t = { s with threads := t.threads, agenda := t.agenda, memS := t.memS, free := t.free }
  log : t.memS = { s.memS with ue := t.memS.ue, ueTotal := t.memS.ueTotal, log := t.memS.log, nextLog := t.memS.nextLog }
  others : ∀ v, v ≠ u → t.thr v = s.thr v

/-- In the thread itself, an issue that changes no flow keeps its product registers, FP, SP, flags, mask level and privilege,
its events but for the recognition, and its period. -/
structure KeepsContext (x y : Thread) : Prop where
  fp : y.fp = x.fp
  sp : y.sp = x.sp
  sw : y.sw.setWidth 16 = x.sw.setWidth 16
  px : y.px0 = x.px0 ∧ y.px1 = x.px1 ∧ y.px2 = x.px2 ∧ y.px3 = x.px3
  ev : y.ev = { x.ev with recog := y.ev.recog }
  per : y.per = x.per
  slate : y.sel = x.sel ∧ y.dirty = x.dirty

/-- A landing stands in the agenda. -/
def State.Due (s : State) (u : Tid) (due prio : Nat) (issued : Nat) (e : Eff) : Prop :=
  ({ due := due, prio := prio, thread := some u, issuedAt := issued, eff := e } : Landing) ∈ s.agenda

/-- The conditions of Table INS-2 over N Z C V. -/
def condTable (c : Cond) (n z k v : Bool) : Bool :=
  match c with
  | .eq => z
  | .ne => !z
  | .cs => k
  | .cc => !k
  | .mi => n
  | .pl => !n
  | .vs => v
  | .vc => !v
  | .hi => k && !z
  | .ls => !(k && !z)
  | .ge => decide (n = v)
  | .lt => decide (n ≠ v)
  | .gt => !z && decide (n = v)
  | .le => !(!z && decide (n = v))

/-- A thread takes a state; one that steps out of HALT keeps it as the state to return to. -/
def Entered (x y : Thread) (st : TState) : Prop := if x.st = .halt then y.st = .halt ∧ y.beforeHalt = st else y.st = st

/-- The target that a branch at `pc` holds itself: relative in the short form and in mode 2, absolute in mode 1 (R103, R104). -/
def heldTarget (pc : BitVec 16) : Target → Option (BitVec 16)
  | .short d => some (pc + d.signExtend 16)
  | .long o =>
    if o.mode = 2 then some (pc + o.spec.signExtend 16) else if o.mode = 1 then some (o.spec.setWidth 16 * 4) else none

/-- What a taken change of flow leaves at its issue: the thread's next owned slot empty, and with a target of its own the PC and two
words of the queue there, else an empty queue and no issue before the sixth cycle after it (R73, R74). -/
def Taken (s t : State) (u : Tid) (target : Option (BitVec 16)) : Prop :=
  (t.thr u).skipSlots = 1 ∧ (t.thr u).lastIssue = some s.now ∧
  (match target with
   | some pc => (t.thr u).pc = pc ∧ (t.thr u).pq.length = 2
   | none => (t.thr u).pq = [] ∧ (t.thr u).notBefore = s.now + 6)

/-- The thread goes on at `pc` after its issue of three cycles ago, with nothing in its queue (R74). -/
def GoesOn (r t : State) (u : Tid) (pc : BitVec 16) : Prop :=
  (∀ g ∈ (r.thr u).flight, g.at_ ≤ r.now - 3) → (t.thr u).pc = pc ∧ (t.thr u).pq = []

/-- The read point of a branch or call whose target lies in desk: the target is read, taken or not, and its faults are met; a taken one
goes on there. With a target of its own there is nothing left to do (R73, R74, R137). -/
def ArrivesAtTarget (s r : State) (cmd : Instr) (j : Jump) (g : Flight) : Prop :=
  let u := j.thread
  match (r.readView u).target u (r.readFp u) g.before.pc j.tgt with
  | .error e => exec cmd s = .next (r.raise u e.cause e.space e.addr)
  | .ok (.direct _) => exec cmd s = .next r
  | .ok (.desk pc p) => ∃ t, exec cmd s = .next t ∧ OnlyThread r t u ∧ (g.went = true → GoesOn r t u pc) ∧
      (g.went = false → t = r.useTarget u j.tgt p) ∧ t.agenda = (r.useTarget u j.tgt p).agenda

/-- REP or REPI: its issue, and at its read point the count of its repetitions (R140, R141, R143). -/
def PrefixRepeats (cmd : Instr) (i : Issue) (interruptible : Bool) : Prop :=
  let u := i.thread
  let last := fun (r : State) => ∀ g ∈ (r.thr u).flight, g.at_ ≤ r.now - 3
  (∀ s, IssuesOnce s cmd u → ∃ t, exec cmd s = .next t ∧ OnlyThread s t u ∧ KeepsContext (s.thr u) (t.thr u) ∧
    t.agenda = s.agenda ∧ (t.thr u).notBefore = s.now + 4 ∧ (t.thr u).pc = (s.thr u).pc + BitVec.ofNat 16 (wordsOf i)) ∧
  (∀ s r g p, AtRead s r cmd u g → Reads s r cmd i (rd .cnt) none none p → ((r.readView u).thr u).sw.extractLsb' 16 16 = 0#16 →
    let n := (r.valuesAt i p (rd .cnt) none none).a.setWidth 16
    ∃ t, exec cmd s = .next t ∧ OnlyThread r t u ∧ (last r → KeepsContext (r.thr u) (t.thr u) ∧
      (n = 0 → ∃ w, w = (match (r.thr u).pq with | e :: _ => e.1 | [] => (r.fetchWord u (r.thr u).pc).1) ∧
        (t.thr u).pc = (r.thr u).pc + (if isLong w then 2 else 1) ∧ (t.thr u).rep = (r.thr u).rep) ∧
      (n ≠ 0 → (t.thr u).rep = some { prefixPc := g.before.pc, interruptible := interruptible } ∧ (t.thr u).pc = (r.thr u).pc ∧
        (t.thr u).sw.extractLsb' 16 16 = n))) ∧
  (∀ s r g, AtRead s r cmd u g → ((r.readView u).thr u).sw.extractLsb' 16 16 ≠ 0#16 →
    ∃ t, exec cmd s = .next t ∧ OnlyThread r t u ∧ t.agenda = r.agenda ∧ (last r → KeepsContext (r.thr u) (t.thr u) ∧
      (t.thr u).rep = some { prefixPc := g.before.pc, interruptible := interruptible } ∧ (t.thr u).pc = (r.thr u).pc ∧
      (t.thr u).sw.extractLsb' 16 16 = ((r.readView u).thr u).sw.extractLsb' 16 16)) ∧
  (∀ s r g e, AtRead s r cmd u g → ((r.readView u).thr u).sw.extractLsb' 16 16 = 0#16 →
    (r.readView u).places i (r.readFp u) (rd .cnt) none none = .error e → exec cmd s = .next (r.raise u e.cause e.space e.addr))

/-- An issue takes off with an illegal-opcode fault, before which its thread stands as it was (R142, R181). -/
def FliesIllegal (s t : State) (u : Tid) (cmd : Instr) : Prop :=
  OnlyThread s t u ∧ t.agenda = s.agenda ∧ ∃ g, (t.thr u).flight = (s.thr u).flight ++ [g] ∧ (∀ h ∈ (s.thr u).flight, h.at_ ≠ s.now) ∧
    g.at_ = s.now ∧ g.insn = some cmd ∧ g.fault = some { cause := .illegal } ∧ g.before = (s.thr u).toThreadS

/-- A word of desk at an address crosses a row of 8 bytes (R108). -/
abbrev CrossesRow (a : BitVec 19) : Prop := a.toNat / 8 ≠ (a.toNat + 3) / 8

/-- An access to the I/O space that an instruction at its read point enters for its c6 (R148). -/
def State.accesses (r : State) (i : Issue) (a b c : OpSpec) (p : Places) (x : IoAcc) : State :=
  (r.startRead i p a b c).enter i.thread 5 prioUnit (.io i.thread x)

/-- The unsigned value of a 32-bit operand. -/
def w32 (v : DWord) : Nat := (v.setWidth 32).toNat

/-- At the read point of a command whose values meet a condition, its access is entered for its c6. -/
def GivesAccess (cmd : Instr) (i : Issue) (a b c : OpSpec) (ok : Vals → Prop) (acc : State → Places → Vals → IoAcc) : Prop :=
  ∀ (s r : State) (p : Places), Reads s r cmd i a b c p → ok (r.valuesAt i p a b c) →
    exec cmd s = .next (r.accesses i a b c p (acc r p (r.valuesAt i p a b c)))

/-- At the read point of a command whose values meet a condition, it meets a fault (R106). -/
def GivesFault (cmd : Instr) (i : Issue) (a b c : OpSpec) (bad : Vals → Prop) (cause : FCause) (space : BitVec 3)
    (addr : Vals → Word) : Prop :=
  ∀ (s r : State) (p : Places), Reads s r cmd i a b c p → bad (r.valuesAt i p a b c) →
    exec cmd s = .next (r.raise i.thread cause space (addr (r.valuesAt i p a b c)))

/-- A ring instruction in its slot: with four items pending it is charged and issues again, else it takes off (R347). -/
def TakesOffUnlessFull (cmd : Instr) (i : Issue) : Prop :=
  ∀ s : State, Issues s cmd i.thread →
    exec cmd s = .next (if 4 ≤ s.itemsHeld i.thread then s.useSlot i.thread else s.issueOf cmd i.thread (wordsOf i))

/-- In its c6 an access has its effect where `ok` holds; else it is a bus error of the instruction that issued in cycle `k`, in the I/O
space with the number `n`, and does nothing else (R24, R106, R148). -/
def InC6 (t : Tid) (acc : IoAcc) (n : Nat) (ok : State → Prop) (eff : State → State → Nat → State) : Prop :=
  ∀ (s was : State) (k : Nat),
    (ok s → s.landIo was t k true acc = eff s was k) ∧
    (¬ ok s → s.landIo was t k true acc = s.raiseAt t k { cause := .bus, space := 4, faddr := BitVec.ofNat 32 n })

/-- The partition of the thread holds the resource. -/
def State.mine (s : State) (t : Tid) (k : Fin 17) (n : Nat) : Prop := ∃ h, s.partOf kThread t.val = some h ∧ s.partOf k n = some h

/-- A hall-queue instruction: without a free credit it is charged and issues again, else it takes off; at its read point it meets a
fault, or its entry is entered for its c6. -/
def GivesEntry (cmd : Instr) (i : Issue) (kind : HqKind) (n : Nat) (a b c : OpSpec) (args : Places → Vals → HallArgs) : Prop :=
  let u := i.thread
  let cred := fun (s : State) => ((s.reg (.thrCfg u)).extractLsb' 8 4).toNat
  (∀ s, Issues s cmd u → exec cmd s = .next (
    if cred s ≠ 0 ∧ cred s ≤ s.outstanding u then s.useSlot u else s.issueOf cmd u (wordsOf i))) ∧
  (∀ s r p, Reads s r cmd i a b c p →
    let x := args p (r.valuesAt i p a b c)
    let h := w32 x.addr
    let misaligned : Prop := if kind = .hld ∨ kind = .hst then h / 8 ≠ (h + n - 1) / 8 else h % 8 ≠ 0
    let y := (r.readView u).thr u
    (misaligned → exec cmd s = .next (r.raise u .misaligned 3 (BitVec.ofNat 32 h))) ∧
    (¬ misaligned → (cred r = 0 ∨ 0x800000 ≤ h) → exec cmd s = .next (r.raise u .bus 3 (BitVec.ofNat 32 h))) ∧
    (¬ misaligned → cred r ≠ 0 → h < 0x800000 →
      exec cmd s = .next ((r.startRead i p a b c).enter u 5 prioUnit (.hall (barrelOf u)
        { kind := kind, thread := u, epoch := y.epoch, life := y.life, addr := x.addr.setWidth 23, size := n
          data := x.data, cmp := x.cmp, dest := x.dest, seq := 0, issued := r.now - 3, written := 0, retireAt := none, result := 0
          busErr := false }))))

/-! ### Register writes (R24, R25, Table HST-1) -/

/-- A command that is a register write: one that the port does not take leaves the state, one without the rights answers STATUS 1
and changes nothing else, and one with them leaves `u` and answers STATUS 0. `low` marks the registers below hc:0x06_0000, which no
DMA channel writes. -/
def GivesWrite (cmd : Instr) (a : Agent) (low : Bool) (s : State) (inside : Bool) (u : State) : Prop :=
  exec cmd s = .next (
    if (low && (match a with | .dma _ => true | _ => false)) || !s.accepts a then s
    else if inside then u.respond a 0 else s.respond a 1)

/-- A command that is a write to a register which lies in the threads' I/O space too: a thread whose partition holds it, at S level
where it needs that (`superv`) and as the owner of its channel (`chan`), leaves `u`, and any other thread leaves the state (R23, R165,
R219); for every other agent it is a register write of `GivesWrite`. -/
def GivesWriteOut (cmd : Instr) (a : Agent) (superv : Bool) (chan : Option Chan) (s : State) (inside : Bool) (u : State) : Prop :=
  match a with
  | .thread t =>
    let may := inside = true ∧ (superv = true → (s.thr t).sw.getLsbD 6 = true) ∧
      ∀ c, chan = some c → (s.reg (.pinOwner c)).getLsbD 31 = true ∧ (s.reg (.pinOwner c)).toNat % 128 = t.val
    (may → exec cmd s = .next u) ∧ (¬ may → exec cmd s = .next s)
  | _ => GivesWrite cmd a false s inside u

/-- The slots of a map that a thread of the barrel owns (R57, Table BRL-2). -/
def slotsOwned (m : List Byte) (i : Nat) : List Nat :=
  (List.range 32).filter (fun k => (m.getD k 0).getLsbD 7 && decide ((m.getD k 0).toNat % 32 = i))

/-- A map passes the check of R58: a thread with exactly two slots owns slots that lie 8 to 24 apart. -/
def mapPasses (m : List Byte) : Bool :=
  (List.range 32).all (fun i => match slotsOwned m i with | [k, l] => decide (8 ≤ l - k) && decide (l - k ≤ 24) | _ => true)

/-- The error correction finds nothing in the words of an entry. -/
def State.cleanEntry (s : State) (e : HqEntry) : Prop := s.poisoned instHall e.addr.toNat e.size = false

/-! ### Lock words (Table HST-10) -/

/-- A lock word: ABANDONED, EXPIRED, zeros, SEQ and OWNER. -/
def lockOf (aband expired : Bool) (seq : BitVec 32) (owner : BitVec 16) : DWord :=
  BitVec.ofBool aband ++ BitVec.ofBool expired ++ 0#14 ++ seq ++ owner

/-! ### The Halyard (R383 to R389) -/

/-- A frame of the node waits for a lane, with the node's position and the next SEQ (Table HLY-1). -/
def State.queues (s : State) (down : Bool) (typ : BitVec 4) (bc : Bool) (dst : BitVec 14) (p : List Byte) : State :=
  let f : Frame :=
    { typ := typ, bc := bc, upw := !down, dst := dst, src := if (s.reg .hlyCtl).getLsbD 31 then 0 else s.hly.pos, hops := 0
      len := BitVec.ofNat 7 ((p.length + 3) / 4), seq := s.hly.seq, payload := p }
  { s with hly := { s.hly with
    laneUp := if down then s.hly.laneUp else { s.hly.laneUp with queue := s.hly.laneUp.queue ++ [f] }
    laneDn := if down then { s.hly.laneDn with queue := s.hly.laneDn.queue ++ [f] } else s.hly.laneDn
    seq := s.hly.seq + 1 } }

/-- The state of a link, upstream or downstream. -/
def State.linkIs (s : State) (down : Bool) (x : LinkSt) : Prop := (if down then s.hly.dn else s.hly.up) = x

/-- A lane of the node. -/
def State.laneOf (s : State) (down : Bool) : Lane := if down then s.hly.laneDn else s.hly.laneUp

/-- The endpoint works: outside a cold reset and the ROOT_ERR case (R383, R385). -/
def State.works (s : State) : Prop := s.sys.phase ≠ .cold ∧ s.sys.rootErr = false

/-- Frames reach the working endpoint on a link that is fitted, upstream or downstream (R40, R382). -/
def State.hears (s : State) (down : Bool) : Prop := s.works ∧ s.sys.straps.hlyEn.getLsbD (if down then 1 else 0) = true

/-- The node is the head. -/
def State.heads (s : State) : Prop := (s.reg .hlyCtl).getLsbD 31 = true

/-- A frame of a permitted length that arrives on a fitted link, is addressed to this node by its position, or to all, and is not the
head's own. -/
def State.takes (s : State) (f : Frame) : Prop :=
  s.hears f.upw ∧ f.len.toNat ≤ 65 ∧ ¬ (s.heads ∧ f.src = 0) ∧
  (f.bc = true ∨ (s.heads ∧ f.dst = 0) ∨ (¬ s.heads ∧ s.hly.posv = true ∧ f.dst = s.hly.pos))

/-- A node forwards a frame that it does not consume (R385). -/
def State.passes (s : State) (f : Frame) : Prop :=
  (s.reg .hlyCtl).getLsbD 30 = true ∧ f.len.toNat ≤ 65 ∧ f.typ ∈ [1#4, 4#4, 5#4, 6#4, 7#4, 8#4, 9#4, 10#4] ∧
  ¬ (f.bc = false ∧ ((s.heads ∧ f.dst = 0) ∨ (¬ s.heads ∧ s.hly.posv = true ∧ f.dst = s.hly.pos))) ∧ ¬ (s.heads ∧ f.src = 0)

/-- Bytes of a payload as a number, least significant first. -/
def fieldAt (f : Frame) (off n : Nat) : Nat := leNat ((f.payload.drop off).take n)

/-- BCLK that a frame takes on a lane: its payload and 16 more characters of 10 HCLK, each 3 BCLK long (R17, R382). -/
def laneTime (f : Frame) : Nat := (16 + 4 * f.len.toNat) * 30

/-! ### Updates (R393 to R403) -/

/-- The update state with one more record of the staged image in the journal (Table HLY-8, R404). -/
def UpdS.noted (u : UpdS) (typ : Nat) (cls : BitVec 4) (bell : DWord) : UpdS :=
  u.write 4 { typ := typ, slotB := u.stagingB, half := !u.half, imgid := u.imgId, bell := bell, cls := cls }

/-- An armed order is void: a VOID record, VERIFIED again, the outcome recorded (R399). -/
def UpdS.voided (u : UpdS) (o : Order) (cause : BitVec 8) : UpdS :=
  { u.noted 7 (BitVec.ofNat 4 o.cls.val) o.bell with stage := .verified, order := none, outcome := 4, cause := cause }

/-- A download starts: a BEGIN record with the length, an empty bitmap, STAGE DOWNLOAD (R393). -/
def UpdS.begun (u : UpdS) (id : DWord) (len : Word) : UpdS :=
  { ({ u with imgId := id, imgLen := len } : UpdS).noted 1 0 (len.setWidth 64) with
    bitmap := [], seqHost := none, seqHly := none, stage := .download }

/-- A fall-back is asked for at bell `n` of the activation class or, where one stands, the earlier of the two (R402). -/
def UpdS.fallsBack (u : UpdS) (n : DWord) : UpdS :=
  match u.order with
  | some o => { u with fallback := some { o with bell := match u.fallback with | some f => if f.bell.toNat < n.toNat then f.bell else n | none => n } }
  | none => u

/-- The refusal states of Table HLY-7 as CAUSE bits. -/
def State.refusalBits (s : State) : BitVec 8 :=
  let moves := (List.finRange 16).any (fun c : Bell =>
    let v := s.reg (.updMot c)
    let fired := mget 0 s.upd.moving (v.extractLsb' 0 5).toNat
    v.getLsbD 31 && decide (fired ≠ 0) && decide (s.now < wallEnd s.mhz (fired - 1) ((s.reg .updCfg).extractLsb' 0 16).toNat))
  let onBank := fun (b : Nat) (y : Bool) => (List.finRange 128).any (fun t => decide ((barrelOf t).val = b % 4) && ((s.thr t).bankY == y))
  let noStandby := (sectsOf s.stagingImg 1).any (fun x => onBank x.arg true && onBank x.arg false)
  0#3 ++ BitVec.ofBool noStandby ++ BitVec.ofBool s.upd.ownLock ++ BitVec.ofBool (!s.sys.holdup) ++ BitVec.ofBool moves ++ BitVec.ofBool s.sys.motion

/-- Bell n of a class comes no sooner than 16 FCLK from now, and the bell runs on (R397). -/
def State.bellComes (s : State) (b : Bell) (n : DWord) : Prop :=
  (s.bell b).running = true ∧ (s.bell b).stopping = false ∧
  16 ≤ ((s.reg (.belStartHi b) ++ s.reg (.belStartLo b)) + n * (s.reg (.belPeriod b)).setWidth 64 - s.tbase).toInt

/-- What an operation of UPD_CMD, or of an order with the same fields, makes of the update state (R393 to R403). -/
def OpLeaves (s : State) (op : Nat) (b : Bell) (len : Word) (id n : DWord) (v : UpdS) : Prop :=
  let u := s.upd
  let switched := u.stage = .switching ∨ u.stage = .provisional
  let held := id = u.imgId ∧ len = u.imgLen
  (op = 1 →
    (switched → v = { u.fallsBack 0 with beginAfter := some (id, len), cmdErr := 0 }) ∧
    (∀ o, u.stage = .armed → u.order = some o → v = if held then { u.voided o 0 with cmdErr := 0 } else { (u.voided o 0).begun id len with cmdErr := 0 }) ∧
    (u.stage = .verified → held → v = { u with cmdErr := 0 }) ∧
    (u.stage = .idle ∨ u.stage = .download ∨ u.stage = .verifying ∨ u.stage = .recovery ∨ (u.stage = .verified ∧ ¬ held) →
      v = { u.begun id len with cmdErr := 0 })) ∧
  (op = 2 →
    let this := u.stage = .verified ∧ u.imgId = id
    (¬ this → v = { u with cmdErr := 1, outcome := 2, cause := 0 }) ∧
    (this → s.refusalBits ≠ 0 → v = { u with cmdErr := 2, outcome := 3, cause := s.refusalBits }) ∧
    (this → s.refusalBits = 0 → ¬ s.bellComes b n → v = { u with cmdErr := 2, outcome := 3, cause := 0x80 }) ∧
    (this → s.refusalBits = 0 → s.bellComes b n → v = { u.noted 3 (BitVec.ofNat 4 b.val) n with
      stage := .armed, order := some { imgid := id, cls := b, bell := n }, copyDone := false, copyErr := false, outcome := 1, cause := 0
      workEnd := s.now + ((sectsOf s.stagingImg 1).map (·.len)).sum, cmdErr := 0 })) ∧
  (op = 3 →
    (u.stage = .provisional → v = { u.noted 5 0 0 with
      stage := .idle, stagingB := !u.stagingB, half := !u.half, cid := u.imgId, outcome := 7, cause := 0, order := none, fallback := none
      confirmBy := none, beginAfter := none, cmdErr := 0
      copyA := if u.half then u.copyA else none
      copyB := if u.half then none else u.copyB }) ∧
    (u.stage ≠ .provisional → v = { u with cmdErr := 1 })) ∧
  (op = 4 → (switched → v = { u.fallsBack n with cmdErr := 0 }) ∧ (¬ switched → v = { u with cmdErr := 1 })) ∧
  (op = 5 → (∀ o, u.stage = .armed → u.order = some o → v = { u.voided o 0 with cmdErr := 0 }) ∧
    (u.stage ≠ .armed → v = { u with cmdErr := 1 })) ∧
  (op = 6 → v = if u.stage = .download ∨ u.stage = .verified ∨ u.stage = .recovery
    then { u with stage := .verifying, vDone := false, cmdErr := 0
                  workEnd := s.now + min 12582912 (imgLength s.stagingImg) + 2000 * s.mhz } else { u with cmdErr := 1 })

/-- The payload of an ORDER: OP, class, zeros, LENGTH, IMGID and bell number. -/
def orderOf (op : Nat) (b : Bell) (len : Word) (id n : DWord) : List Byte :=
  leBytes op 1 ++ leBytes b.val 1 ++ [0, 0] ++ leBytes len.toNat 4 ++ leBytes id.toNat 8 ++ leBytes n.toNat 8

/-- Image bytes reach the staging slot and nothing else of the update state but the chunk bitmap and their path's sequence: a chunk's
bit is set once its sequence has reached its 32 units, and the last chunk of a download fires 0x7EC (R393, R396). -/
structure Stores (s t : State) (at_ : Nat) (l : List Byte) (next : Option (Nat × Nat)) : Prop where
  bytes : ∀ x, peek t.stagingImg x = if at_ ≤ x ∧ x < at_ + l.length then l.getD (x - at_) 0 else peek s.stagingImg x
  other : t.confirmedImg = s.confirmedImg
  bits : ∀ k, mget false t.upd.bitmap k = (mget false s.upd.bitmap k || decide (next = some (k, 32)))
  journal : t.upd.journal = s.upd.journal ∧ t.upd.stage = s.upd.stage
  memories : t.desk = s.desk ∧ t.hall = s.hall ∧ t.ins = s.ins ∧ t.slate = s.slate
  done : (∃ k < (s.upd.imgLen.toNat + 4095) / 4096, mget false s.upd.bitmap k = false) →
    (∀ k < (s.upd.imgLen.toNat + 4095) / 4096, mget false t.upd.bitmap k = true) →
    ∀ e ∈ s.evmap, e.2.1 = 0x7EC#11 → (t.thr (fin 128 (e.1 / 32))).ev.pend.getLsbD (e.1 % 32) = true

/-- The sequence of a path after `n` units from a unit of a chunk on (R393). -/
def Follows (seq : Option (Nat × Nat)) (chunk unit n : Nat) (next : Option (Nat × Nat)) : Prop :=
  (unit = 0 → next = some (chunk, n)) ∧ (unit ≠ 0 → seq = some (chunk, unit) → next = some (chunk, unit + n)) ∧
  (unit ≠ 0 → seq ≠ some (chunk, unit) → next = none)

/-- The code of the first check that does not hold; 0 where all hold. -/
def firstFailing (checks : List (Nat × Bool)) : BitVec 4 :=
  match checks.find? (fun c => !c.2) with
  | some c => BitVec.ofNat 4 c.1
  | none => 0

/-! ### Drills (R426) -/

/-- A drill is over: its result and data, a report card at the next SCLK, and source 0x7F0. -/
def State.drillOver (s : State) (code : Byte) (res : BitVec 3) (data : Word) : State :=
  ({ s with drill := { s.drill with
      cur := none, done := some s.now, res := res, lastCode := code, data := data, cardDue := true } } : State).pulse 0x7F0

/-- A drill is in progress, with the arguments as they stand. -/
def State.drillOn (s : State) (code : Byte) (left : Nat) (saved : SMap Word) : State :=
  { s with drill := { s.drill with
      cur := some { code := code, arg0 := s.reg .drlArg0, arg1 := s.reg .drlArg1, start := s.now, left := left, bad := 0, saved := saved } } }

end Sys2Proof.Machine
end

