-- ==== Sys2Proof/Certificates/Slice0/Obligations.lean ====
section
/-! DEFINITION. The statements for the provers. -/

open Sys2Proof Sys2Proof.Machine
/-! ### The block as a whole -/

/-- One step (this model's interface, log entry 1): with a command at the front of the queue, step is that command's effect on the state
with the queue's rest; with none waiting, the block does what comes about by itself. -/
def Obligations.StepRunsTheFrontCommand : Prop :=
  (∀ (c : Instr) (rest : List Instr) (s : State), step { s with pending := c :: rest } = exec c { s with pending := rest }) ∧
  (∀ s : State, s.pending = [] → step s = .next s.tick)

/-- The state after reset (Table PRT-9, Table BRL-16, R192, R325, R353, R383): time is 0, no thread, channel, ring, line or link is at work,
every memory reads 0 in its canonical form and no command waits. That memories read 0 is the model's choice (log entry 6).
The model's own readings stand in log entries 5 and 11. -/
def Obligations.ResetLeavesTheBlockIdle : Prop :=
  let s := State.reset
  s.tbase = 0 ∧ s.now = 0 ∧ s.pending = [] ∧ s.agenda = [] ∧ s.staged = [] ∧ s.memOk = true ∧ s.tags = [] ∧
  (∀ t, (s.thr t).st = .off ∧ (s.thr t).ev.en = 0 ∧ (s.thr t).ev.nest = [] ∧ (s.thr t).resv = none ∧ s.reg (.thrCtl t) = 0) ∧
  (∀ b, (s.bell b).en = false ∧ (s.bell b).running = false) ∧ (∀ c, (s.pin c).locked = false ∧ (s.pin c).latch = false ∧ (s.pin c).eq = []) ∧
  (∀ n, (s.timer n).run = false) ∧ (∀ c, (s.ch c).st = .idle) ∧ (∀ e, (s.eng e).st = .idle) ∧ (∀ r, (s.ring r).loaded = false) ∧
  (∀ h, (s.host h).reqs = []) ∧ (∀ l, (s.irq l).isAssert = false) ∧ s.hly.up = .down ∧ s.hly.dn = .down ∧ s.upd.stage = .idle ∧
  s.drill.cur = none ∧ s.locks.leases = [] ∧ s.locks.watches = [] ∧
  (∀ b x, s.deskByte b x = 0) ∧ (∀ x, s.hallByte x = 0) ∧ (∀ b y w, s.insWord b y w = 0)

/-- What every command keeps: wherever a command answers a next state, the waiting commands stay as they are, memories in canonical form
stay in it, and a SCRAPPED lifecycle stays SCRAPPED (Table HLY-10).
The model's own readings stand in log entry 6. -/
def Obligations.EveryCommandKeepsMemoriesAndQueue : Prop :=
  ∀ (s t : State) (c : Instr), exec c s = .next t → Keeps s t

/-- The invariant of a step: from every state whose memories are in canonical form, a step that answers a next state leaves them so, and a
SCRAPPED lifecycle stays SCRAPPED; of a queue that holds commands, the front one alone leaves.
The model's own readings stand in log entries 1 and 6. -/
def Obligations.StepKeepsTheInvariant : Prop :=
  ∀ s t : State, step s = .next t → s.memOk = true →
    t.memOk = true ∧ (s.isScrapped = true → t.isScrapped = true) ∧ (∀ c rest, s.pending = c :: rest → t.pending = rest)


/-! ### Integer operations (R117 to R122) -/

/-- ADD, SUB, CMP and NEG in every size (R117), MOV, AND, OR, XOR, NOT and the extensions (Table INS-3): sums wrap, C and V are as R117
says, CMP writes flags only, logic writes N and Z and clears V, and moves write no flag. -/
def Obligations.IntegerArithmeticAndMoves : Prop :=
  ((∀ (i : Issue) (z : Size4), Gives (.add i z) i (wr (sizeTy z)) (rd (sizeTy z)) (rd (sizeTy z)) (fun x =>
    addRule (sizeTy z) (x.b.setWidth (bitsOf z)) (x.c.setWidth (bitsOf z)))) ∧
  (∀ (i : Issue) (z : Size4), Gives (.sub i z) i (wr (sizeTy z)) (rd (sizeTy z)) (rd (sizeTy z)) (fun x =>
    subRule (sizeTy z) (x.b.setWidth (bitsOf z)) (x.c.setWidth (bitsOf z)))) ∧
  (∀ (i : Issue) (z : Size4), Gives (.cmp i z) i (rd (sizeTy z)) (rd (sizeTy z)) none (fun x =>
    { mask := 0b01111, flags := subFlags (x.a.setWidth (bitsOf z)) (x.b.setWidth (bitsOf z)) })) ∧
  (∀ (i : Issue) (d : Bool), Gives (.neg i d) i (wr (wideTy d)) (rd (wideTy d)) none (fun x =>
    subRule (wideTy d) 0 (x.b.setWidth (bitsWide d))))) ∧
  ((∀ (i : Issue) (z : Size4), Gives (.mov i z) i (wr (sizeTy z)) (rd (sizeTy z)) none (fun x =>
    valueRule (sizeTy z) (x.b.setWidth (bitsOf z)))) ∧
  (∀ (i : Issue) (d : Bool), Gives (.andB i d) i (wr (wideTy d)) (rd (wideTy d)) (rd (wideTy d)) (fun x =>
    logicRule (wideTy d) (x.b.setWidth (bitsWide d) &&& x.c.setWidth (bitsWide d)))) ∧
  (∀ (i : Issue) (d : Bool), Gives (.orB i d) i (wr (wideTy d)) (rd (wideTy d)) (rd (wideTy d)) (fun x =>
    logicRule (wideTy d) (x.b.setWidth (bitsWide d) ||| x.c.setWidth (bitsWide d)))) ∧
  (∀ (i : Issue) (d : Bool), Gives (.xorB i d) i (wr (wideTy d)) (rd (wideTy d)) (rd (wideTy d)) (fun x =>
    logicRule (wideTy d) (x.b.setWidth (bitsWide d) ^^^ x.c.setWidth (bitsWide d)))) ∧
  (∀ (i : Issue) (d : Bool), Gives (.notB i d) i (wr (wideTy d)) (rd (wideTy d)) none (fun x =>
    logicRule (wideTy d) (~~~(x.b.setWidth (bitsWide d))))) ∧
  (∀ i : Issue, Gives (.sxb i) i (wr .i32) (rd .i8) none (fun x => valueRule .i32 ((x.b.setWidth 8).signExtend 32))) ∧
  (∀ i : Issue, Gives (.sxh i) i (wr .i32) (rd .i16) none (fun x => valueRule .i32 ((x.b.setWidth 16).signExtend 32))) ∧
  (∀ i : Issue, Gives (.zxb i) i (wr .i32) (rd .i8) none (fun x => valueRule .i32 (x.b.setWidth 8))) ∧
  (∀ i : Issue, Gives (.zxh i) i (wr .i32) (rd .i16) none (fun x => valueRule .i32 (x.b.setWidth 16))) ∧
  (∀ i : Issue, Gives (.sxwD i) i (wr .i64) (rd .i32) none (fun x => valueRule .i64 ((x.b.setWidth 32).signExtend 64))) ∧
  (∀ i : Issue, Gives (.zxwD i) i (wr .i64) (rd .i32) none (fun x => valueRule .i64 (x.b.setWidth 32))))

/-- SHL, SHR, ASR and ROL by a count of 0 to 255 (R120): result and carry at, below and above the width, with N and Z from
the result and V := 0. -/
def Obligations.ShiftResultsAndCarry : Prop :=
  ∀ (i : Issue) (d : Bool), let w := bitsWide d; let ty := wideTy d
  Gives (.shl i d) i (wr ty) (rd ty) (rd .i8) (fun x =>
    let b := x.b.setWidth w; let k := (x.c.setWidth 8).toNat
    if k = 0 then shiftRule ty b false else if k ≤ w then shiftRule ty (b <<< k) (b.getLsbD (w - k)) else shiftRule ty (0#w) false) ∧
  Gives (.shr i d) i (wr ty) (rd ty) (rd .i8) (fun x =>
    let b := x.b.setWidth w; let k := (x.c.setWidth 8).toNat
    if k = 0 then shiftRule ty b false else if k ≤ w then shiftRule ty (b >>> k) (b.getLsbD (k - 1)) else shiftRule ty (0#w) false) ∧
  Gives (.asr i d) i (wr ty) (rd ty) (rd .i8) (fun x =>
    let b := x.b.setWidth w; let k := (x.c.setWidth 8).toNat
    if k = 0 then shiftRule ty b false else if k ≤ w then shiftRule ty (b.sshiftRight k) (b.getLsbD (k - 1))
    else shiftRule ty (if b.msb then BitVec.allOnes w else 0#w) b.msb) ∧
  Gives (.rol i d) i (wr ty) (rd ty) (rd .i8) (fun x =>
    let b := x.b.setWidth w; let k := (x.c.setWidth 8).toNat
    if k % w = 0 then shiftRule ty b false else shiftRule ty (b.rotateLeft (k % w)) ((b.rotateLeft (k % w)).getLsbD 0))

/-- BTST, BSET, BCLR, BEXT, BINS, CLZ and ABS (R121, R122): bit indices are the low five bits of B, fields are those that the
descriptor names, and each writes the flags of Table INS-3 only. -/
def Obligations.BitAndFieldOperations : Prop :=
  ∀ i : Issue,
  Gives (.btst i) i (rd .i32) (rd .i8) none (fun x =>
    { mask := 0b00100, flags := qnzcv false false (!x.a.getLsbD (x.b.toNat % 32)) false false }) ∧
  Gives (.bset i) i (rw .i32) (rd .i8) none (fun x => valueRule .i32 (x.a.setWidth 32 ||| BitVec.twoPow 32 (x.b.toNat % 32))) ∧
  Gives (.bclr i) i (rw .i32) (rd .i8) none (fun x => valueRule .i32 (x.a.setWidth 32 &&& ~~~(BitVec.twoPow 32 (x.b.toNat % 32)))) ∧
  Gives (.bext i) i (wr .i32) (rd .i32) (rd .i16) (fun x =>
    let r := fieldOf (x.b.setWidth 32) (x.c.setWidth 16)
    { value := some (.i32, r.setWidth 64), mask := 0b01100, flags := qnzcv false r.msb (r == 0) false false }) ∧
  Gives (.bins i) i (rw .i32) (rd .i32) (rd .i16) (fun x =>
    valueRule .i32 (insertField (x.a.setWidth 32) (x.b.setWidth 32) (x.c.setWidth 16))) ∧
  (∀ d : Bool, Gives (.clz i d) i (wr .i32) (rd (wideTy d)) none (fun x =>
    { value := some (.i32, ((x.b.setWidth (bitsWide d)).clz).setWidth 64), mask := 0b00100
      flags := qnzcv false false (x.b.setWidth (bitsWide d)).msb false false })) ∧
  Gives (.abs i) i (wr .i32) (rd .i32) none (fun x =>
    let r := (x.b.setWidth 32).abs
    { value := some (.i32, r.setWidth 64), mask := 0b01101
      flags := qnzcv false r.msb (r == 0) false (x.b.setWidth 32 == BitVec.intMin 32) })

/-! ### Fixed point, packed lanes, floating point and products (R123 to R130) -/

/-- The fixed-point operations and PXQ (Table INS-4, R129): results clamp to the format, halves round toward +∞, N and Z come
from what is written, and Q is set exactly where the clamp changed the result. -/
def Obligations.FixedPointResultsSaturate : Prop :=
  ∀ i : Issue,
  (∀ h : Bool, let f := bitsFix h - 1; let ty := fixTy h; let n := fun (v : DWord) => (v.setWidth (bitsFix h)).toInt
    Gives (.qadd i h) i (wr ty) (rd ty) (rd ty) (fun x => fixRule ty f (n x.b + n x.c)) ∧
    Gives (.qsub i h) i (wr ty) (rd ty) (rd ty) (fun x => fixRule ty f (n x.b - n x.c)) ∧
    Gives (.qmul i h) i (wr ty) (rd ty) (rd ty) (fun x => fixRule ty f (halfUp (n x.b * n x.c) f)) ∧
    Gives (.qneg i h) i (wr ty) (rd ty) none (fun x => fixRule ty f (-(n x.b))) ∧
    Gives (.qabs i h) i (wr ty) (rd ty) none (fun x => fixRule ty f |n x.b|) ∧
    Gives (.qshl i h) i (wr ty) (rd ty) (rd .i8) (fun x => fixRule ty f (qshlValue f (n x.b) (x.c.setWidth 8).toInt))) ∧
  Gives (.cvqH i) i (wr .q15) (rd .q31) none (fun x => fixRule .q15 15 (halfUp (x.b.setWidth 32).toInt 16)) ∧
  Gives (.cvq i) i (wr .q31) (rd .q15) none (fun x => fixRule .q31 31 ((x.b.setWidth 16).toInt * 2 ^ 16)) ∧
  Gives (.pxq i) i (wr .q31) prd none (fun x => fixRule .q31 31 (halfUp x.b.toInt 15))

/-- The packed operations (Table INS-7): every lane comes from its own lanes of B and C, PADD and PSUB wrap, PQADD, PQSUB and
PQMUL saturate and set Q where a lane does, the others write no flag, and PSWAP exchanges its lanes. -/
def Obligations.PackedLanesAreIndependent : Prop :=
  ∀ i : Issue,
  Gives (.padd i true) i (wr .v4h) (rd .v4h) (rd .v4h) (fun x => packedPlain .v4h (four (· + ·) x.b x.c)) ∧
  Gives (.padd i false) i (wr .v2w) (rd .v2w) (rd .v2w) (fun x => packedPlain .v2w (two (· + ·) x.b x.c)) ∧
  Gives (.psub i true) i (wr .v4h) (rd .v4h) (rd .v4h) (fun x => packedPlain .v4h (four (· - ·) x.b x.c)) ∧
  Gives (.psub i false) i (wr .v2w) (rd .v2w) (rd .v2w) (fun x => packedPlain .v2w (two (· - ·) x.b x.c)) ∧
  (∀ h : Bool, let ty : OpTy := if h then .v4q else .v2q
    Gives (.pqadd i h) i (wr ty) (rd ty) (rd ty) (fun x => packedSat h (fun _ b c => b + c) x.b x.c) ∧
    Gives (.pqsub i h) i (wr ty) (rd ty) (rd ty) (fun x => packedSat h (fun _ b c => b - c) x.b x.c) ∧
    Gives (.pqmul i h) i (wr ty) (rd ty) (rd ty) (fun x => packedSat h (fun f b c => halfUp (b * c) f) x.b x.c)) ∧
  Gives (.pmin i) i (wr .v4h) (rd .v4h) (rd .v4h) (fun x =>
    packedPlain .v4h (four (fun b c => if b.toInt ≤ c.toInt then b else c) x.b x.c)) ∧
  Gives (.pmax i) i (wr .v4h) (rd .v4h) (rd .v4h) (fun x =>
    packedPlain .v4h (four (fun b c => if b.toInt ≤ c.toInt then c else b) x.b x.c)) ∧
  Gives (.pswap i) i (wr .v2w) (rd .v2w) none (fun x =>
    { value := some (.v2w, x.b.extractLsb' 0 32 ++ x.b.extractLsb' 32 32) })

/-- FADD, FSUB, FMUL, FMA, FDIV, FSQRT and the conversions to f32 (R124, Tables INS-5 and INS-8): each result is the exact value
rounded once to the nearest pattern with ties to even, flushed and overflowing as R124 says, with NaNs, infinities and zeros
of either sign in their places; FDIV and FSQRT land in a product register 18 cycles after their issue. -/
def Obligations.FloatingResultsAreRounded : Prop :=
  ∀ i : Issue, let w := fun (v : DWord) => v.setWidth 32
  GivesSome (.fadd i) i (wr .f32) (rd .f32) (rd .f32) (fun x y => ∃ r, FAdd (w x.b) (w x.c) r ∧ y = fltYield r) ∧
  GivesSome (.fsub i) i (wr .f32) (rd .f32) (rd .f32) (fun x y => ∃ r, FAdd (w x.b) (w x.c ^^^ 0x80000000#32) r ∧ y = fltYield r) ∧
  GivesSome (.fmul i) i (wr .f32) (rd .f32) (rd .f32) (fun x y => ∃ r, FMul (w x.b) (w x.c) r ∧ y = fltYield r) ∧
  GivesSome (.fma i) i (rw .f32) (rd .f32) (rd .f32) (fun x y => ∃ r, FMulAdd (w x.a) (w x.b) (w x.c) r ∧ y = fltYield r) ∧
  GivesSome (.cvtif i) i (wr .f32) (rd .i32) none (fun x y => ∃ r, RoundsTo false (w x.b).toInt r ∧ y = fltYield r) ∧
  GivesSome (.cvtqf i) i (wr .f32) (rd .q31) none (fun x y => ∃ r, RoundsTo false ((w x.b).toInt / 2 ^ 31) r ∧ y = fltYield r) ∧
  GivesProduct (.fdiv i) i (rd .f32) (rd .f32) 16 (fun x v q => ∃ r, FDivide (w x.b) (w x.c) r ∧ v = r.setWidth 64 ∧ q = false) ∧
  GivesProduct (.fsqrt i) i (rd .f32) none 16 (fun x v q => ∃ r, FRoot (w x.b) r ∧ v = r.setWidth 64 ∧ q = false)

/-- FMIN, FMAX, FABS, FNEG, FCMP, CVTFI and CVTFQ (R124 to R126): −0 lies below +0 for FMIN and FMAX and equals it for FCMP, one NaN
yields the other operand, an unordered comparison sets V alone, FABS and FNEG change the sign bit and no flag, and the
conversions round and saturate as Table INS-5 says. -/
def Obligations.FloatingOrderAndConversions : Prop :=
  ∀ i : Issue, let w := fun (v : DWord) => v.setWidth 32
  Gives (.fmin i) i (wr .f32) (rd .f32) (rd .f32) (fun x => fltYield (pickRule false (w x.b) (w x.c))) ∧
  Gives (.fmax i) i (wr .f32) (rd .f32) (rd .f32) (fun x => fltYield (pickRule true (w x.b) (w x.c))) ∧
  Gives (.fabs i) i (wr .f32) (rd .f32) none (fun x => { value := some (.f32, (w x.b &&& 0x7FFFFFFF#32).setWidth 64) }) ∧
  Gives (.fneg i) i (wr .f32) (rd .f32) none (fun x => { value := some (.f32, (w x.b ^^^ 0x80000000#32).setWidth 64) }) ∧
  Gives (.fcmp i) i (rd .f32) (rd .f32) none (fun x =>
    let a := w x.a
    let b := w x.b
    { mask := 0b01111
      flags := if isNan a || isNan b then qnzcv false false false false true
        else qnzcv false (decide (fltVal a < fltVal b)) (decide (fltVal a = fltVal b)) (decide (fltVal b ≤ fltVal a)) false }) ∧
  Gives (.cvtfi i) i (wr .i32) (rd .f32) none (fun x =>
    let b := w x.b
    let t : Int := (fltVal b).num.tdiv (fltVal b).den
    let r : Int := if isNan b then 0 else saturate 31 t
    { value := some (.i32, (BitVec.ofInt 32 r).setWidth 64), mask := 0b01101
      flags := qnzcv false (decide (r < 0)) (decide (r = 0)) false (isNan b || decide (saturate 31 t ≠ t)) }) ∧
  GivesSome (.cvtfq i) i (wr .q31) (rd .f32) none (fun x y =>
    if isNan (w x.b) then y = { value := some (.q31, 0), mask := 0b11100, flags := qnzcv true false true false false }
    else ∃ q, NearestEven (fltVal (w x.b) * 2 ^ 31) q ∧ y = fixRule .q31 31 q)

/-- The integer and fixed-point product operations (R128 to R130, Table INS-8): each product is formed in 64 bits, an accumulation
adds it to the register's value modulo 2^64, divisions treat a divisor of 0 as R130 says, and each lands in its cycle. Only
QSQRT of a negative operand sets a flag. -/
def Obligations.ProductsLandInTheirCycle : Prop :=
  ∀ i : Issue, let w := fun (v : DWord) => v.setWidth 32
  let sx := fun (v : DWord) => (v.setWidth 32).signExtend 64
  let zx := fun (v : DWord) => (v.setWidth 32).setWidth 64
  let sh := fun (v : DWord) => (v.setWidth 16).signExtend 64
  GivesProduct (.mul i) i (rd .i32) (rd .i32) 6 (fun x v q => v = sx x.b * sx x.c ∧ q = false) ∧
  GivesProduct (.mulu i) i (rd .i32) (rd .i32) 6 (fun x v q => v = zx x.b * zx x.c ∧ q = false) ∧
  GivesProduct (.mac i) i (rd .i32) (rd .i32) 6 (fun x v q => v = x.a + sx x.b * sx x.c ∧ q = false) ∧
  GivesProduct (.macu i) i (rd .i32) (rd .i32) 6 (fun x v q => v = x.a + zx x.b * zx x.c ∧ q = false) ∧
  GivesProduct (.msu i) i (rd .i32) (rd .i32) 6 (fun x v q => v = x.a - sx x.b * sx x.c ∧ q = false) ∧
  GivesProduct (.qmac i true) i (rd .q15) (rd .q15) 6 (fun x v q => v = x.a + (sh x.b * sh x.c) <<< 16 ∧ q = false) ∧
  GivesProduct (.qmac i false) i (rd .q31) (rd .q31) 6 (fun x v q => v = x.a + (sx x.b * sx x.c).sshiftRight 16 ∧ q = false) ∧
  GivesProduct (.div i) i (rd .i32) (rd .i32) 22 (fun x v q => v = divRule (w x.b) (w x.c) ∧ q = false) ∧
  GivesProduct (.divu i) i (rd .i32) (rd .i32) 22 (fun x v q => v = divuRule (w x.b) (w x.c) ∧ q = false) ∧
  GivesProduct (.qsqrt i) i (rd .q31) none 18 (fun x v q =>
    if (w x.b).msb then v = 0 ∧ q = true
    else q = false ∧ v.extractLsb' 32 32 = 0#32 ∧ (v = 0 ∨ (2 * v.toNat - 1) ^ 2 ≤ 2 ^ 33 * (w x.b).toNat) ∧
      2 ^ 33 * (w x.b).toNat ≤ (2 * v.toNat + 1) ^ 2)

/-! ### Control mathematics (R132 to R136) -/

/-- PIU, LIM and SVM (R134 to R136): PIU takes the steps of R134, LIM scales both coordinates toward zero where the vector is
longer than its limit and copies them otherwise, and SVM writes the rounded compare counts, the sector and the clamp. -/
def Obligations.ControlLoopResults : Prop :=
  ∀ i : Issue,
  Gives (.piu i) i (rw .v2q) (rd .q31) (rd .v4q) (fun x =>
    let r := piuRule (q31At x.a 0) (x.b.setWidth 32).toInt (q15At x.c 0) (q15At x.c 1) (q15At x.c 2) (x.c.extractLsb' 48 3).toNat
    { value := some (.v2q, BitVec.ofInt 32 r.2.1 ++ BitVec.ofInt 32 r.1), mask := if r.2.2.2 then 0b11110 else 0b01110
      flags := qnzcv true (decide (r.2.1 < 0)) (decide (r.2.1 = 0)) r.2.2.1 false }) ∧
  GivesSome (.lim i) i (wr .v2q) (rd .v2q) (rd .q31) (fun x y =>
    let a := q31At x.b 0
    let b := q31At x.b 1
    let m := max (x.c.setWidth 32).toInt 0
    if m ^ 2 < a ^ 2 + b ^ 2 then
      ∃ a' b', LimitedTo a m (a ^ 2 + b ^ 2) a' ∧ LimitedTo b m (a ^ 2 + b ^ 2) b' ∧
        y = { value := some (.v2q, BitVec.ofInt 32 b' ++ BitVec.ofInt 32 a'), mask := 0b00010, flags := qnzcv false false false true false }
    else y = { value := some (.v2q, x.b), mask := 0b00010, flags := qnzcv false false false false false }) ∧
  GivesSome (.svm i) i (wr .v4h) (rd .v2q) (rd .i32) (fun x y =>
    ∃ v c, SvmRule (q31At x.b 0) (q31At x.b 1) (x.c.setWidth 16).toNat v c ∧
      y = { value := some (.v4h, v), mask := 0b00010, flags := qnzcv false false false c false })

/-- CLARKE, PARK, IPARK and SINCOS lie within 2^−28 of their exact values before saturation, and ATAN2 within one unit of ang of the
angle of its vector, 0 for the zero vector; SINCOS writes 1.0 as 0x7FFF_FFFF; CLARKE, PARK and IPARK set Q where a lane saturates, and
no other flag is written (R133). Which value within the bound it is, is the model's free value (log entry 7). -/
def Obligations.TransformsStayWithinTheirBound : Prop :=
  ∀ i : Issue,
  GivesFree (.clarke i) i (wr .v2q) (rd .v4q) none 2 (fun x y => ∃ a b,
    Near a ((2 * q15At x.b 0 - q15At x.b 1 - q15At x.b 2 : ℝ) * 2 ^ 16 / 3) ∧
    Near b ((q15At x.b 1 - q15At x.b 2 : ℝ) * 2 ^ 16 / Real.sqrt 3) ∧ y = pairYield true a b) ∧
  GivesFree (.park i) i (wr .v2q) (rd .v2q) (rd .ang) 2 (fun x y => ∃ d q,
    Near d (q31At x.b 0 * Real.cos (radians x.c) + q31At x.b 1 * Real.sin (radians x.c)) ∧
    Near q (-q31At x.b 0 * Real.sin (radians x.c) + q31At x.b 1 * Real.cos (radians x.c)) ∧ y = pairYield true d q) ∧
  GivesFree (.ipark i) i (wr .v2q) (rd .v2q) (rd .ang) 2 (fun x y => ∃ a b,
    Near a (q31At x.b 0 * Real.cos (radians x.c) - q31At x.b 1 * Real.sin (radians x.c)) ∧
    Near b (q31At x.b 0 * Real.sin (radians x.c) + q31At x.b 1 * Real.cos (radians x.c)) ∧ y = pairYield true a b) ∧
  GivesFree (.sincos i) i (wr .v2q) (rd .ang) none 2 (fun x y => ∃ a b,
    Near a (2 ^ 31 * Real.cos (radians x.b)) ∧ Near b (2 ^ 31 * Real.sin (radians x.b)) ∧
    (Real.cos (radians x.b) = 1 → a = 2 ^ 31) ∧ (Real.sin (radians x.b) = 1 → b = 2 ^ 31) ∧ y = pairYield false a b) ∧
  GivesFree (.atan2 i) i (wr .ang) (rd .v2q) none 1 (fun x y =>
    if q31At x.b 0 = 0 ∧ q31At x.b 1 = 0 then y = { value := some (.ang, 0) }
    else ∃ (n : Int) (φ : ℝ), let r := Real.sqrt ((q31At x.b 0 : ℝ) ^ 2 + (q31At x.b 1 : ℝ) ^ 2)
      q31At x.b 0 = r * Real.cos φ ∧ q31At x.b 1 = r * Real.sin φ ∧ |(n : ℝ) - φ * 65536 / (2 * Real.pi)| ≤ 1 ∧
      y = { value := some (.ang, (BitVec.ofInt 16 n).setWidth 64) })

/-! ### Flow of control (R137 to R147, R175 to R180) -/

/-- B and the conditional branches (R119, R137): a taken branch leads to its target, an untaken one costs its issue and goes on; the
flags are those at the start of c1. A target in desk is read at the read point, whether the branch is taken or not, and meets its faults
there. A branch changes nothing beyond its thread's flow. -/
def Obligations.BranchesLeadToTheirTarget : Prop :=
  ∀ (s : State) (j : Jump), let u := j.thread
  (∀ cmd : Instr, (cmd = .b j ∨ ∃ c, cmd = .conditionalBranch j c) → IssuesOnce s cmd u →
    let sw := (s.nextView.thr u).sw
    let taken : Prop := ∀ c, cmd = .conditionalBranch j c → condTable c (sw.getLsbD 3) (sw.getLsbD 2) (sw.getLsbD 1) (sw.getLsbD 0) = true
    ∃ t, exec cmd s = .next t ∧ OnlyThread s t u ∧ KeepsContext (s.thr u) (t.thr u) ∧
      (taken → Taken s t u (heldTarget (s.thr u).pc j.tgt)) ∧
      (¬ taken → (t.thr u).pc = (s.thr u).pc + BitVec.ofNat 16 (targetWords j.tgt) ∧ (t.thr u).skipSlots = (s.thr u).skipSlots)) ∧
  (∀ (cmd : Instr) (r : State) (g : Flight), (cmd = .b j ∨ ∃ c, cmd = .conditionalBranch j c) → AtRead s r cmd u g →
    ArrivesAtTarget s r cmd j g)

/-- CALL and RET (R138): CALL moves SP down by 4 at the end of its c1 and lands the return word there at the end of its c7; RET
takes the low half of the word at SP and moves SP up by 4. A stack word that crosses a row is a misaligned fault.
The model's own readings stand in log entries 4 and 25. -/
def Obligations.CallAndReturnUseTheStack : Prop :=
  ∀ (s : State),
  (∀ j : Jump, let u := j.thread; let sp := s.spNow u - 4
    IssuesOnce s (.call j) u →
      ∃ t, exec (.call j) s = .next t ∧ Taken s t u (heldTarget (s.thr u).pc j.tgt) ∧ OnlyThread s t u ∧
        KeepsContext (s.thr u) (t.thr u) ∧ t.Due u (s.now + 1) prioPipe s.now (.setSp u sp) ∧
        t.Due u (s.now + 7) prioPipe s.now (.store { loc := .desk (barrelOf u) sp, size := 4, signFill := false }
          (((s.thr u).pc + BitVec.ofNat 16 (targetWords j.tgt)).setWidth 64)) ∧
        (∃ g ∈ (t.thr u).flight, g.at_ = s.now ∧ g.insn = some (.call j) ∧ g.sp = sp ∧ g.went = true)) ∧
  (∀ (j : Jump) (r : State) (g : Flight), let u := j.thread
    AtRead s r (.call j) u g →
    let tgt := (r.readView u).target u (r.readFp u) g.before.pc j.tgt
    (CrossesRow g.sp → (∀ e, tgt = .error e → e.cause ≠ .illegal) →
      exec (.call j) s = .next (r.raise u .misaligned 1 (g.sp.setWidth 32))) ∧
    (¬ CrossesRow g.sp → ArrivesAtTarget s r (.call j) j g)) ∧
  (∀ i : Issue, let u := i.thread; let sp := s.spNow u
    IssuesOnce s (.ret i) u →
      ∃ t, exec (.ret i) s = .next t ∧ Taken s t u none ∧ OnlyThread s t u ∧ KeepsContext (s.thr u) (t.thr u) ∧
        t.Due u (s.now + 1) prioPipe s.now (.setSp u (sp + 4)) ∧
        (∃ g ∈ (t.thr u).flight, g.at_ = s.now ∧ g.insn = some (.ret i) ∧ g.sp = sp)) ∧
  (∀ (i : Issue) (r : State) (g : Flight), let u := i.thread
    AtRead s r (.ret i) u g →
    (CrossesRow g.sp → exec (.ret i) s = .next (r.raise u .misaligned 1 (g.sp.setWidth 32))) ∧
    (¬ CrossesRow g.sp → ∃ t, exec (.ret i) s = .next t ∧ OnlyThread r t u ∧ t.agenda = r.agenda ∧
      GoesOn r t u (((r.readView u).readLoc (.desk (barrelOf u) g.sp) 4).setWidth 16)))

/-- REP and REPI (R140, R141, R143): the prefix issues and lets nothing issue in the next three cycles; at its read point, with RPT at 0
the count comes from the operand and enters SW.RPT, a count of 0 passes the repeated instruction over, and a saved count goes on without
reading the operand; only REPI lets events in. An operand that meets a fault raises it.
The model's own readings stand in log entry 3. -/
def Obligations.RepeatPrefixTakesItsCount : Prop :=
  ∀ i : Issue, PrefixRepeats (.rep i) i false ∧ PrefixRepeats (.repi i) i true

/-- The operations that must not be repeated (R142) and the reserved operation numbers (R90, R113): within a repeat with a nonzero
count each of the former issues with an illegal-opcode fault, before which the prefix and its count stand as they were; a reserved
number does so in either form. The fault is recognised in its c6, where the address of the prefix is what it saves (R143, R181). -/
def Obligations.IllegalOperationsFault : Prop :=
  (∀ (s : State) (u : Tid) (r : Rep) (cmd : Instr), Issues s cmd u → (s.thr u).rep = some r →
    ((∃ j : Jump, j.thread = u ∧ (cmd = .b j ∨ cmd = .call j ∨ ∃ c, cmd = .conditionalBranch j c)) ∨
     (∃ i : Issue, i.thread = u ∧ cmd ∈ [.ret i, .rep i, .repi i, .wait i, .doneH i, .rte i, .hnd i, .setlvl i, .setmask i, .ifence i,
        .fpset i, .spset i, .hwait i])) →
    ∃ t, exec cmd s = .next t ∧ FliesIllegal s t u cmd) ∧
  (∀ (s : State) (i : Issue) (n : BitVec 8), reservedNo n.toNat = true → Issues s (.reservedOperation i n) i.thread →
    ∃ t, exec (.reservedOperation i n) s = .next t ∧ FliesIllegal s t i.thread (.reservedOperation i n)) ∧
  (∀ (s t : State) (u : Tid) (r : Rep) (cmd : Instr), FliesIllegal s t u cmd → (s.thr u).rep = some r →
    ((t.thr u).beforeIssue s.now).savedPc = r.prefixPc ∧
    ((t.thr u).beforeIssue s.now).sw.extractLsb' 16 16 = (s.thr u).sw.extractLsb' 16 16)

/-- WAIT, HWAIT and HND (R144, R154, R175, R200): WAIT leaves its thread waiting at the WAIT itself, HWAIT waits only while a hall
entry of the thread is outstanding, HND of a class member hands in at the end of its c7, and HND outside any class starts the
next period with its count at 0 and the next owned slot empty.
The model's own readings stand in log entries 24 and 26. -/
def Obligations.WaitingAndHandIn : Prop :=
  ∀ (s : State) (i : Issue), let u := i.thread; let x := s.thr u
  (IssuesOnce s (.wait i) u → ∃ t, exec (.wait i) s = .next t ∧ OnlyThread s t u ∧ KeepsContext x (t.thr u) ∧ t.agenda = s.agenda ∧
    Entered x (t.thr u) .wait ∧ (t.thr u).waitPc = x.pc) ∧
  (IssuesOnce s (.hwait i) u → ∃ t, exec (.hwait i) s = .next t ∧ OnlyThread s t u ∧ KeepsContext x (t.thr u) ∧ t.agenda = s.agenda ∧
    (if s.outstanding u = 0 then (t.thr u).st = x.st ∧ (t.thr u).beforeHalt = x.beforeHalt else Entered x (t.thr u) .hwait) ∧
    (t.thr u).pc = x.pc + BitVec.ofNat 16 (wordsOf i)) ∧
  (IssuesOnce s (.hnd i) u → (s.classOf u).isSome = true → ∃ t, exec (.hnd i) s = .next t ∧ OnlyThread s t u ∧
    KeepsContext x (t.thr u) ∧ Entered x (t.thr u) .handed ∧ t.Due u (s.now + 7) prioPipe s.now (.handin u)) ∧
  (IssuesOnce s (.hnd i) u → s.classOf u = none → ∃ t, exec (.hnd i) s = .next t ∧ Entered x (t.thr u) .run ∧ (t.thr u).issued = 0 ∧
    (t.thr u).skipSlots = 1 ∧ (t.thr u).emptyFree = true ∧ (t.thr u).ev.nest = [] ∧ (t.thr u).ev.hf = false ∧
    (t.thr u).sp = (s.reg (.thrSpinit u)).setWidth 19 ∧ (t.thr u).fp = (s.reg (.thrFpinit u)).setWidth 19 ∧
    t.desk = s.desk ∧ t.slate = s.slate ∧ t.hall = s.hall ∧ t.ins = s.ins ∧
    (x.todo = .none → (t.thr u).pc = s.entryPc u ∧ t.regs = s.regs ∧ ∀ v, v ≠ u → t.thr v = s.thr v)) ∧
  (∀ (cmd : Instr) (r : State) (g : Flight), cmd ∈ [.wait i, .hwait i, .hnd i] → AtRead s r cmd u g → exec cmd s = .next r)

/-- DONE and RTE (R176 to R180): the exit issues and keeps SP as its c1 finds it; at the end of its cycle it chains to the input that R180
admits, or moves SP up by 8 and leaves; at its read point an exit whose frame is aligned restores SW from the frame and goes on at its
PC; a level that is not the top entry's, or a handler of the other kind, is a nesting fault, and a frame whose PRIV the thread may not
take is a privilege-return fault.
The model's own readings stand in log entries 25 and 26. -/
def Obligations.ExitsRestoreTheFrame : Prop :=
  ∀ (s : State) (i : Issue) (rte : Bool), let u := i.thread
  let cmd : Instr := if rte then .rte i else .doneH i
  (IssuesOnce s cmd u → ∃ t, exec cmd s = .next t ∧ OnlyThread s t u ∧ KeepsContext (s.thr u) (t.thr u) ∧ t.agenda = s.agenda ∧
    (∃ g ∈ (t.thr u).flight, g.at_ = s.now ∧ g.insn = some cmd ∧ g.sp = s.spNow u)) ∧
  (∀ g, (s.thr u).flight.find? (fun h => decide (h.at_ = s.now) && h.fault.isNone) = some g → g.insn = some cmd →
    let t := s.exitDecide u
    match (if g.before.affords then s.chainInput u rte else none) with
    | none => OnlyThread s t u ∧ KeepsContext (s.thr u) (t.thr u) ∧ t.Due u (s.now + 1) prioPipe s.now (.setSp u (g.sp + 8)) ∧
        (t.thr u).entryFrom = s.now + 4 ∧ (t.thr u).pq = [] ∧
        (match keptWait (s.thr u).ev rte with
         | none => (t.thr u).skipSlots = 1 ∧ (t.thr u).notBefore = s.now + 6
         | some w => (t.thr u).pc = w)
    | some (k, l) => OnlyThread s t u ∧ t.Due u (s.now + 1) prioPipe s.now (.enterSw u) ∧
        ∃ c, (t.thr u).ev.entering = some c ∧ c.kind = .chain ∧ c.input = k ∧ c.lvl = l ∧ c.vec = s.vecWord u l.toNat ∧
          (t.thr u).ev.nest = (s.thr u).ev.nest ∧ (t.thr u).sp = (s.thr u).sp) ∧
  (∀ (r : State) (g : Flight) (n : BitVec 2), AtRead s r cmd u g →
    (rte = false → ∃ p, Reads s r cmd i (rd .cnt) none none p ∧ (r.valuesAt i p (rd .cnt) none none).a.setWidth 2 = n) →
    let v := r.readView u; let e := (v.thr u).ev; let sp := g.sp
    (CrossesRow sp → exec cmd s = .next (r.raise u .misaligned 1 (sp.setWidth 32))) ∧
    (¬ CrossesRow sp → CrossesRow (sp + 4) → exec cmd s = .next (r.raise u .misaligned 1 ((sp + 4).setWidth 32))) ∧
    (¬ CrossesRow sp → ¬ CrossesRow (sp + 4) →
      let pc : Word := (v.readLoc (.desk (barrelOf u) sp) 4).setWidth 32
      let sw : Word := (v.readLoc (.desk (barrelOf u) (sp + 4)) 4).setWidth 32
      let fits := if rte then e.hf || (match e.nest with | top :: _ => top.flt | [] => false)
        else !e.hf && (match e.nest with | top :: _ => !top.flt && decide (top.lvl = n) | [] => false)
      let priv := !sw.getLsbD 6 || ((r.reg (.thrCeil u)).getLsbD 0 && (v.thr u).sw.getLsbD 6)
      if fits = false then exec cmd s = .next (r.raise u .nesting 0 0)
      else if priv = false then exec cmd s = .next (r.raise u .privReturn 0 0)
      else ∃ t, exec cmd s = .next t ∧
        (g.went = true → OnlyThread r t u ∧ KeepsContext (r.thr u) (t.thr u)) ∧
        (g.went = false → t.Due u (r.now - 3 + 3) prioPipe (r.now - 3) (.exitSw u sw (if e.hf then 0 else e.nest.length)) ∧
          (match keptWait e rte with
           | none => OnlyThread r t u ∧ GoesOn r t u (pc.setWidth 16)
           | some w => if w = pc.setWidth 16 then OnlyThread r t u ∧ KeepsContext (r.thr u) (t.thr u)
             else (t.thr u).pc = pc.setWidth 16 ∧ (t.thr u).pq = [] ∧ (t.thr u).notBefore = g.at_ + 6))))

/-- NOP, IFENCE, SETLVL, SETMASK, FPSET, SPSET and TAS (R75, R145 to R147), each with its issue and its landing: levels at the end of c3 and
at S level only, FP and SP at the end of c6, TAS within c7 or, with a product register, as a write through mode 9.
The model's own readings stand in log entry 26. -/
def Obligations.LevelsPointersAndTestAndSet : Prop :=
  ∀ i : Issue, let u := i.thread
  TakesOff (.nop i) i ∧ TakesOff (.tas i) i ∧
  (∀ s r g, AtRead s r (.nop i) u g → exec (.nop i) s = .next r) ∧
  (∀ s, IssuesOnce s (.ifence i) u → ∃ t, exec (.ifence i) s = .next t ∧ OnlyThread s t u ∧ KeepsContext (s.thr u) (t.thr u) ∧
    t.agenda = s.agenda ∧ (t.thr u).pq = [] ∧ (t.thr u).notBefore = s.now + 5 ∧
    (t.thr u).pc = (s.thr u).pc + BitVec.ofNat 16 (wordsOf i)) ∧
  (∀ s, IssuesOnce s (.fpset i) u → exec (.fpset i) s = .next (s.issueOf (.fpset i) u (wordsOf i))) ∧
  (∀ s, IssuesOnce s (.spset i) u → exec (.spset i) s = .next (s.issueOf (.spset i) u (wordsOf i))) ∧
  (∀ s, IssuesOnce s (.setlvl i) u → exec (.setlvl i) s = .next ((s.issueOf (.setlvl i) u (wordsOf i)).modThr u
    (fun x => { x with holdUntil := s.now + 4 }))) ∧
  (∀ s, IssuesOnce s (.setmask i) u → exec (.setmask i) s = .next ((s.issueOf (.setmask i) u (wordsOf i)).modThr u
    (fun x => { x with holdUntil := s.now + 4 }))) ∧
  (∀ (s r : State) (cmd : Instr) (g : Flight), cmd ∈ [.setlvl i, .setmask i] → AtRead s r cmd u g →
    ((r.readView u).thr u).sw.getLsbD 6 = false → exec cmd s = .next (r.raise u .illegal 0 0)) ∧
  (∀ s r p, ((r.readView u).thr u).sw.getLsbD 6 = true → let v := (r.valuesAt i p (rd .cnt) none none).a
    let after := r.startRead i p (rd .cnt) none none
    (Reads s r (.setlvl i) i (rd .cnt) none none p → exec (.setlvl i) s = .next (after.enter u 3 prioPipe (.setPriv u (v.getLsbD 0)))) ∧
    (Reads s r (.setmask i) i (rd .cnt) none none p →
      exec (.setmask i) s = .next (after.enter u 3 prioPipe (.setMask u (v.setWidth 2))))) ∧
  (∀ s r p, let v := (r.valuesAt i p (rd .adr) none none).a
    let after := r.startRead i p (rd .adr) none none
    (Reads s r (.fpset i) i (rd .adr) none none p → exec (.fpset i) s = .next (after.enter u 6 prioSet (.setFp u (v.setWidth 19)))) ∧
    (Reads s r (.spset i) i (rd .adr) none none p → exec (.spset i) s = .next (after.enter u 6 prioSet (.setSp u (v.setWidth 19))))) ∧
  (∀ s r p, Reads s r (.tas i) i (wr .i32) (rw .i32) none p →
    let v := (r.valuesAt i p (wr .i32) (rw .i32) none).b
    exec (.tas i) s = .next (
      match p.b.loc with
      | .px _ _ => (((r.startRead i p (wr .i32) (rw .i32) none).putResult u p.b .i32 1).putResult u p.a .i32 v).putFlags u 0b00100
          (qnzcv false false (decide (v = 0)) false false)
      | l => (r.enter u 7 prioPipe (.tas u l (some (p.a.dest .i32)))).startRead i p (wr .i32) (rw .i32) none)) ∧
  (∀ (s : State) (k : Nat) (l : Loc) (d : Dest), let v := s.readLoc l 4; let t := s.landPipe k (.tas u l (some d))
    (t.thr u).sw.getLsbD 2 = decide (v = 0) ∧ (∀ w, w ≠ u → t.thr w = s.thr w) ∧ t.desk = s.desk ∧ t.slate = s.slate ∧
    t.Due u (k + 7) prioPipe k (.store { loc := l, size := 4, signFill := true } 1) ∧ t.Due u (d.loc.due k) prioPipe k (.store d v))

/-! ### I/O, hall and instruction space (R110, R111, R148 to R155, R165) -/

/-- The I/O instructions on event inputs, registers and pins (R148, R157, R159, R165, R219, R231, R243, R249): each issues; at its read
point a unit number out of range or an unmapped address is illegal, and any other access is entered for its c6; there a resource outside
the thread's partition, a register that the thread may not write, or a channel that it does not own is a bus error in the I/O space, and
every other access has its effect.
The model's own readings stand in log entries 25 and 41. -/
def Obligations.RegisterAndPinInstructionsAccessInC6 : Prop :=
  ∀ i : Issue, let u := i.thread
  (∀ cmd ∈ [Instr.evclr i, .evsig i, .inp i true, .inp i false, .out i true, .out i false, .pinrd i, .pinwr i, .pinwrs i, .edgeq i, .edger i],
    TakesOff cmd i) ∧
  GivesAccess (.evclr i) i (rd .cnt) none none (fun _ => True) (fun _ _ x => .evclr (x.a.setWidth 5)) ∧
  (∀ n, InC6 u (.evclr n) n.toNat (fun _ => True) (fun s _ _ => s.clearEvents u (BitVec.twoPow 32 n.toNat) 0)) ∧
  GivesAccess (.evsig i) i (rd .cnt) none none (fun x => w32 x.a < 32) (fun _ _ x => .evsig (x.a.setWidth 5)) ∧
  GivesFault (.evsig i) i (rd .cnt) none none (fun x => 32 ≤ w32 x.a) .illegal 0 (fun _ => 0) ∧
  (∀ n, InC6 u (.evsig n) n.toNat (fun s => s.mine u kSoft n.toNat) (fun s _ _ => s.pulse n.toNat)) ∧
  (∀ hi : Bool, let io := fun (v : DWord) => ((if hi then 0x4000 else 0) + v.toNat) % 65536
    GivesAccess (.inp i hi) i (wr .i32) (rd .adr) none (fun x => (ioReg u (io x.b)).isSome = true)
      (fun _ p x => .inp (BitVec.ofNat 16 (io x.b)) (p.a.dest .i32)) ∧
    GivesFault (.inp i hi) i (wr .i32) (rd .adr) none (fun x => ioReg u (io x.b) = none) .illegal 4 (fun x => BitVec.ofNat 32 (io x.b)) ∧
    GivesAccess (.out i hi) i (rd .adr) (rd .i32) none (fun x => (ioReg u (io x.a)).isSome = true)
      (fun r _ x => .out (BitVec.ofNat 16 (io x.a)) (x.b.setWidth 32) (((r.readView u).thr u).sw.getLsbD 6)) ∧
    GivesFault (.out i hi) i (rd .adr) (rd .i32) none (fun x => ioReg u (io x.a) = none) .illegal 4 (fun x => BitVec.ofNat 32 (io x.a))) ∧
  (∀ (io : BitVec 16) (d : Dest), InC6 u (.inp io d) io.toNat (fun s => ∃ x, ioReg u io.toNat = some x ∧ s.ioInside u x = true)
    (fun s was k => (s.ioEffect u io).landLater u k (d.loc.due k) (.store d ((was.ioWord u io).setWidth 64)))) ∧
  (∀ (io : BitVec 16) (v : Word) (sup : Bool), InC6 u (.out io v sup) io.toNat
    (fun s => ∃ x, ioReg u io.toNat = some x ∧ s.ioInside u x = true ∧ x.wr ≠ .ro ∧ (x.wr = .superv → sup = true) ∧
      (∀ c, x.owned = some c → s.pinOwner c = some u))
    (fun s _ _ => s.ioWrite u true io v sup)) ∧
  GivesAccess (.pinrd i) i (wr .i32) (rd .adr) none (fun x => w32 x.b < 16) (fun _ p x => .pinrd (x.b.setWidth 4) (p.a.dest .i32)) ∧
  GivesFault (.pinrd i) i (wr .i32) (rd .adr) none (fun x => 16 ≤ w32 x.b) .illegal 0 (fun _ => 0) ∧
  (∀ (p : BitVec 4) (d : Dest), InC6 u (.pinrd p d) p.toNat (fun s => s.portInside (.thread u) (fin 16 p.toNat) = true)
    (fun s was k => s.landLater u k (d.loc.due k) (.store d ((was.view (.thread u) (.pinIn (fin 16 p.toNat))).setWidth 64)))) ∧
  (∀ st : Bool, let cmd : Instr := if st then .pinwrs i else .pinwr i
    GivesAccess cmd i (rd .adr) (rd .i32) (rd .i32) (fun x => w32 x.a < 16)
      (fun _ _ x => .pinwr (x.a.setWidth 4) (x.b.setWidth 32) (x.c.setWidth 32) st) ∧
    GivesFault cmd i (rd .adr) (rd .i32) (rd .i32) (fun x => 16 ≤ w32 x.a) .illegal 0 (fun _ => 0) ∧
    (∀ (p : BitVec 4) (m v : Word), InC6 u (.pinwr p m v st) p.toNat (fun s => s.portInside (.thread u) (fin 16 p.toNat) = true)
      (fun s _ _ => s.pinwr u (fin 16 p.toNat) m v st))) ∧
  GivesAccess (.edgeq i) i (rd .adr) (rd .i8) (rd .i64) (fun x => w32 x.a < 512)
    (fun _ _ x => .edgeq (x.a.setWidth 9) (x.b.setWidth 8) x.c) ∧
  GivesFault (.edgeq i) i (rd .adr) (rd .i8) (rd .i64) (fun x => 512 ≤ w32 x.a) .illegal 0 (fun _ => 0) ∧
  (∀ (c : BitVec 9) (l : Byte) (time : DWord), InC6 u (.edgeq c l time) c.toNat
    (fun s => s.mine u kPin c.toNat ∧ s.pinOwner (fin 512 c.toNat) = some u) (fun s _ _ => s.edgeBy u (fin 512 c.toNat) time l)) ∧
  GivesAccess (.edger i) i (wr .i64) (rd .adr) none (fun x => w32 x.b < 512) (fun _ p x => .edger (x.b.setWidth 9) (p.a.dest .i64)) ∧
  GivesFault (.edger i) i (wr .i64) (rd .adr) none (fun x => 512 ≤ w32 x.b) .illegal 0 (fun _ => 0) ∧
  (∀ (c : BitVec 9) (d : Dest), InC6 u (.edger c d) c.toNat (fun s => s.mine u kPin c.toNat)
    (fun s _ k => let r := s.popRecord (fin 512 c.toNat); r.2.landLater u k (d.loc.due k) (.store d r.1)))

/-- The I/O instructions on timers, rings and classes (R148, R149, R216, R273, R274, R345, R347): each issues, but for a ring instruction
whose thread has four items pending, which is charged and issues again; at its read point a number out of range is illegal and an entry
buffer that is no multiple of 64 a misaligned fault, and any other access is entered for its c6; there a resource outside the thread's
partition, or a post that its ring does not take, is a bus error, and every other access has its effect.
The model's own readings stand in log entries 23 and 25. -/
def Obligations.TimerRingAndClassInstructionsAccessInC6 : Prop :=
  ∀ i : Issue, let u := i.thread
  TakesOff (.tcmp i) i ∧ TakesOff (.tcap i) i ∧ TakesOff (.bstat i) i ∧
  TakesOffUnlessFull (.qput i) i ∧ TakesOffUnlessFull (.qputs i) i ∧ TakesOffUnlessFull (.qget i) i ∧
  GivesAccess (.tcmp i) i (rd .adr) (rd .i64) none (fun x => w32 x.a < 1024) (fun _ _ x => .tcmp (x.a.setWidth 10) x.b) ∧
  GivesFault (.tcmp i) i (rd .adr) (rd .i64) none (fun x => 1024 ≤ w32 x.a) .illegal 0 (fun _ => 0) ∧
  (∀ (n : BitVec 10) (v : DWord), InC6 u (.tcmp n v) n.toNat (fun s => s.mine u kTimer (n.toNat / 4))
    (fun s _ _ => s.compareBy (.thread u) (fin 1024 n.toNat) (v.extractLsb' 5 32) (v.extractLsb' 0 5))) ∧
  GivesAccess (.tcap i) i (wr .i64) (rd .adr) (rd .cnt) (fun x => w32 x.b < 1024 ∧ x.c.toNat ≤ 4)
    (fun _ p x => .tcap (x.b.setWidth 10) (x.c.setWidth 3) (p.a.dest .i64)) ∧
  GivesFault (.tcap i) i (wr .i64) (rd .adr) (rd .cnt) (fun x => 1024 ≤ w32 x.b ∨ 4 < x.c.toNat) .illegal 0 (fun _ => 0) ∧
  (∀ (n : BitVec 10) (f : BitVec 3) (d : Dest), InC6 u (.tcap n f d) n.toNat (fun s => s.mine u kTimer (n.toNat / 4))
    (fun s was k => (if f = 2 then s.capwRead (fin 1024 n.toNat) else s).landLater u k (d.loc.due k)
      (.store d (was.tcapField (fin 1024 n.toNat) f)))) ∧
  (∀ st : Bool, let cmd : Instr := if st then .qputs i else .qput i
    (∀ s r p, Reads s r cmd i (rd .adr) (rd .adr) none p → let x := r.valuesAt i p (rd .adr) (rd .adr) none
      let b := x.b.toNat % 524288
      w32 x.a < 8192 → x.b.toNat % 64 = 0 →
      exec cmd s = .next (((r.startRead i p (rd .adr) (rd .adr) none).noteRead (instDesk (barrelOf u)) 0 b 64 (agThread u)).enter u 5
        prioUnit (.io u (.qput (x.a.setWidth 13) (BitVec.ofNat 512 (leNat (r.deskBytes (barrelOf u) b 64))) st)))) ∧
    GivesFault cmd i (rd .adr) (rd .adr) none (fun x => w32 x.a < 8192 ∧ x.b.toNat % 64 ≠ 0) .misaligned 1 (fun x => x.b.setWidth 32) ∧
    GivesFault cmd i (rd .adr) (rd .adr) none (fun x => 8192 ≤ w32 x.a) .illegal 0 (fun _ => 0) ∧
    (∀ (n : BitVec 13) (d : BitVec 512), InC6 u (.qput n d st) n.toNat
      (fun s => s.mine u kRing n.toNat ∧ s.postOk u (fin 8192 n.toNat) st = true) (fun s _ _ => s.qput u (fin 8192 n.toNat) d st))) ∧
  GivesAccess (.qget i) i (rd .adr) (rd .adr) (wr .i32) (fun x => w32 x.a < 8192 ∧ x.b.toNat % 64 = 0)
    (fun _ p x => .qget (x.a.setWidth 13) (x.b.setWidth 19) (p.c.dest .i32)) ∧
  GivesFault (.qget i) i (rd .adr) (rd .adr) (wr .i32) (fun x => 8192 ≤ w32 x.a) .illegal 0 (fun _ => 0) ∧
  GivesFault (.qget i) i (rd .adr) (rd .adr) (wr .i32) (fun x => w32 x.a < 8192 ∧ x.b.toNat % 64 ≠ 0) .misaligned 1
    (fun x => x.b.setWidth 32) ∧
  (∀ (n : BitVec 13) (b : BitVec 19) (d : Dest), InC6 u (.qget n b d) n.toNat (fun s => s.mine u kRing n.toNat)
    (fun s _ k => (s.qget u (fin 8192 n.toNat) b).landLater u k (d.loc.due k) (.store d ((s.getStatus (fin 8192 n.toNat)).setWidth 64)))) ∧
  GivesAccess (.bstat i) i (wr .i32) (rd .cnt) none (fun x => w32 x.b < 16) (fun _ p x => .bstat (x.b.setWidth 4) (p.a.dest .i32)) ∧
  GivesFault (.bstat i) i (wr .i32) (rd .cnt) none (fun x => 16 ≤ w32 x.b) .illegal 0 (fun _ => 0) ∧
  (∀ (n : BitVec 4) (d : Dest), InC6 u (.bstat n d) n.toNat (fun s => s.mine u kBell n.toNat)
    (fun s was k => s.landLater u k (d.loc.due k) (.store d ((was.bstatWord u (fin 16 n.toNat)).setWidth 64))))

/-- The hall-queue instructions (R81, R82, R108 to R110, R150 to R153, R189, R371, R377): without a free credit each is charged and issues
again; at its read point a misaligned address and an address that no credit or no hall serves fault, and otherwise its entry is entered
for its c6, with the address, data, compare value and destination that it read; there the entry is a bus error of its instruction where
it touches the secure region without the right to, and is written into the queue elsewhere.
The model's own readings stand in log entries 25 and 31. -/
def Obligations.HallInstructionsWriteTheirEntry : Prop :=
  ∀ i : Issue,
  (∀ z : Size4, GivesEntry (.hld i z) i .hld (sizeTy z).size (wr (sizeTy z)) (rd .adr) none
    (fun p x => { addr := x.b, dest := some (p.a.dest (sizeTy z)) })) ∧
  (∀ z : Size4, GivesEntry (.hst i z) i .hst (sizeTy z).size (rd .adr) (rd (sizeTy z)) none (fun _ x => { addr := x.a, data := x.b })) ∧
  GivesEntry (.hlr i) i .hlr 8 (wr .i64) (rd .adr) none (fun p x => { addr := x.b, dest := some (p.a.dest .i64) }) ∧
  GivesEntry (.hsc i) i .hsc 8 (wr .i32) (rd .adr) (rd .i64) (fun p x => { addr := x.b, data := x.c, dest := some (p.a.dest .i32) }) ∧
  GivesEntry (.hcas i) i .hcas 8 (rw .i64) (rd .adr) (rd .i64)
    (fun p x => { addr := x.b, data := x.c, cmp := x.a, dest := some (p.a.dest .i64) }) ∧
  GivesEntry (.hpass i) i .hpass 8 (wr .i64) (rd .adr) (rd .cnt) (fun p x => { addr := x.b, data := x.c, dest := some (p.a.dest .i64) }) ∧
  GivesEntry (.hfree i) i .hfree 8 (rd .adr) none none (fun _ x => { addr := x.a }) ∧
  GivesEntry (.hwatch i) i .hwatch 8 (rd .adr) (rd .cnt) none (fun _ x => { addr := x.a, data := x.b }) ∧
  (∀ (s : State) (b : Barrel) (k : Nat) (e : HqEntry), let u := e.thread; let h := e.addr.toNat
    let secure : Prop := (0x7C0000 ≤ h ∧ h < 0x800000) ∨ (0x7C0000 ≤ h + e.size - 1 ∧ h + e.size - 1 < 0x800000)
    let allowed : Prop := (s.thr u).sw.getLsbD 6 = true ∧ (s.reg (.thrCeil u)).getLsbD 1 = true
    (secure → ¬ allowed → s.hqEnter b k e = s.raiseAt u k { cause := .bus, space := 3, faddr := e.addr.setWidth 32 }) ∧
    ((secure → allowed) → s.hqEnter b k e = s.hqWrite b e))

/-- ILD and IST (R89, R112, R155, R188): in the long form ILD copies the word of the active bank to A at the end of c7, or faults on a
word with an uncorrectable error, and IST writes the word at the end of c7 at S level only; the short form is illegal. An instruction
whose second word the fetch found marked is a bus error in the instruction space, where nothing else is at fault (R116, R297).
The model's own readings stand in log entry 25. -/
def Obligations.InstructionSpaceAccess : Prop :=
  ∀ (s r : State) (i : Issue), let u := i.thread; let b := barrelOf u; let v := r.readView u
  TakesOff (.ild i) i ∧ TakesOff (.ist i) i ∧
  (∀ p, Reads s r (.ild i) i (wr .i32) (rd .adr) none p →
    let w := (r.valuesAt i p (wr .i32) (rd .adr) none).b.toNat % 65536
    let at_ := (if (v.thr u).bankY then 65536 else 0) + w
    if i.long = false then exec (.ild i) s = .next (r.raise u .illegal 0 0)
    else if r.poisoned (instIns b) at_ 1 then
      exec (.ild i) s = .next ((r.noteRead (instIns b) 0 at_ 1 (agThread u)).raise u .bus 5 (BitVec.ofNat 32 w))
    else exec (.ild i) s = .next ((r.startRead i p (wr .i32) (rd .adr) none).putResult u p.a .i32
      ((r.insWord b (v.thr u).bankY w).setWidth 64))) ∧
  (∀ p, Reads s r (.ist i) i (rd .adr) (rd .i32) none p → let x := r.valuesAt i p (rd .adr) (rd .i32) none
    if i.long = false ∨ (v.thr u).sw.getLsbD 6 = false then exec (.ist i) s = .next (r.raise u .illegal 0 0)
    else exec (.ist i) s = .next ((r.startRead i p (rd .adr) (rd .i32) none).enter u 7 prioPipe
      (.insWord b (v.thr u).bankY (x.a.setWidth 16) (x.b.setWidth 32)))) ∧
  (∀ (z : Size4) (g : Flight) (a : BitVec 16) (p : Places), s.reading u (.mov i z) = some g → g.fault = none → g.fetch = some a →
    r = s.modThr u (fun x => x.modFlight g.at_ (fun h => { h with read := true })) →
    (∀ h ∈ (r.thr u).flight, h.at_ = g.at_ → h.fault = none) →
    v.places i (r.readFp u) (wr (sizeTy z)) (rd (sizeTy z)) none = .ok p →
    exec (.mov i z) s = .next ((r.left i (wr (sizeTy z)) (rd (sizeTy z)) none p (valueRule (sizeTy z)
      ((r.valuesAt i p (wr (sizeTy z)) (rd (sizeTy z)) none).b.setWidth (bitsOf z)))).raise u .bus 5 (a.setWidth 32)))

/-- What a thread instruction leaves alone (R105, R106): wherever an operand, I/O or hall instruction answers a next state, nothing
beyond its own thread, the agenda, the log of read errors and the counter of free values has changed - no memory, no register, no
other thread - and the thread keeps FP, SP, its product registers, its flags, mask and privilege, its events and its period. An
issue charges its thread, unless its monitor charges nothing further, and outside a repeat moves its PC past the instruction.
The model's own readings stand in log entry 4. -/
def Obligations.ThreadInstructionsFrame : Prop :=
  (∀ (s t : State) (cmd : Instr) (i : Issue), cmd.issue? = some i → (∀ j, cmd ≠ .hnd j) →
    (∀ j, cmd = .doneH j → keptWait ((s.readView i.thread).thr i.thread).ev false = none) → exec cmd s = .next t →
    OnlyThread s t i.thread ∧ (t.thr i.thread).fp = (s.thr i.thread).fp ∧ (t.thr i.thread).sp = (s.thr i.thread).sp ∧
    (t.thr i.thread).px0 = (s.thr i.thread).px0 ∧ (t.thr i.thread).px1 = (s.thr i.thread).px1 ∧
    (t.thr i.thread).px2 = (s.thr i.thread).px2 ∧ (t.thr i.thread).px3 = (s.thr i.thread).px3 ∧
    (t.thr i.thread).sw.setWidth 16 = (s.thr i.thread).sw.setWidth 16 ∧ (t.thr i.thread).per = (s.thr i.thread).per ∧
    (t.thr i.thread).ev = { (s.thr i.thread).ev with
      recog := (t.thr i.thread).ev.recog, entering := (t.thr i.thread).ev.entering, fpc := (t.thr i.thread).ev.fpc } ∧
    (∀ x ∈ s.agenda, x ∈ t.agenda)) ∧
  (∀ (s : State) (cmd : Instr) (u : Tid) (n : Nat), let x := s.thr u; let t := s.issueOf cmd u n
    OnlyThread s t u ∧ t.agenda = s.agenda ∧ (t.thr u).lastIssue = some s.now ∧
    (t.thr u).issued = (if x.overrun then x.issued else x.issued + 1) ∧
    (∃ g, (t.thr u).flight = x.flight ++ [g] ∧ g.at_ = s.now ∧ g.insn = some cmd ∧ g.read = false ∧ g.fault = none ∧
      g.before = x.toThreadS) ∧
    (x.rep = none → (t.thr u).pc = x.pc + BitVec.ofNat 16 n ∧ (t.thr u).pq = x.pq.drop n ∧ (t.thr u).sw = x.sw) ∧
    (∀ q, x.rep = some q → (t.thr u).sw.extractLsb' 16 16 = x.sw.extractLsb' 16 16 - 1 ∨ x.sw.extractLsb' 16 16 = 0#16))

/-- The landing of a result and of flags (R67, R68, R94, R98, R105, R114): its bytes stand little-endian at the destination and read
back as the value, and no other byte of any memory, no register and no other thread changes; in a product register the bits above the
value take its top bit for a signed type, else 0, unless a period entry of the thread has come after the issue; the flags that the mask
names take their values and every other bit of SW stays. That a write through mode 9 issued before a period entry is dropped with the
product writes is the model's reading (log entry 45). -/
def Obligations.LandingsWriteTheirTargetOnly : Prop :=
  (∀ (s : State) (at_ : Nat) (v : DWord) (n : Nat) (sg : Bool), n ≤ 8 →
  (∀ (b : Barrel) (a : BitVec 19), let t := s.landPipe at_ (.store { loc := .desk b a, size := n, signFill := sg } v)
    t = { s with desk := t.desk, insts := t.insts } ∧
    (∀ k < n, t.deskByte b (a.toNat + k) = v.extractLsb' (8 * k) 8) ∧
    (∀ (b' : Barrel) (a' : Nat), (b' ≠ b ∨ ∀ k < n, (a.toNat + k) % 524288 ≠ a' % 524288) → t.deskByte b' a' = s.deskByte b' a')) ∧
  (∀ (u : Tid) (line : BitVec 5) (off : BitVec 6), s.classOf u = none → off.toNat + n ≤ 64 →
    let t := s.landPipe at_ (.store { loc := .slate u line off, size := n, signFill := sg } v)
    t = { s with slate := t.slate, insts := t.insts } ∧
    (∀ k < n, t.slateByte u (!s.workCopy u line.toNat) line.toNat (off.toNat + k) = v.extractLsb' (8 * k) 8) ∧
    (∀ (u' : Tid) (c : Bool) (l o : Nat), l < 32 → o < 64 →
      (u' ≠ u ∨ c = s.workCopy u line.toNat ∨ l ≠ line.toNat ∨ o < off.toNat ∨ off.toNat + n ≤ o) → t.slateByte u' c l o = s.slateByte u' c l o)) ∧
  (∀ (u : Tid) (line : BitVec 5) (off : BitVec 6), (s.classOf u).isSome = true → off.toNat + n ≤ 64 →
    let t := s.landPipe at_ (.store { loc := .slate u line off, size := n, signFill := sg } v)
    (t.thr u).dirty.getLsbD line.toNat = true ∧ (∀ w, w ≠ u → t.thr w = s.thr w) ∧ t.desk = s.desk ∧ t.hall = s.hall ∧ t.ins = s.ins ∧
    (∀ o < 64, t.slateByte u (!s.workCopy u line.toNat) line.toNat o = s.slateByte u (!s.workCopy u line.toNat) line.toNat o) ∧
    (∀ o < 64, t.slateRead u line.toNat o =
      if off.toNat ≤ o ∧ o < off.toNat + n then v.extractLsb' (8 * (o - off.toNat)) 8 else s.slateRead u line.toNat o) ∧
    (∀ (w : Tid) (l o : Nat), l < 32 → o < 64 → (w ≠ u ∨ l ≠ line.toNat) → t.slateRead w l o = s.slateRead w l o)) ∧
  (∀ (u : Tid) (k : BitVec 2), 0 < n → let t := s.landPipe at_ (.store { loc := .px u k, size := n, signFill := sg } v)
    t = { s with threads := t.threads } ∧ (∀ w, w ≠ u → t.thr w = s.thr w) ∧
    (∀ j, j ≠ k → (t.thr u).px j = (s.thr u).px j) ∧
    (at_ < (s.thr u).enteredAt → (t.thr u).px k = (s.thr u).px k) ∧
    ((s.thr u).enteredAt ≤ at_ →
      ∀ m < 64, ((t.thr u).px k).getLsbD m = if m < 8 * n then v.getLsbD m else (sg && v.getLsbD (8 * n - 1))))) ∧
  (∀ (s : State) (at_ : Nat) (u : Tid) (m v : BitVec 5), let t := s.landPipe at_ (.flags u m v)
  t = { s with threads := t.threads } ∧ (∀ w, w ≠ u → t.thr w = s.thr w) ∧
  (t.thr u).toThreadS = { (s.thr u).toThreadS with sw := (t.thr u).sw } ∧
  (∀ k < 32, (t.thr u).sw.getLsbD k = if m.getLsbD k then v.getLsbD k else (s.thr u).sw.getLsbD k))


/-! ### Slot maps and thread control (R58 to R66, R76, R190, R424) -/

/-- The slot-map commands (R51, R58, R61): an APPLY by the owner is refused while a copy waits, for a map that fails the check, or for a
bell that does not run, and is otherwise kept for 16 cycles later; CANCEL removes what waits, but for a copy that is due in its cycle; a
copy that is due makes its map active; each leaves the barrel gated exactly where neither the active map nor a waiting one owns a slot
and CTL_BGATE lets it.
The model's own readings stand in log entry 45. -/
def Obligations.SlotMapsAreCheckedAndCopied : Prop :=
  ∀ (s : State) (a : Agent) (b : Barrel),
  let due : Prop := ∃ p, (s.bar b).pending = some p ∧ p.from_ ≤ s.now ∧ (match p.bell with | some c => s.bellDue c = true | none => s.now % 32 = 0)
  (∀ (atBell : Bool) (bell : Bell), let x := s.bar b
    let e : BitVec 2 := if x.pending.isSome then 2 else if mapPasses x.shadow = false then 1
      else if atBell && !((s.bell bell).running && !(s.bell bell).stopping) then 3 else 0
    GivesWrite (.slotMapApplyRequest a b atBell bell) a true s (s.isOwner a) ((s.setBar b { x with
      when_ := atBell, bellSel := BitVec.ofNat 4 bell.val, err := e
      pending := if e = 0 then some { map := x.shadow, from_ := s.now + 16, bell := if atBell then some bell else none } else x.pending }).gateNow b)) ∧
  (due → GivesWrite (.slotMapCancel a b) a true s (s.isOwner a) s) ∧
  (¬ due → GivesWrite (.slotMapCancel a b) a true s (s.isOwner a) ((s.setBar b { s.bar b with pending := none }).gateNow b)) ∧
  (∀ p, (s.bar b).pending = some p → due →
    exec (.slotMapCopy b) s = .next ((s.setBar b { s.bar b with active := p.map, pending := none }).gateNow b)) ∧
  (∃ g, s.gateNow b = s.setBar b { s.bar b with gated := g } ∧
    (g = true ↔ (∀ i, slotsOwned (s.bar b).active i = []) ∧ (∀ p i, (s.bar b).pending = some p → slotsOwned p.map i = []) ∧
      (s.reg .ctlBgate).getLsbD b.val = false))

/-- THREAD_ENABLE, HALT, HALT_RELEASE, STEP, MAINT_ENTER, MAINT_LEAVE, DISABLE and RESET (R64, R76, R77, R424, Table BRL-16): each moves its thread
between OFF, HELD, HALT and MAINT with the delays of its table and no other thread; a disabled or reset thread loses its issues and writes
in flight, all that it staged, its fault, its repeat and its queue, and its hall results on their way no longer land; a reset one starts
anew with its event registers and reservation at their reset values; one in LOCKUP stays when it is disabled.
The model's own readings stand in log entries 24 and 45. -/
def Obligations.ThreadControlMovesTheState : Prop :=
  (∀ (s : State) (a : Agent) (t : Tid), let w := s.reg (.thrCtl t); let x := s.thr t
  s.accepts a = true → (∀ ch, a ≠ .dma ch) → s.holds a kThread t.val = true →
  (w.getLsbD 0 = false → x.st = .off → s.threadsRun = true → ∃ u, exec (.threadEnable a t) s = .next u ∧
    u.reg (.thrCtl t) = (w ||| 1) &&& 0x13 ∧ (∀ v, v ≠ t → u.thr v = s.thr v) ∧
    (if w.getLsbD 4 then (u.thr t).st = .maint
     else if w.getLsbD 1 then (u.thr t).st = .halt ∧ (u.thr t).beforeHalt = (if (s.classOf t).isSome then .held else .off)
     else if (s.classOf t).isSome then (u.thr t).st = .held
     else (u.thr t).st = .off ∧ (u.thr t).startFrom = some (s.now + 16))) ∧
  (w.getLsbD 1 = false → x.st ∈ [.run, .wait, .hwait, .held, .handed, .halt] → ∃ u, exec (.threadHalt a t) s = .next u ∧
    u.reg (.thrCtl t) = (w ||| 2) &&& 0x13 ∧ u.thr t = { x with haltFrom := some (s.now + 4) } ∧ (∀ v, v ≠ t → u.thr v = s.thr v)) ∧
  (w.getLsbD 1 = true → x.st = .halt → x.bellPassed = false → x.beforeHalt ∈ [.run, .wait, .hwait, .handed] →
    ∃ u, exec (.threadHaltRelease a t) s = .next u ∧ u.reg (.thrCtl t) = w &&& 0x11 ∧
      u.thr t = { x with releaseFrom := some (s.now + 4), stepFrom := none } ∧ (∀ v, v ≠ t → u.thr v = s.thr v)) ∧
  (x.st = .halt → ∃ u, exec (.threadStep a t) s = .next u ∧ u.thr t = { x with stepFrom := some (s.now + 4) } ∧
    (∀ v, v ≠ t → u.thr v = s.thr v)) ∧
  (w.getLsbD 4 = false → s.bellPending t = false → x.st ∈ [.held, .handed, .off] → x.todo = .none →
    ∃ u, exec (.threadMaintEnter a t) s = .next u ∧ u.reg (.thrCtl t) = (w ||| 16) &&& 0x13 ∧
      u.thr t = { x with st := .maint, startFrom := none, maintWait := false, maintAtBell := false } ∧ (∀ v, v ≠ t → u.thr v = s.thr v)) ∧
  (w.getLsbD 4 = false → s.bellPending t = false → x.st ∈ [.run, .wait, .hwait] →
    ∃ u, exec (.threadMaintEnter a t) s = .next u ∧ (∀ v, v ≠ t → u.thr v = s.thr v) ∧
      u.thr t = if (s.classOf t).isSome then { x with maintAtBell := true } else { x with maintWait := true }) ∧
  (w.getLsbD 4 = true → w.getLsbD 0 = true → w.getLsbD 1 = false → s.bellPending t = false → x.st = .maint → s.threadsRun = true →
    ∃ u, exec (.threadMaintLeave a t) s = .next u ∧ u.reg (.thrCtl t) = w &&& 0x3 ∧ (∀ v, v ≠ t → u.thr v = s.thr v) ∧
      (if (s.classOf t).isSome then (u.thr t).st = .held else (u.thr t).st = .off ∧ (u.thr t).startFrom = some (s.now + 16)))) ∧
  (∀ (s : State) (a : Agent) (t : Tid), let w := s.reg (.thrCtl t)
  let stopped := fun (u : State) => (∀ e ∈ u.staged, e.1 ≠ t) ∧ (u.thr t).fault = none ∧ (u.thr t).rep = none ∧
    ((s.thr t).flight.Pairwise (fun g h => g.at_ ≤ h.at_) → (u.thr t).flight = []) ∧
    (u.thr t).pq = [] ∧ (∀ x ∈ u.agenda, x.thread = some t → x.hall = false) ∧ (u.thr t).life = (s.thr t).life + 1 ∧
    ((s.thr t).flight = [] → (u.thr t).epoch = (s.thr t).epoch + 1)
  s.accepts a = true → (∀ ch, a ≠ .dma ch) → s.holds a kThread t.val = true →
  (w.getLsbD 0 = true → ∃ u, exec (.threadDisable a t) s = .next u ∧
    (if (s.thr t).st = .lockup then (u.thr t).st = .lockup else (u.thr t).st = .off ∧ stopped u)) ∧
  (w.getLsbD 0 = true → w.getLsbD 1 = false → w.getLsbD 4 = false → s.threadsRun = true →
    ∃ u, exec (.threadReset a t) s = .next u ∧ stopped u ∧
      (u.thr t).ev.en = 0 ∧ (u.thr t).ev.nest = [] ∧ (u.thr t).ev.hf = false ∧ (u.thr t).resv = none ∧
      (if (s.classOf t).isSome then (u.thr t).st = .held else (u.thr t).st = .off ∧ (u.thr t).startFrom = some (s.now + 16))))

/-- THR_CFG, the context table and THR_CEIL (R64, R65, R190): THR_CFG is refused while the thread is enabled, for more than 8 credits, or
where the barrel's credits would pass 8; the context is written only while the thread is OFF or in HALT; a ceiling of U forces PRIV to
U at the end of the cycle.
The model's own readings stand in log entries 24 and 26. -/
def Obligations.ThreadRegisterWrites : Prop :=
  ∀ (s : State) (a : Agent) (t : Tid) (v : Word), let inside := s.holds a kThread t.val; let x := s.thr t
  (let cred := (v.extractLsb' 8 4).toNat
   let mine := ((s.reg (.thrCfg t)).extractLsb' 8 4).toNat
   GivesWrite (.thrCfgWrite a t v) a true s inside
     (if (s.reg (.thrCtl t)).getLsbD 0 = true ∨ 8 < cred ∨ 8 < s.credsum (barrelOf t) - mine + cred
      then s.setThr t { x with cfgRefused := some s.now } else s.setReg (.thrCfg t) (v &&& 0xF1F))) ∧
  (∀ r : CtxReg, x.st ≠ .off → x.st ≠ .halt → GivesWrite (.contextWrite a t r v) a true s inside (s.setThr t { x with ctxRefused := some s.now })) ∧
  (∀ r : CtxReg, x.st = .off ∨ x.st = .halt → ∃ u, GivesWrite (.contextWrite a t r v) a true s inside u ∧
    (∀ y, y ≠ t → u.thr y = s.thr y) ∧
    (match r with
     | .pc => (u.thr t).pc = v.setWidth 16 ∧ (u.thr t).pq = [] ∧ (u.thr t).rep = none ∧ (u.thr t).skipSlots = 0
     | .fp => (u.thr t).fp = v.setWidth 19
     | .sp => (u.thr t).sp = v.setWidth 19
     | .sw => (u.thr t).sw = (v &&& 0xFFFF031F) ||| (if v.getLsbD 6 && (s.reg (.thrCeil t)).getLsbD 0 then 0x40 else 0)
     | .pxlo n => (u.thr t).px (BitVec.ofNat 2 n.val) = ((x.px (BitVec.ofNat 2 n.val)).extractLsb' 32 32) ++ v
     | .pxhi n => (u.thr t).px (BitVec.ofNat 2 n.val) = v ++ ((x.px (BitVec.ofNat 2 n.val)).extractLsb' 0 32))) ∧
  (∃ u, GivesWrite (.thrCeilWrite a t v) a true s inside u ∧ u.reg (.thrCeil t) = v &&& 3 ∧
    u.threads = s.threads ∧ (v.getLsbD 0 = true → u.agenda = s.agenda) ∧
    (v.getLsbD 0 = false →
      ({ due := s.now, prio := prioUnit, thread := none, issuedAt := s.now, eff := .privDown t } : Landing) ∈ u.agenda)) ∧
  (∀ k, let u := s.landPipe k (.privDown t)
    (u.thr t).sw = x.sw &&& 0xFFFFFFBF ∧ (u.thr t).pc = x.pc ∧ (∀ y, y ≠ t → u.thr y = s.thr y))

/-! ### Events, entries and the hall queues (R79, R81 to R85, R151 to R164, R169 to R184) -/

/-- EVENT_ENTRY, FAULT_ENTRY and BUDGET_OVERRUN in a slot that is for them (R79, R164, R171, R172, R179 to R184), with a frame that
stays within rows: the first issue moves SP down by 8 at the end of its next cycle and lands the return word there at the end of c7;
the second clears the input's pending bit, records the claim, lands the SW word, and goes to the vector that the recognition took;
the first issue of a fault entry writes the fault record; an overrun is such a fault and is not charged. The frame holds the PC and the SW
that the entry's first issue found, as the older instructions leave them. An issue's fault is recognised in its c6: the issue and every later
one are cancelled, their writes do not land, the thread stands as before it, and the fault waits for its entry, by its level or to the
hard-fault handler; within that handler the thread locks up.
The model's own readings stand in log entries 25, 26 and 45. -/
def Obligations.EntriesSaveTheFrameAndClaim : Prop :=
  (∀ (s : State) (t : Tid), let x := s.thr t; let sp := s.spNow t - 8
  (∀ r, s.slotUse t = .event → x.ev.entering = none → x.ev.recog = some r → sp.toNat % 4 = 0 →
    ∃ u e, exec (.eventEntry t) s = .next u ∧ OnlyThread s u t ∧ (u.thr t).ev.entering = some e ∧ e.kind = .event ∧
      e.input = r.input ∧ e.lvl = r.lvl ∧ e.vec = r.vec ∧ u.Due t (s.now + 1) prioPipe s.now (.setSp t sp) ∧
      u.Due t (s.now + 7) prioPipe s.now (.retWord t sp) ∧ ((∀ g ∈ x.flight, g.at_ ≠ s.now) → (u.thr t).beforeIssue s.now = x.toThreadS)) ∧
  (∀ e, s.slotUse t = .event → x.ev.entering = some e →
    ∃ u, exec (.eventEntry t) s = .next u ∧ OnlyThread s u t ∧ (u.thr t).pc = e.vec ∧ (u.thr t).pq = [] ∧ (u.thr t).ev.entering = none ∧
      (u.thr t).ev.pend.getLsbD e.input.toNat =
        (x.ev.pend.getLsbD e.input.toNat && decide (x.ev.newAt = s.now) && x.ev.pulse.getLsbD e.input.toNat) ∧
      (u.thr t).ev.claim = 0x80000000#32 ||| (e.lvl.setWidth 32 <<< 8) ||| e.input.setWidth 32 ∧
      (e.kind ≠ .chain → (u.thr t).ev.nest = { lvl := e.lvl, flt := false, wt := e.wt, waitPc := x.waitPc } :: x.ev.nest ∧
        u.Due t (s.now + 7) prioPipe s.now (.swWord t (s.spNow t + 4))) ∧
      (∀ top rest, e.kind = .chain → x.ev.nest = top :: rest → (u.thr t).ev.nest = { top with lvl := e.lvl, flt := false } :: rest)) ∧
  (∀ f, s.slotUse t = .fault → x.fault = some f → sp.toNat % 4 = 0 →
    ∃ u e, exec (.faultEntry t) s = .next u ∧ OnlyThread s u t ∧ (u.thr t).fault = none ∧ (u.thr t).ev.entering = some e ∧
      e.kind = (if f.hard then .hard else .fault) ∧ e.vec = f.vec ∧ (u.thr t).ev.fpc = f.pc ∧ (u.thr t).ev.faddr = f.faddr ∧
      (f.hard = true → (u.thr t).ev.fstat.getLsbD 30 = true) ∧ (u.thr t).ev.fstat.extractLsb' 0 4 = BitVec.ofNat 4 f.cause.code ∧
      u.Due t (s.now + 1) prioPipe s.now (.setSp t sp) ∧ u.Due t (s.now + 7) prioPipe s.now (.retWord t sp) ∧
      ((∀ g ∈ x.flight, g.at_ ≠ s.now) → (u.thr t).beforeIssue s.now = x.toThreadS)) ∧
  (∀ e, s.slotUse t = .fault → x.fault = none → x.ev.entering = some e →
    ∃ u, exec (.faultEntry t) s = .next u ∧ OnlyThread s u t ∧ (u.thr t).pc = e.vec ∧ (u.thr t).ev.entering = none ∧
      u.Due t (s.now + 7) prioPipe s.now (.swWord t (s.spNow t + 4)) ∧
      (if e.kind = .hard then (u.thr t).ev.hf = true ∧ (u.thr t).ev.nest = x.ev.nest
       else (u.thr t).ev.nest = { lvl := e.lvl, flt := true, wt := false, waitPc := 0 } :: x.ev.nest)) ∧
  (s.slotUse t = .overrun → x.ev.hf = false → sp.toNat % 4 = 0 →
    ∃ u e, exec (.budgetOverrun t) s = .next u ∧ OnlyThread s u t ∧ (u.thr t).overrun = true ∧ (u.thr t).issued = x.issued ∧
      (u.thr t).ev.entering = some e ∧ (u.thr t).ev.fstat.extractLsb' 0 4 = 4#4 ∧ (u.thr t).ev.fstat.getLsbD 8 = true)) ∧
  (∀ (s : State) (t : Tid) (k : Nat) (a : BitVec 19), let y := (s.thr t).beforeIssue k
    let word := fun (w : Word) => s.landPipe k (.store { loc := .desk (barrelOf t) a, size := 4, signFill := false } (w.setWidth 64))
    s.landPipe k (.retWord t a) =
      word ((match y.rep with | some q => q.prefixPc | none => if y.st = TState.wait then y.waitPc else y.pc).setWidth 32) ∧
    s.landPipe k (.swWord t a) = word (y.sw &&& 0xFFFF035F)) ∧
  (∀ (s : State) (t : Tid) (g : Flight) (f : IssueFault),
    (s.thr t).flight.find? (fun g => decide (g.at_ + 6 = s.now) && g.fault.isSome) = some g → g.fault = some f →
    let u := s.recogniseFault t; let y := u.thr t
    (∀ h ∈ y.flight, h.at_ < g.at_) ∧ (∀ x ∈ u.agenda, x.thread = some t → x.hall = true ∨ x.issuedAt < g.at_) ∧
    (f.lock = true ∨ g.before.ev.hf = true → y.st = .lockup ∧ (∀ e ∈ u.staged, e.1 ≠ t)) ∧
    (f.lock = false → g.before.ev.hf = false → g.before.st = .run → (s.thr t).st ≠ .halt →
      y.st = .run ∧ y.pc = g.before.pc ∧ y.sw = g.before.sw ∧ y.px0 = g.before.px0 ∧ y.sp = g.before.sp ∧
      (y.per.isOpen = true → y.per.faulted = true) ∧
      ∃ p, y.fault = some p ∧ p.cause = f.cause ∧ p.space = f.space ∧ p.faddr = f.faddr ∧ p.async = false ∧
        p.pc = (match g.before.rep with | some q => q.prefixPc | none => g.before.pc) ∧
        (let l := ((s.reg (.evtFlvl t)) >>> (2 * (f.cause.code - 1))).setWidth 2
         (p.hard = false ↔ f.entry = false ∧ ((g.before.sw >>> 8).setWidth 2).toNat ≤ l.toNat ∧
           (∀ top, g.before.ev.nest.head? = some top → top.lvl.toNat < l.toNat)) ∧
         (p.hard = false → p.lvl = l))))

/-- HALL_ENTRY_ACCEPT and HALL_ENTRY_RETIRE (R83 to R85, R151, R152): the head of a queue is performed when its bank takes it, with
the order of the queue kept, and retires 12, 4 or 20 cycles later by its kind; HLD returns the bytes, HST writes its bytes, HLR
reserves its word, HSC stores exactly where the reservation holds; the next entry comes to the head in that cycle, or in the one after
its own write. An uncorrectable error is a bus error on the entry, which writes nothing, and ends a reservation that an HLR or HSC would
end. At retirement a result goes to its destination, unless its thread has restarted, and the entry leaves the queue.
The model's own readings stand in log entries 9, 31 and 45. -/
def Obligations.HallQueueEntriesArePerformed : Prop :=
  ∀ (s : State) (b : Barrel),
  let later := fun (e : HqEntry) => some (s.now + (match e.kind with | .hld | .hlr | .hsc => 12 | .hst => 4 | _ => 20))
  (∀ (done rest : List HqEntry) (e : HqEntry), hqSplit (s.bar b).hq = (done, some (e, rest)) → s.acceptDue b = true → s.cleanEntry e →
    ∃ u r, exec (.hallEntryAccept b .ok) s = .next u ∧
      (u.bar b).hq = done ++ { e with retireAt := later e, result := r, busErr := false } :: rest ∧
      (u.bar b).hqHeadAt = (match rest with | y :: _ => max s.now (y.written + 1) | [] => s.now) ∧
      (match e.kind with
       | .hld => r = BitVec.ofNat 64 (leNat (s.hallRead e.addr.toNat e.size)) ∧ u.hall = s.hall
       | .hst => u.hall = (s.hallWrite e.addr.toNat (leBytes e.data.toNat e.size)).hall
       | .hlr => (u.thr e.thread).resv = some e.addr.toNat ∧ u.hall = s.hall
       | .hsc => (u.thr e.thread).resv = none ∧
           (if (s.thr e.thread).resv = some e.addr.toNat
            then r = 1 ∧ u.hall = (s.hallWrite e.addr.toNat (leBytes e.data.toNat 8)).hall else r = 0 ∧ u.hall = s.hall)
       | .hcas => r = (s.lockCas e.addr e.cmp e.data).1
       | _ => True)) ∧
  (∀ (done rest : List HqEntry) (e : HqEntry), hqSplit (s.bar b).hq = (done, some (e, rest)) → s.acceptDue b = true → e.kind ≠ .hst →
    ¬ (s.memS.wiping = true ∧ 0x7C0000 ≤ e.addr.toNat) →
    ∃ u r, exec (.hallEntryAccept b .uncorrectable) s = .next u ∧
      (u.bar b).hq = done ++ { e with retireAt := later e, result := r, busErr := true } :: rest ∧ u.hall = s.hall ∧ u.locks = s.locks ∧
      (u.thr e.thread).resv = if e.kind = .hlr ∨ e.kind = .hsc then none else (s.thr e.thread).resv) ∧
  (∀ e, s.retiring b = some e → e.busErr = false → ∃ u, exec (.hallEntryRetire b) s = .next u ∧
    (u.bar b).hq = (s.bar b).hq.filter (fun y => decide (y.seq ≠ e.seq)) ∧ u.hall = s.hall ∧ u.desk = s.desk ∧
    (∀ d, e.dest = some d → e.epoch = (s.thr e.thread).epoch → ({
      due := s.now + 2, prio := match d.loc with | .px _ _ => prioPipe | _ => prioHall
      thread := some e.thread, issuedAt := e.issued, hall := true, eff := .store d e.result } : Landing) ∈ u.agenda) ∧
    (e.dest = none ∨ e.epoch ≠ (s.thr e.thread).epoch → u.agenda = s.agenda))

/-- EVT_SWSET_WRITE and EVT_MAP_WRITE (R157, R162): every software source written as 1 in the writer's partition sets the pending bit
of each input tied to it, and no other input's; a map entry takes its source and level, 0x7FF where the source lies outside the
writer's partition, and the input's pending and lost bits go to 0. -/
def Obligations.SoftwareSourcesAndTheEventMap : Prop :=
  ∀ (s : State) (a : Agent) (v : Word),
  (∃ u, GivesWrite (.evtSwsetWrite a v) a true s true u ∧
    (∀ e ∈ s.evmap, e.1 < 4096 → e.2.1.toNat < 32 → v.getLsbD e.2.1.toNat = true → s.holds a kSoft e.2.1.toNat = true →
      (u.thr (fin 128 (e.1 / 32))).ev.pend.getLsbD (e.1 % 32) = true) ∧
    (∀ (t : Tid) (i : Nat), i < 32 → (u.thr t).ev.pend.getLsbD i = true → (s.thr t).ev.pend.getLsbD i = true ∨
      ∃ e ∈ s.evmap, e.1 / 32 % 128 = t.val ∧ e.1 % 32 = i ∧ e.2.1.toNat < 32 ∧ v.getLsbD e.2.1.toNat = true ∧
        s.holds a kSoft e.2.1.toNat = true)) ∧
  (∀ (t : Tid) (i : Fin 32), let src : BitVec 11 := v.setWidth 11
    let own := match s.agentPart a with | some p => s.sourceIn p src.toNat | none => false
    ∃ u, GivesWrite (.evtMapWrite a t i v) a true s (s.holds a kThread t.val) u ∧
      u = { s with threads := u.threads, evmap := mput ((0x7FF : BitVec 11), (0 : BitVec 2)) s.evmap (32 * t.val + i.val)
                    (if own then src else 0x7FF, v.extractLsb' 11 2) } ∧
      (∀ y, y ≠ t → u.thr y = s.thr y) ∧ (u.thr t).toThreadS = { (s.thr t).toThreadS with
        ev := { (s.thr t).ev with
          pend := (s.thr t).ev.pend &&& ~~~(1#32 <<< i.val), lost := (s.thr t).ev.lost &&& ~~~(1#32 <<< i.val) } })

/-! ### Bells (R192 to R213) -/

/-- BELL_START, BELL_STOP and BELL_SCHEDULE_APPLY (R193 to R196): a start of a stopped bell with a period of 1,200 to
1,200,000,000 aims at the first of START + n PERIOD at or after TBASE + 16; a stop waits for the next bell; a schedule is kept until the
bell it names; every refusal sets its error code and nothing else. -/
def Obligations.BellsStartStopAndTakeSchedules : Prop :=
  ∀ (s : State) (a : Agent) (b : Bell), let x := s.bell b; let inside := s.holds a kBell b.val
  let legal := fun (p : Word) => 1200 ≤ p.toNat ∧ p.toNat ≤ 1200000000
  let period := (s.reg (.belPeriod b)).toNat
  let start := (join64 (s.reg (.belStartLo b)) (s.reg (.belStartHi b))).toNat
  (x.en = false → x.running = false → x.stopping = false → legal (s.reg (.belPeriod b)) →
    ∃ n, s.tbase.toNat + 16 ≤ start + n * period ∧ (∀ m < n, start + m * period < s.tbase.toNat + 16) ∧
      GivesWrite (.bellStart a b) a false s inside (s.setBell b { x with
        en := true, running := true, err := 0, nextNum := BitVec.ofNat 64 n, next := BitVec.ofNat 64 (start + n * period)
        lap := s.lap + (((start + n * period) / 2 ^ 64 : Nat) : Int) })) ∧
  (x.en = false → x.running = false → x.stopping = false → ¬ legal (s.reg (.belPeriod b)) →
    GivesWrite (.bellStart a b) a false s inside (s.setBell b { x with err := 1 })) ∧
  (x.en = false → x.stopping = true → GivesWrite (.bellStart a b) a false s inside (s.setBell b { x with err := 2 })) ∧
  (x.en = true → x.running = true → x.stopping = false →
    GivesWrite (.bellStop a b) a false s inside (s.setBell b { x with en := false, stopping := true, err := 0 })) ∧
  (x.en = true → GivesWrite (.bellScheduleApply a b true) a false s inside
    (if x.running = false ∨ x.stopping = true ∨ x.apply ≠ none then s.setBell b { x with err := 2 }
     else if legal (s.reg (.belSperiod b)) then s.setBell b { x with
       err := 0
       apply := some { period := s.reg (.belSperiod b), start := join64 (s.reg (.belSstartLo b)) (s.reg (.belSstartHi b))
                       at_ := s.reg (.belApplyat b)
                       nextBell := decide (2 ^ 31 ≤ (s.reg (.belApplyat b) - (x.num.setWidth 32 + 1)).toNat) } }
     else s.setBell b { x with err := 1 }))

/-- BELL_FIRE when it is due, where no order of an update waits (R61, R66, R192, R195 to R199, Table BEL-6, Table BRL-16): the bell takes its
number and counts those that TBASE has passed, its source pulses, and its next bell time lies beyond TBASE, within one period, unless it
stops or a schedule change takes effect. Every member's open period is decided, with the record of its outcome and bell number, and its
staged items go; then every member is released: to its period entry, at a stop to HELD, in HALT not at all but as one whose bell has
passed. A slot map that waits for the bell takes effect or, at a stop, goes with ERR 3. No other thread changes its state.
The model's own readings stand in log entries 30 and 45. -/
def Obligations.BellsDecideThenRelease : Prop :=
  ∀ (s : State) (b : Bell), s.bellDue b = true → let x := s.bell b
  let period := (s.reg (.belPeriod b)).toNat
  let skips := (-(s.bellGap b)).toNat / period
  let n := x.nextNum + BitVec.ofNat 64 skips
  ∃ t, exec (.bellFire b) s = .next t ∧ (s.upd.order = none → 0 < period →
    (t.bell b).num = n ∧ (t.bell b).skip = x.skip + BitVec.ofNat 32 skips ∧
    (x.stopping = true → (t.bell b).running = false ∧ (t.bell b).stopping = false ∧ (t.bell b).apply = none) ∧
    (x.stopping = false → x.apply = none → (t.bell b).running = true ∧ (t.bell b).nextNum = n + 1 ∧
      (t.bell b).next = x.next + BitVec.ofNat 64 ((skips + 1) * period) ∧ 0 < t.bellGap b ∧ t.bellGap b ≤ period) ∧
    (∀ a, x.stopping = false → x.apply = some a → a.nextBell = true → (t.bell b).apply = none ∧ t.reg (.belPeriod b) = a.period ∧
      join64 (t.reg (.belStartLo b)) (t.reg (.belStartHi b)) = a.start) ∧
    (∀ e ∈ s.evmap, e.1 < 4096 → e.2.1.toNat = 0x680 + b.val →
      (t.thr (fin 128 (e.1 / 32))).ev.pend.getLsbD (e.1 % 32) = true) ∧
    (∀ m, s.classOf m ≠ some b → (t.thr m).st = (s.thr m).st) ∧
    (∀ m, s.classOf m = some b → let y := s.thr m; let z := t.thr m
      y.decidedAt ≠ some s.now → (∀ g ∈ y.flight, g.before.st ∈ [.run, .wait, .hwait, .handed, .held]) →
      (y.per.isOpen = true → y.st ≠ .lockup → (∀ e ∈ t.staged, e.1 ≠ m) ∧ z.per.num = n.setWidth 32 ∧
        z.per.lastOut = (if y.overrun then 4 else if y.per.faulted then 3 else if y.per.handin then 1 else 2)) ∧
      (y.maintAtBell = false → y.st ∈ [.run, .wait, .hwait, .held, .handed] →
        if x.stopping then z.st = .held
        else z.st = .run ∧ z.per.isOpen = true ∧ z.per.handin = false ∧ z.issued = 0 ∧ z.ev.nest = [] ∧ z.rep = none ∧ z.fault = none ∧
          z.pq = [] ∧ z.fp = (s.reg (.thrFpinit m)).setWidth 19 ∧ z.sp = (s.reg (.thrSpinit m)).setWidth 19 ∧
          (y.flight = [] → y.todo = .none → y.handover = false → y.takeback = false → z.pc = (s.reg (.thrEntry m)).setWidth 16)) ∧
      (y.flight = [] → y.maintAtBell = true → y.st ∈ [.run, .wait, .hwait, .handed] → z.st = .maint) ∧
      (y.st = .halt → y.releaseFrom = none → z.st = .halt ∧ z.bellPassed = true)) ∧
    (∀ r p, (s.bar r).pending = some p → p.bell = some b →
      (p.from_ ≤ s.now → (t.bar r).active = p.map ∧ (t.bar r).pending = none) ∧
      (x.stopping = true → s.now < p.from_ → (t.bar r).active = (s.bar r).active ∧ (t.bar r).pending = none ∧ (t.bar r).err = 3)))

/-- The decision of a member at its bell (R199, R207 to R211): a period that was handed in, met no fault and kept its budget commits -
its slate selectors take the dirty lines, nothing of it stays staged, and the record shows outcome 1 - and any other open period is
discarded with the first cause that applies of overrun, fault and no hand-in, its selectors unchanged.
The model's own readings stand in log entry 30. -/
def Obligations.MembersCommitOrDiscard : Prop :=
  ∀ (s : State) (b : Bell) (t : Tid) (n : Word), let x := s.thr t
  x.decidedAt ≠ some s.now → x.st ≠ .lockup → x.per.isOpen = true →
  let u := s.outcomeAt b t n; let y := u.thr t
  y.per.isOpen = false ∧ y.per.handin = false ∧ y.per.faulted = false ∧ y.per.num = n ∧ y.dirty = 0 ∧ (∀ e ∈ u.staged, e.1 ≠ t) ∧
  (if x.per.handin = true ∧ x.per.faulted = false ∧ x.overrun = false
   then y.per.lastOut = 1 ∧ y.per.commits = x.per.commits + 1 ∧ y.per.discards = x.per.discards ∧ y.sel = x.sel ^^^ x.dirty
   else y.per.lastOut = (if x.overrun then 4 else if x.per.faulted then 3 else 2) ∧ y.per.commits = x.per.commits ∧
     y.per.discards = x.per.discards + 1 ∧ y.sel = x.sel)

/-! ### Resets, starts and system inputs (R34 to R50, R315, R360, R409 to R412, R417, R423) -/

/-- What each reset clears and keeps (Table PRT-9): a cold reset clears every state but MRAM and the levels at the inputs, and wipes the
secure bytes of hall; a warm reset begins 4 LCLK after RST_WARM_N has been recognised low, or as a register asks for it; between a cold
release and the first bell it stays pending, else it keeps the memories, TBASE and MRAM, stops every thread and starts a wipe; CTL_WARM
waits for its response; WARM_RESET_END ends the request, and a start follows once 64 LCLK have passed; a host reset ends the leases of the
port at once and drops its requests, watches and commands and its partition's lines 3 SCLK later.
The model's own readings stand in log entries 5 and 38. -/
def Obligations.ResetsClearAndKeep : Prop :=
  ∀ s : State, let secure := fun (a : Nat) => 0x7C0000 ≤ a ∧ a < 0x800000
  (∃ t, exec .coldResetAssert s = .next t ∧ t.sys.phase = .cold ∧ t.now = 0 ∧ t.tbase = 0 ∧ t.regs = [] ∧ t.threads = [] ∧
    t.barrels = [] ∧ t.bells = [] ∧ t.evmap = [] ∧ t.agenda = [] ∧ t.staged = [] ∧ t.timers = [] ∧ t.units = [] ∧ t.cvps = [] ∧
    t.stations = [] ∧ t.dma = [] ∧ t.engines = [] ∧ t.tags = [] ∧ t.rings = [] ∧ t.irqs = [] ∧ t.locks = { } ∧ t.hly = { } ∧
    t.ports = [] ∧ t.padHold = true ∧ (∀ a, peek t.hall a = if secure a then 0 else peek s.hall a) ∧
    t.upd.slotA = s.upd.slotA ∧ t.upd.slotB = s.upd.slotB ∧ t.upd.journal = s.upd.journal ∧ t.upd.copyA = s.upd.copyA ∧
    t.upd.copyB = s.upd.copyB ∧ t.upd.lc = s.upd.lc ∧ t.upd.ownLock = s.upd.ownLock ∧ t.upd.okh = s.upd.okh ∧
    (∀ c, (t.pin c).latch = false ∧ (t.pin c).cfg = 0 ∧ (t.pin c).locked = false) ∧ t.tripLevel = s.tripLevel) ∧
  exec .warmReset s = .next (({ s with sys := { s.sys with rstWarm := true } } : State).schedule
    (8 * ((s.now + 7) / 8) + 31) prioUnit (.warmDue false)) ∧
  (∀ byReg, s.sys.phase = .up → s.sys.coldBoot = false → let t := s.warmFall byReg
    t.sys.phase = .warm ∧ t.sys.warmAt = s.now ∧ t.sys.blockUp = false ∧ t.sys.cause = s.sys.cause ||| (if byReg then 8 else 4) ∧
    t.now = s.now ∧ t.tbase = s.tbase ∧
    t.desk = s.desk ∧ t.slate = s.slate ∧ t.ins = s.ins ∧ (∀ a, ¬ secure a → peek t.hall a = peek s.hall a) ∧
    (s.memS.wiping = false → ∀ a, secure a → peek t.hall a = 0) ∧ t.memS.wiping = true ∧
    (∀ x ∈ t.agenda, (∃ l, x.eff = .motion l) ∨ (∃ l, x.eff = .holdup l) ∨ ∃ h, x.eff = .hostDrop h) ∧ t.staged = [] ∧
    t.upd.journal = s.upd.journal ∧ t.upd.slotA = s.upd.slotA ∧ t.upd.slotB = s.upd.slotB ∧ t.padHold = true ∧
    (∀ x, (t.thr x).st = .off ∧ (t.thr x).ev = { } ∧ (t.thr x).per = { } ∧ t.reg (.thrCtl x) = 0) ∧
    t.timers = [] ∧ t.units = [] ∧ t.stations = [] ∧ t.dma = [] ∧ t.rings = [] ∧ t.irqs = [] ∧ t.locks = { } ∧ t.ports = [] ∧
    (∀ c, (t.pin c).locked = (s.pin c).locked)) ∧
  (∀ byReg, s.sys.phase = .up → s.sys.coldBoot = true → s.warmFall byReg =
    { s with sys := { s.sys with warmPend := s.sys.warmPend || !byReg, warmByReg := s.sys.warmByReg || byReg } }) ∧
  (∀ h tag, GivesWrite (.ctlWarm (.host h tag)) (.host h tag) true s (s.isOwner (.host h tag))
    { s with sys := { s.sys with warmKeys := s.sys.warmKeys ++ [(h, tag)] } }) ∧
  (let u : State := { s with sys := { s.sys with rstWarm := false, warmPend := false } }
   let past := s.sys.phase = .warm ∧ s.sys.warmAt + 512 ≤ s.now
   (¬ past → exec .warmResetEnd s = .next u) ∧
   (past → s.sys.rootErr = true ∨ s.upd.recoverNext = true ∨ ((s.upd.lc = .blank ∨ s.upd.lc = .returned) ∧ s.sys.straps.testMode = false) →
     ∃ t, exec .warmResetEnd s = .next t ∧ t.sys.phase = .recovery ∧ t.sys.cause.getLsbD 0 = true ∧ t.upd.stage = .recovery ∧
       t.sys.rstWarm = false ∧ t.desk = s.desk ∧ t.hall = s.hall) ∧
   (past → s.sys.rootErr = false → s.upd.recoverNext = false → s.upd.lc = .scrapped →
     ∃ t, exec .warmResetEnd s = .next t ∧ t.sys.phase = .scrapped)) ∧
  (∀ h, ∃ t, exec (.hostReset h) s = .next t ∧ (t.host h).inRst = true ∧ (t.host h).reqs = (s.host h).reqs ∧
    t.sys.cause = s.sys.cause ||| (1#32 <<< (24 + h.val)) ∧
    (∀ i l, mget none t.locks.leases i = some l → l.owner ≠ ownerHost h) ∧
    (∀ i l, mget none s.locks.leases i = some l → l.owner = ownerHost h → .abandon l.addr l.owner false ∈ t.locks.queue) ∧
    ({ due := 2 * (s.now / 2 + 3) - 1, prio := prioUnit, thread := none, issuedAt := s.now, eff := .hostDrop h } : Landing) ∈ t.agenda ∧
    t.hall = s.hall ∧ t.desk = s.desk ∧ t.regs = s.regs) ∧
  (∀ h, let t := s.hostFall h
    (t.host h).reqs = [] ∧ (t.host h).held = (s.host h).inRst ∧ (t.host h).errs = (s.host h).errs ∧
    (∀ w ∈ t.locks.watches, w.who ≠ .host h) ∧ (∀ op a d x y, LockReq.host h op a d x y ∉ t.locks.queue) ∧ (t.hps h).busy = false ∧
    (∀ q ∈ t.ports, q.user ≠ .host h) ∧ (∀ e ∈ t.sys.warmKeys, e.1 ≠ h) ∧
    (∀ l : IrqLine, s.partOf kIrq l.val = some h → t.irq l = { }) ∧ t.hall = s.hall ∧ t.desk = s.desk ∧ t.regs = s.regs) ∧
  (∀ h, exec (.hostResetRelease h) s = .next (s.setHost h { s.host h with inRst := false, held := false }))

/-- COLD_RESET_RELEASE, PRESENCE_WAIT_END and the system inputs (R40 to R43, R405, R409, R412, R417): the release samples the straps, sets
TBASE to 0 and waits for presence where the strap asks; else the block starts: into the ROM for a bad clock strap, a honoured presence,
BLANK, RETURNED or no CONFIRMED image, into production test or SCRAPPED, or with the confirmed image that passes the start check.
TAMPER wipes and counts; PRESENCE_N opens one window of 30 s; the end of a wipe sets its bits, MOTION_ACTIVE and HOLDUP_OK theirs 3
LCLK later. A fault
of CLK_ROOT leaves nothing defined outside a cold reset.
The model's own readings stand in log entries 5, 10, 16, 38 and 39. -/
def Obligations.StartsAndSystemInputs : Prop :=
  ∀ s : State, let virgin := s.upd.lc = .blank ∨ s.upd.lc = .returned
  (∀ st : Straps, s.sys.phase = .cold →
    let sampled : State := { s with
      now := 0, tbase := 0
      sys := { s.sys with
        straps := { st with hportEn := st.hportEn ||| (1#8 <<< st.owner.val) }
        rootErr := decide (st.rootMhz.toNat < 1200 ∨ 2400 < st.rootMhz.toNat)
        ownerForced := !st.hportEn.getLsbD st.owner.val, cause := 2
        presenceLowAt := s.sys.presenceLowAt.map (fun _ => 0), presence := false, presenceArmed := true, window := none } }
    let bad := st.rootMhz.toNat < 1200 ∨ 2400 < st.rootMhz.toNat
    (st.recovery = true → exec (.coldResetRelease st) s = .next { sampled with sys := { sampled.sys with phase := .presenceWait } }) ∧
    (st.recovery = false → (bad ∨ s.sys.recoveryTaken = true) ∨ (virgin ∧ st.testMode = false) ∨
        (s.upd.lc ≠ .scrapped ∧ ¬ virgin ∧ ∀ r ∈ s.upd.journal, r.typ ≠ 5) →
      ∃ t, exec (.coldResetRelease st) s = .next t ∧ t.sys.phase = .recovery ∧ t.sys.cause = 3 ∧ t.upd.stage = .recovery ∧ t.now = 0 ∧
        t.tbase = 0 ∧ (t.sys.testRefused = true ↔ st.testMode = true ∧ ¬ virgin)) ∧
    (st.recovery = false → ¬ bad → s.sys.recoveryTaken = false → virgin → st.testMode = true →
      ∃ t, exec (.coldResetRelease st) s = .next t ∧ t.sys.phase = .prodTest ∧ t.hall = [] ∧ t.desk = []) ∧
    (st.recovery = false → ¬ bad → s.sys.recoveryTaken = false → s.upd.lc = .scrapped →
      ∃ t, exec (.coldResetRelease st) s = .next t ∧ t.sys.phase = .scrapped) ∧
    (st.recovery = false → ¬ bad → s.sys.recoveryTaken = false → s.upd.lc = .opened ∨ s.upd.lc = .owned →
      let r := ({ sampled with sys := { sampled.sys with testRefused := st.testMode } } : State).replay
      r.upd.lastConfirmed.isSome = true → r.startCheck (!r.upd.stagingB) .ok = true →
      exec (.coldResetRelease st) s = .next ((r.loadCode r.confirmedImg).runImage r.confirmedImg))) ∧
  (∀ st : Straps, s.sys.phase ≠ .cold → exec (.coldResetRelease st) s = .next s) ∧
  (let past := s.sys.phase = .presenceWait ∧ wallEnd s.mhz 0 20500 ≤ s.now
   (¬ past → exec .presenceWaitEnd s = .next s) ∧
   (past → s.sys.rootErr = true ∨ s.sys.recoveryTaken = true →
     ∃ t, exec .presenceWaitEnd s = .next t ∧ t.sys.phase = .recovery ∧ t.upd.stage = .recovery)) ∧
  (∀ t0, s.sys.presenceLowAt = some t0 → s.sys.presence = false → s.sys.phase ≠ .cold → wallEnd s.mhz t0 20000 ≤ s.now →
    let opens := s.sys.presenceArmed && s.sys.window.isNone
    (s.sys.phase ≠ .presenceWait →
      let u : State := { s with sys := { s.sys with
        presence := true, presenceArmed := false, window := if opens then some s.now else s.sys.window } }
      exec .presenceWindowOpen s = .next (if opens then u.pulse 0x7EF else u)) ∧
    (s.sys.phase = .presenceWait →
      ∃ t, exec .presenceWindowOpen s = .next t ∧ t.sys.phase = .recovery ∧ t.sys.recoveryTaken = true ∧ t.sys.presence = true)) ∧
  (∀ t0, s.sys.window = some t0 → exec .presenceWindowClose s =
    .next (if wallEnd s.mhz t0 30000000 ≤ s.now then { s with sys := { s.sys with window := none } } else s)) ∧
  (exec (.presenceNChange true) s = .next { s with sys := { s.sys with presenceLowAt := none, presence := false, presenceArmed := true } }) ∧
  (s.sys.presenceLowAt = none →
    exec (.presenceNChange false) s = .next { s with sys := { s.sys with presenceLowAt := some s.now } }) ∧
  (∃ u : State, exec .tamper s = .next (u.pulse 0x7EF) ∧ u.sys = { s.sys with tamper := true } ∧
    u.upd = { s.upd with tampers := if s.upd.tampers = 0xFFFF then 0xFFFF else s.upd.tampers + 1 } ∧ u.memS.wiping = true ∧
    (s.memS.wiping = false → u.memS = { s.memS with wiping := true, wipeTrig := 1, wiped := [], wipeCount := s.memS.wipeCount + 1 } ∧
      ∀ a, peek u.hall a = if 0x7C0000 ≤ a ∧ a < 0x800000 then 0 else peek s.hall a) ∧
    (s.memS.wiping = true → u.memS = s.memS ∧ u.hall = s.hall) ∧ u.threads = s.threads ∧ u.desk = s.desk) ∧
  (s.memS.wiping = true → (∀ k < 16, 256 ≤ mget 0 s.memS.wiped k) → exec .secureWipeEnd s = .next { s with memS := { s.memS with
    wiping := false, wiped := [], wipeDone := some s.now, wipeCause := s.memS.wipeTrig } }) ∧
  (∀ level, let seen := 8 * ((s.now + 7) / 8) + 24
    exec (.motionActiveChange level) s = .next (s.schedule (seen - 1) prioUnit (.motion level)) ∧
    exec (.holdupOkChange level) s = .next (s.schedule (seen - 1) prioUnit (.holdup level)) ∧
    (∀ x, x.eff = .motion level → s.landUnit x = { s with sys := { s.sys with motion := level } }) ∧
    (∀ x, x.eff = .holdup level → s.landUnit x = { s with sys := { s.sys with holdup := level } })) ∧
  exec .rootClockFault s = (if s.sys.phase = .cold then .next s else .fault .rootClockUndefined)

/-! ### Requests of the host ports (R7 to R10, R22, R25, R353 to R360) -/

/-- REGISTER_WRITE and RC_READ (R9, R14, R22 to R25, R355 to R359, Table HST-1): a port that is not ready, or whose earlier requests have
not been performed, makes no access in this cycle; a write with some of the strobes gets STATUS 3, one outside the rights STATUS 1, one of
an unlisted offset or without strobes STATUS 0 and no effect, and any other has its effect and STATUS 0, with its response in the next
SCLK; an OUT of a thread reaches the registers of its I/O space, and a DMA channel none below hc:0x06_0000; a read takes the registers of
its beat in ascending order in their lanes, each with what a read of it does, zero and STATUS 1 outside the rights, with its response 2
SCLK later; a reserved offset gets STATUS 3 after 5 SCLK.
The model's own readings stand in log entries 12, 21 and 41. -/
def Obligations.RegisterRequestsAreAnswered : Prop :=
  ∀ (s : State) (off : BitVec 24), let o := off.toNat / 4 * 4; let lane := off.toNat / 16 * 16; let k := s.now / 2
  (∀ (h : Host) (tag : BitVec 5), let a : Agent := .host h tag
    let idle := (s.host h).reqs.all Req.performed
    let answered := fun (r : Req) (u : State) => u.setHost h { u.host h with reqs := (u.host h).reqs ++ [{ r with
      tag := tag, performed := true, last := k, doneAt := k }] }
    let written := fun (st : BitVec 2) => answered { tag := tag, status := st, data := [], performed := true, readyAt := k + 1 }
    (∀ (strb : BitVec 4) (v : Word),
      (s.portReady h tag = false ∨ idle = false → exec (.registerWrite a off strb v) s = .next s) ∧
      (s.portReady h tag = true → idle = true → o < 0x1A0000 →
        exec (.registerWrite a off strb v) s = .next (match decodeReg h o with
          | none => written 0 s
          | some r =>
            if strb = 0 then written 0 s else if strb ≠ 15 then written 3 s
            else if s.writable a r then written 0 (s.writeReg a r v) else written 1 s)) ∧
      (s.portReady h tag = true → idle = true → hcTarget o = .reserved → exec (.registerWrite a off strb v) s =
        .next (answered { tag := tag, status := 3, data := [], performed := true, write := true, readyAt := k + 5 } s))) ∧
    (s.readReady h tag = false ∨ idle = false → exec (.rcRead a off) s = .next s) ∧
    (s.readReady h tag = true → idle = true → s.sys.phase ≠ .scrapped → lane < 0x1A0000 →
      ∃ (u : Nat → State) (d : BitVec 128) (st : BitVec 2), u 0 = s ∧
        (∀ i < 4, match decodeReg h (lane + 4 * i) with
          | none => u (i + 1) = u i ∧ d.extractLsb' (32 * i) 32 = 0#32
          | some r => if (u i).readable a r then u (i + 1) = (u i).readEffect a r ∧ d.extractLsb' (32 * i) 32 = (u i).view a r
            else u (i + 1) = u i ∧ d.extractLsb' (32 * i) 32 = 0#32) ∧
        (st = 0 ∨ st = 1) ∧ (st = 1 ↔ ∃ i < 4, ∃ r, decodeReg h (lane + 4 * i) = some r ∧ (u i).readable a r = false) ∧
        exec (.rcRead a off) s = .next (answered { tag := tag, status := st, data := [d], performed := true, addr := lane, beats := 1
                                                   readyAt := k + 2 } (u 4))) ∧
    (s.readReady h tag = true → idle = true → hcTarget lane = .reserved → exec (.rcRead a off) s =
      .next (answered { tag := tag, status := 3, data := [0], performed := true, readyAt := k + 5 } s))) ∧
  (∀ (t : Tid) (strb : BitVec 4) (v : Word), let a : Agent := .thread t
    exec (.registerWrite a off strb v) s = .next (match decodeReg (s.bankOf a) o with
      | some r => if s.outReaches t r && decide (strb = 15) && s.writable a r then s.writeReg a r v else s
      | none => s) ∧
    (s.sys.phase ≠ .scrapped → exec (.rcRead a off) s = .next (match decodeReg (s.bankOf a) off.toNat with
      | some r => if r.inReaches && s.readable a r then s.readEffect a r else s
      | none => s))) ∧
  (∀ (ch : DmaCh) (strb : BitVec 4) (v : Word), let a : Agent := .dma ch
    exec (.registerWrite a off strb v) s = .next (match decodeReg (s.bankOf a) o with
      | some r => if decide (0x060000 ≤ o) && decide (o < 0x1A0000) && decide (strb = 15) && s.writable a r then s.writeReg a r v else s
      | none => s) ∧
    (s.sys.phase ≠ .scrapped → off.toNat < 0x1A0000 → exec (.rcRead a off) s = .next (match decodeReg (s.bankOf a) off.toNat with
      | some r => if s.readable a r then s.readEffect a r else s
      | none => s)))

/-- HOST_MEMORY_WRITE, HOST_MEMORY_READ, MALFORMED_REQUEST and HOST_RESPONSE (R22, R298, R299, R304, R354 to R359, R364): a request that is not
aligned, crosses 128 bytes or names a reserved range has no effect and STATUS 3 after 5 SCLK; any other waits for its turn. A beat of a
desk window or of hall is presented from 2 SCLK after the request's last beat on, once every earlier request of the port that overlaps it
has been performed; granted, the enabled bytes land in desk at the end of the cycle, and in hall at once where the segment is the
port's and only the owner reaches the secure bytes, else STATUS 1; a read takes the bytes, with STATUS 2 where a word holds an
uncorrectable error; a response frees its tag, counts an error STATUS, and starts the warm reset that its request asked for.
The model's own readings stand in log entries 12, 14 and 21. -/
def Obligations.MemoryRequestsAreAnswered : Prop :=
  ∀ (s : State) (h : Host) (tag : BitVec 5), let k := s.now / 2
  let joins := fun (r : Req) => s.setHost h { s.host h with reqs := (s.host h).reqs ++ [r] }
  (∀ addr : BitVec 24,
  (∀ beats, beats ≠ [] → beats.length ≤ 8 → s.portReady h tag = true →
    exec (.hostMemoryWrite h tag addr beats) s = .next (joins (
      if requestBad addr.toNat beats.length = true ∨ hcTarget addr.toNat = .reserved
      then { tag := tag, status := 3, data := [], performed := true, write := true, last := k, doneAt := k, readyAt := k + 5 }
      else { tag := tag, status := 0, data := [], performed := false, write := true, addr := addr.toNat, beats := beats.length
             wdata := beats, last := k }))) ∧
  (∀ beats, s.portReady h tag = false → exec (.hostMemoryWrite h tag addr beats) s = .next s) ∧
  (∀ n : Fin 8, s.readReady h tag = true → let none := List.replicate (n.val + 1) (0 : BitVec 128)
    exec (.hostMemoryRead h tag addr n) s = .next (joins (
      if requestBad addr.toNat (n.val + 1) = true ∨ hcTarget addr.toNat = .reserved
      then { tag := tag, status := 3, data := none, performed := true, last := k, doneAt := k, readyAt := k + 5 }
      else { tag := tag, status := 0, data := none, performed := false, addr := addr.toNat, beats := n.val + 1, last := k }))) ∧
  (∀ n : Fin 8, s.readReady h tag = false → exec (.hostMemoryRead h tag addr n) s = .next s) ∧
  (∀ write (n : Fin 8) lastOk,
    requestBad addr.toNat (n.val + 1) = true ∨ (write = true ∧ lastOk = false) ∨ hcTarget addr.toNat = .reserved → s.portReady h tag = true →
    exec (.malformedRequest h tag write addr n lastOk) s = .next (joins
      { tag := tag, status := 3, data := if write then [] else List.replicate (n.val + 1) 0, performed := true, write := write
        last := k, doneAt := k, readyAt := k + 5 }))) ∧
  (∀ (r : Req) (d : BitVec 128) (st : BitVec 16), r.performed = false → r.sent = false → r.beats = 1 → r.addr % 16 = 0 →
    (r.write = true → r.wdata = [(d, st)]) →
    let turn := r.last + 2 ≤ k ∧ ∀ q ∈ s.earlier h r, q.overlaps r = true → q.performed = true ∧ q.doneAt ≤ k
    let presents := fun (p : PortReq) => p.user = .host h ∧ p.from_ = s.now ∧ p.tag = r.tag.toNat ∧ p.len = 16 ∧
      (r.write = false → p.acc = .read) ∧ (r.write = true → ∃ data strb, p.acc = .write data strb ∧ ∀ i < 64,
        strb.getLsbD i = (decide (p.off ≤ i) && decide (i < p.off + 16) && st.getLsbD (i - p.off)) ∧
        (strb.getLsbD i = true → data.extractLsb' (8 * i) 8 = d.extractLsb' (8 * (i - p.off)) 8))
    (∀ b a, hcTarget r.addr = .desk b a → turn → ∃ p, (s.reqStep h r).ports = s.ports ++ [p] ∧ presents p ∧
      p.desk = some b ∧ p.unit = a / 64 ∧ p.off = a % 64) ∧
    (∀ a, hcTarget r.addr = .hall a → turn → ∃ p, (s.reqStep h r).ports = s.ports ++ [p] ∧ presents p ∧
      p.desk = none ∧ p.unit = a / 16 ∧ p.off = 0) ∧
    (hcTarget r.addr ≠ .regs → ¬ turn → s.reqStep h r = s)) ∧
  (∀ (r : Req) (p : PortReq), (s.host h).reqs.find? (fun q => decide (q.tag.toNat = p.tag)) = some r → r.left = 1 → r.status = 0 →
    p.len = 16 → (r.write = false → r.data = [0]) → s.sys.phase ≠ .scrapped →
    let done := fun (t : State) (status : BitVec 2) (data : List (BitVec 128)) (late wait : Nat) =>
      { r with left := 0, status := status, data := data, performed := true, doneAt := k + late, readyAt := k + late + wait } ∈ (t.host h).reqs
    (∀ (b : Barrel) (line : BitVec 13) (acc : LineAccess), let a := 64 * line.toNat + p.off
      s.deskFree b = true → s.waiting (some b) line.toNat (.host h) acc = some p →
      ∃ t, exec (.secondPortAccess b (.host h) line acc) s = .next t ∧ t.ports = s.ports.erase p ∧ t.desk = s.desk ∧
        (acc = .read → r.write = false → hcTarget r.addr = .desk b a →
          done t (if s.poisoned (instDesk b) a 16 then 2 else 0) [BitVec.ofNat 128 (leNat (s.deskBytes b a 16))] 0 2) ∧
        (∀ data strb, acc = .write data strb → done t 0 r.data 0 2 ∧ ∀ i < 64, strb.getLsbD i = true →
          ∃ x ∈ t.agenda, x.due = s.now ∧ x.prio = prioPort ∧ ∃ n q v, x.eff = .store { loc := .desk b q, size := n, signFill := false } v ∧
            q.toNat ≤ 64 * line.toNat + i ∧ 64 * line.toNat + i < q.toNat + n ∧
            v.extractLsb' (8 * (64 * line.toNat + i - q.toNat)) 8 = data.extractLsb' (8 * i) 8)) ∧
    (∀ (g : BitVec 19) (acc : LineAccess), let a := 16 * g.toNat; let shut := s.memS.wiping && secureAddr a
      s.bankOpen (g.toNat % 16) = true → s.waiting none g.toNat (.host h) acc = some p →
      ∃ t, exec (.hallSharedAccess (.host h) g acc) s = .next t ∧ t.ports = s.ports.erase p ∧ t.desk = s.desk ∧
        (acc = .read → r.write = false → hcTarget r.addr = .hall a → t.hall = s.hall ∧
          (if s.hostHall h a then done t (if s.poisoned instHall a 16 && !shut then 2 else 0)
              [if shut then 0 else BitVec.ofNat 128 (leNat (s.hallBytes a 16))] 0 5
           else done t 1 [0] 0 5)) ∧
        (∀ data strb, acc = .write data strb →
          (s.hostHall h a = true → done t 0 r.data 2 2 ∧ ∀ x < 0x800000, t.hallByte x =
            if a ≤ x ∧ x < a + 16 ∧ strb.getLsbD (x - a) = true ∧ shut = false then data.extractLsb' (8 * (x - a)) 8 else s.hallByte x) ∧
          (s.hostHall h a = false → t.hall = s.hall ∧ done t 1 r.data 2 2)))) ∧
  (∀ r, (s.host h).reqs.find? (fun r => decide (r.tag = tag) && r.performed && decide (r.readyAt + (r.data.length - 1) ≤ k)) = some r →
    let u := s.setHost h { s.host h with
      reqs := (s.host h).reqs.filter (fun q => decide (q.tag ≠ tag))
      errs := if r.status = 0 then (s.host h).errs else min 65535 ((s.host h).errs + 1) }
    exec (.hostResponse h tag) s = .next (if (h, tag) ∈ s.sys.warmKeys
      then ({ u with sys := { u.sys with warmKeys := u.sys.warmKeys.erase (h, tag) } } : State).schedule (k * 2 + 31) prioUnit (.warmDue true)
      else u)) ∧
  ((∀ r ∈ (s.host h).reqs, r.tag = tag → r.performed = true → k < r.readyAt + (r.data.length - 1)) → exec (.hostResponse h tag) s = .next s)

/-! ### DMA (R31, R323 to R339) -/

/-- DMA_GO, DMA_RESUME, KICK, DMA_ABORT and DMA_ENGINE_CLEAR (R328, R333, R335, R336, Table DMA-5): each acts in the channel states
that the table lists and sets IGN in every other; an abort of a queued channel takes effect at once and drops what has been fetched ahead
for it, that of a running one that waits for a grant or a ring at once too, and else when no burst and no write of it is outstanding; a
STOPPED engine that is cleared becomes idle and its error is valid no longer, with the rest of its record kept. A thread of the channel's
partition aborts and kicks by an OUT.
The model's own readings stand in log entry 32. -/
def Obligations.DmaCommandsFollowTheirTable : Prop :=
  ∀ (s : State) (a : Agent) (ch : DmaCh), let x := s.ch ch; let e := engOf ch; let inside := s.holds a kDma ch.val
  let ignored := s.setCh ch { x with ign := some s.now }
  let queued := fun (y : DmaChS) => (s.setCh ch { y with st := .queued }).setEng e
    (if (s.eng e).st = .idle then { s.eng e with freeAt := some s.now } else s.eng e)
  let head : BitVec 48 := (s.reg (.dmaCheadHi ch)).setWidth 16 ++ s.reg (.dmaCheadLo ch)
  let out := fun (u : State) => GivesWriteOut (.dmaAbort a ch) a false none s inside u
  let mine := fun (w : Ahead) => w.ch.toNat = ch.val % 16
  let dropped : State := { s with ports := s.ports.filter (fun p => !(decide (p.engine = some e.val) && decide (p.tag % 2 = 1))) }
  let withdrawn := fun (u : State) =>
    (u.setCh ch { x with cres := 0, started := false, st := .aborted, aborting := false, grant := false }).pulse (0x6D0 + ch.val)
  GivesWrite (.dmaGo a ch) a false s inside
    (if x.st ∈ [.idle, .ended, .aborted, .derr] then queued { x with cptr := head, rchk := false } else ignored) ∧
  GivesWrite (.dmaResume a ch) a false s inside (if x.st = .stopped ∧ (s.eng e).st = .idle then queued x else ignored) ∧
  GivesWriteOut (.kick a ch) a false none s inside (if x.st = .ended then queued { x with rchk := true }
    else if x.st = .queued ∨ x.st = .run then s.setCh ch { x with reexam := true } else ignored) ∧
  (x.st ≠ .queued → x.st ≠ .run → out ignored) ∧
  (x.st = .queued → (∀ w, (s.eng e).ahead = some w → ¬ mine w) → out (withdrawn s)) ∧
  (∀ w, x.st = .queued → (s.eng e).ahead = some w → mine w → out (withdrawn (dropped.setEng e { s.eng e with ahead := none }))) ∧
  (x.st = .run → s.waitsTurn e = true → ∃ t, out t ∧ (t.ch ch).st = .aborted ∧ (t.ch ch).cptr = x.cptr ∧ (t.ch ch).cres = x.cres ∧
    (t.eng e).st = .idle ∧ (t.eng e).freeAt = some s.now) ∧
  (x.st = .run → s.waitsTurn e = false → let u := s.setCh ch { x with aborting := true }
    let done := (s.eng e).st = .running ∧ ((s.eng e).work ≠ .move ∨ (s.eng e).phase = .none) ∧ s.unperformed ch (fun _ => true) = false
    (¬ done → out u) ∧
    (done → ∃ t, out t ∧ (t.ch ch).st = .aborted ∧ (t.ch ch).cptr = x.cptr ∧
      (t.eng e).st = .idle ∧ (t.eng e).freeAt = some s.now)) ∧
  (x.st = .run → x.aborting = true → (s.eng e).st = .running → (s.eng e).work ≠ .move ∨ (s.eng e).phase = .none →
    s.unperformed ch (fun _ => true) = false →
    ∃ t, exec (.dmaAbortComplete ch) s = .next t ∧ (t.ch ch).st = .aborted ∧ (t.ch ch).cptr = x.cptr ∧ (t.eng e).st = .idle) ∧
  (∀ g : Engine, GivesWrite (.dmaEngineClear a g) a false s (s.isOwner a)
    (if (s.eng g).st = .stopped then s.setEng g { s.eng g with st := .idle, errValid := false, freeAt := some s.now } else s))

/-- DMA_CHANNEL_SERVE, DMA_DESCRIPTOR_FETCH, DMA_BURST, DMA_DESCRIPTOR_COMPLETE, LINK_RECHECK, LINK_RECHECK_DECISION, DMA_BUS_ERROR and
DMA_ENGINE_STOPPED (R298, R326, R327, R329, R330, R331, R332, R334, R336): a free engine runs its lowest QUEUED channel; a descriptor that
has been read moves its bytes, or sends its channel to DERR where it breaks a rule; a running descriptor without END has the next one
fetched ahead; a complete one leads to the next, or its END to a recheck 8 SCLK later; a recheck reads word 3 of the tail again and follows
it, rechecks once more, or ends the chain; a bus error stops the engine, whose QUEUED and RUN channels enter STOPPED with their place once
its tags have retired. A burst between desk windows presents the line of the row's next piece, up to a 64-byte boundary of the source, at
the source's second port; granted, its bytes are the engine's; with all of them read, their writes are presented at the destination's
second port, the residue falls by them, and the next burst begins behind them.
The model's own readings stand in log entries 14, 32 and 46. -/
def Obligations.DmaEnginesServeAndFollowChains : Prop :=
  (∀ (s : State) (e : Engine), let x := s.eng e; let ch := s.curCh e; let y := s.ch ch
  let allRead := x.phase = .reading ∧ x.reads = [] ∧ s.engReads e = [] ∧ x.ringWait = false ∧
    ∀ p ∈ s.ports, p.engine = some e.val → p.tag = 2 * x.serial → p.acc ≠ .read
  (∀ c < 16, x.st = .idle → (match x.freeAt with | some f => sclkAfter f ≤ s.now | none => True) →
    (s.ch (chOf e c)).st = .queued → (∀ d < c, (s.ch (chOf e d)).st ≠ .queued) → let z := s.ch (chOf e c)
    exec (.dmaChannelServe e) s = .next ((s.setCh (chOf e c) { z with
      cres := if z.rchk then z.cres else 0, started := z.rchk && z.started, st := .run, aborting := false, grant := false }).setEng e
      { x with st := .running, cur := BitVec.ofNat 4 c, phase := .none, work := if z.rchk then .recheckAt s.now else .fetch })) ∧
  (x.work = .fetch → allRead →
    let p := y.cptr.toNat
    let z : EngineS := { x with d0 := x.readWord p, d1 := x.readWord (p + 8), d2 := x.readWord (p + 16), d3 := x.readWord (p + 24) }
    (z.descBad = true → ∃ t, exec (.dmaDescriptorFetch e) s = .next t ∧ (t.ch ch).st = .derr ∧ (t.ch ch).cptr = y.cptr ∧ (t.eng e).st = .idle) ∧
    (z.descBad = false → exec (.dmaDescriptorFetch e) s = .next ((s.setEng e { z with
      work := .move, phase := .none, serial := x.serial + 1, row := 0, off := 0, written := 0, halfDone := false }).setCh ch
        { y with cres := BitVec.ofNat 32 z.total, started := false, grant := false }))) ∧
  (∀ tag, x.work = .move → x.st = .running → x.isEnd = false → x.ahead = none → x.reads = [] → x.wrts = [] → s.mayIssue e.val = some tag →
    let p := nextOf x.d3
    p.toNat < 0xFFFFFF000000 → ∃ t port, exec (.dmaDescriptorFetch e) s = .next t ∧
      t.eng e = { x with ahead := some { ch := x.cur, addr := p, tag := some tag } } ∧
      t.tags = s.tags ++ [{ tag := tag, port := port, user := .ahead e, write := false, addr := p, beats := 1, data := [], phase := 1 }]) ∧
  (x.work = .move → x.phase = .none → x.rows ≤ x.row → y.aborting = false →
    x.barrier = false ∨ s.unperformed ch (fun n => decide (n = x.serial)) = false →
    ∃ t, exec (.dmaDescriptorComplete e) s = .next t ∧ (t.ch ch).descs = y.descs + 1 ∧ (t.ch ch).st = y.st ∧
      (if x.isEnd then (t.eng e).work = .recheckAt (s.now / 2 * 2 + 16) ∧ (t.ch ch).rchk = true ∧ (t.ch ch).cptr = y.cptr
       else (t.eng e).work = .fetch ∧ (t.ch ch).cptr = nextOf x.d3 ∧ (t.ch ch).cres = 0)) ∧
  (∀ c, x.work = .recheckAt c → c ≤ s.now → x.st = .running → y.cptr.toNat + 32 ≤ 0xFFFFFF000000 → y.cptr.toNat % 32 = 0 →
    ∃ t, exec (.linkRecheck e) s = .next t ∧ (t.eng e).work = .recheckData ∧ (t.eng e).phase = .reading ∧
      (((t.eng e).reads = [(y.cptr, 1)] ∧ t.tags = s.tags) ∨
       ((t.eng e).reads = [] ∧ ∃ tag port, t.tags = s.tags ++ [
         { tag := tag, port := port, user := .chan ch x.serial, write := false, addr := y.cptr, beats := 1, data := [], phase := 4 }]))) ∧
  (x.work = .recheckData → allRead → sclkAfter x.dataAt ≤ s.now →
    let d3 := x.readWord (y.cptr.toNat + 24)
    (d3.getLsbD 0 = false → exec (.linkRecheckDecision e) s = .next ((s.setCh ch { y with
      cptr := nextOf d3, rchk := false, cres := 0, started := false }).setEng e { x with work := .fetch, phase := .none })) ∧
    (d3.getLsbD 0 = true → y.reexam = true → exec (.linkRecheckDecision e) s = .next ((s.setCh ch { y with reexam := false }).setEng e
      { x with work := .recheckAt (s.now / 2 * 2 + 16), phase := .none })) ∧
    (d3.getLsbD 0 = true → y.reexam = false → ∃ t, exec (.linkRecheckDecision e) s = .next t ∧ (t.ch ch).st = .ended ∧
      (t.ch ch).rchk = false ∧ (t.ch ch).cptr = y.cptr ∧ (t.eng e).st = .idle)) ∧
  (∀ err, (x.st = .running → ∃ t, exec (.dmaBusError e err) s = .next t ∧ (t.eng e).st = .stopping ∧ (t.eng e).err = some err ∧
      (t.eng e).errValid = true ∧ (t.eng e).errCh = x.cur ∧ (t.eng e).reads = [] ∧ (t.eng e).wrts = [] ∧ (t.eng e).ahead = none ∧
      t.dma = s.dma ∧ t.tags = s.tags) ∧
    (x.st ≠ .running → exec (.dmaBusError e err) s = .next s)) ∧
  (x.st = .stopping → (∀ t ∈ s.tags, t.user.requester ≠ e.val) → ∃ t, exec (.dmaEngineStopped e) s = .next t ∧ (t.eng e).st = .stopped ∧
    (t.eng e).err = x.err ∧ (t.eng e).errValid = x.errValid ∧ (∀ c, (t.ch c).cptr = (s.ch c).cptr ∧ (t.ch c).rchk = (s.ch c).rchk ∧
      (t.ch c).st = if engOf c = e ∧ ((s.ch c).st = .queued ∨ (s.ch c).st = .run) then .stopped else (s.ch c).st)) ∧
  (∀ (b c : Barrel) (o p : Nat), let n := x.piece
    x.st = .running → x.work = .move → x.row < x.rows → x.off < x.len → x.shuf = 0 → x.skind = false → x.dkind = false → x.wrts = [] →
    dmaTarget (x.srcRow x.row + x.off) = .desk b o → dmaTarget (x.dstRow x.row + x.off) = .desk c p → p + n ≤ 0x10000 →
    (x.phase = .none → y.aborting = false → x.paced = false → ∃ t q, exec (.dmaBurst e) s = .next t ∧ t.ports = s.ports ++ [q] ∧
      q.desk = some b ∧ q.unit = o / 64 ∧ q.user = .dma ch ∧ q.acc = .read ∧ q.from_ = sclkAfter s.now ∧ q.tag = 2 * x.serial ∧
      q.off ≤ o % 64 ∧ o % 64 + n ≤ q.off + q.len ∧ (t.eng e).phase = .reading ∧ t.desk = s.desk) ∧
    (allRead → x.getLost = false → ∃ t l, exec (.dmaBurst e) s = .next t ∧ t.ports = s.ports ++ l ∧ t.desk = s.desk ∧
      (∀ i < n, ∃ w ∈ l, w.desk = some c ∧ w.unit = (p + i) / 64 ∧ w.user = .dma ch ∧ w.from_ = sclkAfter s.now ∧ w.tag = 2 * x.serial ∧
        ∃ data strb, w.acc = .write data strb ∧ strb.getLsbD ((p + i) % 64) = true ∧
          data.extractLsb' (8 * ((p + i) % 64)) 8 = peek x.rbuf (x.srcRow x.row + x.off + i)) ∧
      (∀ w ∈ l, ∀ data strb, w.acc = .write data strb → ∀ j < 64, strb.getLsbD j = true → ∃ i < n, p + i = 64 * w.unit + j) ∧
      (t.eng e).phase = .none ∧ (t.eng e).st = .running ∧ (t.eng e).written = x.written + n ∧
      (t.ch ch).started = true ∧ (t.ch ch).cres = BitVec.ofNat 32 (x.total - (x.written + n)) ∧
      (if x.len ≤ x.off + n then (t.eng e).off = 0 ∧ (t.eng e).row = x.row + 1 else (t.eng e).off = x.off + n ∧ (t.eng e).row = x.row)))) ∧
  (∀ (s : State) (b : Barrel) (ch : DmaCh) (line : BitVec 13) (p : PortReq), let g := engOf ch
    s.deskFree b = true → s.waiting (some b) line.toNat (.dma ch) .read = some p → (s.eng g).st = .running → p.tag = 2 * (s.eng g).serial →
    (s.inst (instDesk b)).ue = [] →
    ∃ t, exec (.secondPortAccess b (.dma ch) line .read) s = .next t ∧ t.ports = s.ports.erase p ∧ t.desk = s.desk ∧
      t.eng g = { s.eng g with
        rbuf := pokes (s.eng g).rbuf (0xFFFFFF200000 + 0x10000 * b.val + 64 * line.toNat + p.off) (s.deskBytes b (64 * line.toNat + p.off) p.len)
        dataAt := s.now })

/-- INITIATOR_READ_BEAT and INITIATOR_WRITE_COMPLETION (R31, R332, R334, R339, R342, R348): while a reset pin is low the block takes none;
one whose tag no request of the port uses is counted as a stray; a beat goes to its place in the engine's buffer, or to the descriptor
fetched ahead, and the last one retires its tag; a completed write retires its tag, and a post's entry becomes visible with PROD; an error
status stops the engine that made the request, or marks the ring.
The model's own readings stand in log entries 32 and 33. -/
def Obligations.InitiatorAnswersReachTheirRequest : Prop :=
  ∀ (s : State) (k : InitPort) (tag : BitVec 12) (data : BitVec 256) (st : BitVec 2) (last : Bool),
  let stray : State := { s with strays := mput 0 s.strays k.val (min 65535 (mget 0 s.strays k.val + 1)) }
  let retired : State := { s with tags := s.tags.filter (fun t => decide (t.tag ≠ tag)) }
  (s.sys.phase = .cold ∨ s.sys.rstWarm = true →
    exec (.initiatorReadBeat k tag data st last) s = .next s ∧ exec (.initiatorWriteCompletion k tag st) s = .next s) ∧
  (s.sys.phase ≠ .cold → s.sys.rstWarm = false →
  ((∀ t ∈ s.tags, t.tag = tag → t.port = k → t.write = true) → exec (.initiatorReadBeat k tag data st last) s = .next stray) ∧
  ((∀ t ∈ s.tags, t.tag = tag → t.port = k → t.write = false) → exec (.initiatorWriteCompletion k tag st) s = .next stray) ∧
  (∀ x, s.tags.find? (fun t => decide (t.tag = tag) && decide (t.port = k) && !t.write) = some x →
    let u : State := if last then retired else
      { s with tags := s.tags.map (fun t => if t.tag = tag then { t with addr := t.addr + 32, beats := t.beats - 1 } else t) }
    (∀ ch n, x.user = .chan ch n → let e := engOf ch
      (st = 0 → (s.eng e).st = .running → n = (s.eng e).serial → exec (.initiatorReadBeat k tag data st last) s =
        .next (u.setEng e { s.eng e with rbuf := pokes (s.eng e).rbuf x.addr.toNat (leBytes data.toNat 32), dataAt := s.now })) ∧
      (st = 0 → (s.eng e).st ≠ .running ∨ n ≠ (s.eng e).serial → exec (.initiatorReadBeat k tag data st last) s = .next u) ∧
      (st ≠ 0 → (s.eng e).st = .stopping ∨ (s.eng e).st = .stopped → exec (.initiatorReadBeat k tag data st last) s = .next u) ∧
      (st ≠ 0 → (s.eng e).st ≠ .stopping → (s.eng e).st ≠ .stopped → ∃ t, exec (.initiatorReadBeat k tag data st last) s = .next t ∧
        (t.eng e).st = .stopping ∧ t.tags = u.tags ∧ ∃ r, (t.eng e).err = some r ∧ r.phase = x.phase ∧ r.tag = x.tag ∧
          r.kind = (if st = 2 then 1 else 0) ∧ r.addr = x.addr ∧ r.port = decide (x.port = 1))) ∧
    (∀ e w, x.user = .ahead e → (s.eng e).ahead = some w →
      (st = 0 → w.tag = some tag → exec (.initiatorReadBeat k tag data st last) s = .next (u.setEng e { s.eng e with
        ahead := some { w with tag := none, left := 0, data := pokes [] x.addr.toNat (leBytes data.toNat 32) } })) ∧
      (st ≠ 0 → (s.eng e).st = .running → ∃ t, exec (.initiatorReadBeat k tag data st last) s = .next t ∧ (t.eng e).st = .stopping ∧
        t.tags = u.tags ∧ ∃ r, (t.eng e).err = some r ∧ r.phase = 1 ∧ r.chv = false ∧ r.addr = x.addr))) ∧
  (∀ x, s.tags.find? (fun t => decide (t.tag = tag) && decide (t.port = k) && t.write) = some x →
    (∀ ch n, x.user = .chan ch n →
      (st = 0 → exec (.initiatorWriteCompletion k tag st) s = .next retired) ∧
      (st ≠ 0 → (s.eng (engOf ch)).st = .running → ∃ t, exec (.initiatorWriteCompletion k tag st) s = .next t ∧ t.tags = retired.tags ∧
        (t.eng (engOf ch)).st = .stopping ∧ ∃ r, (t.eng (engOf ch)).err = some r ∧ r.phase = x.phase ∧ r.tag = x.tag ∧ r.addr = x.addr)) ∧
    (∀ r n who cell, x.user = .post r n who cell → ∃ t, exec (.initiatorWriteCompletion k tag st) s = .next t ∧ t.tags = retired.tags ∧
      (st ≠ 0 → (t.ring r).err = true) ∧
      (st = 0 → (s.ring r).errAt = none → (∀ y ∈ s.tags, y.tag ≠ tag → ∀ m w c, y.user ≠ .post r m w c) →
        (t.ring r).prod = (s.ring r).next))))

/-! ### Pins and sinc units (R218 to R257) -/

/-- The register writes of a pin channel, its latch and its lock (R218, R220, R222, R227, R229, R230, R232 to R238, R243, R246, R251, R253): a
lock makes them ineffective and sets LOCKVIOL; a set that may not be live, a reserved code and a loop of a channel whose owner is not in
MAINT set CFGERR; a set, a switch and pad settings govern the pad from the third cycle after; a staged switch waits for its bell until it
is cancelled; pushes and flushes act on the edge queue; PIN_SHD fills the holding register or sets OVR; PIN_LINE refuses MODE 6 and 7; each
marked latch bit of the writer's partition takes its value and its pad follows in w + 3; the three keys from one host port within 1,024
SCLK of each other lock the selected channels, which cancels their switches, and anything else starts over. An owner thread at S level
switches and cancels by an OUT, and fills PIN_SHD at either level.
The model's own readings stand in log entries 28 and 45. -/
def Obligations.PinRegisterWrites : Prop :=
  (∀ (s : State) (a : Agent) (c : Chan) (v : Word), let p := s.pin c; let inside := s.pinWritable a c
  let hit := s.setPin c { p with lockViol := some s.now }
  let bad := s.setPin c { p with cfgErr := some s.now }
  let stored := s.storeRw (.pinOwner c) v
  let locks := match stored.pinOwner c with | some t => decide ((s.thr t).st = .lockup) | none => false
  GivesWrite (.pinOwnerWrite a c v) a false s inside
    (if p.locked then hit
     else if v.getLsbD 31 = true ∧ s.partOf kThread (v.toNat % 128) ≠ s.partOf kPin c.val then bad
     else if stored.pinOwner c = s.pinOwner c then stored
     else { stored with agenda := s.agenda.filter (fun x => match x.eff with | .pinLockSafe d _ => decide (d ≠ c) | _ => true) }.schedule
       (s.now + 2) prioUnit (.pinLockSafe c locks)) ∧
  (∀ set : Bool, let w := v &&& (Reg.pinFcfg c 0).rw
    (p.locked = true → GivesWrite (.pinFcfgWrite a c set v) a false s inside hit) ∧
    (p.locked = false → ∀ b, p.pend = some (set, b) → GivesWrite (.pinFcfgWrite a c set v) a false s inside (s.setPin c { p with swErr := 3 })) ∧
    (p.locked = false → p.pend = none → GivesWrite (.pinFcfgWrite a c set v) a false s inside
      (if p.live ≠ set then s.setReg (.pinFcfg c (setNo set)) w
       else if s.setOk c w then ((s.setReg (.pinFcfg c (setNo set)) w).setPin c { p with swErr := 0 }).schedule (s.now + 2) prioUnit (.pinGovern c w)
       else s.setPin c { p with swErr := 2, cfgErr := some s.now }))) ∧
  (∀ (staged set : Bool) (cls : Bell), let w := s.reg (.pinFcfg c (setNo set))
    GivesWriteOut (.pinSwitchGo a c staged set cls) a true (some c) s inside
      (if p.locked then s.setPin c { p with swErr := 1, lockViol := some s.now }
       else if staged = false ∧ p.live = set then s.setPin c { p with swErr := 0 }
       else if s.setOk c w = false then s.setPin c { p with swErr := 2, cfgErr := some s.now }
       else if staged then s.setPin c { p with swErr := 0, pend := some (set, cls) }
       else ((s.setPin c { p with swErr := 0, pend := none }).schedule s.now prioUnit (.pinLive c set)).schedule (s.now + 2) prioUnit (.pinGovern c w))) ∧
  GivesWriteOut (.pinSwitchCancel a c) a true (some c) s inside (s.setPin c { p with pend := none }) ∧
  (let wrong := v.extractLsb' 27 2 = 3#2 ∨ v.extractLsb' 25 2 = 3#2 ∨
     (v.extractLsb' 30 2 ≠ 0#2 ∧ ∃ t, s.pinOwner c = some t ∧ (s.thr t).st ≠ .maint)
   (wrong → GivesWrite (.pinPadWrite a c v) a false s inside bad) ∧
   (¬ wrong → p.locked = false → GivesWrite (.pinPadWrite a c v) a false s inside
     ((s.storeRw (.pinPad c) v).schedule (s.now + 2) prioUnit (.pinPadIn c ((s.storeRw (.pinPad c) v).reg (.pinPad c))))) ∧
   (¬ wrong → p.locked = true → ∃ t, GivesWrite (.pinPadWrite a c v) a false s inside t ∧
     t.reg (.pinPad c) &&& 0xDFFFE000 = s.reg (.pinPad c) &&& 0xDFFFE000 ∧
     (t.pin c).lockViol = (if v &&& 0xDFFFE000 ≠ s.reg (.pinPad c) &&& 0xDFFFE000 then some s.now else p.lockViol))) ∧
  (∀ lvl, GivesWrite (.pinEqpush a c lvl) a false s inside
    (s.schedule (s.now + 1) prioUnit (.eqAppend c (s.reg (.pinEqtHi c) ++ s.reg (.pinEqtLo c)) lvl))) ∧
  GivesWrite (.flush a c) a false s inside (s.schedule s.now prioUnit (.eqFlush c)) ∧
  (∀ x, GivesWriteOut (.pinShdWrite a c x) a false (some c) s inside
    (s.setPin c (if p.shHold.isSome then { p with shOvr := some s.now } else { p with shHold := some x }))) ∧
  (∀ k, GivesWrite (.pinLineWrite a k v) a false s (s.holds a kLine k.val)
    (if 6 ≤ (v.extractLsb' 4 3).toNat then s else s.storeRw (.pinLine k) v))) ∧
  (∀ (s : State) (a : Agent) (p : PinPort) (v : Word),
  (∀ (cmd : Instr) (f : Bool → Bool),
    (cmd = .pinSet a p v ∧ f = fun _ => true) ∨ (cmd = .pinClr a p v ∧ f = fun _ => false) ∨ (cmd = .pinTgl a p v ∧ f = fun b => !b) →
    ∃ t, GivesWrite cmd a false s (s.portInside a p) t ∧ ∀ i < 32, let c := chanOf p i
      if v.getLsbD i = true ∧ s.holds a kPin c.val = true then
        t.pin c = { s.pin c with latch := f (s.pin c).latch } ∧
        ({ due := s.now + 2, prio := prioUnit, thread := none, issuedAt := s.now, eff := .pinLatch c (f (s.pin c).latch) } : Landing) ∈ t.agenda
      else t.pin c = s.pin c) ∧
  (∀ (h : Host) (tag : BitVec 5) (key : BitVec 16), let q := s.lockSeq
    let fits := q.port.toNat = p.val ∧ q.host = h ∧ s.now - q.last ≤ 2048
    let start : LockSeq := { step := 1, port := BitVec.ofNat 4 p.val, host := h, last := s.now }
    (q.step = 1 → key = 0xA15E → fits → GivesWrite (.pinLock (.host h tag) key p) (.host h tag) false s true
      { s with lockSeq := { q with step := 2, last := s.now } }) ∧
    (q.step = 2 → key = 0x10C4 → fits → ∃ t, GivesWrite (.pinLock (.host h tag) key p) (.host h tag) false s true t ∧
      t.lockSeq = { } ∧ ∀ i < 32, let c := chanOf p i
        t.pin c = if (s.reg (.pinLocksel p)).getLsbD i = true ∧ s.holds (.host h tag) kPin c.val = true
          then { s.pin c with locked := true, lockViol := (if (s.pin c).pend.isSome then some s.now else (s.pin c).lockViol), pend := none } else s.pin c) ∧
    (key = 0x5EA1 → GivesWrite (.pinLock (.host h tag) key p) (.host h tag) false s true { s with lockSeq := start }) ∧
    (key ≠ 0x5EA1 → ¬ (q.step = 1 ∧ key = 0xA15E ∧ fits) → ¬ (q.step = 2 ∧ key = 0x10C4 ∧ fits) →
      GivesWrite (.pinLock (.host h tag) key p) (.host h tag) false s true { s with lockSeq := { } })) ∧
  (s.lockSeq.step ≠ 0 → 2048 < s.now - s.lockSeq.last → exec .pinLockTimeout s = .next { s with lockSeq := { } }))

/-- EDGE_ENTRY_FIRE, SHIFTER_BOUNDARY, PAD_INPUT_TRANSITION, CALIBRATION_PASS_END and CALIBRATION_STALE (R240, R242, R244, R247, R250 to
R252): a head entry fires at its time with its fine value, and an entry behind it that is not two cycles ahead is late; a boundary
presents the next bit, of a new byte or idle where none waits, or takes one in, the eighth completing a byte; a new level at a pad
passes the glitch filter GF + 2 cycles later; a finished pass and a pair older than a second set their bits.
The model's own readings stand in log entry 28. -/
def Obligations.PinEventsAct : Prop :=
  ∀ (s : State) (c : Chan), let p := s.pin c; let w := s.reg (.pinShcfg c)
  (∀ e rest, p.eq = e :: rest → p.lateAt = none → p.headAt ≠ s.now → e.time = s.tbase → ∃ t, exec (.edgeEntryFire c) s = .next t ∧
    (t.pin c).eLevel = e.level ∧ (t.pin c).eZ = e.z ∧ (t.pin c).eFine = e.fine ∧ (t.pin c).firedAt = some s.now ∧ (t.pin c).eq <:+ rest ∧ (∀ d, d ≠ c → t.pin d = s.pin d) ∧
    (rest = [] → (t.pin c).late = p.late) ∧
    (∀ f l, rest = f :: l →
      (s.tbase.toNat + 2 ≤ f.time.toNat → (t.pin c).eq = rest ∧ (t.pin c).headAt = s.now ∧ (t.pin c).late = p.late) ∧
      (f.time.toNat < s.tbase.toNat + 2 → (t.pin c).late = some s.now ∧
        ((s.reg (.pinPad c)).getLsbD 10 = true → (t.pin c).eq = rest ∧ (t.pin c).lateAt = some (s.now + 2))))) ∧
  (s.edgeDue c = false → exec (.edgeEntryFire c) s = .next s) ∧
  (s.shiftDue c = true → s.shiftsOut c = true → ∃ t, exec (.shifterBoundary c) s = .next t ∧
    (t.pin c).shOut = (if 0 < p.shCnt then shiftBit p.shReg (w.getLsbD 30) (8 - p.shCnt) else match p.shHold with
      | some b => shiftBit b (w.getLsbD 30) 0
      | none => w.getLsbD 22) ∧
    (t.pin c).shHold = (if 0 < p.shCnt then p.shHold else none) ∧
    (t.pin c).shCnt = (if 0 < p.shCnt then p.shCnt - 1 else if p.shHold.isSome then 7 else p.shCnt) ∧
    t.agenda = (s.schedule (s.now + 2) prioUnit (.pinShift c (t.pin c).shOut)).agenda) ∧
  (s.shiftDue c = true → s.shiftsOut c = false → ∃ t, exec (.shifterBoundary c) s = .next t ∧ t.agenda = s.agenda ∧
    let x : Byte := if w.getLsbD 30 then (p.shReg <<< 1) ||| (if s.chF c then 1 else 0) else (p.shReg >>> 1) ||| (if s.chF c then 0x80 else 0)
    if 7 ≤ p.shCnt then (t.pin c).rx = x ∧ (t.pin c).rxv = some s.now ∧ (t.pin c).shCnt = 0 ∧
      (t.pin c).shOvr = (if p.rxv.isSome then some s.now else p.shOvr)
    else (t.pin c).shReg = x ∧ (t.pin c).shCnt = p.shCnt + 1 ∧ (t.pin c).rx = p.rx ∧ (t.pin c).rxv = p.rxv) ∧
  (∀ level fine, let loop := (p.padCfg.extractLsb' 30 2).toNat
    (loop = 1 ∨ loop = 2 ∨ p.path = level → exec (.padInputTransition c level fine) s = .next (s.setPin c { p with level := level })) ∧
    (loop ≠ 1 → loop ≠ 2 → p.path ≠ level → p.filt ≠ level → (∀ x ∈ s.agenda, x.filterOf c = false) →
      exec (.padInputTransition c level fine) s = .next ((s.setPin c { p with level := level, path := level }).schedule
        (s.now + 1 + (p.padCfg.extractLsb' 20 4).toNat) (inputPrio s.tbase fine c) (.pinFilter c level s.tbase fine)))) ∧
  (∀ g, let k := s.cal g
    (k.passDone = false → k.startAt + 32768 ≤ s.now →
      exec (.calibrationPassEnd g) s = .next (s.setCal g { k with passDone := true, last := mput 0 k.last 16 s.now })) ∧
    (∀ i < 16, s.mhz * 500000 ≤ s.now - mget 0 k.last i → exec (.calibrationStale g) s = .next (s.setCal g { k with stale := true })))

/-- SINC_SAMPLE, SINC_DECIMATION and SNC_CFG_WRITE (R255 to R257): a sample adds or subtracts 1 along the integrators, modulo 2^40, and one
within 3 cycles of an external transition sets CLKERR instead; a decimation differences the last integrator over the unit's order,
shifts and limits it, and writes it 3 cycles after the last sample with SETTLE until the order is reached; SNC_CFG is refused while
enabled unless it disables, and for DECIM outside 4 to 256, and enabling clears the unit.
The model's own readings stand in log entry 29. -/
def Obligations.SincUnitsFilterTheirInput : Prop :=
  ∀ (s : State) (n : SincNo), let x := s.sinc n
  (s.sincDue n = true → s.sincTooSoon n = false →
    let i1 := if s.unitLevel 2 n.val then x.i1 + 1 else x.i1 - 1
    exec (.sincSample n) s = .next (s.setSinc n { x with
      i1 := i1, i2 := x.i2 + i1, i3 := x.i3 + (x.i2 + i1), i4 := x.i4 + (x.i3 + (x.i2 + i1))
      count := x.count + 1, lastSample := some s.now, lastTime := s.tbase })) ∧
  (s.sincDue n = true → s.sincTooSoon n = true →
    exec (.sincSample n) s = .next (s.setSinc n { x with lastSample := some s.now, clkErr := some s.now })) ∧
  (s.sincDue n = false → exec (.sincSample n) s = .next s) ∧
  (let cfg := s.reg (.sncCfg n)
   let four := cfg.getLsbD 30
   let raw := if four then x.i4 - x.p1 - x.p2 - x.p3 - x.p4 else x.i3 - x.p1 - x.p2 - x.p3
   let k := (cfg.extractLsb' 24 6).toInt
   let y := if 0 ≤ k then raw.toInt / 2 ^ k.toNat else raw.toInt * 2 ^ (-k).toNat
   cfg.getLsbD 31 = true → 0 < (cfg.extractLsb' 0 9).toNat → (cfg.extractLsb' 0 9).toNat ≤ x.count →
   ∃ t, exec (.sincDecimation n) s = .next t ∧ (t.sinc n).count = 0 ∧ (t.sinc n).results = min 4 (x.results + 1) ∧
     (t.sinc n).p1 = (if four then x.i4 else x.i3) ∧ (t.sinc n).p2 = (t.sinc n).p1 - x.p1 ∧ (t.sinc n).p3 = (t.sinc n).p2 - x.p2 ∧
     t.agenda = (s.schedule (s.now + 2) prioUnit (.sincWrite n (BitVec.ofInt 32 (saturate 31 y)) x.lastTime
       (decide (x.results < if four then 4 else 3)) (decide (saturate 31 y ≠ y)))).agenda) ∧
  (∀ (a : Agent) (v : Word), let on := (s.reg (.sncCfg n)).getLsbD 31; let d := (v.extractLsb' 0 9).toNat
    GivesWrite (.sncCfgWrite a n v) a false s (s.holds a kSinc n.val)
      (if (on = true ∧ v.getLsbD 31 = true) ∨ d < 4 ∨ 256 < d then s.setSinc n { x with cfgErr := some s.now }
       else if on = false ∧ v.getLsbD 31 = true then (s.storeRw (.sncCfg n) v).setSinc n { x with
         i1 := 0, i2 := 0, i3 := 0, i4 := 0, p1 := 0, p2 := 0, p3 := 0, p4 := 0
         count := 0, results := 0, startAt := s.now, lastSample := none }
       else s.storeRw (.sncCfg n) v))

/-! ### Timers and compare units (R261 to R278) -/

/-- TIMER_TOP, TIMER_VALLEY, COMPARE_MATCH and TIMER_START (R261, R262, R265, R266, R268, R275, R276, R278, R282): a top loads the reload,
0 as 1 with CLAMP, takes the preloads of UPD 0 and 1 and does ATOP; a valley starts the upward slope and takes those of UPD 1; a match
does the slope's action at its fine value; each gives its event where enabled and triggers the ports that select it; a start loads each
selected timer at its phase, at most the reload, with its units at INIT.
The model's own readings stand in log entry 27. -/
def Obligations.TimersTopValleyMatchAndStart : Prop :=
  ∀ s : State,
  let event := fun (t : State) (src : Nat) => ∀ e ∈ s.evmap, e.2.1.toNat = src →
    (t.thr (fin 128 (e.1 / 32))).ev.pend.getLsbD (e.1 % 32) = true
  let triggers := fun (t : State) (kind num : Nat) => ∀ k, ((s.reg (.cvpTrig k)).extractLsb' 30 2).toNat = kind →
    ((s.reg (.cvpTrig k)).extractLsb' 0 10).toNat = num → (t.cvp k).trig = true
  (∀ n, let x := s.timer n; let rl := s.reg (.timReload n); let r := if rl = 0 then 1 else rl
    x.topDue = true → ∃ t, exec (.timerTop n) s = .next t ∧
      t.timer n = { x with
        topDue := false, valleyDue := false, r := r, cnt := r, up := false, slopeFrom := r
        clamp := if rl = 0 then some s.now else x.clamp } ∧
      (∀ u, timerOf u = n → (t.unit u).matched = false ∧ (t.unit u).matchAt = none ∧
        (t.unit u).act = (if s.ccUpd u ≤ 1 then (s.unit u).preload else (s.unit u).act) ∧
        (t.unit u).actFine = (if s.ccUpd u ≤ 1 then (s.unit u).preFine else (s.unit u).actFine) ∧
        (t.unit u).src = (if s.ccFunc u = 1 then applyAct ((s.reg (.timCcCtl u)).extractLsb' 25 2).toNat (s.unit u).src else (s.unit u).src)) ∧
      (∀ u, timerOf u ≠ n → t.unit u = s.unit u) ∧ triggers t 2 n.val ∧
      ((s.reg (.timCtl n)).getLsbD 25 = true → event t (0x180 + n.val))) ∧
  (∀ n, let x := s.timer n
    x.valleyDue = true → ∃ t, exec (.timerValley n) s = .next t ∧
      t.timer n = { x with valleyDue := false, cnt := 0, up := true, slopeFrom := 0 } ∧
      (∀ u, timerOf u = n → (t.unit u).matched = false ∧ (t.unit u).matchAt = none ∧ (t.unit u).src = (s.unit u).src ∧
        (t.unit u).act = (if s.ccUpd u = 1 then (s.unit u).preload else (s.unit u).act)) ∧
      (∀ u, timerOf u ≠ n → t.unit u = s.unit u) ∧ triggers t 3 n.val ∧
      ((s.reg (.timCtl n)).getLsbD 24 = true → event t (0x180 + n.val))) ∧
  (∀ u, let x := s.timer (timerOf u); let y := s.unit u; let w := s.reg (.timCcCtl u)
    let act := (if x.up then w.extractLsb' 21 2 else w.extractLsb' 23 2).toNat
    s.ccFunc u = 1 → x.counted = true → y.matchAt ≠ some s.now → y.act.toNat ≤ x.r.toNat →
    matchPos (s.isDual (timerOf u)) x.up y.act y.actFine = some x.cnt.toNat →
    ∃ t, exec (.compareMatch u) s = .next t ∧ (t.unit u).matched = true ∧ (t.unit u).matchAt = some s.now ∧
      (t.unit u).src = applyAct act y.src ∧ (act ≠ 0 → (t.unit u).srcFine = matchFine x.up y.act y.actFine ∧ (t.unit u).actAt = some s.now) ∧
      (∀ v, v ≠ u → t.unit v = s.unit v) ∧ triggers t 1 u.val ∧ (w.getLsbD 18 = true → event t (0x280 + u.val)) ∧
      (∀ n, (s.reg (.sncCfg n)).getLsbD 31 = true → (s.reg (.sncCfg n)).getLsbD 23 = true →
        ((s.reg (.sncCfg n)).extractLsb' 13 10).toNat = u.val → (t.sinc n).count = 0)) ∧
  (∀ h, s.startDue h = true → ∃ t, exec (.timerStart h) s = .next t ∧ (t.gstart h).armed = false ∧
    (∀ n, (∃ k ∈ (s.gstart h).mask, fin 256 k = n) → let w := s.reg (.timCtl n); let rl := s.reg (.timReload n)
      let ph := if w.getLsbD 26 then s.reg (.timPhase n) else rl
      let c := if rl.toNat < ph.toNat then rl else ph
      (t.timer n).run = true ∧ (t.timer n).cnt = c ∧ (t.timer n).r = rl ∧ (t.timer n).topDue = decide (c = rl) ∧
      (∀ u, timerOf u = n → (t.unit u).act = (s.unit u).preload ∧ (t.unit u).src = (s.reg (.timCcCtl u)).getLsbD 20 ∧ (t.unit u).matched = false ∧
        (t.unit u).matchAt = none)) ∧
    (∀ n, (∀ k ∈ (s.gstart h).mask, fin 256 k ≠ n) → t.timer n = s.timer n ∧ ∀ u, timerOf u = n → t.unit u = s.unit u))

/-- TIMER_RELOAD_WRITE, COMPARE_WRITE, TIMER_HOLD, TIMER_RESUME, CC_CTL_WRITE, GLOBAL_START_ARM, GLOBAL_START_CANCEL, TIM_CAPW_READ and
TIM_TBASE_LO_READ (R202, R203, R263, R264, R267, R268, R272, R275, R277): a class member's write with the staging choice is staged and
replaces the value held, any other lands at the end of its cycle in place of one presented in it before, an immediate compare value two
cycles after; a thread of the timer's partition writes the reload by an OUT; a held timer resumes
four cycles later; SRC 3 and an armed start refuse the write, and a past time sets ERR; a read of TIM_CAPW clears VALID, and one of TIM_TBASE_LO keeps the
high half for the reader.
The model's own readings stand in log entries 27 and 45. -/
def Obligations.TimerRegistersWriteAndRead : Prop :=
  ∀ (s : State) (a : Agent),
  (∀ n v, let lands := ({ s with agenda := s.agenda.filter (fun x => !(decide (x.due = s.now) && x.eff.isReload n)) }.schedule
      s.now prioUnit (.reload n v)).schedule s.now prioUnit (.jump n v)
    GivesWriteOut (.timerReloadWrite a n v) a false none s (s.holds a kTimer n.val)
      (match s.stager a with
       | some t => if (s.reg (.timCtl n)).getLsbD 29 then { s with staged := s.staged.filter (fun e => !((Staged.reload n v).replaces e.2)) ++ [(t, .reload n v)] }
                   else lands
       | none => lands)) ∧
  (∀ u v, let f : BitVec 5 := (s.reg (.timCcFv u)).setWidth 5
    let buffer := s.schedule s.now prioUnit (.preload u v f)
    let lands := if 2 ≤ s.ccUpd u then
        { buffer with agenda := buffer.agenda.filter (fun x => !(decide (x.due = s.now + 1) && x.eff.isActive u)) }.schedule
          (s.now + 1) prioActive (.unitActive u v f) else buffer
    GivesWrite (.compareWrite a u v) a false s (s.holds a kTimer (timerOf u).val)
      (match s.stager a with
       | some t => if s.ccUpd u = 3 then { s with staged := s.staged.filter (fun e => !((Staged.compare u v f).replaces e.2)) ++ [(t, .compare u v f)] }
                   else lands
       | none => lands)) ∧
  (∀ n, GivesWrite (.timerHold a n) a false s (s.holds a kTimer n.val) (s.setTimer n { s.timer n with run := false }) ∧
    GivesWrite (.timerResume a n) a false s (s.holds a kTimer n.val)
      (s.setTimer n (if (s.timer n).run then s.timer n else { s.timer n with run := true, resumeAt := s.now + 4 }))) ∧
  (∀ u v, GivesWrite (.ccCtlWrite a u v) a false s (s.holds a kTimer (timerOf u).val)
    ((s.storeRw (.timCcCtl u) v).schedule s.now prioUnit (.unitInit u))) ∧
  (∀ src bell, let h := s.bankOf a; let g := s.gstart h
    let start := s.reg (.timGstartAtHi h) ++ s.reg (.timGstartAtLo h)
    GivesWrite (.globalStartArm a src bell) a false s true (
      if src = 3 then s.setGstart h { g with err := 3 } else if g.armed then s.setGstart h { g with err := 1 }
      else (s.setReg (.timGstart h) (BitVec.ofNat 32 (src.toNat * 2 ^ 25 + bell.val * 2 ^ 21))).setGstart h
        { armed := true, src := src, bell := BitVec.ofNat 4 bell.val, at_ := start, presented := s.now
          mask := (List.range 256).filter (fun n => (s.reg (.timGstartMask h (fin 8 (n / 32)))).getLsbD (n % 32))
          err := if src = 2 ∧ start.toNat < s.tbase.toNat + 4 then 2 else 0 })) ∧
  GivesWrite (.globalStartCancel a) a false s true (s.setGstart (s.bankOf a) { s.gstart (s.bankOf a) with armed := false }) ∧
  (s.sys.phase ≠ .scrapped → let k := s.now / 2
    let read := fun (h : Host) (tag : BitVec 5) (lane : Nat) (t : State) (d : BitVec 128) => ∃ st, (t.host h).reqs = (s.host h).reqs ++ [
      { tag := tag, status := st, data := [d], performed := true, addr := lane, beats := 1, last := k, doneAt := k, readyAt := k + 2 }]
    let turn := fun (h : Host) (tag : BitVec 5) => s.readReady h tag = true ∧ (s.host h).reqs.all Req.performed = true
    (∀ u h tag, turn h tag → s.readable (.host h tag) (.timCapw u) = true → ∃ t d, exec (.timCapwRead (.host h tag) u) s = .next t ∧
      t.unit u = { s.unit u with valid := false } ∧ (∀ v, v ≠ u → t.unit v = s.unit v) ∧
      read h tag (0xA4020 + 0x40 * u.val) t d ∧ d.extractLsb' 32 32 = (s.unit u).capW) ∧
    (∀ u t, s.readable (.thread t) (.timCapw u) = true →
      exec (.timCapwRead (.thread t) u) s = .next (s.setUnit u { s.unit u with valid := false })) ∧
    (∀ h tag, turn h tag → s.readable (.host h tag) .timTbaseLo = true → ∃ t d, exec (.timTbaseLoRead (.host h tag)) s = .next t ∧
      mget 0 t.hostHold h.val = s.tbase.extractLsb' 32 32 ∧ read h tag 0xB8030 t d ∧ d.setWidth 32 = s.tbase.setWidth 32) ∧
    (∀ t, s.readable (.thread t) .timTbaseLo = true →
      exec (.timTbaseLoRead (.thread t)) s = .next (s.setThr t { s.thr t with tbaseHold := s.tbase.extractLsb' 32 32 })))

/-! ### Converter ports, trips and stations (R279 to R288) -/

/-- CONVERTER_SAMPLE, MAILBOX_WRITE, CVP_SWTRIG, TRIP_ACTIVE, TRIP_INACTIVE, BLANKING_WINDOW_END, LATCHED_CLEAR and TRP_STN_CTL_WRITE (R279 to
R288): a strobe of a disabled port is ignored and one within 15 cycles is dropped; a sample lands in its mailbox after those before it,
those of its cycle in the order of their ports; a trip's level is known at once and a cycle later in its registers. At the end of a cycle
the active trips of a station count, but those that did not yet while its window is open; the onset drives the safe pins or forces the
units, and the end of the last releases them unless LATCHED holds; LATCHED clears only where no trip counts then; a change of the blanking
unit's source opens a window; ACTION 3 is refused.
The model's own readings stand in log entries 29 and 45. -/
def Obligations.ConvertersAndStationsAct : Prop :=
  ∀ s : State,
  (∀ n (data : BitVec 18) (tag : BitVec 6), let w := s.reg (.cvpCfg n); let x := s.cvp n
    let b : Barrel := fin 4 (w.extractLsb' 27 2).toNat
    let word : Word := ((if w.getLsbD 30 then data ^^^ 0x20000 else data).setWidth 32 <<< 14) ||| (if w.getLsbD 29 then tag.setWidth 32 else 0)
    let close := (match x.lastAt with | some m => decide (s.now < m + 15) | none => false) = true
    let taken : CvpS := { x with lastAt := some s.now, count := x.count + 1, last := word
                                 queue := x.queue ++ [{ word := word, tag := tag, time := s.tbase, writeAt := s.now + 3 + s.unwritten b n, barrel := b }] }
    (w.getLsbD 31 = false → exec (.converterSample n data tag) s = .next (s.setCvp n { x with ign := some s.now })) ∧
    (w.getLsbD 31 = true → close → exec (.converterSample n data tag) s = .next (s.setCvp n { x with close := some s.now })) ∧
    (w.getLsbD 31 = true → ¬ close →
      exec (.converterSample n data tag) s = .next ((s.delayHigher b n).setCvp n taken) ∧
      ((∀ e ∈ s.cvps, n.val < e.1 → e.2.lastAt ≠ some s.now) → exec (.converterSample n data tag) s = .next (s.setCvp n taken)))) ∧
  (∀ n e rest, (s.cvp n).queue = e :: rest → e.writeAt ≤ s.now → let x := s.cvp n
    let u := ((s.setCvp n { x with queue := rest, boxCount := x.boxCount + 1 }).schedule s.now prioBox (.mailbox n e (x.boxCount + 1))).modTurn
      e.barrel.val (fun y => { y with lastAt := some s.now })
    exec (.mailboxWrite n) s = .next (if (s.reg (.cvpCfg n)).getLsbD (19 + e.tag.toNat % 8)
      then u.schedule s.now prioUnit (.source (BitVec.ofNat 11 (0x0A0 + n.val))) else u)) ∧
  (∀ n a, GivesWriteOut (.cvpSwtrig a n) a false none s (s.holds a kCvp n.val) (s.schedule s.now prioUnit (.trigger n))) ∧
  (∀ i : TripNo, let on := mget false s.tripsIn i.val
    exec (.tripActive i) s = .next (if on then s else
      { s with tripsIn := mput false s.tripsIn i.val true }.schedule s.now prioUnit (.tripRegs i true)) ∧
    exec (.tripInactive i) s = .next (if on then
      { s with tripsIn := mput false s.tripsIn i.val false }.schedule s.now prioUnit (.tripRegs i false) else s)) ∧
  (∀ st, let x := s.stn st; let t := s.stnStep st; let y := t.stn st; let w := s.reg (.trpStnCtl st)
    let l := (s.tripsIn.map (·.1)).filter (fun i => s.stnHasTrip st i && (!s.blankOpen st || x.counting.contains i))
    let lands := fun (due : Nat) (e : Eff) => ({ due := due, prio := prioUnit, thread := none, issuedAt := s.now, eff := e } : Landing) ∈ t.agenda
    let clears := x.clearAt = some s.now ∧ x.latched = true ∧ l = []
    y.counting = l ∧ y.prev = decide (l ≠ []) ∧ (∀ z, z ≠ st → t.stn z = s.stn z) ∧
    (x.counting = [] → l ≠ [] → lands s.now (.stationCount st) ∧
      (s.stnAction st = 1 → y.acted = x.acted ++ s.stnPins st ∧ y.latched = (x.latched || w.getLsbD 29) ∧
        ∀ c ∈ s.stnPins st, lands (s.now + 2) (.pinStnSafe (fin 512 c) st true)) ∧
      (s.stnAction st = 2 → ∀ u, s.stnHoldsTimer st (timerOf u) = true → lands (s.now + 2) (.unitForce u))) ∧
    (x.counting ≠ [] → l = [] → x.latched = false → y.acted = [] ∧ y.latched = false ∧
      ∀ c ∈ x.acted, lands (s.now + 1) (.pinStnSafe (fin 512 c) st false)) ∧
    (clears → y.latched = false ∧ y.acted = [] ∧ ∀ c ∈ x.acted, lands (s.now + 2) (.pinStnSafe (fin 512 c) st false)) ∧
    (¬ clears → x.latched = true → y.latched = true ∧ x.acted <+: y.acted) ∧
    (¬ clears → (x.counting ≠ [] ∨ l = []) → (x.counting = [] ∨ l ≠ [] ∨ x.latched = true) → y.acted = x.acted ∧ y.latched = x.latched) ∧
    (let u : UnitNo := fin 1024 (w.extractLsb' 0 10).toNat; let len := (w.extractLsb' 12 12).toNat
     y.blankEnd = if w.getLsbD 28 = true ∧ 0 < len ∧ s.unitOut u ≠ (s.unit u).old then some (s.now + len) else x.blankEnd)) ∧
  (∀ st, let x := s.stn st; let ended := ∃ e, x.blankEnd = some e ∧ e ≤ s.now ∧ s.blankOpen st = false
    (ended → exec (.blankingWindowEnd st) s = .next (s.setStn st { x with blankEnd := none })) ∧
    (¬ ended → exec (.blankingWindowEnd st) s = .next s)) ∧
  (∀ st a, GivesWriteOut (.latchedClear a st) a true none s (s.holds a kStation st.val) (s.setStn st { s.stn st with clearAt := some s.now })) ∧
  (∀ st a v, GivesWrite (.trpStnCtlWrite a st v) a false s (s.holds a kStation st.val)
    (if v.extractLsb' 30 2 = 3#2 then s.setStn st { s.stn st with cfgErr := some s.now } else s.storeRw (.trpStnCtl st) v))

/-! ### Memories (R152, R296, R298, R303, R305 to R311, R318, R322) -/

/-- SECOND_PORT_ACCESS and HALL_SHARED_ACCESS (R152, R298, R300, R302, R303, R305, R306, R307, R314): a desk's second port makes one line access
in a BCLK and a bank of hall one in an SCLK, in its shared or lent phases; of an access that no request of the block's waits for, the
enabled bytes of a desk line land at the end of the cycle, a whole word as one, those of a hall granule at once, where they clear every
reservation they touch and a wipe of the secure bytes drops them; only the test engine and the scrubber reach desk beyond its first 64
KiB; a read changes no byte and counts every word that holds an error.
The model's own readings stand in log entries 9 and 46. -/
def Obligations.SharedPortsReadAndWrite : Prop :=
  ∀ (s : State) (u : PortUser), let reaches := fun (line : Nat) => line < 1024 ∨ u = .test ∨ u = .scrub
  (∀ b line acc, s.deskFree b = false → exec (.secondPortAccess b u line acc) s = .next s) ∧
  (∀ (g : BitVec 19) acc, s.bankOpen (g.toNat % 16) = false → exec (.hallSharedAccess u g acc) s = .next s) ∧
  (∀ (b : Barrel) (line : BitVec 13), s.deskFree b = true →
    (∀ (data : BitVec 512) (strb : BitVec 64), s.waiting (some b) line.toNat u (.write data strb) = none → reaches line.toNat →
      let whole := fun (k : Nat) => ∀ j < 8, strb.getLsbD (8 * k + j) = true
      let lands := fun (off size : Nat) => ({
        due := s.now, prio := prioPort, thread := none, issuedAt := s.now
        eff := .store { loc := .desk b (BitVec.ofNat 19 (64 * line.toNat + off)), size := size, signFill := false }
          ((data.extractLsb' (8 * off) (8 * size)).setWidth 64) } : Landing)
      ∃ t, exec (.secondPortAccess b u line (.write data strb)) s = .next t ∧ t.desk = s.desk ∧ t.deskFree b = false ∧
        ∀ x, x ∈ t.agenda ↔ x ∈ s.agenda ∨ ∃ k < 8, (whole k ∧ x = lands (8 * k) 8) ∨
          (¬ whole k ∧ ∃ j < 8, strb.getLsbD (8 * k + j) = true ∧ x = lands (8 * k + j) 1)) ∧
    (∀ acc, s.waiting (some b) line.toNat u acc = none → ¬ reaches line.toNat →
      ∃ t, exec (.secondPortAccess b u line acc) s = .next t ∧ t = { s with turns := t.turns }) ∧
    (s.waiting (some b) line.toNat u .read = none → ∃ t, exec (.secondPortAccess b u line .read) s = .next t ∧ t.desk = s.desk ∧
      t.agenda = s.agenda ∧ (reaches line.toNat → t.memS.ueTotal = s.memS.ueTotal +
        ((List.range 8).filter (fun k => decide (64 * line.toNat + 8 * k ∈ (s.inst (instDesk b)).ue))).length))) ∧
  (∀ g : BitVec 19, s.bankOpen (g.toNat % 16) = true → let a := 16 * g.toNat
    (∀ (data : BitVec 512) (strb : BitVec 64), s.waiting none g.toNat u (.write data strb) = none →
      ∃ t, exec (.hallSharedAccess u g (.write data strb)) s = .next t ∧ t.bankFree (g.toNat % 16) = false ∧
      (∀ x < 0x800000, t.hallByte x = if a ≤ x ∧ x < a + 16 ∧ strb.getLsbD (x - a) ∧ ¬ (s.memS.wiping = true ∧ 0x7C0000 ≤ a)
        then data.extractLsb' (8 * (x - a)) 8 else s.hallByte x) ∧
      (∀ v w i, (s.thr v).resv = some w → i < 16 → strb.getLsbD i = true → w ≤ a + i → a + i < w + 8 →
        ¬ (s.memS.wiping = true ∧ 0x7C0000 ≤ a) → (t.thr v).resv = none) ∧
      (∀ v, (t.thr v).resv = (s.thr v).resv ∨ (t.thr v).resv = none)) ∧
    (s.waiting none g.toNat u .read = none → ∃ t, exec (.hallSharedAccess u g .read) s = .next t ∧ t.hall = s.hall ∧
      t.memS.ueTotal = s.memS.ueTotal + ((List.range 2).filter (fun k => decide (a + 8 * k ∈ (s.inst instHall).ue))).length))

/-- REGION_TEST_START, MEM_TCTL_NOW, REGION_COPY_COMPLETE, MARCH_TEST_COMPLETE, REGION_TEST_COMPLETE, SCRUB_ACCESS, LOGCLR, MRAM_SCRUB and
CODE_COPY_COMPLETE (R296, R305 to R311, R318, R322, Table MEM-4): a due test takes a marked line's region or the next one through copy,
test, repair and restore, each as long as its accesses or its time take; failing and marked lines take spare lines, and a region that
needs more than four is retired, both in the repair record; the scrubber counts, logs and marks the lines of errors, an error that a
word is known to hold whatever is said of it, and goes on with the next word of its pass; LOGCLR empties the log; an error of MRAM is
rewritten or retires its block; a code copy fills the standby banks only, and stops at an error.
The model's own readings stand in log entries 9, 14, 42 and 46. -/
def Obligations.TestsScrubbingAndRepair : Prop :=
  ∀ s : State, let recorded := fun (t : State) => ({ t with memS := { t.memS with mramBusyTo := s.now + 256 } } : State)
  (∀ m, let x := s.inst m
    (s.testDue m = true → ∃ t, exec (.regionTestStart m) s = .next t ∧
      t.inst m = { x with step := .copy, startAt := s.now, now_ := false, lines := [], lineAt := s.now - 1, stepAt := s.now
                          region := match x.marked with | l :: _ => l / 64 % regionsOf m | [] => x.next }) ∧
    (s.testDue m = false → exec (.regionTestStart m) s = .next s) ∧
    (∀ a, GivesWrite (.memTctlNow a m) a false s (s.isOwner a)
      (if x.step = .idle ∧ (s.reg (.memTctl m)).getLsbD 31 = true then s.setInst m { x with now_ := true } else s)) ∧
    (exec (.regionCopyComplete m) s = .next (if x.step = .copy ∧ s.copied m = true
      then s.setInst m { x with step := .test, stepAt := s.now, lines := [] } else s)) ∧
    (∀ failing : BitVec 64, let ends := x.step = .test ∧ x.stepAt + (if m = instHall then 1280 else 2560) ≤ s.now
      let bad := (List.range 64).filter (fun i => failing.getLsbD i || x.marked.contains (64 * x.region + i))
      let used := (x.spares.filter (fun l => decide (l / 64 = x.region))).length
      let y := { x with fail := if failing = 0 then x.fail else some s.now, marked := x.marked.filter (fun l => decide (l / 64 ≠ x.region)) }
      exec (.marchTestComplete m failing) s = .next (
        if ¬ ends then s
        else if bad = [] then s.setInst m { y with step := .restore, lineAt := s.now - 1 }
        else recorded (s.setInst m (
          if 4 < used + bad.length then { y with retired := some x.region, step := .idle }
          else { y with step := .repair, stepAt := s.now + bad.length * (if m = instHall then 8 else 1)
                        spares := x.spares ++ bad.map (64 * x.region + ·) })))) ∧
    (s.repairEnd m = s.setInst m (if x.step = .repair ∧ x.stepAt ≤ s.now then { x with step := .restore, lineAt := s.now - 1 } else x)) ∧
    (let last := decide (x.region + 1 = regionsOf m)
     exec (.regionTestComplete m) s = .next (if ¬ (x.step = .restore ∧ s.copied m = true) then s
       else s.setInst m (if x.region = x.next
         then { x with step := .idle, lines := [], next := if last then 0 else x.region + 1, passes := if last then x.passes + 1 else x.passes }
         else { x with step := .idle, lines := [] }))) ∧
    (∀ addr, let line := lineOf m addr; let bad := s.poisoned m addr 1
      (∀ e, s.scrubs = false → exec (.scrubAccess m addr e) s = .next s) ∧
      (s.scrubs = true → bad = false → ∃ t, exec (.scrubAccess m addr .ok) s = .next t ∧ t.inst m = x ∧
        t.memS = { s.memS with scrubNext := t.memS.scrubNext, scrubFrom := t.memS.scrubFrom } ∧
        (∀ c, s.scrubNow = some (s.memS.scrubNext, c) → c ≤ s.now → s.drill.cur = none → scrubPlace s.memS.scrubNext = (m, eccWord m addr) →
          t.memS.scrubNext = if s.memS.scrubNext + 1 < 1900544 then s.memS.scrubNext + 1 else 0)) ∧
      (s.scrubs = true → bad = false → ∃ t, exec (.scrubAccess m addr .corrected) s = .next t ∧ t.memS.ceTotal = s.memS.ceTotal + 1 ∧
        t.memS.nextLog = (s.memS.nextLog + 1) % 16 ∧ (t.inst m).ue = x.ue ∧
        (if line ∈ x.ce then line ∈ (t.inst m).marked else line ∈ (t.inst m).ce ∧ (t.inst m).marked = x.marked)) ∧
      (∀ e, s.scrubs = true → bad = true ∨ e = .uncorrectable → ∃ t, exec (.scrubAccess m addr e) s = .next t ∧
        t.memS.ueTotal = s.memS.ueTotal + 1 ∧ line ∈ (t.inst m).marked ∧ eccWord m addr ∈ (t.inst m).ue))) ∧
  (∀ a, GivesWrite (.logclr a) a false s (s.isOwner a) { s with memS := { s.memS with log := [], nextLog := 0 } }) ∧
  (let x := s.memS; let more := x.mramNext + 1 < 1048576
   let y := { x with mramNext := if more then x.mramNext + 1 else 0, mramFrom := if more then x.mramFrom else x.mramFrom + 86400 * 500000 * s.mhz }
   let fixed := { y with mramCorr := min 65535 (x.mramCorr + 1) }
   let retired := fun (z : MemS) => if 928 ≤ x.mramBlocks.length then z
     else { z with mramBlocks := x.mramBlocks ++ [x.mramNext / 128], mramBusyTo := s.now + 256 }
   (s.sys.phase = .cold → ∀ e, exec (.mramScrub e) s = .next s) ∧
   (s.sys.phase ≠ .cold →
     exec (.mramScrub .clean) s = .next { s with memS := y } ∧ exec (.mramScrub .oneBit) s = .next { s with memS := fixed } ∧
     exec (.mramScrub .twoBits) s = .next { s with memS := { fixed with mramBusyTo := s.now + 256 } } ∧
     exec (.mramScrub .writeFailed) s = .next { s with memS := retired y } ∧
     exec (.mramScrub .uncorrectable) s = .next { s with memS := retired { y with
       mramUe := some s.now, mramUeEver := true
       mramBad := if x.mramBad.contains x.mramNext then x.mramBad else x.mramNext :: x.mramBad } })) ∧
  (let codes := sectsOf s.stagingImg 1
   let hurt := codes.any (fun x => s.mramHurt (slotWord s.upd.stagingB + x.off / 32) (ceilDiv x.len 32))
   s.upd.stage = .armed → s.upd.copyDone = false → s.sys.phase ≠ .cold →
    (∀ e, hurt = true ∨ e = .uncorrectable → ∃ t, exec (.codeCopyComplete e) s = .next t ∧
      t.upd = { s.upd with copyDone := true, copyErr := true } ∧ t.ins = s.ins ∧ t.memS.mramUe = some s.now ∧ t.memS.ueTotal = s.memS.ueTotal + 1) ∧
    (∀ e, hurt = false → e ≠ .uncorrectable → ∃ t, exec (.codeCopyComplete e) s = .next t ∧ t.upd = { s.upd with copyDone := true } ∧
      (∀ b w, t.insWord b (!s.standbyY b) w = s.insWord b (!s.standbyY b) w) ∧
      (∀ x ∈ codes, (∀ y ∈ codes, y.arg % 4 = x.arg % 4 → y = x) → x.dest + x.len / 4 ≤ 65536 →
        ∀ i < x.len / 4, t.insWord (fin 4 x.arg) (s.standbyY (fin 4 x.arg)) (x.dest + i) =
          BitVec.ofNat 32 (imgNum s.stagingImg (x.off + 4 * i) 4))))

/-! ### Rings and the queue manager (R340 to R348) -/

/-- LOAD, UNLOAD, DRAIN and the doorbells (R340 to R342, Table DMA-7): LOAD takes the descriptor at the ring's place in hall, or answers its
error and changes nothing of the ring; UNLOAD needs an empty ring without posts or items; DRAIN discards every entry, so that a channel's get in progress begins
again, or passes the consumer side to hosts; a doorbell that moves its index within the ring's room, on its own side, moves it, and any other sets DBERR.
The model's own readings stand in log entry 33. -/
def Obligations.RingCommandsFollowTheirTable : Prop :=
  ∀ (s : State) (a : Agent) (r : Ring), let h := s.bankOf a; let x := s.ring r; let inside := s.holds a kRing r.val
  let done := fun (err : Nat) => ({ s with qm := { s.qm with rcmd := mput ((0 : BitVec 3), (0 : Ring)) s.qm.rcmd h.val (BitVec.ofNat 3 err, r) } } : State)
  (let at_ := (s.reg .qmRdbase).toNat + 32 * r.val
   let w0 := s.hallWord at_
   let w1 := s.hallWord (at_ + 8)
   let err := s.loadErr h r w0 w1 (s.hallWord (at_ + 16)) (s.hallWord (at_ + 24))
   let read := s.noteRead instHall 1 at_ 32 agQm
   (s.partOf kRing r.val ≠ some h → err = 1) ∧ (s.partOf kRing r.val = some h → x.loaded = true → err = 3) ∧
   (err ≠ 0 → GivesWrite (.load a r) a false s true { read with qm := (done err).qm }) ∧
   (err = 0 → ∃ t, GivesWrite (.load a r) a false s true t ∧ (t.ring r).loaded = true ∧ (t.ring r).inHall = w0.getLsbD 63 ∧
     (t.ring r).base = w0.extractLsb' 0 42 ∧ (t.ring r).size = (w1.extractLsb' 0 5).toNat ∧ (t.ring r).pool = w1.extractLsb' 14 3 ∧
     (t.ring r).pside = w1.getLsbD 17 ∧ (t.ring r).cside = w1.getLsbD 18 ∧ (t.ring r).onFull = w1.getLsbD 19 ∧
     (t.ring r).notif = w1.extractLsb' 20 3 ∧ (t.ring r).nen = w1.getLsbD 23 ∧ (t.ring r).nthr = (w1.extractLsb' 40 24).toNat ∧
     (t.ring r).prod = 0 ∧ (t.ring r).cons = 0 ∧ (t.ring r).take = 0 ∧ (∀ q, q ≠ r → t.ring q = s.ring q))) ∧
  (let err := if s.partOf kRing r.val ≠ some h then 1 else if x.loaded = false then 3
     else if x.prod ≠ x.cons ∨ x.rsv ≠ 0 ∨ s.ringItems r ≠ 0 then 4 else 0
   (err ≠ 0 → GivesWrite (.unload a r) a false s true (done err)) ∧
   (err = 0 → ∃ t, GivesWrite (.unload a r) a false s true t ∧ (t.ring r).loaded = false ∧ t.qm.rcmd = (done 0).qm.rcmd ∧
     (∀ q, q ≠ r → t.ring q = s.ring q))) ∧
  (let err := if s.partOf kRing r.val ≠ some h then 1 else if x.loaded = false then 3 else 0
   (err ≠ 0 → GivesWrite (.drain a r) a false s true (done err) ∧ GivesWrite (.drainTakeover a r) a false s true (done err)) ∧
   (err = 0 → GivesWrite (.drainTakeover a r) a false s true ((done 0).setRing r { x with cside := true }) ∧
     ∃ t, GivesWrite (.drain a r) a false s true t ∧ (t.ring r).cons = x.prod ∧ (t.ring r).take = x.prod ∧ (t.ring r).prod = x.prod ∧
       (t.ring r).err = false ∧ (∀ n u buf live, QmItem.fill r n u buf live ∉ t.qm.items ++ t.qm.started.map (·.2)) ∧
       (∀ e, (s.eng e).work = .move → (s.eng e).phase = .reading → (s.eng e).ringWait = false → (s.eng e).skind = true →
         (s.eng e).d0.toNat % 8192 = r.val → x.inHall = false → (t.eng e).getLost = true) ∧
       (∀ q, q ≠ r → t.ring q = s.ring q))) ∧
  (∀ v : Word, let d := (v - x.prod).toNat; let used := (x.prod - x.cons).toNat
    (x.loaded = true → x.pside = true → 0 < d → d + used ≤ 2 ^ x.size → ∃ t, GivesWrite (.producerDoorbell a r v) a false s inside t ∧
      (t.ring r).prod = v ∧ (t.ring r).cons = x.cons ∧ (t.ring r).dberr = x.dberr ∧
      (x.nen = true → used < x.nthr → x.nthr ≤ (v - x.cons).toNat →
        mget ((0 : BitVec 16), (0 : Ring)) t.qm.nstat x.notif.toNat = ((mget ((0 : BitVec 16), (0 : Ring)) s.qm.nstat x.notif.toNat).1 + 1, r))) ∧
    (¬ (x.loaded = true ∧ x.pside = true ∧ 0 < d ∧ d + used ≤ 2 ^ x.size) →
      GivesWrite (.producerDoorbell a r v) a false s inside (s.setRing r { x with dberr := some s.now }))) ∧
  (∀ v : Word, let d := (v - x.cons).toNat; let used := (x.prod - x.cons).toNat
    GivesWrite (.consumerDoorbell a r v) a false s inside
      (if x.loaded = true ∧ x.cside = true ∧ 0 < d ∧ d ≤ used then s.setRing r { x with cons := v } else s.setRing r { x with dberr := some s.now }))

/-- QM_ITEM_START and QM_ITEM_COMPLETE (R303, R306, R342, R343, R347, R348, R349): items start and complete in their order; a started item presents its
four granules to their banks from the next SCLK on, and is complete once they have been accepted; a post to a hall ring writes its slot,
gives its cell back and becomes visible with PROD; one to system memory goes out through the manager's port once that takes it, and keeps
its cell until it is performed; a fill puts the entry into its thread's desk at the end of the cycle, unless the thread has gone, which sets
LOST, and consumes it, with UE where it holds an uncorrectable error; an entry that a channel takes goes to its engine.
The model's own readings stand in log entries 14, 33 and 46. -/
def Obligations.QueueManagerMovesEntries : Prop :=
  ∀ s : State, let slot := fun (r : Ring) (n : Word) => (s.ring r).base.toNat + 64 * (n.toNat % 2 ^ (s.ring r).size)
  (s.qm.items = [] → exec .qmItemStart s = .next s) ∧
  (∀ i rest, s.qm.items = i :: rest →
    exec .qmItemStart s = .next { s with
      qm := { s.qm with items := rest, started := s.qm.started ++ [(s.now, i)], lastStart := s.now }
      ports := s.ports ++ (List.range 4).map (fun k => {
        desk := none, unit := s.itemGranule i + k, user := .queueManager, acc := .read, from_ := sclkAfter s.now, tag := s.now, off := 0, len := 16 }) }) ∧
  (∀ c i rest e, s.qm.started = (c, i) :: rest → (∃ p ∈ s.ports, p.user = .queueManager ∧ p.tag = c) →
    exec (.qmItemComplete e) s = .next s) ∧
  (∀ c rest, (∀ p ∈ s.ports, p.user = .queueManager → p.tag ≠ c) →
    (∀ r data cell who e, s.qm.started = (c, .post r data cell who) :: rest → let x := s.ring r; let a := slot r x.next
      (x.inHall = true → s.memS.wiping = false → x.errAt = none → (∀ t ∈ s.tags, ∀ m w k, t.user ≠ .post r m w k) → a + 64 ≤ 0x800000 →
        ∃ t, exec (.qmItemComplete e) s = .next t ∧ t.qm.started = rest ∧ t.qm.items = s.qm.items ∧
        (t.ring r).next = x.next + 1 ∧ (t.ring r).prod = x.next + 1 ∧ (t.ring r).rsv = x.rsv - (x.next + 1 - x.prod).toNat ∧
        (∀ i < 64, t.hallByte (a + i) = data.extractLsb' (8 * i) 8) ∧ (∀ y < 0x800000, y < a ∨ a + 64 ≤ y → t.hallByte y = s.hallByte y) ∧
        (∀ p i, cell = some (p, i) → i ∉ (t.pool (fin 8 p.toNat)).taken)) ∧
      (x.inHall = false → s.mayIssue 16 = none → exec (.qmItemComplete e) s = .next s) ∧
      (∀ tag, x.inHall = false → s.mayIssue 16 = some tag → ∃ t l, exec (.qmItemComplete e) s = .next t ∧ t.qm.started = rest ∧
        t.ring r = { x with next := x.next + 1 } ∧ t.pools = s.pools ∧ t.tags = s.tags ++ [{
          tag := tag, port := s.reqPort 16, user := .post r x.next who cell, write := true, addr := s.sysSlot x x.next, beats := 2, data := l }] ∧
        (∀ i < 64, ((s.sysSlot x x.next).toNat + i, data.extractLsb' (8 * i) 8) ∈ l))) ∧
    (∀ r n u buf live e, s.qm.started = (c, .fill r n u buf live) :: rest → let x := s.ring r; let a := slot r n
      let bad := e = .uncorrectable ∨ s.poisoned instHall a 64 = true
      ∃ t, exec (.qmItemComplete e) s = .next t ∧ t.qm.started = rest ∧
        t.ring r = { x with cons := x.cons + 1, ue := if bad ∧ live = true then some s.now else x.ue, lost := if live then x.lost else some s.now } ∧
        t.agenda = (if live then (s.schedule s.now prioHall (.buffer (barrelOf u) buf (s.hall64 a))).agenda else s.agenda)) ∧
    (∀ r n ch serial e, s.qm.started = (c, .take r n ch serial) :: rest → let x := s.ring r; let a := slot r n; let g := engOf ch
      let bad := e = .uncorrectable ∨ s.poisoned instHall a 64 = true
      ∃ t, exec (.qmItemComplete e) s = .next t ∧ t.qm.started = rest ∧ t.agenda = s.agenda ∧
        t.ring r = { x with cons := x.cons + 1, ue := if bad then some s.now else x.ue } ∧
        ((s.eng g).ringWait = true → (s.eng g).serial = serial → (t.eng g).ringWait = false ∧
          ∀ i < 64, peek (t.eng g).rbuf i = (s.hall64 a).extractLsb' (8 * i) 8)))

/-! ### Interrupt lines and assignment (R361, R362, R367, R368) -/

/-- IRQ_EVENT_COUNT, IRQ_COALESCE_TIMEOUT, ACK, IRQ_LCTL_WRITE, IRQ_TGT_WRITE and ASSIGNMENT_WRITE (R361, R362, R367, R368, Table HST-3): an event
counts and the first starts the timer; PEND at COUNT asserts, and so does the timer; ACK takes back all but the events of its own SCLK;
a target line outside the writer's partition stores EN = 0; an entry of a busy resource stays and fills HST_PERR, and each entry of an
assignment word is judged alone.
The model's own readings stand in log entry 41. -/
def Obligations.InterruptLinesAndAssignment : Prop :=
  ∀ (s : State),
  (∀ l : IrqLine, let x := s.irq l; let count := ((s.reg (.irqLctl l)).extractLsb' 0 16).toNat; let pend := min 65535 (x.pend + 1)
    exec (.irqEventCount l) s = .next (s.setIrq l { x with
      pend := pend, startAt := if x.pend = 0 then some (lclkAt s.now) else x.startAt
      inSclk := if x.sclk = s.now / 2 then x.inSclk + 1 else 1, sclk := s.now / 2, isAssert := x.isAssert || decide (count ≤ pend) }) ∧
    (∀ e, x.isAssert = false → 0 < x.pend → x.startAt = some e → let us := ((s.reg (.irqLtime l)).extractLsb' 0 16).toNat
      0 < us → e + 8 * usLclk s.mhz us ≤ s.now → exec (.irqCoalesceTimeout l) s = .next (s.setIrq l { x with isAssert := true })) ∧
    (∀ a, let left := if x.sclk = s.now / 2 then x.inSclk else 0
      GivesWrite (.ack a l) a true s (s.holds a kIrq l.val) (s.setIrq l { x with
        pend := left, isAssert := decide (count ≤ left), startAt := if left = 0 then none else some (lclkAt s.now) })) ∧
    (∀ a (v : Word), let c := if v.extractLsb' 0 16 = 0#16 then 1 else (v.extractLsb' 0 16).toNat
      ∃ t, GivesWrite (.irqLctlWrite a l v) a true s (s.holds a kIrq l.val) t ∧
        t.reg (.irqLctl l) = (v &&& 0x80000000) ||| BitVec.ofNat 32 c ∧
        t.irq l = { x with isAssert := x.isAssert || decide (c ≤ x.pend) })) ∧
  (∀ a (src : BitVec 11) (v : Word), GivesWrite (.irqTgtWrite a src v) a true s
    (match s.agentPart a with | some p => s.sourceIn p src.toNat | none => false)
    (s.setReg (.irqTgt src) (if s.holds a kIrq (v.toNat % 64) then v &&& 0x8000003F else v &&& 0x3F))) ∧
  (∀ a (k : Fin 17) (word : Fin 1024) (v : Word), 8 * word.val < paCount k → ∃ t, GivesWrite (.assignmentWrite a k word v) a true s (s.isOwner a) t ∧
    (∀ j < 8, let old := (s.reg (.hstPa k word)).extractLsb' (4 * j) 4
      (t.reg (.hstPa k word)).extractLsb' (4 * j) 4 = if s.assignBusy k (8 * word.val + j) then old else v.extractLsb' (4 * j) 4) ∧
    ((∀ j < 8, s.assignBusy k (8 * word.val + j) = false ∨ v.extractLsb' (4 * j) 4 = (s.reg (.hstPa k word)).extractLsb' (4 * j) 4) →
      t.reg .hstPerr = s.reg .hstPerr) ∧
    (∀ j < 8, s.assignBusy k (8 * word.val + j) = true → v.extractLsb' (4 * j) 4 ≠ (s.reg (.hstPa k word)).extractLsb' (4 * j) 4 →
      (t.reg .hstPerr).getLsbD 31 = true))
/-! ### The lock unit (R369 to R381) -/

/-- The host commands ACQUIRE, FREE, CAS, WATCH and UNWATCH, HOST_LOCK_INVALID_OP, LOCK_UNIT_ACCESS, HPS_FORCE, LEASE_DEADLINE and
ABANDONMENT_WRITE (R369 to R374, R377, R380, Tables HST-10 to HST-12): a command is ignored while BUSY, answers RES 5 for an address or an
operation that cannot be, and else waits at the lock unit, which performs it in its phase of the word's bank with the outcome of Table
HST-11, or RES 5 where the host has lost the word by then; a lease that is forced or an LCLK past its deadline queues an abandonment write, which marks the word and wakes and removes its watchers.
The model's own readings stand in log entries 31 and 46. -/
def Obligations.LocksFollowTheirTable : Prop :=
  ∀ s : State,
  (∀ (a : Agent) (cmd : Instr) (op : BitVec 3),
    (cmd = .acquire a ∧ op = 1) ∨ (cmd = .free a ∧ op = 2) ∨ (cmd = .cas a ∧ op = 3) ∨ (cmd = .watch a ∧ op = 4) ∨ (cmd = .unwatch a ∧ op = 5) ∨
      (cmd = .hostLockInvalidOp a op ∧ (op = 0 ∨ op = 6 ∨ op = 7)) →
    let h := s.bankOf a; let x := s.hps h; let addr : BitVec 23 := (s.reg (.hpsHaddr h)).setWidth 23
    let busy := x.busy = true ∨ (match x.doneAt with | some c => decide (s.now < c + 8) | none => false) = true
    let usable := addr.toNat % 8 = 0 ∧ s.partOf kSeg (addr.toNat / 65536) = some h ∧ (0x7C0000 ≤ addr.toNat → h = s.owner)
    GivesWrite cmd a false s true (
      if busy then s
      else if usable ∧ 1 ≤ op.toNat ∧ op.toNat ≤ 5 then
        { s with locks := { s.locks with
          banks := mput { } s.locks.banks h.val { x with op := op, busy := true }
          queue := s.locks.queue ++ [.host h op addr (s.reg (.hpsHdur h)) (s.reg (.hpsHcmpHi h) ++ s.reg (.hpsHcmpLo h))
            (s.reg (.hpsHswpHi h) ++ s.reg (.hpsHswpLo h))] } }
      else { s with locks := { s.locks with banks := mput { } s.locks.banks h.val { x with op := op, res := 5 } } })) ∧
  (∀ h op addr dur cmp swp, s.lockNext = some (.host h op addr dur cmp swp) → (∀ b o x, .abandon b o x ∈ s.locks.queue → b ≠ addr) →
    s.poisoned instHall addr.toNat 8 = false →
    let usable := addr.toNat % 8 = 0 ∧ s.partOf kSeg (addr.toNat / 65536) = some h ∧ (0x7C0000 ≤ addr.toNat → h = s.owner)
    let rest := s.locks.queue.erase (.host h op addr dur cmp swp)
    let w : DWord := BitVec.ofNat 64 (leNat (s.hallRead addr.toNat 8)); let me : BitVec 16 := BitVec.ofNat 16 (0x100 + h.val)
    let open_ := w.extractLsb' 0 16 = 0#16 ∨ w.getLsbD 63 = true; let mine := w.extractLsb' 0 16 = me ∧ w.getLsbD 63 = false
    let own := s.leaseOf addr.toNat; let place := match own with | some (i, _) => some i | none => s.freeLease
    let ends := wallEnd s.mhz s.now (max 1 (min dur.toNat 10000000))
    let watch : Watch := { who := .host h, addr := addr, input := 0 }
    let others := s.locks.watches.filter (fun y => decide (y.who ≠ .host h ∨ y.addr ≠ addr))
    ∃ t, exec .lockUnitAccess s = .next t ∧ t.locks.queue = rest ∧ (t.hps h).busy = false ∧ (t.hps h).doneAt = some s.now ∧
      (¬ usable → (t.hps h).res = 5 ∧ t.hall = s.hall ∧ t.locks.leases = s.locks.leases ∧ t.locks.watches = s.locks.watches) ∧
      (usable → (t.hps h).resWord = w.extractLsb' 62 2 ++ 0#11 ++ (t.hps h).res ++ w.extractLsb' 0 48 ∧
       let wrote := fun (o : BitVec 16) =>
         t.hall = (s.hallWrite addr.toNat (leBytes (lockOf false false (w.extractLsb' 16 32 + 1) o).toNat 8)).hall
       let same := t.hall = s.hall ∧ t.locks.leases = s.locks.leases ∧ t.locks.watches = s.locks.watches
       (op = 1 →
         (open_ → ∀ i, place = some i →
           (∃ j l, own = some (j, l) ∧ s.ownerPart l.owner = some h) ∨ s.leasesOf (some h) < ((s.reg (.hstPcfg h)).extractLsb' 0 11).toNat →
           (t.hps h).res = 0 ∧ wrote me ∧
           t.locks.leases = mput none s.locks.leases i (some { addr := addr, owner := me, deadline := ends })) ∧
         (open_ → place = none ∨ ((∀ j l, own = some (j, l) → s.ownerPart l.owner ≠ some h) ∧
             ((s.reg (.hstPcfg h)).extractLsb' 0 11).toNat ≤ s.leasesOf (some h)) → (t.hps h).res = 3 ∧ same) ∧
         (mine → (t.hps h).res = 1 ∧ t.hall = s.hall ∧
           t.locks.leases = (match own with | some (i, l) => mput none s.locks.leases i (some { l with deadline := ends }) | none => s.locks.leases)) ∧
         (¬ open_ → ¬ mine → (t.hps h).res = 2 ∧ same)) ∧
       (op = 2 →
         (mine → (t.hps h).res = 0 ∧ wrote 0 ∧ t.locks.watches = s.locks.watches.filter (fun y => decide (y.addr ≠ addr)) ∧
           t.locks.leases = (match own with | some (i, _) => mput none s.locks.leases i none | none => s.locks.leases)) ∧
         (¬ mine → (t.hps h).res = 2 ∧ same)) ∧
       (op = 3 →
         (w = cmp → (t.hps h).res = 0 ∧ t.hall = (s.hallWrite addr.toNat (leBytes swp.toNat 8)).hall ∧ t.locks.leases = s.locks.leases) ∧
         (w ≠ cmp → (t.hps h).res = 2 ∧ same)) ∧
       (op = 4 →
         (open_ → (t.hps h).res = 4 ∧ same ∧ (t.hps h).wakes = min 511 ((s.hps h).wakes + 1) ∧ (t.hps h).lastWake = addr) ∧
         (¬ open_ → others.length < 256 → (t.hps h).res = 0 ∧ t.locks.watches = others ++ [watch] ∧ t.hall = s.hall) ∧
         (¬ open_ → 256 ≤ others.length → (t.hps h).res = 3 ∧ same)) ∧
       (op = 5 → (t.hps h).res = 0 ∧ t.locks.watches = others ∧ t.hall = s.hall ∧ t.locks.leases = s.locks.leases))) ∧
  (s.lockNext = none → exec .lockUnitAccess s = .next s ∧ exec .abandonmentWrite s = .next s) ∧
  (∀ (a : Agent) (addr : BitVec 23), let word := addr.toNat / 8 * 8
    (s.leaseOf word = none → GivesWrite (.hpsForce a addr) a false s (s.isOwner a) { s with locks := { s.locks with noLease := true } }) ∧
    (∀ i l, s.leaseOf word = some (i, l) → mget none s.locks.leases i = some l → GivesWrite (.hpsForce a addr) a false s (s.isOwner a)
      { s with locks := { s.locks with
        noLease := false, leases := mput none s.locks.leases i none, queue := s.locks.queue ++ [.abandon l.addr l.owner true] } })) ∧
  (∀ e : Fin 1024, exec (.leaseDeadline e) s = .next (match mget none s.locks.leases e.val with
    | some l => if l.deadline + 8 ≤ s.now then { s with locks := { s.locks with
        leases := mput none s.locks.leases e.val none, queue := s.locks.queue ++ [.abandon l.addr l.owner true] } } else s
    | none => s)) ∧
  (∀ addr owner expired, s.lockNext = some (.abandon addr owner expired) →
    let w : DWord := BitVec.ofNat 64 (leNat (s.hallRead addr.toNat 8))
    ∃ t, exec .abandonmentWrite s = .next t ∧ exec .lockUnitAccess s = .next t ∧
      t.locks.queue = s.locks.queue.erase (.abandon addr owner expired) ∧ t.locks.leases = s.locks.leases ∧
      t.hall = (s.hallWrite addr.toNat (leBytes (lockOf true expired (w.extractLsb' 16 32 + 1) owner).toNat 8)).hall ∧
      t.locks.watches = s.locks.watches.filter (fun y => decide (y.addr ≠ addr)) ∧
      (∀ y ∈ s.locks.watches, y.addr = addr → ∀ u, y.who = .thread u →
        (if (mget ((0x7FF : BitVec 11), (0 : BitVec 2)) s.evmap (32 * u.val + y.input.toNat)).1 = 0x7E8
         then (t.thr u).ev.pend.getLsbD y.input.toNat = true else (t.thr u).ev.lost.getLsbD y.input.toNat = true)))

/-! ### The Halyard (R382 to R390, R414, R415, R429) -/

/-- LINK_TRAIN, LINK_UP, LINK_DOWN, FRAME_SEND, FRAME_FORWARD, BAD_FRAME, TUNNEL, TXMSG, POP and LOOP (R383 to R385, R388, R414, R429): a
fitted link goes from DOWN to TRAIN to UP and back with source 0x7E9; an idle lane of an UP link takes the oldest frame, with its stamp;
a frame that the node does not consume leaves on the other link with HOPS + 1, ahead of an own frame, which waits again, and a BEACON's
CORR grows by D and 52 to 60 HCLK of residence, of 96 fine units each; a link that is not fitted carries nothing; bad frames are counted; a tunnelled message waits in the queue of eight or sets OVF.
The model's own readings stand in log entries 17, 18, 34 and 35. -/
def Obligations.LinksCarryAndForwardFrames : Prop :=
  ∀ s : State,
  let moved := fun (down : Bool) (x : LinkSt) => (if down then { s with hly := { s.hly with dn := x } } else { s with hly := { s.hly with up := x } } : State)
  let aligned := fun (t : State) => t.hly.align = (if s.hly.align = .free ∧ t.hly.up = .up then .acquire
    else if s.hly.align = .acquire ∧ t.hly.up ≠ .up then .free else s.hly.align)
  (∀ down, (s.works → s.sys.straps.hlyEn.getLsbD (if down then 1 else 0) = true → s.linkIs down .down →
      exec (.linkTrain down) s = .next ((moved down .train).pulse 0x7E9)) ∧
    (¬ (s.works ∧ s.sys.straps.hlyEn.getLsbD (if down then 1 else 0) = true ∧ s.linkIs down .down) → exec (.linkTrain down) s = .next s) ∧
    (s.works → s.linkIs down .train → ∃ t, exec (.linkUp down) s = .next t ∧ t.linkIs down .up ∧ (∀ x, s.linkIs (!down) x → t.linkIs (!down) x) ∧
      aligned t ∧ t.hly.codeErr = s.hly.codeErr) ∧
    (¬ (s.works ∧ s.linkIs down .train) → exec (.linkUp down) s = .next s) ∧
    (∀ errs, (s.works → s.linkIs down .up → ∃ t, exec (.linkDown down errs) s = .next t ∧ t.linkIs down .down ∧
        (∀ x, s.linkIs (!down) x → t.linkIs (!down) x) ∧ aligned t ∧ t.hly.codeErr = min 255 (s.hly.codeErr + errs.toNat)) ∧
      (¬ (s.works ∧ s.linkIs down .up) → exec (.linkDown down errs) s = .next s))) ∧
  (∀ down stamp, let l := s.laneOf down
    (∀ f rest, l.queue = f :: rest → s.works → s.linkIs down .up → l.busyTo ≤ s.now →
      let at_ := if f.typ = 1 then 0 else 8
      let g : Frame := if f.typ = 1 ∨ f.typ = 3 then
        { f with payload := f.payload.take at_ ++ leBytes stamp.toNat 8 ++ f.payload.drop (at_ + 8) } else f
      ∃ t, exec (.frameSend down stamp) s = .next t ∧ t.laneOf down = { queue := rest, cur := some g, busyTo := s.now + laneTime f } ∧
        t.laneOf (!down) = s.laneOf (!down) ∧ t.hly.sent = s.hly.sent ++ [{ down := down, frame := g, aborted := false }] ∧
        t.hly.t1 = (if f.typ = 2 then stamp else s.hly.t1)) ∧
    (l.queue = [] ∨ ¬ s.works ∨ ¬ s.linkIs down .up ∨ s.now < l.busyTo → exec (.frameSend down stamp) s = .next s)) ∧
  (∀ (fromDown : Bool) (f : Frame) (crcOk : Bool), let out := !fromDown; let l := s.laneOf out
    (s.hears fromDown → s.passes f → s.linkIs out .up → ∃ t g r, exec (.frameForward fromDown f crcOk) s = .next t ∧
      4992 ≤ r ∧ r ≤ 5760 ∧
      t.hly.sent.getLast? = some { down := out, frame := g, aborted := !crcOk } ∧
      (f.typ ≠ 1 → g = { f with hops := f.hops + 1 }) ∧
      (f.typ = 1 → g = { f with
        hops := f.hops + 1
        payload := f.payload.take 8 ++ leBytes ((fieldAt f 8 4 + (s.hly.dly.headD 0).toNat + r) % 2 ^ 32) 4 ++ f.payload.drop 12 }) ∧
      t.laneOf fromDown = s.laneOf fromDown ∧ (t.laneOf out).cur = none ∧ (t.laneOf out).busyTo = s.now + r / 32 + laneTime f ∧
      (t.laneOf out).queue = (match l.cur with | some own => if s.now < l.busyTo then own :: l.queue else l.queue | none => l.queue) ∧
      t.hly.crcErr = (if crcOk then s.hly.crcErr else min 255 (s.hly.crcErr + 1))) ∧
    (¬ s.hears fromDown → exec (.frameForward fromDown f crcOk) s = .next s) ∧
    (s.hears fromDown → ¬ (s.passes f ∧ s.linkIs out .up) → exec (.frameForward fromDown f crcOk) s =
      .next (if crcOk then s else { s with hly := { s.hly with crcErr := min 255 (s.hly.crcErr + 1) } }))) ∧
  (s.hears true ∨ s.hears false →
    exec (.badFrame .reservedTypeOrLen) s = .next { s with hly := { s.hly with dropErr := min 255 (s.hly.dropErr + 1) } } ∧
    exec (.badFrame .badCrc) s = .next { s with hly := { s.hly with crcErr := min 255 (s.hly.crcErr + 1) } } ∧
    exec (.badFrame .aborted) s = .next { s with hly := { s.hly with abortErr := min 255 (s.hly.abortErr + 1) } }) ∧
  (¬ s.hears true → ¬ s.hears false → ∀ x, exec (.badFrame x) s = .next s) ∧
  (∀ f : Frame, s.takes f → f.typ = 9 ∨ f.typ = 10 → ∃ t, exec (.tunnel f) s = .next t ∧
    (if s.hly.rx.length < 8 then
       t.hly.rx = s.hly.rx ++ [{ status := decide (f.typ = 9), src := f.src, data := f.payload.take 64 }] ∧ t.hly.rxOvf = s.hly.rxOvf
     else t.hly.rx = s.hly.rx ∧ t.hly.rxOvf = some s.now)) ∧
  (∀ a, GivesWrite (.pop a) a false s (s.isOwner a) { s with hly := { s.hly with rx := s.hly.rx.tail } }) ∧
  (∀ a, let n := ((s.reg .hlyTxctl).extractLsb' 16 7).toNat; let dst := (s.reg .hlyTxctl).extractLsb' 0 14
    let pos : BitVec 14 := if (s.reg .hlyCtl).getLsbD 31 then 0 else s.hly.pos
    let text := (List.finRange 16).flatMap (fun i => leBytes (s.reg (.hlyTxbuf i)).toNat 4)
    GivesWrite (.txmsg a) a false s (s.isOwner a) (if 1 ≤ n ∧ n ≤ 64 then s.queues (decide (pos.toNat ≤ dst.toNat)) 10 false dst (text.take n) else s)) ∧
  (∀ f : Frame, ¬ s.hears f.upw → exec (.tunnel f) s = .next s ∧ exec (.loopF f) s = .next s) ∧
  (∀ f : Frame, s.hears f.upw → f.typ = 11 → exec (.loopF f) s = .next (
    if (s.reg .hlyCtl).getLsbD 30 then s else { s with hly := { s.hly with farLoop := decide (f.payload.headD 1 ≠ 0) } }))

/-- ROLLCALL, ROLLEND, QUERY, STATUS_REPLY, BEACON, BEACON_SEND, BEACON_LOSS, TBASE_SLEW, DELAY_MEASUREMENT, DLYREQ, DLYRSP and the host's
HLY_CMD ROLLCALL, REACQ, DELAY and HLY_CTL (R386 to R389, R415, Table HLY-3): a node takes HOPS + 1 as its position and a tail answers; the
head holds the count; D is half of the turn-round less the neighbour's time; a beacon gives O = CT + CORR + D − A, which ACQUIRE steps,
LOCKED slews within the limit and HOLDOVER waits for; a slew moves TBASE by one, once in 256 FCLK.
The model's own readings stand in log entries 13, 34 and 35. -/
def Obligations.PositionsAndChainTime : Prop :=
  ∀ s : State,
  let align := fun (x : AlignSt) => if s.hly.align = x then s else ({ s with hly := { s.hly with align := x } } : State).pulse 0x7EA
  let counted := fun (n : Nat) => ({ s with hly := { s.hly with nodes := BitVec.ofNat 14 n } } : State).pulse 0x7E9
  let period := ((s.reg .hlyCtl).extractLsb' 0 16).toNat
  (∀ (f : Frame) (stamp : DWord), ¬ s.hears f.upw → exec (.rollcall f) s = .next s ∧ exec (.rollend f) s = .next s ∧
    exec (.query f) s = .next s ∧ exec (.beacon f stamp) s = .next s) ∧
  (∀ f : Frame, s.hears f.upw → f.typ = 4 → f.len.toNat ≤ 65 →
    (¬ s.heads → ∃ t, exec (.rollcall f) s = .next t ∧ t.hly.pos = f.hops + 1 ∧ t.hly.posv = true ∧ t.hly.nodes = s.hly.nodes ∧
      (if s.hly.dn = .up then t.hly.seq = s.hly.seq
       else t.hly.seq = s.hly.seq + 1 ∧ ∃ g ∈ t.hly.laneUp.queue, g.typ = 5 ∧ g.bc = false ∧ g.upw = true ∧ g.dst = 0 ∧ g.src = f.hops + 1 ∧
         g.payload = leBytes ((f.hops + 1).toNat + 1) 4)) ∧
    (s.heads → ∃ t, exec (.rollcall f) s = .next t ∧ t.hly.nodes = BitVec.ofNat 14 (f.hops.toNat + 1) ∧ t.hly.pos = s.hly.pos)) ∧
  (∀ f : Frame, f.typ = 5 → s.takes f → ∃ t, exec (.rollend f) s = .next t ∧ t.hly.pos = s.hly.pos ∧
    (s.heads → t.hly.nodes = BitVec.ofNat 14 (fieldAt f 0 4)) ∧ (¬ s.heads → t.hly.nodes = s.hly.nodes)) ∧
  (∀ f : Frame, f.typ = 8 → s.takes f → ¬ s.heads →
    let asked := f.src = 0 ∧ s.hly.posv = true ∧ fieldAt f 0 2 ≤ s.hly.pos.toNat ∧ s.hly.pos.toNat ≤ fieldAt f 2 2 ∧
      (fieldAt f 4 1 = 0xFF ∨ fieldAt f 4 1 ≠ s.upd.outcome.toNat)
    ∃ t, exec (.query f) s = .next t ∧
      t.hly.statusAt = if asked then some (wallEnd s.mhz s.now s.hly.pos.toNat) else s.hly.statusAt) ∧
  (∀ n, s.hly.statusAt = some n → exec .statusReply s = .next
    { s.queues false 9 false 0 (leBytes s.upd.stage.code 1 ++ leBytes s.hly.align.code 1 ++ leBytes s.upd.outcome.toNat 1 ++
        leBytes s.upd.cause.toNat 1 ++ leBytes s.upd.imgId.toNat 8 ++ leBytes s.upd.bitmap.length 4) with
      hly := { (s.queues false 9 false 0 (leBytes s.upd.stage.code 1 ++ leBytes s.hly.align.code 1 ++ leBytes s.upd.outcome.toNat 1 ++
        leBytes s.upd.cause.toNat 1 ++ leBytes s.upd.imgId.toNat 8 ++ leBytes s.upd.bitmap.length 4)).hly with statusAt := none } }) ∧
  (∀ a, GivesWrite (.hlyCmdRollcall a) a false s (s.isOwner a)
    (if (s.reg .hlyCtl).getLsbD 31 then (if s.hly.dn = .up then s.queues true 4 true 0 [] else counted 1) else s)) ∧
  (∀ (f : Frame) (stamp : DWord), f.typ = 1 → s.takes f →
    let o : Int := (BitVec.ofNat 64 (fieldAt f 0 8 + fieldAt f 8 4 + (s.hly.dly.headD 0).toNat) - stamp).toInt
    let within := o.natAbs ≤ 32 * ((s.reg .hlyTctl).extractLsb' 16 16).toNat
    ∃ t r, exec (.beacon f stamp) s = .next t ∧ 32 * r ≤ o + 16 ∧ o + 16 < 32 * r + 32 ∧
      t.hly.offs = BitVec.ofInt 32 o ∧ t.hly.lastBeacon = s.now ∧
      t.tbase = (if s.hly.align = .acquire then s.tbase + BitVec.ofInt 64 r else s.tbase) ∧
      t.hly.align = (if s.hly.align = .acquire then .locked
        else if s.hly.align = .locked ∧ ¬ within then .holdover else if s.hly.align = .holdover ∧ within then .locked else s.hly.align) ∧
      t.hly.slewOwed = (if s.hly.align = .acquire then 0 else if s.hly.align = .locked ∧ within then r else s.hly.slewOwed)) ∧
  ((s.heads → exec .beaconSend s = .next { s.queues true 1 true 0 (List.replicate 16 0) with
      hly := { (s.queues true 1 true 0 (List.replicate 16 0)).hly with nextBeacon := wallEnd s.mhz s.now period } }) ∧
    (¬ s.heads → exec .beaconSend s = .next s)) ∧
  (exec .beaconLoss s = .next (if s.hly.align = .locked ∧
      wallEnd s.mhz s.hly.lastBeacon (((s.reg .hlyTctl).extractLsb' 8 8).toNat * period) ≤ s.now then align .holdover else s)) ∧
  (∀ forward : Bool, let d : Int := if forward then 1 else -1; let may := (s.hly.align = .locked ∨ s.hly.align = .holdover) ∧ s.hly.slewAt ≤ s.now
    (may → ∃ t, exec (.tbaseSlew forward) s = .next t ∧ t.tbase = s.tbase + BitVec.ofInt 64 d ∧ t.hly.slewAt = s.now + 256 ∧
      t.hly.slewOwed = if s.hly.slewOwed = 0 then 0 else s.hly.slewOwed - d) ∧
    (¬ may → exec (.tbaseSlew forward) s = .next s)) ∧
  (let asked : State := { s.queues false 2 false 0x3FFF [] with
     hly := { (s.queues false 2 false 0x3FFF []).hly with nextDly := wallEnd s.mhz s.now 1000000 } }
   (s.works → s.hly.up = .up → exec .delayMeasurement s = .next asked ∧
     ∀ a, GivesWrite (.hlyCmdDelay a) a false s (s.isOwner a) asked) ∧
   (¬ (s.works ∧ s.hly.up = .up) → exec .delayMeasurement s = .next s ∧ ∀ a, GivesWrite (.hlyCmdDelay a) a false s (s.isOwner a) s)) ∧
  (∀ (f : Frame) (stamp : DWord), s.hears true → f.typ = 2 →
    exec (.dlyreq f stamp) s = .next (s.queues true 3 false 0x3FFF (leBytes stamp.toNat 8 ++ List.replicate 8 0))) ∧
  (∀ (f : Frame) (stamp : DWord), s.hears false → f.typ = 3 →
    let span : Int := ((stamp - s.hly.t1) - (BitVec.ofNat 64 (fieldAt f 8 8) - BitVec.ofNat 64 (fieldAt f 0 8))).toInt
    ∃ d : Int, (2 * d = span ∨ 2 * d = span + 1) ∧
      exec (.dlyrsp f stamp) s = .next { s with hly := { s.hly with dly := (BitVec.ofInt 32 d :: s.hly.dly).take 8 } }) ∧
  (∀ a, GivesWrite (.reacq a) a false s (s.isOwner a)
    (if (s.reg .hlyCtl).getLsbD 31 then s else align (if s.hly.up = .up then .acquire else .free))) ∧
  (∀ (a : Agent) (v : Word), ∃ t, GivesWrite (.hlyCtlWrite a v) a false s (s.isOwner a) t ∧
    (t.reg .hlyCtl).getLsbD 31 = v.getLsbD 31 ∧ (t.reg .hlyCtl).getLsbD 30 = v.getLsbD 30 ∧
    (t.reg .hlyCtl).extractLsb' 0 16 = (if v.extractLsb' 0 16 = 0#16 then 1 else v.extractLsb' 0 16) ∧
    t.hly.align = (if v.getLsbD 31 = true ∧ ¬ (s.reg .hlyCtl).getLsbD 31 = true then .head
      else if (s.reg .hlyCtl).getLsbD 31 = true ∧ ¬ v.getLsbD 31 = true then (if s.hly.up = .up then .acquire else .free) else s.hly.align))

/-! ### Images, updates, settings and the lifecycle (R391 to R411, R415) -/

/-- BEGIN, IMAGE_WINDOW_WRITE, IMAGE, VERIFY, VERIFICATION_END, SEND, ACTIVATE, CONFIRM, FALLBACK, CANCEL, ORDER, CONFIRMATION_TIMEOUT and
MOVEMENT_HOLD_END (R392 to R403): an operation acts the same as a command and as an order of the head, and CHAIN on the head also
broadcasts it; chunks fill the staging slot unit by unit; the first failing check of Table HLY-6 names the failure; SEND broadcasts the
chosen chunks from a head with a verified image; a confirmation that does not come asks for a fall-back.
The model's own readings stand in log entries 8, 34 and 36. -/
def Obligations.UpdatesFollowTheirStages : Prop :=
  ∀ s : State, let u := s.upd
  let event := fun (t : State) (src : BitVec 11) => ∀ e ∈ s.evmap, e.2.1 = src → (t.thr (fin 128 (e.1 / 32))).ev.pend.getLsbD (e.1 % 32) = true
  let same := fun (t : State) => t.desk = s.desk ∧ t.hall = s.hall ∧ t.ins = s.ins ∧ t.slate = s.slate ∧ t.regs = s.regs
  (∀ (a : Agent) (chain : Bool) (cmd : Instr) (op : Nat),
    (cmd, op) ∈ [(.updBegin a chain, 1), (.activate a chain, 2), (.confirm a chain, 3), (.fallback a chain, 4), (.cancel a chain, 5), (.verify a chain, 6)] →
    let b : Bell := fin 16 ((s.reg .updAcls).extractLsb' 0 4).toNat
    let id := s.reg .updImgidHi ++ s.reg .updImgidLo; let n := s.reg .updAbellHi ++ s.reg .updAbellLo; let len := s.reg .updLen
    ∃ t, OpLeaves s op b len id n t.upd ∧ same t ∧ (op = 2 → event t 0x7ED) ∧ (op = 3 → u.stage = .provisional → event t 0x7EE) ∧
      GivesWrite cmd a false s (s.isOwner a) (if chain && (s.reg .hlyCtl).getLsbD 31 then t.queues true 7 true 0 (orderOf op b len id n) else t)) ∧
  (∀ f : Frame, ¬ s.hears f.upw → exec (.image f) s = .next s ∧ exec (.order f) s = .next s) ∧
  (∀ f : Frame, s.takes f → f.typ = 7 → ∃ t, exec (.order f) s = .next t ∧ same t ∧
    (f.src ≠ 0 → t.upd = u) ∧
    (f.src = 0 → OpLeaves s (fieldAt f 0 1) (fin 16 (fieldAt f 1 1)) (BitVec.ofNat 32 (fieldAt f 4 4)) (BitVec.ofNat 64 (fieldAt f 8 8))
      (BitVec.ofNat 64 (fieldAt f 16 8)) t.upd)) ∧
  (∀ (a : Agent) (off : BitVec 12) (data : List Byte), let chunk := ((s.reg .updChunk).extractLsb' 8 12).toNat; let o := off.toNat
    (u.stage = .download → chunk < 3072 → ∃ t, GivesWrite (.imageWindowWrite a off data) a false s (s.isOwner a) t ∧
      Stores s t (4096 * chunk + o) (data.take (4096 - o)) t.upd.seqHost ∧
      (o % 128 = 0 ∧ data.length = 128 → Follows u.seqHost chunk (o / 128) 1 t.upd.seqHost) ∧
      (¬ (o % 128 = 0 ∧ data.length = 128) → t.upd.seqHost = none)) ∧
    (¬ (u.stage = .download ∧ chunk < 3072) → GivesWrite (.imageWindowWrite a off data) a false s (s.isOwner a) s)) ∧
  (∀ f : Frame, s.takes f → f.typ = 6 → let k := fieldAt f 2 2
    let wanted := f.src = 0 ∧ u.stage = .download ∧ fieldAt f 0 2 = u.imgId.toNat % 65536 ∧ k < 49152
    ∃ t, exec (.image f) s = .next t ∧
      (wanted → Stores s t (256 * k) ((f.payload.drop 4).take 256) t.upd.seqHly ∧ Follows u.seqHly (k / 16) (2 * (k % 16)) 2 t.upd.seqHly) ∧
      (¬ wanted → t.upd = u ∧ same t)) ∧
  (∀ e : Ecc, let m := s.stagingImg; let n := imgNum m 0x00C 4; let at_ := if u.stagingB then 393216 else 0
    let checks : List (Nat × Bool) :=
      [(8, (List.range ((u.imgLen.toNat + 4095) / 4096)).all (fun k => mget false u.bitmap k)),
       (1, decide (imgNum m 0 4 = 0x4E524441 ∧ imgNum m 4 2 = 1)),
       (2, decide (imgNum m 6 1 = 3 ∧ imgNum m 7 1 = 2 ∧ imgNum m 8 1 ≤ Config.patch.toNat)),
       (3, decide (n % 256 = 0 ∧ 2048 ≤ n ∧ n ≤ 12582912 ∧ n = u.imgLen.toNat)),
       (4, sectionsOk m), (5, s.keyOk m), (6, sigOk m), (7, decide (e ≠ .uncorrectable) && s.memS.mramBad.all (fun w => decide (w < at_ ∨ at_ + (min n 12582912 + 31) / 32 ≤ w)))]
    let fail := firstFailing checks
    (u.stage = .verifying → s.sys.phase ≠ .cold → ∃ t, exec (.verificationEnd e) s = .next t ∧ same t ∧ event t 0x7EC ∧
      t.upd = if fail = 0#4 then ({ u with vDone := true, vFail := 0, stage := .verified } : UpdS).noted 2 0 0
        else { u with vDone := true, vFail := fail, stage := .download }) ∧
    (u.stage ≠ .verifying ∨ s.sys.phase = .cold → exec (.verificationEnd e) s = .next s)) ∧
  (∀ a : Agent, let err := fun (e : BitVec 4) => ({ s with upd := { u with cmdErr := e } } : State)
    let w := s.reg .updChunk; let first := 16 * (w.extractLsb' 20 12).toNat
    let last := min (16 * ((w.extractLsb' 8 12).toNat + 1)) ((u.imgLen.toNat + 255) / 256); let q := s.hly.laneDn.queue
    (¬ s.heads → GivesWrite (.send a) a false s (s.isOwner a) (err 5)) ∧
    (s.heads → u.stage ≠ .verified ∨ s.sys.phase = .recovery → GivesWrite (.send a) a false s (s.isOwner a) (err 1)) ∧
    (s.heads → u.stage = .verified → s.sys.phase ≠ .recovery → ∃ t, GivesWrite (.send a) a false s (s.isOwner a) t ∧ same t ∧
      t.upd = { u with cmdErr := 0 } ∧ t.hly.laneDn.queue.take q.length = q ∧ t.hly.laneDn.queue.length = q.length + (last - first) ∧
      ∀ k < last - first, ∃ f, t.hly.laneDn.queue[q.length + k]? = some f ∧ f.typ = 6 ∧ f.bc = true ∧ f.src = 0 ∧ f.upw = false ∧
        f.payload = leBytes u.imgId.toNat 2 ++ leBytes (first + k) 2 ++ peeks s.stagingImg (256 * (first + k)) 256)) ∧
  (∀ c, u.confirmBy = some c → (s.now < c → exec .confirmationTimeout s = .next s) ∧
    (c ≤ s.now → u.stage = .switching ∨ u.stage = .provisional → exec .confirmationTimeout s =
      .next { s with upd := { u.fallsBack 0 with confirmBy := none } })) ∧
  (∀ c : Bell, let src := ((s.reg (.updMot c)).extractLsb' 0 5).toNat; let fired := mget 0 u.moving src
    exec (.movementHoldEnd c) s = .next (
      if fired ≠ 0 ∧ s.now < wallEnd s.mhz (fired - 1) ((s.reg .updCfg).extractLsb' 0 16).toNat then s
      else { s with upd := { u with moving := mput 0 u.moving src 0 } }))

/-- SETBEGIN, SETTINGS_WINDOW_WRITE, SETCOMMIT, RECOVBOOT, the lifecycle transitions, OWNER_LOCK_SET, OWNER_LOCK_CLEAR, WIPE_COMMAND and
RECOVER (R319, R406, R407, R409 to R411, Table HLY-10): a settings copy opens in free blocks, takes its bytes, and becomes current where it
verifies; RECOVBOOT confirms the verified image in the ROM and restarts; an action that needs presence is refused with ERR 1 without an
open window and closes it; a transition of the table wipes the secure region, fires 0x7EF and erases what it erases.
The model's own readings stand in log entries 8, 37 and 38. -/
def Obligations.SettingsAndLifecycle : Prop :=
  ∀ (s : State) (a : Agent), let u := s.upd; let own := s.isOwner a
  let upd := fun (v : UpdS) => ({ s with upd := v } : State)
  let written := fun (v : UpdS) => ({ s with upd := v, memS := { s.memS with mramBusyTo := s.now + 256 } } : State)
  let event := fun (t : State) (src : BitVec 11) => ∀ e ∈ s.evmap, e.2.1 = src → (t.thr (fin 128 (e.1 / 32))).ev.pend.getLsbD (e.1 % 32) = true
  let secure := fun (x : Nat) => 0x7C0000 ≤ x ∧ x < 0x800000
  (let w := s.reg .updSeth; let half := w.getLsbD 31; let len := (w.extractLsb' 0 16).toNat
   let busy := half = u.half ∧ (u.stage = .switching ∨ u.stage = .provisional)
   let held := (if half then u.copyB else u.copyA).map (·.blocks)
   (s.sys.phase = .recovery → GivesWrite (.setbegin a) a false s own (upd { u with cmdErr := 1 })) ∧
   (s.sys.phase ≠ .recovery → busy → GivesWrite (.setbegin a) a false s own (upd { u with cmdErr := 4 })) ∧
   (s.sys.phase ≠ .recovery → ¬ busy → ∃ blocks wear, GivesWrite (.setbegin a) a false s own (upd { u with
       openCopy := some (half, { len := len, data := [], blocks := blocks }), wear := wear, cmdErr := 0 }) ∧
     blocks.Nodup ∧ (∀ k ∈ blocks, (if half then 512 else 0) ≤ k ∧ k < (if half then 1024 else 512) ∧ (∀ l, held = some l → k ∉ l)) ∧
     ((held.getD []).length ≤ 8 → blocks.length = min 8 ((len + 4095) / 4096)) ∧
     (∀ k, mget 0 wear k = mget 0 u.wear k + if k ∈ blocks then 1 else 0) ∧
     (∀ k ∈ blocks, ∀ j ∉ blocks, (if half then 512 else 0) ≤ j → j < (if half then 1024 else 512) → (∀ l, held = some l → j ∉ l) →
       mget 0 u.wear k ≤ mget 0 u.wear j))) ∧
  (∀ (off : BitVec 15) (data : List Byte), let o := off.toNat
    (u.openCopy = none → GivesWrite (.settingsWindowWrite a off data) a false s own s) ∧
    (∀ half c, u.openCopy = some (half, c) → ∃ d, GivesWrite (.settingsWindowWrite a off data) a false s own
        (written { u with openCopy := some (half, { c with data := d }) }) ∧
      ∀ x, peek d x = if o ≤ x ∧ x < c.len ∧ x < o + data.length then data.getD (x - o) 0 else peek c.data x)) ∧
  ((u.openCopy = none → GivesWrite (.setcommit a) a false s own (upd { u with cmdErr := 1 })) ∧
   (∀ half c, u.openCopy = some (half, c) →
     let fmt := imgNum (if half = u.half then s.confirmedImg else s.stagingImg) 0x01C 4
     let verifies := 64 ≤ c.len ∧ c.len ≤ 32768 ∧ imgNum c.data 0 4 = 0x53544553 ∧ imgNum c.data 4 4 = fmt ∧ imgNum c.data 12 4 = c.len ∧
       BitVec.ofNat 384 (imgNum c.data 16 48) = Config.sha384 (peeks c.data 64 (c.len - 64))
     (verifies → GivesWrite (.setcommit a) a false s own (written (({ u with
       openCopy := none, cmdErr := 0, copyA := if half then u.copyA else some c, copyB := if half then some c else u.copyB } : UpdS).write 4
         { typ := 8, slotB := false, half := half, imgid := BitVec.ofNat 64 (imgNum c.data 8 4), bell := BitVec.ofNat 64 (c.blocks.headD 0)
           cls := 0 }))) ∧
     (¬ verifies → GivesWrite (.setcommit a) a false s own (upd { u with openCopy := none, cmdErr := 3 })))) ∧
  (let may := s.sys.phase = .recovery ∧ u.stage = .verified ∧ (u.lc = .opened ∨ u.lc = .owned)
   (¬ may → GivesWrite (.recovboot a) a false s own (upd { u with cmdErr := 1 })) ∧
   (may → ∃ t, GivesWrite (.recovboot a) a false s own t ∧ t.upd = { u.noted 5 0 0 with
       stage := .idle, stagingB := !u.stagingB, half := !u.half, cid := u.imgId, cmdErr := 0 } ∧
     t.sys = s.sys ∧ (∃ x ∈ t.agenda, x.due = s.now ∧ x.eff = .warmDue true) ∧
     (∀ x, (t.thr x).bankY = false ∧ (t.thr x).todo = .none) ∧ (∀ b w, t.insWord b true w = s.insWord b true w) ∧ t.desk = s.desk ∧ t.hall = s.hall)) ∧
  (∀ (cmd : Instr) (goal : LcState), (cmd, goal) ∈ [(.lifecycleToOpen a, .opened), (.lifecycleToOwned a, .owned),
      (.lifecycleToReturned a, .returned), (.lifecycleToScrapped a, .scrapped)] →
    let listed := (u.lc, goal) ∈ [(.blank, .opened), (.blank, .scrapped), (.opened, .owned), (.opened, .scrapped), (.owned, .returned),
      (.owned, .scrapped), (.returned, .opened), (.returned, .scrapped)]
    let noKey := goal = .owned ∧ ∀ k, s.reg (.lcsOkh k) = 0
    (s.sys.window = none → GivesWrite cmd a false s own (upd { u with lcErr := 1 })) ∧
    (∀ w, s.sys.window = some w →
      (¬ listed → GivesWrite cmd a false s own (upd { u with lcErr := 2 })) ∧
      (listed → noKey → GivesWrite cmd a false s own (upd { u with lcErr := 3 })) ∧
      (listed → ¬ noKey → ∃ t, GivesWrite cmd a false s own t ∧ t.upd.lc = goal ∧ t.upd.lcErr = 0 ∧ t.sys.window = none ∧
        t.memS.wiping = true ∧ (s.memS.wiping = false → t.memS.wipeTrig = 2 ∧ ∀ x, secure x → peek t.hall x = 0) ∧ event t 0x7EF ∧
        (goal = .opened → t.upd = { u with lc := .opened, lcErr := 0 }) ∧
        (goal = .owned → ∀ k : Fin 12, t.upd.okh.extractLsb' (32 * k.val) 32 = s.reg (.lcsOkh k)) ∧
        (goal = .returned → t.upd.okh = 0 ∧ t.upd.ownLock = false ∧ t.upd.slotA = [] ∧ t.upd.slotB = [] ∧ t.upd.copyA = none ∧
          t.upd.copyB = none ∧ ∀ x, (t.thr x).st = .off ∨ (s.thr x).st = .lockup) ∧
        (goal = .scrapped → t.upd.okh = u.okh ∧ t.upd.ownLock = u.ownLock ∧ t.upd.slotA = [] ∧ t.upd.slotB = [] ∧ t.upd.copyA = none ∧
          t.upd.copyB = none ∧ t.upd.openCopy = none ∧ t.upd.journal = [] ∧ t.upd.bitmap = [] ∧ t.sys.phase = .scrapped ∧ t.padHold = true ∧
          ∀ x, (t.thr x).st = .off ∨ (s.thr x).st = .lockup)))) ∧
  GivesWrite (.ownerLockSet a) a false s own (written { u with ownLock := true, lcErr := 0 }) ∧
  (s.sys.window = none → ∀ cmd ∈ [.ownerLockClear a, .wipeCommand a, .recover a], GivesWrite cmd a false s own (upd { u with lcErr := 1 })) ∧
  (∀ w, s.sys.window = some w →
    GivesWrite (.ownerLockClear a) a false s own { written { u with ownLock := false, lcErr := 0 } with sys := { s.sys with window := none } } ∧
    (∃ t, GivesWrite (.wipeCommand a) a false s own t ∧ t.upd = { u with lcErr := 0 } ∧ t.sys = { s.sys with window := none } ∧
      t.memS.wiping = true ∧ (s.memS.wiping = false → t.memS.wipeTrig = 5 ∧ t.memS.wipeCause = s.memS.wipeCause ∧ t.memS.wiped = [] ∧ t.memS.wipeCount = s.memS.wipeCount + 1 ∧
        ∀ x, peek t.hall x = if secure x then 0 else peek s.hall x)) ∧
    (∃ t, GivesWrite (.recover a) a false s own t ∧ t.upd = { u with recoverNext := true, lcErr := 0 } ∧
      t.sys = { s.sys with window := none } ∧ ∃ x ∈ t.agenda, x.due = s.now ∧ x.eff = .warmDue true))

/-! ### Drills and loop-backs (R425 to R431) -/

/-- The drills of Table SUP-4, FAR_END_TIMEOUT, DRILL_END and SNAP (R425 to R429, R431): a GO while a drill runs sets IGN alone; arguments
that name nothing end with RES 4 and targets that are not parked with RES 2, and both touch nothing else; a drill takes its arguments
and runs its parts; its end writes RES and DATA, asks for a report card, fires 0x7F0 and restores what it changed; a far-end loop without
an echo within 10 µs ends with RES 2; drill mode asks for a warm reset.
The model's own readings stand in log entry 40. -/
def Obligations.DrillsRunAndEnd : Prop :=
  ∀ (s : State) (a : Agent), let own := s.isOwner a; let x := s.reg .drlArg0; let y := s.reg .drlArg1; let n := x.toNat
  let still := (s.reg .hlyCtl).getLsbD 30 = false
  let busySlot := (decide (n = 1) == s.upd.stagingB) = true ∧ (s.upd.stage = .verifying ∨ (s.upd.stage = .armed ∧ s.upd.copyDone = false))
  let pins := ((List.range 32).filter (fun i => y.getLsbD i)).map (chanOf (fin 16 (x.extractLsb' 0 4).toNat))
  let parked := fun (c : Chan) => ∀ t, s.pinOwner c = some t → (s.thr t).st = .maint
  let spare := fun (m : Nat) => m < 13 ∧ (s.inst (fin 13 m)).retired = none
  let link := n < 2 ∧ s.sys.straps.hlyEn.getLsbD (if n = 1 then 1 else 0) = true
  let loopFrame := fun (b : Byte) => s.queues (decide (n = 1)) 11 false
    ((if (s.reg .hlyCtl).getLsbD 31 then 0 else s.hly.pos) + (if n = 1 then 1 else -1)) [b]
  let begins := fun (cmd : Instr) (code : Byte) (left : Nat) (exists_ parked_ : Prop) (t : State) =>
    (s.drill.cur.isSome = true → GivesWrite cmd a false s own { s with drill := { s.drill with ign := some s.now } }) ∧
    (s.drill.cur = none → ¬ exists_ → GivesWrite cmd a false s own (s.drillOver code 4 0)) ∧
    (s.drill.cur = none → exists_ → ¬ parked_ → GivesWrite cmd a false s own (s.drillOver code 2 0)) ∧
    (s.drill.cur = none → exists_ → parked_ → code ≠ 0x10 → code ≠ 0x20 →
      GivesWrite cmd a false s own { t with drill := (s.drillOn code left []).drill })
  begins (.regionTestNow a) 0x01 1 (spare n) True s ∧
  begins (.instancePass a) 0x02 (if n < 8 then 128 else if n < 12 then 32 else 2048) (spare n) True s ∧
  begins (.scrubPass a) 0x03 1900544 True True s ∧ begins (.mramReadPass a) 0x04 0 True True s ∧
  begins (.imageVerification a) 0x05 0 (n < 2 ∧ ¬ busySlot) True s ∧ begins (.calibrationGroup a) 0x06 17 (n < 32) True s ∧
  begins (.pinLoopBack a) 0x10 0 (1 ≤ (x.extractLsb' 4 2).toNat) (∀ c ∈ pins, parked c) s ∧
  begins (.converterLoopBack a) 0x11 0 (n < 32) ((s.reg (.cvpCfg (fin 32 n))).getLsbD 31 = false) s ∧
  begins (.halyardPcsLoop a) 0x13 0 link still s ∧ begins (.halyardLineLoop a) 0x14 0 link still s ∧
  begins (.halyardFarEndLoop a) 0x15 0 link still (loopFrame 1) ∧ begins (.initiatorEcho a) 0x16 32 True True s ∧
  (∀ key : BitVec 16, begins (.drillModeStart a key) 0x20 0 (key = 0x4D44) True s) ∧
  (s.drill.cur = none → 1 ≤ (x.extractLsb' 4 2).toNat → (∀ c ∈ pins, parked c) → ∃ t, GivesWrite (.pinLoopBack a) a false s own t ∧
    t.drill = (s.drillOn 0x10 0 (pins.map (fun c => (c.val, s.reg (.pinPad c))))).drill ∧
    (∀ c ∈ pins, let w := (s.reg (.pinPad c) &&& 0x3FFFFFFF) ||| ((x.extractLsb' 4 2).setWidth 32 <<< 30)
      t.reg (.pinPad c) = w ∧ (t.pin c).drill = some (x.extractLsb' 4 2) ∧
      ({ due := s.now + 2, prio := prioUnit, thread := none, issuedAt := s.now, eff := .pinPadIn c w } : Landing) ∈ t.agenda) ∧
    (∀ c, c ∉ pins → t.reg (.pinPad c) = s.reg (.pinPad c) ∧ t.pin c = s.pin c)) ∧
  (s.drill.cur = none → ∃ t, GivesWrite (.drillModeStart a 0x4D44) a false s own t ∧
    t.sys = { s.sys with drillNext := true } ∧ t.drill = s.drill ∧ ∃ e ∈ t.agenda, e.due = s.now ∧ e.eff = .warmDue true) ∧
  (∀ (pass : Bool) (data : Word), let res := fun (ok : Bool) => if ok then 0#3 else 1#3
    (s.drill.cur = none → exec (.drillEnd pass data) s = .next s) ∧
    (∀ d, s.drill.cur = some d →
      let rests := (s.inst (fin 13 d.arg0.toNat)).step = .idle ∧ (d.left = 0 ∨ (s.inst (fin 13 d.arg0.toNat)).retired ≠ none)
      let failed := s.verifyFail (decide (d.arg0 = 1)) (if data = 7 then .uncorrectable else .ok)
      (d.code ≠ 0x01 → d.code ≠ 0x02 → d.left ≠ 0 → exec (.drillEnd pass data) s = .next s) ∧
      (d.code = 0x01 ∨ d.code = 0x02 → rests → exec (.drillEnd pass data) s = .next (s.drillOver d.code (res pass) data)) ∧
      (d.code = 0x01 ∨ d.code = 0x02 → ¬ rests → exec (.drillEnd pass data) s = .next s) ∧
      (d.left = 0 →
        (d.code = 0x03 → exec (.drillEnd pass data) s = .next (s.drillOver 0x03 (res pass) (BitVec.ofNat 32 d.bad))) ∧
        (d.code = 0x04 ∨ d.code = 0x06 ∨ d.code = 0x13 ∨ d.code = 0x14 →
          exec (.drillEnd pass data) s = .next (s.drillOver d.code (res pass) data)) ∧
        (d.code = 0x05 → exec (.drillEnd pass data) s = .next (s.drillOver 0x05 (res (decide (failed = 0))) (failed.setWidth 32))) ∧
        (d.code = 0x16 → exec (.drillEnd pass data) s = .next (s.drillOver 0x16 (res (decide (d.bad = 0))) (BitVec.ofNat 32 d.bad))) ∧
        (d.code = 0x10 → (d.saved.map (·.1)).Nodup → (∀ e ∈ d.saved, e.1 < 512) → ∃ t, exec (.drillEnd pass data) s = .next t ∧
          t.drill.cur = none ∧ t.drill.done = some s.now ∧ t.drill.res = res pass ∧ t.drill.lastCode = 0x10 ∧ t.drill.data = data ∧
          t.drill.cardDue = true ∧
          ∀ c : Chan, (∀ w, (c.val, w) ∈ d.saved → (t.reg (.pinPad c)).extractLsb' 30 2 = w.extractLsb' 30 2 ∧
              (t.reg (.pinPad c)).extractLsb' 0 30 = (s.reg (.pinPad c)).extractLsb' 0 30 ∧ (t.pin c).drill = none) ∧
            ((∀ w, (c.val, w) ∉ d.saved) → t.reg (.pinPad c) = s.reg (.pinPad c) ∧ t.pin c = s.pin c)) ∧
        (d.code = 0x11 ∨ d.code = 0x15 → ∃ t, exec (.drillEnd pass data) s = .next t ∧ t.drill = { s.drill with
          cur := none, done := some s.now, res := res pass, lastCode := d.code, data := data, cardDue := true } ∧ t.regs = s.regs ∧ t.pins = s.pins)))) ∧
  (∀ d, s.drill.cur = some d → exec .farEndTimeout s =
    .next (if d.code = 0x15 ∧ wallEnd s.mhz d.start 10 ≤ s.now then s.drillOver 0x15 2 0 else s)) ∧
  GivesWrite (.snap a) a false s own { s with drill := { s.drill with cardDue := true } }
end

