-- ==== Sys2Proof/Laws/Maps.lean ====
section
/-! SUPPORT. Laws of the sparse maps and the memories: reads after writes, and the canonical form that every write keeps. -/

namespace Sys2Proof.Machine

variable {α : Type}

/-! ### Reads after writes -/

theorem mget_merase_self (d : α) (m : SMap α) (i : Nat) : mget d (merase m i) i = d := by
  induction m with
  | nil => rfl
  | cons e rest ih =>
    obtain ⟨k, v⟩ := e
    by_cases h : k = i
    · simp [merase, h, ih]
    · simp [merase, mget, h, ih]

theorem mget_merase_ne (d : α) (m : SMap α) {i j : Nat} (h : j ≠ i) : mget d (merase m i) j = mget d m j := by
  induction m with
  | nil => rfl
  | cons e rest ih =>
    obtain ⟨k, v⟩ := e
    by_cases hk : k = i
    · subst hk; simp [merase, mget, ih, Ne.symm h]
    · by_cases hj : k = j
      · subst hj; simp [merase, mget, hk]
      · simp [merase, mget, hk, hj, ih]

theorem mget_minsert_ne (d : α) (m : SMap α) {i j : Nat} (x : α) (h : j ≠ i) :
    mget d (minsert m i x) j = mget d m j := by
  induction m with
  | nil => simp [minsert, mget, Ne.symm h]
  | cons e rest ih =>
    obtain ⟨k, v⟩ := e
    by_cases hk : i < k
    · simp [minsert, mget, hk, Ne.symm h]
    · by_cases hj : k = j
      · subst hj; simp [minsert, mget, hk]
      · simp [minsert, mget, hk, hj, ih]

/-- A key that a map does not list. -/
def unlisted (i : Nat) (m : SMap α) : Prop := ∀ e ∈ m, e.1 ≠ i

theorem merase_unlisted (m : SMap α) (i : Nat) : unlisted i (merase m i) := by
  induction m with
  | nil => intro e he; cases he
  | cons e rest ih =>
    obtain ⟨k, v⟩ := e
    by_cases h : k = i
    · simpa [merase, h] using ih
    · intro y hy
      rcases List.mem_cons.mp (by simpa [merase, h] using hy) with rfl | hy
      · exact h
      · exact ih y hy

theorem mget_minsert_self (d : α) (m : SMap α) (i : Nat) (x : α) (h : unlisted i m) : mget d (minsert m i x) i = x := by
  induction m with
  | nil => simp [minsert, mget]
  | cons e rest ih =>
    obtain ⟨k, v⟩ := e
    have hk : k ≠ i := h (k, v) (List.mem_cons_self ..)
    by_cases hlt : i < k
    · simp [minsert, mget, hlt]
    · simp [minsert, mget, hlt, hk, ih (fun y hy => h y (List.mem_cons_of_mem _ hy))]

variable [DecidableEq α]

/-- A read of the key that was written gives what was written. -/
@[simp] theorem mget_mput_self (d : α) (m : SMap α) (i : Nat) (x : α) : mget d (mput d m i x) i = x := by
  unfold mput
  split
  · next h => rw [mget_merase_self, h]
  · exact mget_minsert_self d _ i x (merase_unlisted m i)

/-- A write leaves every other key, whatever its own default. -/
theorem mget_mput_ne (d e : α) (m : SMap α) {i j : Nat} (x : α) (h : j ≠ i) : mget d (mput e m i x) j = mget d m j := by
  unfold mput
  split
  · exact mget_merase_ne d m h
  · rw [mget_minsert_ne d _ x h, mget_merase_ne d m h]

/-! ### The canonical form -/

theorem mwfFrom_weaken (d : α) (m : SMap α) {i j : Nat} (hij : j ≤ i) (h : mwfFrom d (some i) m = true) :
    mwfFrom d (some j) m = true := by
  cases m with
  | nil => rfl
  | cons e rest =>
    obtain ⟨k, v⟩ := e
    simp only [mwfFrom, Bool.and_eq_true, decide_eq_true_eq] at h ⊢
    exact ⟨⟨by omega, h.1.2⟩, h.2⟩

theorem mwfFrom_none (d : α) (m : SMap α) {i : Nat} (h : mwfFrom d (some i) m = true) : mwfFrom d none m = true := by
  cases m with
  | nil => rfl
  | cons e rest =>
    obtain ⟨k, v⟩ := e
    simp only [mwfFrom, Bool.and_eq_true, decide_eq_true_eq, Bool.true_and] at h ⊢
    exact ⟨h.1.2, h.2⟩

theorem mwfFrom_merase (d : α) (m : SMap α) (i : Nat) :
    ∀ b, mwfFrom d b m = true → mwfFrom d b (merase m i) = true := by
  induction m with
  | nil => intro b h; exact h
  | cons e rest ih =>
    obtain ⟨k, v⟩ := e
    intro b h
    simp only [mwfFrom, Bool.and_eq_true] at h
    by_cases hk : k = i
    · simp only [merase, hk, if_true]
      refine ih b ?_
      cases b with
      | none => exact mwfFrom_none d rest h.2
      | some j => exact mwfFrom_weaken d rest (by have := h.1.1; simp at this; omega) h.2
    · simp only [merase, hk, if_false, mwfFrom, Bool.and_eq_true]
      exact ⟨h.1, ih _ h.2⟩

theorem mwfFrom_minsert (d : α) (m : SMap α) (i : Nat) (x : α) (hx : x ≠ d) (hu : unlisted i m) :
    ∀ b : Option Nat, (∀ j, b = some j → j < i) → mwfFrom d b m = true → mwfFrom d b (minsert m i x) = true := by
  induction m with
  | nil =>
    intro b hb _
    cases b with
    | none => simp [minsert, mwfFrom, hx]
    | some j => simp [minsert, mwfFrom, hx, hb j rfl]
  | cons e rest ih =>
    obtain ⟨k, v⟩ := e
    intro b hb h
    have hki : k ≠ i := hu (k, v) (List.mem_cons_self ..)
    simp only [mwfFrom, Bool.and_eq_true] at h
    by_cases hlt : i < k
    · simp only [minsert, hlt, if_true, mwfFrom, Bool.and_eq_true]
      refine ⟨⟨?_, by simp [hx]⟩, ⟨by simpa using hlt, h.1.2⟩, h.2⟩
      cases b with
      | none => rfl
      | some j => simpa using hb j rfl
    · simp only [minsert, hlt, if_false, mwfFrom, Bool.and_eq_true]
      refine ⟨h.1, ih (fun y hy => hu y (List.mem_cons_of_mem _ hy)) (some k) ?_ h.2⟩
      intro j hj; cases hj; omega

/-- A write keeps the canonical form. -/
theorem mput_wf (d : α) (m : SMap α) (i : Nat) (x : α) (h : mwf d m = true) : mwf d (mput d m i x) = true := by
  unfold mput
  split
  · exact mwfFrom_merase d m i none h
  · next hx =>
    exact mwfFrom_minsert d _ i x hx (merase_unlisted m i) none (by intro j hj; cases hj) (mwfFrom_merase d m i none h)

theorem mwfFrom_filter (d : α) (p : Nat × α → Bool) (m : SMap α) :
    ∀ b, mwfFrom d b m = true → mwfFrom d b (m.filter p) = true := by
  induction m with
  | nil => intro b h; exact h
  | cons e rest ih =>
    obtain ⟨k, v⟩ := e
    intro b h
    simp only [mwfFrom, Bool.and_eq_true] at h
    by_cases hp : p (k, v) = true
    · simp only [List.filter, hp, mwfFrom, Bool.and_eq_true]
      exact ⟨h.1, ih _ h.2⟩
    · simp only [List.filter, hp]
      refine ih b ?_
      cases b with
      | none => exact mwfFrom_none d rest h.2
      | some j => exact mwfFrom_weaken d rest (by have := h.1.1; simp at this; omega) h.2

/-! ### Memories -/

/-- A byte reads as what was written to it. -/
@[simp] theorem peek_poke_self (m : Mem) (a : Nat) (v : Byte) : peek (poke m a v) a = v := mget_mput_self 0 m a v

/-- A write of one byte leaves every other byte. -/
theorem peek_poke_ne (m : Mem) {a b : Nat} (v : Byte) (h : b ≠ a) : peek (poke m a v) b = peek m b :=
  mget_mput_ne 0 0 m v h

/-- A write of one byte keeps the canonical form. -/
theorem poke_wf (m : Mem) (a : Nat) (v : Byte) (h : Memory.wf m = true) : Memory.wf (poke m a v) = true :=
  mput_wf 0 m a v h

/-- A write of bytes keeps the canonical form. -/
theorem pokes_wf (l : List Byte) : ∀ (m : Mem) (a : Nat), Memory.wf m = true → Memory.wf (pokes m a l) = true := by
  induction l with
  | nil => intro m a h; exact h
  | cons v rest ih => intro m a h; exact ih _ _ (poke_wf m a v h)

/-- A wipe keeps the canonical form. -/
theorem wipe_wf (m : Mem) (a n : Nat) (h : Memory.wf m = true) : Memory.wf (wipe m a n) = true :=
  mwfFrom_filter 0 _ m none h

/-- A write of bytes leaves every byte outside them. -/
theorem peek_pokes_outside (l : List Byte) : ∀ (m : Mem) (a b : Nat), b < a ∨ a + l.length ≤ b →
    peek (pokes m a l) b = peek m b := by
  induction l with
  | nil => intro m a b _; rfl
  | cons v rest ih =>
    intro m a b h
    simp only [List.length_cons] at h
    show peek (pokes (poke m a v) (a + 1) rest) b = peek m b
    rw [ih (poke m a v) (a + 1) b (by omega), peek_poke_ne m v (by omega)]

/-- Bytes read as they were written. -/
theorem peeks_pokes (l : List Byte) : ∀ (m : Mem) (a : Nat), peeks (pokes m a l) a l.length = l := by
  induction l with
  | nil => intro m a; rfl
  | cons v rest ih =>
    intro m a
    show peek (pokes (poke m a v) (a + 1) rest) a :: peeks (pokes (poke m a v) (a + 1) rest) (a + 1) rest.length = v :: rest
    rw [ih, peek_pokes_outside rest _ _ _ (by omega), peek_poke_self]

end Sys2Proof.Machine
end

