-- ==== Sys2Proof/Laws/State.lean ====
section
/-! SUPPORT. What each update of the state reads back and leaves: one law per field and update. -/

namespace Sys2Proof.Machine

/-! ### setThr -/

@[simp] theorem State.thr_setThr (s : State) (t : Tid) (x : Thread) : (s.setThr t x).thr t = x := mget_mput_self _ _ _ _
theorem State.thr_setThr_ne (s : State) (t j : Tid) (x : Thread) (hne : j ≠ t) : (s.setThr t x).thr j = s.thr j :=
  mget_mput_ne _ _ _ _ (fun e => hne (Fin.ext e))
@[simp] theorem State.setThr_now (s : State) (t : Tid) (x : Thread) : (s.setThr t x).now = s.now := rfl
@[simp] theorem State.setThr_tbase (s : State) (t : Tid) (x : Thread) : (s.setThr t x).tbase = s.tbase := rfl
@[simp] theorem State.setThr_lap (s : State) (t : Tid) (x : Thread) : (s.setThr t x).lap = s.lap := rfl
@[simp] theorem State.setThr_seenNew (s : State) (t : Tid) (x : Thread) : (s.setThr t x).seenNew = s.seenNew := rfl
@[simp] theorem State.setThr_seenAt (s : State) (t : Tid) (x : Thread) : (s.setThr t x).seenAt = s.seenAt := rfl
@[simp] theorem State.setThr_ports (s : State) (t : Tid) (x : Thread) : (s.setThr t x).ports = s.ports := rfl
@[simp] theorem State.setThr_turns (s : State) (t : Tid) (x : Thread) : (s.setThr t x).turns = s.turns := rfl
@[simp] theorem State.setThr_perrNew (s : State) (t : Tid) (x : Thread) : (s.setThr t x).perrNew = s.perrNew := rfl
@[simp] theorem State.setThr_regs (s : State) (t : Tid) (x : Thread) : (s.setThr t x).regs = s.regs := rfl
@[simp] theorem State.setThr_barrels (s : State) (t : Tid) (x : Thread) : (s.setThr t x).barrels = s.barrels := rfl
@[simp] theorem State.setThr_bells (s : State) (t : Tid) (x : Thread) : (s.setThr t x).bells = s.bells := rfl
@[simp] theorem State.setThr_evmap (s : State) (t : Tid) (x : Thread) : (s.setThr t x).evmap = s.evmap := rfl
@[simp] theorem State.setThr_agenda (s : State) (t : Tid) (x : Thread) : (s.setThr t x).agenda = s.agenda := rfl
@[simp] theorem State.setThr_staged (s : State) (t : Tid) (x : Thread) : (s.setThr t x).staged = s.staged := rfl
@[simp] theorem State.setThr_reloadUndo (s : State) (t : Tid) (x : Thread) : (s.setThr t x).reloadUndo = s.reloadUndo := rfl
@[simp] theorem State.setThr_desk (s : State) (t : Tid) (x : Thread) : (s.setThr t x).desk = s.desk := rfl
@[simp] theorem State.setThr_slate (s : State) (t : Tid) (x : Thread) : (s.setThr t x).slate = s.slate := rfl
@[simp] theorem State.setThr_hall (s : State) (t : Tid) (x : Thread) : (s.setThr t x).hall = s.hall := rfl
@[simp] theorem State.setThr_ins (s : State) (t : Tid) (x : Thread) : (s.setThr t x).ins = s.ins := rfl
@[simp] theorem State.setThr_pins (s : State) (t : Tid) (x : Thread) : (s.setThr t x).pins = s.pins := rfl
@[simp] theorem State.setThr_lockSeq (s : State) (t : Tid) (x : Thread) : (s.setThr t x).lockSeq = s.lockSeq := rfl
@[simp] theorem State.setThr_cals (s : State) (t : Tid) (x : Thread) : (s.setThr t x).cals = s.cals := rfl
@[simp] theorem State.setThr_hoists (s : State) (t : Tid) (x : Thread) : (s.setThr t x).hoists = s.hoists := rfl
@[simp] theorem State.setThr_sincs (s : State) (t : Tid) (x : Thread) : (s.setThr t x).sincs = s.sincs := rfl
@[simp] theorem State.setThr_timers (s : State) (t : Tid) (x : Thread) : (s.setThr t x).timers = s.timers := rfl
@[simp] theorem State.setThr_units (s : State) (t : Tid) (x : Thread) : (s.setThr t x).units = s.units := rfl
@[simp] theorem State.setThr_gstarts (s : State) (t : Tid) (x : Thread) : (s.setThr t x).gstarts = s.gstarts := rfl
@[simp] theorem State.setThr_hostHold (s : State) (t : Tid) (x : Thread) : (s.setThr t x).hostHold = s.hostHold := rfl
@[simp] theorem State.setThr_padHold (s : State) (t : Tid) (x : Thread) : (s.setThr t x).padHold = s.padHold := rfl
@[simp] theorem State.setThr_strict (s : State) (t : Tid) (x : Thread) : (s.setThr t x).strict = s.strict := rfl
@[simp] theorem State.setThr_cvps (s : State) (t : Tid) (x : Thread) : (s.setThr t x).cvps = s.cvps := rfl
@[simp] theorem State.setThr_tripsIn (s : State) (t : Tid) (x : Thread) : (s.setThr t x).tripsIn = s.tripsIn := rfl
@[simp] theorem State.setThr_tripLevel (s : State) (t : Tid) (x : Thread) : (s.setThr t x).tripLevel = s.tripLevel := rfl
@[simp] theorem State.setThr_tripSeen (s : State) (t : Tid) (x : Thread) : (s.setThr t x).tripSeen = s.tripSeen := rfl
@[simp] theorem State.setThr_stations (s : State) (t : Tid) (x : Thread) : (s.setThr t x).stations = s.stations := rfl
@[simp] theorem State.setThr_insts (s : State) (t : Tid) (x : Thread) : (s.setThr t x).insts = s.insts := rfl
@[simp] theorem State.setThr_memS (s : State) (t : Tid) (x : Thread) : (s.setThr t x).memS = s.memS := rfl
@[simp] theorem State.setThr_dma (s : State) (t : Tid) (x : Thread) : (s.setThr t x).dma = s.dma := rfl
@[simp] theorem State.setThr_engines (s : State) (t : Tid) (x : Thread) : (s.setThr t x).engines = s.engines := rfl
@[simp] theorem State.setThr_tags (s : State) (t : Tid) (x : Thread) : (s.setThr t x).tags = s.tags := rfl
@[simp] theorem State.setThr_iports (s : State) (t : Tid) (x : Thread) : (s.setThr t x).iports = s.iports := rfl
@[simp] theorem State.setThr_strays (s : State) (t : Tid) (x : Thread) : (s.setThr t x).strays = s.strays := rfl
@[simp] theorem State.setThr_rings (s : State) (t : Tid) (x : Thread) : (s.setThr t x).rings = s.rings := rfl
@[simp] theorem State.setThr_pools (s : State) (t : Tid) (x : Thread) : (s.setThr t x).pools = s.pools := rfl
@[simp] theorem State.setThr_qm (s : State) (t : Tid) (x : Thread) : (s.setThr t x).qm = s.qm := rfl
@[simp] theorem State.setThr_locks (s : State) (t : Tid) (x : Thread) : (s.setThr t x).locks = s.locks := rfl
@[simp] theorem State.setThr_hosts (s : State) (t : Tid) (x : Thread) : (s.setThr t x).hosts = s.hosts := rfl
@[simp] theorem State.setThr_irqs (s : State) (t : Tid) (x : Thread) : (s.setThr t x).irqs = s.irqs := rfl
@[simp] theorem State.setThr_hly (s : State) (t : Tid) (x : Thread) : (s.setThr t x).hly = s.hly := rfl
@[simp] theorem State.setThr_upd (s : State) (t : Tid) (x : Thread) : (s.setThr t x).upd = s.upd := rfl
@[simp] theorem State.setThr_drill (s : State) (t : Tid) (x : Thread) : (s.setThr t x).drill = s.drill := rfl
@[simp] theorem State.setThr_sys (s : State) (t : Tid) (x : Thread) : (s.setThr t x).sys = s.sys := rfl
@[simp] theorem State.setThr_free (s : State) (t : Tid) (x : Thread) : (s.setThr t x).free = s.free := rfl
@[simp] theorem State.setThr_levelsHigh (s : State) (t : Tid) (x : Thread) : (s.setThr t x).levelsHigh = s.levelsHigh := rfl
@[simp] theorem State.setThr_tickStage (s : State) (t : Tid) (x : Thread) : (s.setThr t x).tickStage = s.tickStage := rfl
@[simp] theorem State.setThr_pending (s : State) (t : Tid) (x : Thread) : (s.setThr t x).pending = s.pending := rfl

/-! ### setBar -/

@[simp] theorem State.bar_setBar (s : State) (b : Barrel) (x : BarrelS) : (s.setBar b x).bar b = x := mget_mput_self _ _ _ _
theorem State.bar_setBar_ne (s : State) (b j : Barrel) (x : BarrelS) (hne : j ≠ b) : (s.setBar b x).bar j = s.bar j :=
  mget_mput_ne _ _ _ _ (fun e => hne (Fin.ext e))
@[simp] theorem State.setBar_now (s : State) (b : Barrel) (x : BarrelS) : (s.setBar b x).now = s.now := rfl
@[simp] theorem State.setBar_tbase (s : State) (b : Barrel) (x : BarrelS) : (s.setBar b x).tbase = s.tbase := rfl
@[simp] theorem State.setBar_lap (s : State) (b : Barrel) (x : BarrelS) : (s.setBar b x).lap = s.lap := rfl
@[simp] theorem State.setBar_seenNew (s : State) (b : Barrel) (x : BarrelS) : (s.setBar b x).seenNew = s.seenNew := rfl
@[simp] theorem State.setBar_seenAt (s : State) (b : Barrel) (x : BarrelS) : (s.setBar b x).seenAt = s.seenAt := rfl
@[simp] theorem State.setBar_ports (s : State) (b : Barrel) (x : BarrelS) : (s.setBar b x).ports = s.ports := rfl
@[simp] theorem State.setBar_turns (s : State) (b : Barrel) (x : BarrelS) : (s.setBar b x).turns = s.turns := rfl
@[simp] theorem State.setBar_perrNew (s : State) (b : Barrel) (x : BarrelS) : (s.setBar b x).perrNew = s.perrNew := rfl
@[simp] theorem State.setBar_regs (s : State) (b : Barrel) (x : BarrelS) : (s.setBar b x).regs = s.regs := rfl
@[simp] theorem State.setBar_threads (s : State) (b : Barrel) (x : BarrelS) : (s.setBar b x).threads = s.threads := rfl
@[simp] theorem State.setBar_bells (s : State) (b : Barrel) (x : BarrelS) : (s.setBar b x).bells = s.bells := rfl
@[simp] theorem State.setBar_evmap (s : State) (b : Barrel) (x : BarrelS) : (s.setBar b x).evmap = s.evmap := rfl
@[simp] theorem State.setBar_agenda (s : State) (b : Barrel) (x : BarrelS) : (s.setBar b x).agenda = s.agenda := rfl
@[simp] theorem State.setBar_staged (s : State) (b : Barrel) (x : BarrelS) : (s.setBar b x).staged = s.staged := rfl
@[simp] theorem State.setBar_reloadUndo (s : State) (b : Barrel) (x : BarrelS) : (s.setBar b x).reloadUndo = s.reloadUndo := rfl
@[simp] theorem State.setBar_desk (s : State) (b : Barrel) (x : BarrelS) : (s.setBar b x).desk = s.desk := rfl
@[simp] theorem State.setBar_slate (s : State) (b : Barrel) (x : BarrelS) : (s.setBar b x).slate = s.slate := rfl
@[simp] theorem State.setBar_hall (s : State) (b : Barrel) (x : BarrelS) : (s.setBar b x).hall = s.hall := rfl
@[simp] theorem State.setBar_ins (s : State) (b : Barrel) (x : BarrelS) : (s.setBar b x).ins = s.ins := rfl
@[simp] theorem State.setBar_pins (s : State) (b : Barrel) (x : BarrelS) : (s.setBar b x).pins = s.pins := rfl
@[simp] theorem State.setBar_lockSeq (s : State) (b : Barrel) (x : BarrelS) : (s.setBar b x).lockSeq = s.lockSeq := rfl
@[simp] theorem State.setBar_cals (s : State) (b : Barrel) (x : BarrelS) : (s.setBar b x).cals = s.cals := rfl
@[simp] theorem State.setBar_hoists (s : State) (b : Barrel) (x : BarrelS) : (s.setBar b x).hoists = s.hoists := rfl
@[simp] theorem State.setBar_sincs (s : State) (b : Barrel) (x : BarrelS) : (s.setBar b x).sincs = s.sincs := rfl
@[simp] theorem State.setBar_timers (s : State) (b : Barrel) (x : BarrelS) : (s.setBar b x).timers = s.timers := rfl
@[simp] theorem State.setBar_units (s : State) (b : Barrel) (x : BarrelS) : (s.setBar b x).units = s.units := rfl
@[simp] theorem State.setBar_gstarts (s : State) (b : Barrel) (x : BarrelS) : (s.setBar b x).gstarts = s.gstarts := rfl
@[simp] theorem State.setBar_hostHold (s : State) (b : Barrel) (x : BarrelS) : (s.setBar b x).hostHold = s.hostHold := rfl
@[simp] theorem State.setBar_padHold (s : State) (b : Barrel) (x : BarrelS) : (s.setBar b x).padHold = s.padHold := rfl
@[simp] theorem State.setBar_strict (s : State) (b : Barrel) (x : BarrelS) : (s.setBar b x).strict = s.strict := rfl
@[simp] theorem State.setBar_cvps (s : State) (b : Barrel) (x : BarrelS) : (s.setBar b x).cvps = s.cvps := rfl
@[simp] theorem State.setBar_tripsIn (s : State) (b : Barrel) (x : BarrelS) : (s.setBar b x).tripsIn = s.tripsIn := rfl
@[simp] theorem State.setBar_tripLevel (s : State) (b : Barrel) (x : BarrelS) : (s.setBar b x).tripLevel = s.tripLevel := rfl
@[simp] theorem State.setBar_tripSeen (s : State) (b : Barrel) (x : BarrelS) : (s.setBar b x).tripSeen = s.tripSeen := rfl
@[simp] theorem State.setBar_stations (s : State) (b : Barrel) (x : BarrelS) : (s.setBar b x).stations = s.stations := rfl
@[simp] theorem State.setBar_insts (s : State) (b : Barrel) (x : BarrelS) : (s.setBar b x).insts = s.insts := rfl
@[simp] theorem State.setBar_memS (s : State) (b : Barrel) (x : BarrelS) : (s.setBar b x).memS = s.memS := rfl
@[simp] theorem State.setBar_dma (s : State) (b : Barrel) (x : BarrelS) : (s.setBar b x).dma = s.dma := rfl
@[simp] theorem State.setBar_engines (s : State) (b : Barrel) (x : BarrelS) : (s.setBar b x).engines = s.engines := rfl
@[simp] theorem State.setBar_tags (s : State) (b : Barrel) (x : BarrelS) : (s.setBar b x).tags = s.tags := rfl
@[simp] theorem State.setBar_iports (s : State) (b : Barrel) (x : BarrelS) : (s.setBar b x).iports = s.iports := rfl
@[simp] theorem State.setBar_strays (s : State) (b : Barrel) (x : BarrelS) : (s.setBar b x).strays = s.strays := rfl
@[simp] theorem State.setBar_rings (s : State) (b : Barrel) (x : BarrelS) : (s.setBar b x).rings = s.rings := rfl
@[simp] theorem State.setBar_pools (s : State) (b : Barrel) (x : BarrelS) : (s.setBar b x).pools = s.pools := rfl
@[simp] theorem State.setBar_qm (s : State) (b : Barrel) (x : BarrelS) : (s.setBar b x).qm = s.qm := rfl
@[simp] theorem State.setBar_locks (s : State) (b : Barrel) (x : BarrelS) : (s.setBar b x).locks = s.locks := rfl
@[simp] theorem State.setBar_hosts (s : State) (b : Barrel) (x : BarrelS) : (s.setBar b x).hosts = s.hosts := rfl
@[simp] theorem State.setBar_irqs (s : State) (b : Barrel) (x : BarrelS) : (s.setBar b x).irqs = s.irqs := rfl
@[simp] theorem State.setBar_hly (s : State) (b : Barrel) (x : BarrelS) : (s.setBar b x).hly = s.hly := rfl
@[simp] theorem State.setBar_upd (s : State) (b : Barrel) (x : BarrelS) : (s.setBar b x).upd = s.upd := rfl
@[simp] theorem State.setBar_drill (s : State) (b : Barrel) (x : BarrelS) : (s.setBar b x).drill = s.drill := rfl
@[simp] theorem State.setBar_sys (s : State) (b : Barrel) (x : BarrelS) : (s.setBar b x).sys = s.sys := rfl
@[simp] theorem State.setBar_free (s : State) (b : Barrel) (x : BarrelS) : (s.setBar b x).free = s.free := rfl
@[simp] theorem State.setBar_levelsHigh (s : State) (b : Barrel) (x : BarrelS) : (s.setBar b x).levelsHigh = s.levelsHigh := rfl
@[simp] theorem State.setBar_tickStage (s : State) (b : Barrel) (x : BarrelS) : (s.setBar b x).tickStage = s.tickStage := rfl
@[simp] theorem State.setBar_pending (s : State) (b : Barrel) (x : BarrelS) : (s.setBar b x).pending = s.pending := rfl

/-! ### setBell -/

@[simp] theorem State.bell_setBell (s : State) (b : Bell) (x : BellS) : (s.setBell b x).bell b = x := mget_mput_self _ _ _ _
theorem State.bell_setBell_ne (s : State) (b j : Bell) (x : BellS) (hne : j ≠ b) : (s.setBell b x).bell j = s.bell j :=
  mget_mput_ne _ _ _ _ (fun e => hne (Fin.ext e))
@[simp] theorem State.setBell_now (s : State) (b : Bell) (x : BellS) : (s.setBell b x).now = s.now := rfl
@[simp] theorem State.setBell_tbase (s : State) (b : Bell) (x : BellS) : (s.setBell b x).tbase = s.tbase := rfl
@[simp] theorem State.setBell_lap (s : State) (b : Bell) (x : BellS) : (s.setBell b x).lap = s.lap := rfl
@[simp] theorem State.setBell_seenNew (s : State) (b : Bell) (x : BellS) : (s.setBell b x).seenNew = s.seenNew := rfl
@[simp] theorem State.setBell_seenAt (s : State) (b : Bell) (x : BellS) : (s.setBell b x).seenAt = s.seenAt := rfl
@[simp] theorem State.setBell_ports (s : State) (b : Bell) (x : BellS) : (s.setBell b x).ports = s.ports := rfl
@[simp] theorem State.setBell_turns (s : State) (b : Bell) (x : BellS) : (s.setBell b x).turns = s.turns := rfl
@[simp] theorem State.setBell_perrNew (s : State) (b : Bell) (x : BellS) : (s.setBell b x).perrNew = s.perrNew := rfl
@[simp] theorem State.setBell_regs (s : State) (b : Bell) (x : BellS) : (s.setBell b x).regs = s.regs := rfl
@[simp] theorem State.setBell_threads (s : State) (b : Bell) (x : BellS) : (s.setBell b x).threads = s.threads := rfl
@[simp] theorem State.setBell_barrels (s : State) (b : Bell) (x : BellS) : (s.setBell b x).barrels = s.barrels := rfl
@[simp] theorem State.setBell_evmap (s : State) (b : Bell) (x : BellS) : (s.setBell b x).evmap = s.evmap := rfl
@[simp] theorem State.setBell_agenda (s : State) (b : Bell) (x : BellS) : (s.setBell b x).agenda = s.agenda := rfl
@[simp] theorem State.setBell_staged (s : State) (b : Bell) (x : BellS) : (s.setBell b x).staged = s.staged := rfl
@[simp] theorem State.setBell_reloadUndo (s : State) (b : Bell) (x : BellS) : (s.setBell b x).reloadUndo = s.reloadUndo := rfl
@[simp] theorem State.setBell_desk (s : State) (b : Bell) (x : BellS) : (s.setBell b x).desk = s.desk := rfl
@[simp] theorem State.setBell_slate (s : State) (b : Bell) (x : BellS) : (s.setBell b x).slate = s.slate := rfl
@[simp] theorem State.setBell_hall (s : State) (b : Bell) (x : BellS) : (s.setBell b x).hall = s.hall := rfl
@[simp] theorem State.setBell_ins (s : State) (b : Bell) (x : BellS) : (s.setBell b x).ins = s.ins := rfl
@[simp] theorem State.setBell_pins (s : State) (b : Bell) (x : BellS) : (s.setBell b x).pins = s.pins := rfl
@[simp] theorem State.setBell_lockSeq (s : State) (b : Bell) (x : BellS) : (s.setBell b x).lockSeq = s.lockSeq := rfl
@[simp] theorem State.setBell_cals (s : State) (b : Bell) (x : BellS) : (s.setBell b x).cals = s.cals := rfl
@[simp] theorem State.setBell_hoists (s : State) (b : Bell) (x : BellS) : (s.setBell b x).hoists = s.hoists := rfl
@[simp] theorem State.setBell_sincs (s : State) (b : Bell) (x : BellS) : (s.setBell b x).sincs = s.sincs := rfl
@[simp] theorem State.setBell_timers (s : State) (b : Bell) (x : BellS) : (s.setBell b x).timers = s.timers := rfl
@[simp] theorem State.setBell_units (s : State) (b : Bell) (x : BellS) : (s.setBell b x).units = s.units := rfl
@[simp] theorem State.setBell_gstarts (s : State) (b : Bell) (x : BellS) : (s.setBell b x).gstarts = s.gstarts := rfl
@[simp] theorem State.setBell_hostHold (s : State) (b : Bell) (x : BellS) : (s.setBell b x).hostHold = s.hostHold := rfl
@[simp] theorem State.setBell_padHold (s : State) (b : Bell) (x : BellS) : (s.setBell b x).padHold = s.padHold := rfl
@[simp] theorem State.setBell_strict (s : State) (b : Bell) (x : BellS) : (s.setBell b x).strict = s.strict := rfl
@[simp] theorem State.setBell_cvps (s : State) (b : Bell) (x : BellS) : (s.setBell b x).cvps = s.cvps := rfl
@[simp] theorem State.setBell_tripsIn (s : State) (b : Bell) (x : BellS) : (s.setBell b x).tripsIn = s.tripsIn := rfl
@[simp] theorem State.setBell_tripLevel (s : State) (b : Bell) (x : BellS) : (s.setBell b x).tripLevel = s.tripLevel := rfl
@[simp] theorem State.setBell_tripSeen (s : State) (b : Bell) (x : BellS) : (s.setBell b x).tripSeen = s.tripSeen := rfl
@[simp] theorem State.setBell_stations (s : State) (b : Bell) (x : BellS) : (s.setBell b x).stations = s.stations := rfl
@[simp] theorem State.setBell_insts (s : State) (b : Bell) (x : BellS) : (s.setBell b x).insts = s.insts := rfl
@[simp] theorem State.setBell_memS (s : State) (b : Bell) (x : BellS) : (s.setBell b x).memS = s.memS := rfl
@[simp] theorem State.setBell_dma (s : State) (b : Bell) (x : BellS) : (s.setBell b x).dma = s.dma := rfl
@[simp] theorem State.setBell_engines (s : State) (b : Bell) (x : BellS) : (s.setBell b x).engines = s.engines := rfl
@[simp] theorem State.setBell_tags (s : State) (b : Bell) (x : BellS) : (s.setBell b x).tags = s.tags := rfl
@[simp] theorem State.setBell_iports (s : State) (b : Bell) (x : BellS) : (s.setBell b x).iports = s.iports := rfl
@[simp] theorem State.setBell_strays (s : State) (b : Bell) (x : BellS) : (s.setBell b x).strays = s.strays := rfl
@[simp] theorem State.setBell_rings (s : State) (b : Bell) (x : BellS) : (s.setBell b x).rings = s.rings := rfl
@[simp] theorem State.setBell_pools (s : State) (b : Bell) (x : BellS) : (s.setBell b x).pools = s.pools := rfl
@[simp] theorem State.setBell_qm (s : State) (b : Bell) (x : BellS) : (s.setBell b x).qm = s.qm := rfl
@[simp] theorem State.setBell_locks (s : State) (b : Bell) (x : BellS) : (s.setBell b x).locks = s.locks := rfl
@[simp] theorem State.setBell_hosts (s : State) (b : Bell) (x : BellS) : (s.setBell b x).hosts = s.hosts := rfl
@[simp] theorem State.setBell_irqs (s : State) (b : Bell) (x : BellS) : (s.setBell b x).irqs = s.irqs := rfl
@[simp] theorem State.setBell_hly (s : State) (b : Bell) (x : BellS) : (s.setBell b x).hly = s.hly := rfl
@[simp] theorem State.setBell_upd (s : State) (b : Bell) (x : BellS) : (s.setBell b x).upd = s.upd := rfl
@[simp] theorem State.setBell_drill (s : State) (b : Bell) (x : BellS) : (s.setBell b x).drill = s.drill := rfl
@[simp] theorem State.setBell_sys (s : State) (b : Bell) (x : BellS) : (s.setBell b x).sys = s.sys := rfl
@[simp] theorem State.setBell_free (s : State) (b : Bell) (x : BellS) : (s.setBell b x).free = s.free := rfl
@[simp] theorem State.setBell_levelsHigh (s : State) (b : Bell) (x : BellS) : (s.setBell b x).levelsHigh = s.levelsHigh := rfl
@[simp] theorem State.setBell_tickStage (s : State) (b : Bell) (x : BellS) : (s.setBell b x).tickStage = s.tickStage := rfl
@[simp] theorem State.setBell_pending (s : State) (b : Bell) (x : BellS) : (s.setBell b x).pending = s.pending := rfl

/-! ### setPin -/

@[simp] theorem State.pin_setPin (s : State) (c : Chan) (x : PinS) : (s.setPin c x).pin c = x := mget_mput_self _ _ _ _
theorem State.pin_setPin_ne (s : State) (c j : Chan) (x : PinS) (hne : j ≠ c) : (s.setPin c x).pin j = s.pin j :=
  mget_mput_ne _ _ _ _ (fun e => hne (Fin.ext e))
@[simp] theorem State.setPin_now (s : State) (c : Chan) (x : PinS) : (s.setPin c x).now = s.now := rfl
@[simp] theorem State.setPin_tbase (s : State) (c : Chan) (x : PinS) : (s.setPin c x).tbase = s.tbase := rfl
@[simp] theorem State.setPin_lap (s : State) (c : Chan) (x : PinS) : (s.setPin c x).lap = s.lap := rfl
@[simp] theorem State.setPin_seenNew (s : State) (c : Chan) (x : PinS) : (s.setPin c x).seenNew = s.seenNew := rfl
@[simp] theorem State.setPin_seenAt (s : State) (c : Chan) (x : PinS) : (s.setPin c x).seenAt = s.seenAt := rfl
@[simp] theorem State.setPin_ports (s : State) (c : Chan) (x : PinS) : (s.setPin c x).ports = s.ports := rfl
@[simp] theorem State.setPin_turns (s : State) (c : Chan) (x : PinS) : (s.setPin c x).turns = s.turns := rfl
@[simp] theorem State.setPin_perrNew (s : State) (c : Chan) (x : PinS) : (s.setPin c x).perrNew = s.perrNew := rfl
@[simp] theorem State.setPin_regs (s : State) (c : Chan) (x : PinS) : (s.setPin c x).regs = s.regs := rfl
@[simp] theorem State.setPin_threads (s : State) (c : Chan) (x : PinS) : (s.setPin c x).threads = s.threads := rfl
@[simp] theorem State.setPin_barrels (s : State) (c : Chan) (x : PinS) : (s.setPin c x).barrels = s.barrels := rfl
@[simp] theorem State.setPin_bells (s : State) (c : Chan) (x : PinS) : (s.setPin c x).bells = s.bells := rfl
@[simp] theorem State.setPin_evmap (s : State) (c : Chan) (x : PinS) : (s.setPin c x).evmap = s.evmap := rfl
@[simp] theorem State.setPin_agenda (s : State) (c : Chan) (x : PinS) : (s.setPin c x).agenda = s.agenda := rfl
@[simp] theorem State.setPin_staged (s : State) (c : Chan) (x : PinS) : (s.setPin c x).staged = s.staged := rfl
@[simp] theorem State.setPin_reloadUndo (s : State) (c : Chan) (x : PinS) : (s.setPin c x).reloadUndo = s.reloadUndo := rfl
@[simp] theorem State.setPin_desk (s : State) (c : Chan) (x : PinS) : (s.setPin c x).desk = s.desk := rfl
@[simp] theorem State.setPin_slate (s : State) (c : Chan) (x : PinS) : (s.setPin c x).slate = s.slate := rfl
@[simp] theorem State.setPin_hall (s : State) (c : Chan) (x : PinS) : (s.setPin c x).hall = s.hall := rfl
@[simp] theorem State.setPin_ins (s : State) (c : Chan) (x : PinS) : (s.setPin c x).ins = s.ins := rfl
@[simp] theorem State.setPin_lockSeq (s : State) (c : Chan) (x : PinS) : (s.setPin c x).lockSeq = s.lockSeq := rfl
@[simp] theorem State.setPin_cals (s : State) (c : Chan) (x : PinS) : (s.setPin c x).cals = s.cals := rfl
@[simp] theorem State.setPin_hoists (s : State) (c : Chan) (x : PinS) : (s.setPin c x).hoists = s.hoists := rfl
@[simp] theorem State.setPin_sincs (s : State) (c : Chan) (x : PinS) : (s.setPin c x).sincs = s.sincs := rfl
@[simp] theorem State.setPin_timers (s : State) (c : Chan) (x : PinS) : (s.setPin c x).timers = s.timers := rfl
@[simp] theorem State.setPin_units (s : State) (c : Chan) (x : PinS) : (s.setPin c x).units = s.units := rfl
@[simp] theorem State.setPin_gstarts (s : State) (c : Chan) (x : PinS) : (s.setPin c x).gstarts = s.gstarts := rfl
@[simp] theorem State.setPin_hostHold (s : State) (c : Chan) (x : PinS) : (s.setPin c x).hostHold = s.hostHold := rfl
@[simp] theorem State.setPin_padHold (s : State) (c : Chan) (x : PinS) : (s.setPin c x).padHold = s.padHold := rfl
@[simp] theorem State.setPin_strict (s : State) (c : Chan) (x : PinS) : (s.setPin c x).strict = s.strict := rfl
@[simp] theorem State.setPin_cvps (s : State) (c : Chan) (x : PinS) : (s.setPin c x).cvps = s.cvps := rfl
@[simp] theorem State.setPin_tripsIn (s : State) (c : Chan) (x : PinS) : (s.setPin c x).tripsIn = s.tripsIn := rfl
@[simp] theorem State.setPin_tripLevel (s : State) (c : Chan) (x : PinS) : (s.setPin c x).tripLevel = s.tripLevel := rfl
@[simp] theorem State.setPin_tripSeen (s : State) (c : Chan) (x : PinS) : (s.setPin c x).tripSeen = s.tripSeen := rfl
@[simp] theorem State.setPin_stations (s : State) (c : Chan) (x : PinS) : (s.setPin c x).stations = s.stations := rfl
@[simp] theorem State.setPin_insts (s : State) (c : Chan) (x : PinS) : (s.setPin c x).insts = s.insts := rfl
@[simp] theorem State.setPin_memS (s : State) (c : Chan) (x : PinS) : (s.setPin c x).memS = s.memS := rfl
@[simp] theorem State.setPin_dma (s : State) (c : Chan) (x : PinS) : (s.setPin c x).dma = s.dma := rfl
@[simp] theorem State.setPin_engines (s : State) (c : Chan) (x : PinS) : (s.setPin c x).engines = s.engines := rfl
@[simp] theorem State.setPin_tags (s : State) (c : Chan) (x : PinS) : (s.setPin c x).tags = s.tags := rfl
@[simp] theorem State.setPin_iports (s : State) (c : Chan) (x : PinS) : (s.setPin c x).iports = s.iports := rfl
@[simp] theorem State.setPin_strays (s : State) (c : Chan) (x : PinS) : (s.setPin c x).strays = s.strays := rfl
@[simp] theorem State.setPin_rings (s : State) (c : Chan) (x : PinS) : (s.setPin c x).rings = s.rings := rfl
@[simp] theorem State.setPin_pools (s : State) (c : Chan) (x : PinS) : (s.setPin c x).pools = s.pools := rfl
@[simp] theorem State.setPin_qm (s : State) (c : Chan) (x : PinS) : (s.setPin c x).qm = s.qm := rfl
@[simp] theorem State.setPin_locks (s : State) (c : Chan) (x : PinS) : (s.setPin c x).locks = s.locks := rfl
@[simp] theorem State.setPin_hosts (s : State) (c : Chan) (x : PinS) : (s.setPin c x).hosts = s.hosts := rfl
@[simp] theorem State.setPin_irqs (s : State) (c : Chan) (x : PinS) : (s.setPin c x).irqs = s.irqs := rfl
@[simp] theorem State.setPin_hly (s : State) (c : Chan) (x : PinS) : (s.setPin c x).hly = s.hly := rfl
@[simp] theorem State.setPin_upd (s : State) (c : Chan) (x : PinS) : (s.setPin c x).upd = s.upd := rfl
@[simp] theorem State.setPin_drill (s : State) (c : Chan) (x : PinS) : (s.setPin c x).drill = s.drill := rfl
@[simp] theorem State.setPin_sys (s : State) (c : Chan) (x : PinS) : (s.setPin c x).sys = s.sys := rfl
@[simp] theorem State.setPin_free (s : State) (c : Chan) (x : PinS) : (s.setPin c x).free = s.free := rfl
@[simp] theorem State.setPin_levelsHigh (s : State) (c : Chan) (x : PinS) : (s.setPin c x).levelsHigh = s.levelsHigh := rfl
@[simp] theorem State.setPin_tickStage (s : State) (c : Chan) (x : PinS) : (s.setPin c x).tickStage = s.tickStage := rfl
@[simp] theorem State.setPin_pending (s : State) (c : Chan) (x : PinS) : (s.setPin c x).pending = s.pending := rfl

/-! ### setCal -/

@[simp] theorem State.cal_setCal (s : State) (g : CalGroup) (x : CalS) : (s.setCal g x).cal g = x := mget_mput_self _ _ _ _
theorem State.cal_setCal_ne (s : State) (g j : CalGroup) (x : CalS) (hne : j ≠ g) : (s.setCal g x).cal j = s.cal j :=
  mget_mput_ne _ _ _ _ (fun e => hne (Fin.ext e))
@[simp] theorem State.setCal_now (s : State) (g : CalGroup) (x : CalS) : (s.setCal g x).now = s.now := rfl
@[simp] theorem State.setCal_tbase (s : State) (g : CalGroup) (x : CalS) : (s.setCal g x).tbase = s.tbase := rfl
@[simp] theorem State.setCal_lap (s : State) (g : CalGroup) (x : CalS) : (s.setCal g x).lap = s.lap := rfl
@[simp] theorem State.setCal_seenNew (s : State) (g : CalGroup) (x : CalS) : (s.setCal g x).seenNew = s.seenNew := rfl
@[simp] theorem State.setCal_seenAt (s : State) (g : CalGroup) (x : CalS) : (s.setCal g x).seenAt = s.seenAt := rfl
@[simp] theorem State.setCal_ports (s : State) (g : CalGroup) (x : CalS) : (s.setCal g x).ports = s.ports := rfl
@[simp] theorem State.setCal_turns (s : State) (g : CalGroup) (x : CalS) : (s.setCal g x).turns = s.turns := rfl
@[simp] theorem State.setCal_perrNew (s : State) (g : CalGroup) (x : CalS) : (s.setCal g x).perrNew = s.perrNew := rfl
@[simp] theorem State.setCal_regs (s : State) (g : CalGroup) (x : CalS) : (s.setCal g x).regs = s.regs := rfl
@[simp] theorem State.setCal_threads (s : State) (g : CalGroup) (x : CalS) : (s.setCal g x).threads = s.threads := rfl
@[simp] theorem State.setCal_barrels (s : State) (g : CalGroup) (x : CalS) : (s.setCal g x).barrels = s.barrels := rfl
@[simp] theorem State.setCal_bells (s : State) (g : CalGroup) (x : CalS) : (s.setCal g x).bells = s.bells := rfl
@[simp] theorem State.setCal_evmap (s : State) (g : CalGroup) (x : CalS) : (s.setCal g x).evmap = s.evmap := rfl
@[simp] theorem State.setCal_agenda (s : State) (g : CalGroup) (x : CalS) : (s.setCal g x).agenda = s.agenda := rfl
@[simp] theorem State.setCal_staged (s : State) (g : CalGroup) (x : CalS) : (s.setCal g x).staged = s.staged := rfl
@[simp] theorem State.setCal_reloadUndo (s : State) (g : CalGroup) (x : CalS) : (s.setCal g x).reloadUndo = s.reloadUndo := rfl
@[simp] theorem State.setCal_desk (s : State) (g : CalGroup) (x : CalS) : (s.setCal g x).desk = s.desk := rfl
@[simp] theorem State.setCal_slate (s : State) (g : CalGroup) (x : CalS) : (s.setCal g x).slate = s.slate := rfl
@[simp] theorem State.setCal_hall (s : State) (g : CalGroup) (x : CalS) : (s.setCal g x).hall = s.hall := rfl
@[simp] theorem State.setCal_ins (s : State) (g : CalGroup) (x : CalS) : (s.setCal g x).ins = s.ins := rfl
@[simp] theorem State.setCal_pins (s : State) (g : CalGroup) (x : CalS) : (s.setCal g x).pins = s.pins := rfl
@[simp] theorem State.setCal_lockSeq (s : State) (g : CalGroup) (x : CalS) : (s.setCal g x).lockSeq = s.lockSeq := rfl
@[simp] theorem State.setCal_hoists (s : State) (g : CalGroup) (x : CalS) : (s.setCal g x).hoists = s.hoists := rfl
@[simp] theorem State.setCal_sincs (s : State) (g : CalGroup) (x : CalS) : (s.setCal g x).sincs = s.sincs := rfl
@[simp] theorem State.setCal_timers (s : State) (g : CalGroup) (x : CalS) : (s.setCal g x).timers = s.timers := rfl
@[simp] theorem State.setCal_units (s : State) (g : CalGroup) (x : CalS) : (s.setCal g x).units = s.units := rfl
@[simp] theorem State.setCal_gstarts (s : State) (g : CalGroup) (x : CalS) : (s.setCal g x).gstarts = s.gstarts := rfl
@[simp] theorem State.setCal_hostHold (s : State) (g : CalGroup) (x : CalS) : (s.setCal g x).hostHold = s.hostHold := rfl
@[simp] theorem State.setCal_padHold (s : State) (g : CalGroup) (x : CalS) : (s.setCal g x).padHold = s.padHold := rfl
@[simp] theorem State.setCal_strict (s : State) (g : CalGroup) (x : CalS) : (s.setCal g x).strict = s.strict := rfl
@[simp] theorem State.setCal_cvps (s : State) (g : CalGroup) (x : CalS) : (s.setCal g x).cvps = s.cvps := rfl
@[simp] theorem State.setCal_tripsIn (s : State) (g : CalGroup) (x : CalS) : (s.setCal g x).tripsIn = s.tripsIn := rfl
@[simp] theorem State.setCal_tripLevel (s : State) (g : CalGroup) (x : CalS) : (s.setCal g x).tripLevel = s.tripLevel := rfl
@[simp] theorem State.setCal_tripSeen (s : State) (g : CalGroup) (x : CalS) : (s.setCal g x).tripSeen = s.tripSeen := rfl
@[simp] theorem State.setCal_stations (s : State) (g : CalGroup) (x : CalS) : (s.setCal g x).stations = s.stations := rfl
@[simp] theorem State.setCal_insts (s : State) (g : CalGroup) (x : CalS) : (s.setCal g x).insts = s.insts := rfl
@[simp] theorem State.setCal_memS (s : State) (g : CalGroup) (x : CalS) : (s.setCal g x).memS = s.memS := rfl
@[simp] theorem State.setCal_dma (s : State) (g : CalGroup) (x : CalS) : (s.setCal g x).dma = s.dma := rfl
@[simp] theorem State.setCal_engines (s : State) (g : CalGroup) (x : CalS) : (s.setCal g x).engines = s.engines := rfl
@[simp] theorem State.setCal_tags (s : State) (g : CalGroup) (x : CalS) : (s.setCal g x).tags = s.tags := rfl
@[simp] theorem State.setCal_iports (s : State) (g : CalGroup) (x : CalS) : (s.setCal g x).iports = s.iports := rfl
@[simp] theorem State.setCal_strays (s : State) (g : CalGroup) (x : CalS) : (s.setCal g x).strays = s.strays := rfl
@[simp] theorem State.setCal_rings (s : State) (g : CalGroup) (x : CalS) : (s.setCal g x).rings = s.rings := rfl
@[simp] theorem State.setCal_pools (s : State) (g : CalGroup) (x : CalS) : (s.setCal g x).pools = s.pools := rfl
@[simp] theorem State.setCal_qm (s : State) (g : CalGroup) (x : CalS) : (s.setCal g x).qm = s.qm := rfl
@[simp] theorem State.setCal_locks (s : State) (g : CalGroup) (x : CalS) : (s.setCal g x).locks = s.locks := rfl
@[simp] theorem State.setCal_hosts (s : State) (g : CalGroup) (x : CalS) : (s.setCal g x).hosts = s.hosts := rfl
@[simp] theorem State.setCal_irqs (s : State) (g : CalGroup) (x : CalS) : (s.setCal g x).irqs = s.irqs := rfl
@[simp] theorem State.setCal_hly (s : State) (g : CalGroup) (x : CalS) : (s.setCal g x).hly = s.hly := rfl
@[simp] theorem State.setCal_upd (s : State) (g : CalGroup) (x : CalS) : (s.setCal g x).upd = s.upd := rfl
@[simp] theorem State.setCal_drill (s : State) (g : CalGroup) (x : CalS) : (s.setCal g x).drill = s.drill := rfl
@[simp] theorem State.setCal_sys (s : State) (g : CalGroup) (x : CalS) : (s.setCal g x).sys = s.sys := rfl
@[simp] theorem State.setCal_free (s : State) (g : CalGroup) (x : CalS) : (s.setCal g x).free = s.free := rfl
@[simp] theorem State.setCal_levelsHigh (s : State) (g : CalGroup) (x : CalS) : (s.setCal g x).levelsHigh = s.levelsHigh := rfl
@[simp] theorem State.setCal_tickStage (s : State) (g : CalGroup) (x : CalS) : (s.setCal g x).tickStage = s.tickStage := rfl
@[simp] theorem State.setCal_pending (s : State) (g : CalGroup) (x : CalS) : (s.setCal g x).pending = s.pending := rfl

/-! ### setHoist -/

@[simp] theorem State.hoist_setHoist (s : State) (h : Hoist) (x : HoistS) : (s.setHoist h x).hoist h = x := mget_mput_self _ _ _ _
theorem State.hoist_setHoist_ne (s : State) (h j : Hoist) (x : HoistS) (hne : j ≠ h) : (s.setHoist h x).hoist j = s.hoist j :=
  mget_mput_ne _ _ _ _ (fun e => hne (Fin.ext e))
@[simp] theorem State.setHoist_now (s : State) (h : Hoist) (x : HoistS) : (s.setHoist h x).now = s.now := rfl
@[simp] theorem State.setHoist_tbase (s : State) (h : Hoist) (x : HoistS) : (s.setHoist h x).tbase = s.tbase := rfl
@[simp] theorem State.setHoist_lap (s : State) (h : Hoist) (x : HoistS) : (s.setHoist h x).lap = s.lap := rfl
@[simp] theorem State.setHoist_seenNew (s : State) (h : Hoist) (x : HoistS) : (s.setHoist h x).seenNew = s.seenNew := rfl
@[simp] theorem State.setHoist_seenAt (s : State) (h : Hoist) (x : HoistS) : (s.setHoist h x).seenAt = s.seenAt := rfl
@[simp] theorem State.setHoist_ports (s : State) (h : Hoist) (x : HoistS) : (s.setHoist h x).ports = s.ports := rfl
@[simp] theorem State.setHoist_turns (s : State) (h : Hoist) (x : HoistS) : (s.setHoist h x).turns = s.turns := rfl
@[simp] theorem State.setHoist_perrNew (s : State) (h : Hoist) (x : HoistS) : (s.setHoist h x).perrNew = s.perrNew := rfl
@[simp] theorem State.setHoist_regs (s : State) (h : Hoist) (x : HoistS) : (s.setHoist h x).regs = s.regs := rfl
@[simp] theorem State.setHoist_threads (s : State) (h : Hoist) (x : HoistS) : (s.setHoist h x).threads = s.threads := rfl
@[simp] theorem State.setHoist_barrels (s : State) (h : Hoist) (x : HoistS) : (s.setHoist h x).barrels = s.barrels := rfl
@[simp] theorem State.setHoist_bells (s : State) (h : Hoist) (x : HoistS) : (s.setHoist h x).bells = s.bells := rfl
@[simp] theorem State.setHoist_evmap (s : State) (h : Hoist) (x : HoistS) : (s.setHoist h x).evmap = s.evmap := rfl
@[simp] theorem State.setHoist_agenda (s : State) (h : Hoist) (x : HoistS) : (s.setHoist h x).agenda = s.agenda := rfl
@[simp] theorem State.setHoist_staged (s : State) (h : Hoist) (x : HoistS) : (s.setHoist h x).staged = s.staged := rfl
@[simp] theorem State.setHoist_reloadUndo (s : State) (h : Hoist) (x : HoistS) : (s.setHoist h x).reloadUndo = s.reloadUndo := rfl
@[simp] theorem State.setHoist_desk (s : State) (h : Hoist) (x : HoistS) : (s.setHoist h x).desk = s.desk := rfl
@[simp] theorem State.setHoist_slate (s : State) (h : Hoist) (x : HoistS) : (s.setHoist h x).slate = s.slate := rfl
@[simp] theorem State.setHoist_hall (s : State) (h : Hoist) (x : HoistS) : (s.setHoist h x).hall = s.hall := rfl
@[simp] theorem State.setHoist_ins (s : State) (h : Hoist) (x : HoistS) : (s.setHoist h x).ins = s.ins := rfl
@[simp] theorem State.setHoist_pins (s : State) (h : Hoist) (x : HoistS) : (s.setHoist h x).pins = s.pins := rfl
@[simp] theorem State.setHoist_lockSeq (s : State) (h : Hoist) (x : HoistS) : (s.setHoist h x).lockSeq = s.lockSeq := rfl
@[simp] theorem State.setHoist_cals (s : State) (h : Hoist) (x : HoistS) : (s.setHoist h x).cals = s.cals := rfl
@[simp] theorem State.setHoist_sincs (s : State) (h : Hoist) (x : HoistS) : (s.setHoist h x).sincs = s.sincs := rfl
@[simp] theorem State.setHoist_timers (s : State) (h : Hoist) (x : HoistS) : (s.setHoist h x).timers = s.timers := rfl
@[simp] theorem State.setHoist_units (s : State) (h : Hoist) (x : HoistS) : (s.setHoist h x).units = s.units := rfl
@[simp] theorem State.setHoist_gstarts (s : State) (h : Hoist) (x : HoistS) : (s.setHoist h x).gstarts = s.gstarts := rfl
@[simp] theorem State.setHoist_hostHold (s : State) (h : Hoist) (x : HoistS) : (s.setHoist h x).hostHold = s.hostHold := rfl
@[simp] theorem State.setHoist_padHold (s : State) (h : Hoist) (x : HoistS) : (s.setHoist h x).padHold = s.padHold := rfl
@[simp] theorem State.setHoist_strict (s : State) (h : Hoist) (x : HoistS) : (s.setHoist h x).strict = s.strict := rfl
@[simp] theorem State.setHoist_cvps (s : State) (h : Hoist) (x : HoistS) : (s.setHoist h x).cvps = s.cvps := rfl
@[simp] theorem State.setHoist_tripsIn (s : State) (h : Hoist) (x : HoistS) : (s.setHoist h x).tripsIn = s.tripsIn := rfl
@[simp] theorem State.setHoist_tripLevel (s : State) (h : Hoist) (x : HoistS) : (s.setHoist h x).tripLevel = s.tripLevel := rfl
@[simp] theorem State.setHoist_tripSeen (s : State) (h : Hoist) (x : HoistS) : (s.setHoist h x).tripSeen = s.tripSeen := rfl
@[simp] theorem State.setHoist_stations (s : State) (h : Hoist) (x : HoistS) : (s.setHoist h x).stations = s.stations := rfl
@[simp] theorem State.setHoist_insts (s : State) (h : Hoist) (x : HoistS) : (s.setHoist h x).insts = s.insts := rfl
@[simp] theorem State.setHoist_memS (s : State) (h : Hoist) (x : HoistS) : (s.setHoist h x).memS = s.memS := rfl
@[simp] theorem State.setHoist_dma (s : State) (h : Hoist) (x : HoistS) : (s.setHoist h x).dma = s.dma := rfl
@[simp] theorem State.setHoist_engines (s : State) (h : Hoist) (x : HoistS) : (s.setHoist h x).engines = s.engines := rfl
@[simp] theorem State.setHoist_tags (s : State) (h : Hoist) (x : HoistS) : (s.setHoist h x).tags = s.tags := rfl
@[simp] theorem State.setHoist_iports (s : State) (h : Hoist) (x : HoistS) : (s.setHoist h x).iports = s.iports := rfl
@[simp] theorem State.setHoist_strays (s : State) (h : Hoist) (x : HoistS) : (s.setHoist h x).strays = s.strays := rfl
@[simp] theorem State.setHoist_rings (s : State) (h : Hoist) (x : HoistS) : (s.setHoist h x).rings = s.rings := rfl
@[simp] theorem State.setHoist_pools (s : State) (h : Hoist) (x : HoistS) : (s.setHoist h x).pools = s.pools := rfl
@[simp] theorem State.setHoist_qm (s : State) (h : Hoist) (x : HoistS) : (s.setHoist h x).qm = s.qm := rfl
@[simp] theorem State.setHoist_locks (s : State) (h : Hoist) (x : HoistS) : (s.setHoist h x).locks = s.locks := rfl
@[simp] theorem State.setHoist_hosts (s : State) (h : Hoist) (x : HoistS) : (s.setHoist h x).hosts = s.hosts := rfl
@[simp] theorem State.setHoist_irqs (s : State) (h : Hoist) (x : HoistS) : (s.setHoist h x).irqs = s.irqs := rfl
@[simp] theorem State.setHoist_hly (s : State) (h : Hoist) (x : HoistS) : (s.setHoist h x).hly = s.hly := rfl
@[simp] theorem State.setHoist_upd (s : State) (h : Hoist) (x : HoistS) : (s.setHoist h x).upd = s.upd := rfl
@[simp] theorem State.setHoist_drill (s : State) (h : Hoist) (x : HoistS) : (s.setHoist h x).drill = s.drill := rfl
@[simp] theorem State.setHoist_sys (s : State) (h : Hoist) (x : HoistS) : (s.setHoist h x).sys = s.sys := rfl
@[simp] theorem State.setHoist_free (s : State) (h : Hoist) (x : HoistS) : (s.setHoist h x).free = s.free := rfl
@[simp] theorem State.setHoist_levelsHigh (s : State) (h : Hoist) (x : HoistS) : (s.setHoist h x).levelsHigh = s.levelsHigh := rfl
@[simp] theorem State.setHoist_tickStage (s : State) (h : Hoist) (x : HoistS) : (s.setHoist h x).tickStage = s.tickStage := rfl
@[simp] theorem State.setHoist_pending (s : State) (h : Hoist) (x : HoistS) : (s.setHoist h x).pending = s.pending := rfl

/-! ### setSinc -/

@[simp] theorem State.sinc_setSinc (s : State) (n : SincNo) (x : SincS) : (s.setSinc n x).sinc n = x := mget_mput_self _ _ _ _
theorem State.sinc_setSinc_ne (s : State) (n j : SincNo) (x : SincS) (hne : j ≠ n) : (s.setSinc n x).sinc j = s.sinc j :=
  mget_mput_ne _ _ _ _ (fun e => hne (Fin.ext e))
@[simp] theorem State.setSinc_now (s : State) (n : SincNo) (x : SincS) : (s.setSinc n x).now = s.now := rfl
@[simp] theorem State.setSinc_tbase (s : State) (n : SincNo) (x : SincS) : (s.setSinc n x).tbase = s.tbase := rfl
@[simp] theorem State.setSinc_lap (s : State) (n : SincNo) (x : SincS) : (s.setSinc n x).lap = s.lap := rfl
@[simp] theorem State.setSinc_seenNew (s : State) (n : SincNo) (x : SincS) : (s.setSinc n x).seenNew = s.seenNew := rfl
@[simp] theorem State.setSinc_seenAt (s : State) (n : SincNo) (x : SincS) : (s.setSinc n x).seenAt = s.seenAt := rfl
@[simp] theorem State.setSinc_ports (s : State) (n : SincNo) (x : SincS) : (s.setSinc n x).ports = s.ports := rfl
@[simp] theorem State.setSinc_turns (s : State) (n : SincNo) (x : SincS) : (s.setSinc n x).turns = s.turns := rfl
@[simp] theorem State.setSinc_perrNew (s : State) (n : SincNo) (x : SincS) : (s.setSinc n x).perrNew = s.perrNew := rfl
@[simp] theorem State.setSinc_regs (s : State) (n : SincNo) (x : SincS) : (s.setSinc n x).regs = s.regs := rfl
@[simp] theorem State.setSinc_threads (s : State) (n : SincNo) (x : SincS) : (s.setSinc n x).threads = s.threads := rfl
@[simp] theorem State.setSinc_barrels (s : State) (n : SincNo) (x : SincS) : (s.setSinc n x).barrels = s.barrels := rfl
@[simp] theorem State.setSinc_bells (s : State) (n : SincNo) (x : SincS) : (s.setSinc n x).bells = s.bells := rfl
@[simp] theorem State.setSinc_evmap (s : State) (n : SincNo) (x : SincS) : (s.setSinc n x).evmap = s.evmap := rfl
@[simp] theorem State.setSinc_agenda (s : State) (n : SincNo) (x : SincS) : (s.setSinc n x).agenda = s.agenda := rfl
@[simp] theorem State.setSinc_staged (s : State) (n : SincNo) (x : SincS) : (s.setSinc n x).staged = s.staged := rfl
@[simp] theorem State.setSinc_reloadUndo (s : State) (n : SincNo) (x : SincS) : (s.setSinc n x).reloadUndo = s.reloadUndo := rfl
@[simp] theorem State.setSinc_desk (s : State) (n : SincNo) (x : SincS) : (s.setSinc n x).desk = s.desk := rfl
@[simp] theorem State.setSinc_slate (s : State) (n : SincNo) (x : SincS) : (s.setSinc n x).slate = s.slate := rfl
@[simp] theorem State.setSinc_hall (s : State) (n : SincNo) (x : SincS) : (s.setSinc n x).hall = s.hall := rfl
@[simp] theorem State.setSinc_ins (s : State) (n : SincNo) (x : SincS) : (s.setSinc n x).ins = s.ins := rfl
@[simp] theorem State.setSinc_pins (s : State) (n : SincNo) (x : SincS) : (s.setSinc n x).pins = s.pins := rfl
@[simp] theorem State.setSinc_lockSeq (s : State) (n : SincNo) (x : SincS) : (s.setSinc n x).lockSeq = s.lockSeq := rfl
@[simp] theorem State.setSinc_cals (s : State) (n : SincNo) (x : SincS) : (s.setSinc n x).cals = s.cals := rfl
@[simp] theorem State.setSinc_hoists (s : State) (n : SincNo) (x : SincS) : (s.setSinc n x).hoists = s.hoists := rfl
@[simp] theorem State.setSinc_timers (s : State) (n : SincNo) (x : SincS) : (s.setSinc n x).timers = s.timers := rfl
@[simp] theorem State.setSinc_units (s : State) (n : SincNo) (x : SincS) : (s.setSinc n x).units = s.units := rfl
@[simp] theorem State.setSinc_gstarts (s : State) (n : SincNo) (x : SincS) : (s.setSinc n x).gstarts = s.gstarts := rfl
@[simp] theorem State.setSinc_hostHold (s : State) (n : SincNo) (x : SincS) : (s.setSinc n x).hostHold = s.hostHold := rfl
@[simp] theorem State.setSinc_padHold (s : State) (n : SincNo) (x : SincS) : (s.setSinc n x).padHold = s.padHold := rfl
@[simp] theorem State.setSinc_strict (s : State) (n : SincNo) (x : SincS) : (s.setSinc n x).strict = s.strict := rfl
@[simp] theorem State.setSinc_cvps (s : State) (n : SincNo) (x : SincS) : (s.setSinc n x).cvps = s.cvps := rfl
@[simp] theorem State.setSinc_tripsIn (s : State) (n : SincNo) (x : SincS) : (s.setSinc n x).tripsIn = s.tripsIn := rfl
@[simp] theorem State.setSinc_tripLevel (s : State) (n : SincNo) (x : SincS) : (s.setSinc n x).tripLevel = s.tripLevel := rfl
@[simp] theorem State.setSinc_tripSeen (s : State) (n : SincNo) (x : SincS) : (s.setSinc n x).tripSeen = s.tripSeen := rfl
@[simp] theorem State.setSinc_stations (s : State) (n : SincNo) (x : SincS) : (s.setSinc n x).stations = s.stations := rfl
@[simp] theorem State.setSinc_insts (s : State) (n : SincNo) (x : SincS) : (s.setSinc n x).insts = s.insts := rfl
@[simp] theorem State.setSinc_memS (s : State) (n : SincNo) (x : SincS) : (s.setSinc n x).memS = s.memS := rfl
@[simp] theorem State.setSinc_dma (s : State) (n : SincNo) (x : SincS) : (s.setSinc n x).dma = s.dma := rfl
@[simp] theorem State.setSinc_engines (s : State) (n : SincNo) (x : SincS) : (s.setSinc n x).engines = s.engines := rfl
@[simp] theorem State.setSinc_tags (s : State) (n : SincNo) (x : SincS) : (s.setSinc n x).tags = s.tags := rfl
@[simp] theorem State.setSinc_iports (s : State) (n : SincNo) (x : SincS) : (s.setSinc n x).iports = s.iports := rfl
@[simp] theorem State.setSinc_strays (s : State) (n : SincNo) (x : SincS) : (s.setSinc n x).strays = s.strays := rfl
@[simp] theorem State.setSinc_rings (s : State) (n : SincNo) (x : SincS) : (s.setSinc n x).rings = s.rings := rfl
@[simp] theorem State.setSinc_pools (s : State) (n : SincNo) (x : SincS) : (s.setSinc n x).pools = s.pools := rfl
@[simp] theorem State.setSinc_qm (s : State) (n : SincNo) (x : SincS) : (s.setSinc n x).qm = s.qm := rfl
@[simp] theorem State.setSinc_locks (s : State) (n : SincNo) (x : SincS) : (s.setSinc n x).locks = s.locks := rfl
@[simp] theorem State.setSinc_hosts (s : State) (n : SincNo) (x : SincS) : (s.setSinc n x).hosts = s.hosts := rfl
@[simp] theorem State.setSinc_irqs (s : State) (n : SincNo) (x : SincS) : (s.setSinc n x).irqs = s.irqs := rfl
@[simp] theorem State.setSinc_hly (s : State) (n : SincNo) (x : SincS) : (s.setSinc n x).hly = s.hly := rfl
@[simp] theorem State.setSinc_upd (s : State) (n : SincNo) (x : SincS) : (s.setSinc n x).upd = s.upd := rfl
@[simp] theorem State.setSinc_drill (s : State) (n : SincNo) (x : SincS) : (s.setSinc n x).drill = s.drill := rfl
@[simp] theorem State.setSinc_sys (s : State) (n : SincNo) (x : SincS) : (s.setSinc n x).sys = s.sys := rfl
@[simp] theorem State.setSinc_free (s : State) (n : SincNo) (x : SincS) : (s.setSinc n x).free = s.free := rfl
@[simp] theorem State.setSinc_levelsHigh (s : State) (n : SincNo) (x : SincS) : (s.setSinc n x).levelsHigh = s.levelsHigh := rfl
@[simp] theorem State.setSinc_tickStage (s : State) (n : SincNo) (x : SincS) : (s.setSinc n x).tickStage = s.tickStage := rfl
@[simp] theorem State.setSinc_pending (s : State) (n : SincNo) (x : SincS) : (s.setSinc n x).pending = s.pending := rfl

/-! ### setTimer -/

@[simp] theorem State.timer_setTimer (s : State) (n : TimerNo) (x : TimerS) : (s.setTimer n x).timer n = x := mget_mput_self _ _ _ _
theorem State.timer_setTimer_ne (s : State) (n j : TimerNo) (x : TimerS) (hne : j ≠ n) : (s.setTimer n x).timer j = s.timer j :=
  mget_mput_ne _ _ _ _ (fun e => hne (Fin.ext e))
@[simp] theorem State.setTimer_now (s : State) (n : TimerNo) (x : TimerS) : (s.setTimer n x).now = s.now := rfl
@[simp] theorem State.setTimer_tbase (s : State) (n : TimerNo) (x : TimerS) : (s.setTimer n x).tbase = s.tbase := rfl
@[simp] theorem State.setTimer_lap (s : State) (n : TimerNo) (x : TimerS) : (s.setTimer n x).lap = s.lap := rfl
@[simp] theorem State.setTimer_seenNew (s : State) (n : TimerNo) (x : TimerS) : (s.setTimer n x).seenNew = s.seenNew := rfl
@[simp] theorem State.setTimer_seenAt (s : State) (n : TimerNo) (x : TimerS) : (s.setTimer n x).seenAt = s.seenAt := rfl
@[simp] theorem State.setTimer_ports (s : State) (n : TimerNo) (x : TimerS) : (s.setTimer n x).ports = s.ports := rfl
@[simp] theorem State.setTimer_turns (s : State) (n : TimerNo) (x : TimerS) : (s.setTimer n x).turns = s.turns := rfl
@[simp] theorem State.setTimer_perrNew (s : State) (n : TimerNo) (x : TimerS) : (s.setTimer n x).perrNew = s.perrNew := rfl
@[simp] theorem State.setTimer_regs (s : State) (n : TimerNo) (x : TimerS) : (s.setTimer n x).regs = s.regs := rfl
@[simp] theorem State.setTimer_threads (s : State) (n : TimerNo) (x : TimerS) : (s.setTimer n x).threads = s.threads := rfl
@[simp] theorem State.setTimer_barrels (s : State) (n : TimerNo) (x : TimerS) : (s.setTimer n x).barrels = s.barrels := rfl
@[simp] theorem State.setTimer_bells (s : State) (n : TimerNo) (x : TimerS) : (s.setTimer n x).bells = s.bells := rfl
@[simp] theorem State.setTimer_evmap (s : State) (n : TimerNo) (x : TimerS) : (s.setTimer n x).evmap = s.evmap := rfl
@[simp] theorem State.setTimer_agenda (s : State) (n : TimerNo) (x : TimerS) : (s.setTimer n x).agenda = s.agenda := rfl
@[simp] theorem State.setTimer_staged (s : State) (n : TimerNo) (x : TimerS) : (s.setTimer n x).staged = s.staged := rfl
@[simp] theorem State.setTimer_reloadUndo (s : State) (n : TimerNo) (x : TimerS) : (s.setTimer n x).reloadUndo = s.reloadUndo := rfl
@[simp] theorem State.setTimer_desk (s : State) (n : TimerNo) (x : TimerS) : (s.setTimer n x).desk = s.desk := rfl
@[simp] theorem State.setTimer_slate (s : State) (n : TimerNo) (x : TimerS) : (s.setTimer n x).slate = s.slate := rfl
@[simp] theorem State.setTimer_hall (s : State) (n : TimerNo) (x : TimerS) : (s.setTimer n x).hall = s.hall := rfl
@[simp] theorem State.setTimer_ins (s : State) (n : TimerNo) (x : TimerS) : (s.setTimer n x).ins = s.ins := rfl
@[simp] theorem State.setTimer_pins (s : State) (n : TimerNo) (x : TimerS) : (s.setTimer n x).pins = s.pins := rfl
@[simp] theorem State.setTimer_lockSeq (s : State) (n : TimerNo) (x : TimerS) : (s.setTimer n x).lockSeq = s.lockSeq := rfl
@[simp] theorem State.setTimer_cals (s : State) (n : TimerNo) (x : TimerS) : (s.setTimer n x).cals = s.cals := rfl
@[simp] theorem State.setTimer_hoists (s : State) (n : TimerNo) (x : TimerS) : (s.setTimer n x).hoists = s.hoists := rfl
@[simp] theorem State.setTimer_sincs (s : State) (n : TimerNo) (x : TimerS) : (s.setTimer n x).sincs = s.sincs := rfl
@[simp] theorem State.setTimer_units (s : State) (n : TimerNo) (x : TimerS) : (s.setTimer n x).units = s.units := rfl
@[simp] theorem State.setTimer_gstarts (s : State) (n : TimerNo) (x : TimerS) : (s.setTimer n x).gstarts = s.gstarts := rfl
@[simp] theorem State.setTimer_hostHold (s : State) (n : TimerNo) (x : TimerS) : (s.setTimer n x).hostHold = s.hostHold := rfl
@[simp] theorem State.setTimer_padHold (s : State) (n : TimerNo) (x : TimerS) : (s.setTimer n x).padHold = s.padHold := rfl
@[simp] theorem State.setTimer_strict (s : State) (n : TimerNo) (x : TimerS) : (s.setTimer n x).strict = s.strict := rfl
@[simp] theorem State.setTimer_cvps (s : State) (n : TimerNo) (x : TimerS) : (s.setTimer n x).cvps = s.cvps := rfl
@[simp] theorem State.setTimer_tripsIn (s : State) (n : TimerNo) (x : TimerS) : (s.setTimer n x).tripsIn = s.tripsIn := rfl
@[simp] theorem State.setTimer_tripLevel (s : State) (n : TimerNo) (x : TimerS) : (s.setTimer n x).tripLevel = s.tripLevel := rfl
@[simp] theorem State.setTimer_tripSeen (s : State) (n : TimerNo) (x : TimerS) : (s.setTimer n x).tripSeen = s.tripSeen := rfl
@[simp] theorem State.setTimer_stations (s : State) (n : TimerNo) (x : TimerS) : (s.setTimer n x).stations = s.stations := rfl
@[simp] theorem State.setTimer_insts (s : State) (n : TimerNo) (x : TimerS) : (s.setTimer n x).insts = s.insts := rfl
@[simp] theorem State.setTimer_memS (s : State) (n : TimerNo) (x : TimerS) : (s.setTimer n x).memS = s.memS := rfl
@[simp] theorem State.setTimer_dma (s : State) (n : TimerNo) (x : TimerS) : (s.setTimer n x).dma = s.dma := rfl
@[simp] theorem State.setTimer_engines (s : State) (n : TimerNo) (x : TimerS) : (s.setTimer n x).engines = s.engines := rfl
@[simp] theorem State.setTimer_tags (s : State) (n : TimerNo) (x : TimerS) : (s.setTimer n x).tags = s.tags := rfl
@[simp] theorem State.setTimer_iports (s : State) (n : TimerNo) (x : TimerS) : (s.setTimer n x).iports = s.iports := rfl
@[simp] theorem State.setTimer_strays (s : State) (n : TimerNo) (x : TimerS) : (s.setTimer n x).strays = s.strays := rfl
@[simp] theorem State.setTimer_rings (s : State) (n : TimerNo) (x : TimerS) : (s.setTimer n x).rings = s.rings := rfl
@[simp] theorem State.setTimer_pools (s : State) (n : TimerNo) (x : TimerS) : (s.setTimer n x).pools = s.pools := rfl
@[simp] theorem State.setTimer_qm (s : State) (n : TimerNo) (x : TimerS) : (s.setTimer n x).qm = s.qm := rfl
@[simp] theorem State.setTimer_locks (s : State) (n : TimerNo) (x : TimerS) : (s.setTimer n x).locks = s.locks := rfl
@[simp] theorem State.setTimer_hosts (s : State) (n : TimerNo) (x : TimerS) : (s.setTimer n x).hosts = s.hosts := rfl
@[simp] theorem State.setTimer_irqs (s : State) (n : TimerNo) (x : TimerS) : (s.setTimer n x).irqs = s.irqs := rfl
@[simp] theorem State.setTimer_hly (s : State) (n : TimerNo) (x : TimerS) : (s.setTimer n x).hly = s.hly := rfl
@[simp] theorem State.setTimer_upd (s : State) (n : TimerNo) (x : TimerS) : (s.setTimer n x).upd = s.upd := rfl
@[simp] theorem State.setTimer_drill (s : State) (n : TimerNo) (x : TimerS) : (s.setTimer n x).drill = s.drill := rfl
@[simp] theorem State.setTimer_sys (s : State) (n : TimerNo) (x : TimerS) : (s.setTimer n x).sys = s.sys := rfl
@[simp] theorem State.setTimer_free (s : State) (n : TimerNo) (x : TimerS) : (s.setTimer n x).free = s.free := rfl
@[simp] theorem State.setTimer_levelsHigh (s : State) (n : TimerNo) (x : TimerS) : (s.setTimer n x).levelsHigh = s.levelsHigh := rfl
@[simp] theorem State.setTimer_tickStage (s : State) (n : TimerNo) (x : TimerS) : (s.setTimer n x).tickStage = s.tickStage := rfl
@[simp] theorem State.setTimer_pending (s : State) (n : TimerNo) (x : TimerS) : (s.setTimer n x).pending = s.pending := rfl

/-! ### setUnit -/

@[simp] theorem State.unit_setUnit (s : State) (u : UnitNo) (x : UnitS) : (s.setUnit u x).unit u = x := mget_mput_self _ _ _ _
theorem State.unit_setUnit_ne (s : State) (u j : UnitNo) (x : UnitS) (hne : j ≠ u) : (s.setUnit u x).unit j = s.unit j :=
  mget_mput_ne _ _ _ _ (fun e => hne (Fin.ext e))
@[simp] theorem State.setUnit_now (s : State) (u : UnitNo) (x : UnitS) : (s.setUnit u x).now = s.now := rfl
@[simp] theorem State.setUnit_tbase (s : State) (u : UnitNo) (x : UnitS) : (s.setUnit u x).tbase = s.tbase := rfl
@[simp] theorem State.setUnit_lap (s : State) (u : UnitNo) (x : UnitS) : (s.setUnit u x).lap = s.lap := rfl
@[simp] theorem State.setUnit_seenNew (s : State) (u : UnitNo) (x : UnitS) : (s.setUnit u x).seenNew = s.seenNew := rfl
@[simp] theorem State.setUnit_seenAt (s : State) (u : UnitNo) (x : UnitS) : (s.setUnit u x).seenAt = s.seenAt := rfl
@[simp] theorem State.setUnit_ports (s : State) (u : UnitNo) (x : UnitS) : (s.setUnit u x).ports = s.ports := rfl
@[simp] theorem State.setUnit_turns (s : State) (u : UnitNo) (x : UnitS) : (s.setUnit u x).turns = s.turns := rfl
@[simp] theorem State.setUnit_perrNew (s : State) (u : UnitNo) (x : UnitS) : (s.setUnit u x).perrNew = s.perrNew := rfl
@[simp] theorem State.setUnit_regs (s : State) (u : UnitNo) (x : UnitS) : (s.setUnit u x).regs = s.regs := rfl
@[simp] theorem State.setUnit_threads (s : State) (u : UnitNo) (x : UnitS) : (s.setUnit u x).threads = s.threads := rfl
@[simp] theorem State.setUnit_barrels (s : State) (u : UnitNo) (x : UnitS) : (s.setUnit u x).barrels = s.barrels := rfl
@[simp] theorem State.setUnit_bells (s : State) (u : UnitNo) (x : UnitS) : (s.setUnit u x).bells = s.bells := rfl
@[simp] theorem State.setUnit_evmap (s : State) (u : UnitNo) (x : UnitS) : (s.setUnit u x).evmap = s.evmap := rfl
@[simp] theorem State.setUnit_agenda (s : State) (u : UnitNo) (x : UnitS) : (s.setUnit u x).agenda = s.agenda := rfl
@[simp] theorem State.setUnit_staged (s : State) (u : UnitNo) (x : UnitS) : (s.setUnit u x).staged = s.staged := rfl
@[simp] theorem State.setUnit_reloadUndo (s : State) (u : UnitNo) (x : UnitS) : (s.setUnit u x).reloadUndo = s.reloadUndo := rfl
@[simp] theorem State.setUnit_desk (s : State) (u : UnitNo) (x : UnitS) : (s.setUnit u x).desk = s.desk := rfl
@[simp] theorem State.setUnit_slate (s : State) (u : UnitNo) (x : UnitS) : (s.setUnit u x).slate = s.slate := rfl
@[simp] theorem State.setUnit_hall (s : State) (u : UnitNo) (x : UnitS) : (s.setUnit u x).hall = s.hall := rfl
@[simp] theorem State.setUnit_ins (s : State) (u : UnitNo) (x : UnitS) : (s.setUnit u x).ins = s.ins := rfl
@[simp] theorem State.setUnit_pins (s : State) (u : UnitNo) (x : UnitS) : (s.setUnit u x).pins = s.pins := rfl
@[simp] theorem State.setUnit_lockSeq (s : State) (u : UnitNo) (x : UnitS) : (s.setUnit u x).lockSeq = s.lockSeq := rfl
@[simp] theorem State.setUnit_cals (s : State) (u : UnitNo) (x : UnitS) : (s.setUnit u x).cals = s.cals := rfl
@[simp] theorem State.setUnit_hoists (s : State) (u : UnitNo) (x : UnitS) : (s.setUnit u x).hoists = s.hoists := rfl
@[simp] theorem State.setUnit_sincs (s : State) (u : UnitNo) (x : UnitS) : (s.setUnit u x).sincs = s.sincs := rfl
@[simp] theorem State.setUnit_timers (s : State) (u : UnitNo) (x : UnitS) : (s.setUnit u x).timers = s.timers := rfl
@[simp] theorem State.setUnit_gstarts (s : State) (u : UnitNo) (x : UnitS) : (s.setUnit u x).gstarts = s.gstarts := rfl
@[simp] theorem State.setUnit_hostHold (s : State) (u : UnitNo) (x : UnitS) : (s.setUnit u x).hostHold = s.hostHold := rfl
@[simp] theorem State.setUnit_padHold (s : State) (u : UnitNo) (x : UnitS) : (s.setUnit u x).padHold = s.padHold := rfl
@[simp] theorem State.setUnit_strict (s : State) (u : UnitNo) (x : UnitS) : (s.setUnit u x).strict = s.strict := rfl
@[simp] theorem State.setUnit_cvps (s : State) (u : UnitNo) (x : UnitS) : (s.setUnit u x).cvps = s.cvps := rfl
@[simp] theorem State.setUnit_tripsIn (s : State) (u : UnitNo) (x : UnitS) : (s.setUnit u x).tripsIn = s.tripsIn := rfl
@[simp] theorem State.setUnit_tripLevel (s : State) (u : UnitNo) (x : UnitS) : (s.setUnit u x).tripLevel = s.tripLevel := rfl
@[simp] theorem State.setUnit_tripSeen (s : State) (u : UnitNo) (x : UnitS) : (s.setUnit u x).tripSeen = s.tripSeen := rfl
@[simp] theorem State.setUnit_stations (s : State) (u : UnitNo) (x : UnitS) : (s.setUnit u x).stations = s.stations := rfl
@[simp] theorem State.setUnit_insts (s : State) (u : UnitNo) (x : UnitS) : (s.setUnit u x).insts = s.insts := rfl
@[simp] theorem State.setUnit_memS (s : State) (u : UnitNo) (x : UnitS) : (s.setUnit u x).memS = s.memS := rfl
@[simp] theorem State.setUnit_dma (s : State) (u : UnitNo) (x : UnitS) : (s.setUnit u x).dma = s.dma := rfl
@[simp] theorem State.setUnit_engines (s : State) (u : UnitNo) (x : UnitS) : (s.setUnit u x).engines = s.engines := rfl
@[simp] theorem State.setUnit_tags (s : State) (u : UnitNo) (x : UnitS) : (s.setUnit u x).tags = s.tags := rfl
@[simp] theorem State.setUnit_iports (s : State) (u : UnitNo) (x : UnitS) : (s.setUnit u x).iports = s.iports := rfl
@[simp] theorem State.setUnit_strays (s : State) (u : UnitNo) (x : UnitS) : (s.setUnit u x).strays = s.strays := rfl
@[simp] theorem State.setUnit_rings (s : State) (u : UnitNo) (x : UnitS) : (s.setUnit u x).rings = s.rings := rfl
@[simp] theorem State.setUnit_pools (s : State) (u : UnitNo) (x : UnitS) : (s.setUnit u x).pools = s.pools := rfl
@[simp] theorem State.setUnit_qm (s : State) (u : UnitNo) (x : UnitS) : (s.setUnit u x).qm = s.qm := rfl
@[simp] theorem State.setUnit_locks (s : State) (u : UnitNo) (x : UnitS) : (s.setUnit u x).locks = s.locks := rfl
@[simp] theorem State.setUnit_hosts (s : State) (u : UnitNo) (x : UnitS) : (s.setUnit u x).hosts = s.hosts := rfl
@[simp] theorem State.setUnit_irqs (s : State) (u : UnitNo) (x : UnitS) : (s.setUnit u x).irqs = s.irqs := rfl
@[simp] theorem State.setUnit_hly (s : State) (u : UnitNo) (x : UnitS) : (s.setUnit u x).hly = s.hly := rfl
@[simp] theorem State.setUnit_upd (s : State) (u : UnitNo) (x : UnitS) : (s.setUnit u x).upd = s.upd := rfl
@[simp] theorem State.setUnit_drill (s : State) (u : UnitNo) (x : UnitS) : (s.setUnit u x).drill = s.drill := rfl
@[simp] theorem State.setUnit_sys (s : State) (u : UnitNo) (x : UnitS) : (s.setUnit u x).sys = s.sys := rfl
@[simp] theorem State.setUnit_free (s : State) (u : UnitNo) (x : UnitS) : (s.setUnit u x).free = s.free := rfl
@[simp] theorem State.setUnit_levelsHigh (s : State) (u : UnitNo) (x : UnitS) : (s.setUnit u x).levelsHigh = s.levelsHigh := rfl
@[simp] theorem State.setUnit_tickStage (s : State) (u : UnitNo) (x : UnitS) : (s.setUnit u x).tickStage = s.tickStage := rfl
@[simp] theorem State.setUnit_pending (s : State) (u : UnitNo) (x : UnitS) : (s.setUnit u x).pending = s.pending := rfl

/-! ### setGstart -/

@[simp] theorem State.gstart_setGstart (s : State) (h : Host) (x : GStart) : (s.setGstart h x).gstart h = x := mget_mput_self _ _ _ _
theorem State.gstart_setGstart_ne (s : State) (h j : Host) (x : GStart) (hne : j ≠ h) : (s.setGstart h x).gstart j = s.gstart j :=
  mget_mput_ne _ _ _ _ (fun e => hne (Fin.ext e))
@[simp] theorem State.setGstart_now (s : State) (h : Host) (x : GStart) : (s.setGstart h x).now = s.now := rfl
@[simp] theorem State.setGstart_tbase (s : State) (h : Host) (x : GStart) : (s.setGstart h x).tbase = s.tbase := rfl
@[simp] theorem State.setGstart_lap (s : State) (h : Host) (x : GStart) : (s.setGstart h x).lap = s.lap := rfl
@[simp] theorem State.setGstart_seenNew (s : State) (h : Host) (x : GStart) : (s.setGstart h x).seenNew = s.seenNew := rfl
@[simp] theorem State.setGstart_seenAt (s : State) (h : Host) (x : GStart) : (s.setGstart h x).seenAt = s.seenAt := rfl
@[simp] theorem State.setGstart_ports (s : State) (h : Host) (x : GStart) : (s.setGstart h x).ports = s.ports := rfl
@[simp] theorem State.setGstart_turns (s : State) (h : Host) (x : GStart) : (s.setGstart h x).turns = s.turns := rfl
@[simp] theorem State.setGstart_perrNew (s : State) (h : Host) (x : GStart) : (s.setGstart h x).perrNew = s.perrNew := rfl
@[simp] theorem State.setGstart_regs (s : State) (h : Host) (x : GStart) : (s.setGstart h x).regs = s.regs := rfl
@[simp] theorem State.setGstart_threads (s : State) (h : Host) (x : GStart) : (s.setGstart h x).threads = s.threads := rfl
@[simp] theorem State.setGstart_barrels (s : State) (h : Host) (x : GStart) : (s.setGstart h x).barrels = s.barrels := rfl
@[simp] theorem State.setGstart_bells (s : State) (h : Host) (x : GStart) : (s.setGstart h x).bells = s.bells := rfl
@[simp] theorem State.setGstart_evmap (s : State) (h : Host) (x : GStart) : (s.setGstart h x).evmap = s.evmap := rfl
@[simp] theorem State.setGstart_agenda (s : State) (h : Host) (x : GStart) : (s.setGstart h x).agenda = s.agenda := rfl
@[simp] theorem State.setGstart_staged (s : State) (h : Host) (x : GStart) : (s.setGstart h x).staged = s.staged := rfl
@[simp] theorem State.setGstart_reloadUndo (s : State) (h : Host) (x : GStart) : (s.setGstart h x).reloadUndo = s.reloadUndo := rfl
@[simp] theorem State.setGstart_desk (s : State) (h : Host) (x : GStart) : (s.setGstart h x).desk = s.desk := rfl
@[simp] theorem State.setGstart_slate (s : State) (h : Host) (x : GStart) : (s.setGstart h x).slate = s.slate := rfl
@[simp] theorem State.setGstart_hall (s : State) (h : Host) (x : GStart) : (s.setGstart h x).hall = s.hall := rfl
@[simp] theorem State.setGstart_ins (s : State) (h : Host) (x : GStart) : (s.setGstart h x).ins = s.ins := rfl
@[simp] theorem State.setGstart_pins (s : State) (h : Host) (x : GStart) : (s.setGstart h x).pins = s.pins := rfl
@[simp] theorem State.setGstart_lockSeq (s : State) (h : Host) (x : GStart) : (s.setGstart h x).lockSeq = s.lockSeq := rfl
@[simp] theorem State.setGstart_cals (s : State) (h : Host) (x : GStart) : (s.setGstart h x).cals = s.cals := rfl
@[simp] theorem State.setGstart_hoists (s : State) (h : Host) (x : GStart) : (s.setGstart h x).hoists = s.hoists := rfl
@[simp] theorem State.setGstart_sincs (s : State) (h : Host) (x : GStart) : (s.setGstart h x).sincs = s.sincs := rfl
@[simp] theorem State.setGstart_timers (s : State) (h : Host) (x : GStart) : (s.setGstart h x).timers = s.timers := rfl
@[simp] theorem State.setGstart_units (s : State) (h : Host) (x : GStart) : (s.setGstart h x).units = s.units := rfl
@[simp] theorem State.setGstart_hostHold (s : State) (h : Host) (x : GStart) : (s.setGstart h x).hostHold = s.hostHold := rfl
@[simp] theorem State.setGstart_padHold (s : State) (h : Host) (x : GStart) : (s.setGstart h x).padHold = s.padHold := rfl
@[simp] theorem State.setGstart_strict (s : State) (h : Host) (x : GStart) : (s.setGstart h x).strict = s.strict := rfl
@[simp] theorem State.setGstart_cvps (s : State) (h : Host) (x : GStart) : (s.setGstart h x).cvps = s.cvps := rfl
@[simp] theorem State.setGstart_tripsIn (s : State) (h : Host) (x : GStart) : (s.setGstart h x).tripsIn = s.tripsIn := rfl
@[simp] theorem State.setGstart_tripLevel (s : State) (h : Host) (x : GStart) : (s.setGstart h x).tripLevel = s.tripLevel := rfl
@[simp] theorem State.setGstart_tripSeen (s : State) (h : Host) (x : GStart) : (s.setGstart h x).tripSeen = s.tripSeen := rfl
@[simp] theorem State.setGstart_stations (s : State) (h : Host) (x : GStart) : (s.setGstart h x).stations = s.stations := rfl
@[simp] theorem State.setGstart_insts (s : State) (h : Host) (x : GStart) : (s.setGstart h x).insts = s.insts := rfl
@[simp] theorem State.setGstart_memS (s : State) (h : Host) (x : GStart) : (s.setGstart h x).memS = s.memS := rfl
@[simp] theorem State.setGstart_dma (s : State) (h : Host) (x : GStart) : (s.setGstart h x).dma = s.dma := rfl
@[simp] theorem State.setGstart_engines (s : State) (h : Host) (x : GStart) : (s.setGstart h x).engines = s.engines := rfl
@[simp] theorem State.setGstart_tags (s : State) (h : Host) (x : GStart) : (s.setGstart h x).tags = s.tags := rfl
@[simp] theorem State.setGstart_iports (s : State) (h : Host) (x : GStart) : (s.setGstart h x).iports = s.iports := rfl
@[simp] theorem State.setGstart_strays (s : State) (h : Host) (x : GStart) : (s.setGstart h x).strays = s.strays := rfl
@[simp] theorem State.setGstart_rings (s : State) (h : Host) (x : GStart) : (s.setGstart h x).rings = s.rings := rfl
@[simp] theorem State.setGstart_pools (s : State) (h : Host) (x : GStart) : (s.setGstart h x).pools = s.pools := rfl
@[simp] theorem State.setGstart_qm (s : State) (h : Host) (x : GStart) : (s.setGstart h x).qm = s.qm := rfl
@[simp] theorem State.setGstart_locks (s : State) (h : Host) (x : GStart) : (s.setGstart h x).locks = s.locks := rfl
@[simp] theorem State.setGstart_hosts (s : State) (h : Host) (x : GStart) : (s.setGstart h x).hosts = s.hosts := rfl
@[simp] theorem State.setGstart_irqs (s : State) (h : Host) (x : GStart) : (s.setGstart h x).irqs = s.irqs := rfl
@[simp] theorem State.setGstart_hly (s : State) (h : Host) (x : GStart) : (s.setGstart h x).hly = s.hly := rfl
@[simp] theorem State.setGstart_upd (s : State) (h : Host) (x : GStart) : (s.setGstart h x).upd = s.upd := rfl
@[simp] theorem State.setGstart_drill (s : State) (h : Host) (x : GStart) : (s.setGstart h x).drill = s.drill := rfl
@[simp] theorem State.setGstart_sys (s : State) (h : Host) (x : GStart) : (s.setGstart h x).sys = s.sys := rfl
@[simp] theorem State.setGstart_free (s : State) (h : Host) (x : GStart) : (s.setGstart h x).free = s.free := rfl
@[simp] theorem State.setGstart_levelsHigh (s : State) (h : Host) (x : GStart) : (s.setGstart h x).levelsHigh = s.levelsHigh := rfl
@[simp] theorem State.setGstart_tickStage (s : State) (h : Host) (x : GStart) : (s.setGstart h x).tickStage = s.tickStage := rfl
@[simp] theorem State.setGstart_pending (s : State) (h : Host) (x : GStart) : (s.setGstart h x).pending = s.pending := rfl

/-! ### setCvp -/

@[simp] theorem State.cvp_setCvp (s : State) (n : Cvp) (x : CvpS) : (s.setCvp n x).cvp n = x := mget_mput_self _ _ _ _
theorem State.cvp_setCvp_ne (s : State) (n j : Cvp) (x : CvpS) (hne : j ≠ n) : (s.setCvp n x).cvp j = s.cvp j :=
  mget_mput_ne _ _ _ _ (fun e => hne (Fin.ext e))
@[simp] theorem State.setCvp_now (s : State) (n : Cvp) (x : CvpS) : (s.setCvp n x).now = s.now := rfl
@[simp] theorem State.setCvp_tbase (s : State) (n : Cvp) (x : CvpS) : (s.setCvp n x).tbase = s.tbase := rfl
@[simp] theorem State.setCvp_lap (s : State) (n : Cvp) (x : CvpS) : (s.setCvp n x).lap = s.lap := rfl
@[simp] theorem State.setCvp_seenNew (s : State) (n : Cvp) (x : CvpS) : (s.setCvp n x).seenNew = s.seenNew := rfl
@[simp] theorem State.setCvp_seenAt (s : State) (n : Cvp) (x : CvpS) : (s.setCvp n x).seenAt = s.seenAt := rfl
@[simp] theorem State.setCvp_ports (s : State) (n : Cvp) (x : CvpS) : (s.setCvp n x).ports = s.ports := rfl
@[simp] theorem State.setCvp_turns (s : State) (n : Cvp) (x : CvpS) : (s.setCvp n x).turns = s.turns := rfl
@[simp] theorem State.setCvp_perrNew (s : State) (n : Cvp) (x : CvpS) : (s.setCvp n x).perrNew = s.perrNew := rfl
@[simp] theorem State.setCvp_regs (s : State) (n : Cvp) (x : CvpS) : (s.setCvp n x).regs = s.regs := rfl
@[simp] theorem State.setCvp_threads (s : State) (n : Cvp) (x : CvpS) : (s.setCvp n x).threads = s.threads := rfl
@[simp] theorem State.setCvp_barrels (s : State) (n : Cvp) (x : CvpS) : (s.setCvp n x).barrels = s.barrels := rfl
@[simp] theorem State.setCvp_bells (s : State) (n : Cvp) (x : CvpS) : (s.setCvp n x).bells = s.bells := rfl
@[simp] theorem State.setCvp_evmap (s : State) (n : Cvp) (x : CvpS) : (s.setCvp n x).evmap = s.evmap := rfl
@[simp] theorem State.setCvp_agenda (s : State) (n : Cvp) (x : CvpS) : (s.setCvp n x).agenda = s.agenda := rfl
@[simp] theorem State.setCvp_staged (s : State) (n : Cvp) (x : CvpS) : (s.setCvp n x).staged = s.staged := rfl
@[simp] theorem State.setCvp_reloadUndo (s : State) (n : Cvp) (x : CvpS) : (s.setCvp n x).reloadUndo = s.reloadUndo := rfl
@[simp] theorem State.setCvp_desk (s : State) (n : Cvp) (x : CvpS) : (s.setCvp n x).desk = s.desk := rfl
@[simp] theorem State.setCvp_slate (s : State) (n : Cvp) (x : CvpS) : (s.setCvp n x).slate = s.slate := rfl
@[simp] theorem State.setCvp_hall (s : State) (n : Cvp) (x : CvpS) : (s.setCvp n x).hall = s.hall := rfl
@[simp] theorem State.setCvp_ins (s : State) (n : Cvp) (x : CvpS) : (s.setCvp n x).ins = s.ins := rfl
@[simp] theorem State.setCvp_pins (s : State) (n : Cvp) (x : CvpS) : (s.setCvp n x).pins = s.pins := rfl
@[simp] theorem State.setCvp_lockSeq (s : State) (n : Cvp) (x : CvpS) : (s.setCvp n x).lockSeq = s.lockSeq := rfl
@[simp] theorem State.setCvp_cals (s : State) (n : Cvp) (x : CvpS) : (s.setCvp n x).cals = s.cals := rfl
@[simp] theorem State.setCvp_hoists (s : State) (n : Cvp) (x : CvpS) : (s.setCvp n x).hoists = s.hoists := rfl
@[simp] theorem State.setCvp_sincs (s : State) (n : Cvp) (x : CvpS) : (s.setCvp n x).sincs = s.sincs := rfl
@[simp] theorem State.setCvp_timers (s : State) (n : Cvp) (x : CvpS) : (s.setCvp n x).timers = s.timers := rfl
@[simp] theorem State.setCvp_units (s : State) (n : Cvp) (x : CvpS) : (s.setCvp n x).units = s.units := rfl
@[simp] theorem State.setCvp_gstarts (s : State) (n : Cvp) (x : CvpS) : (s.setCvp n x).gstarts = s.gstarts := rfl
@[simp] theorem State.setCvp_hostHold (s : State) (n : Cvp) (x : CvpS) : (s.setCvp n x).hostHold = s.hostHold := rfl
@[simp] theorem State.setCvp_padHold (s : State) (n : Cvp) (x : CvpS) : (s.setCvp n x).padHold = s.padHold := rfl
@[simp] theorem State.setCvp_strict (s : State) (n : Cvp) (x : CvpS) : (s.setCvp n x).strict = s.strict := rfl
@[simp] theorem State.setCvp_tripsIn (s : State) (n : Cvp) (x : CvpS) : (s.setCvp n x).tripsIn = s.tripsIn := rfl
@[simp] theorem State.setCvp_tripLevel (s : State) (n : Cvp) (x : CvpS) : (s.setCvp n x).tripLevel = s.tripLevel := rfl
@[simp] theorem State.setCvp_tripSeen (s : State) (n : Cvp) (x : CvpS) : (s.setCvp n x).tripSeen = s.tripSeen := rfl
@[simp] theorem State.setCvp_stations (s : State) (n : Cvp) (x : CvpS) : (s.setCvp n x).stations = s.stations := rfl
@[simp] theorem State.setCvp_insts (s : State) (n : Cvp) (x : CvpS) : (s.setCvp n x).insts = s.insts := rfl
@[simp] theorem State.setCvp_memS (s : State) (n : Cvp) (x : CvpS) : (s.setCvp n x).memS = s.memS := rfl
@[simp] theorem State.setCvp_dma (s : State) (n : Cvp) (x : CvpS) : (s.setCvp n x).dma = s.dma := rfl
@[simp] theorem State.setCvp_engines (s : State) (n : Cvp) (x : CvpS) : (s.setCvp n x).engines = s.engines := rfl
@[simp] theorem State.setCvp_tags (s : State) (n : Cvp) (x : CvpS) : (s.setCvp n x).tags = s.tags := rfl
@[simp] theorem State.setCvp_iports (s : State) (n : Cvp) (x : CvpS) : (s.setCvp n x).iports = s.iports := rfl
@[simp] theorem State.setCvp_strays (s : State) (n : Cvp) (x : CvpS) : (s.setCvp n x).strays = s.strays := rfl
@[simp] theorem State.setCvp_rings (s : State) (n : Cvp) (x : CvpS) : (s.setCvp n x).rings = s.rings := rfl
@[simp] theorem State.setCvp_pools (s : State) (n : Cvp) (x : CvpS) : (s.setCvp n x).pools = s.pools := rfl
@[simp] theorem State.setCvp_qm (s : State) (n : Cvp) (x : CvpS) : (s.setCvp n x).qm = s.qm := rfl
@[simp] theorem State.setCvp_locks (s : State) (n : Cvp) (x : CvpS) : (s.setCvp n x).locks = s.locks := rfl
@[simp] theorem State.setCvp_hosts (s : State) (n : Cvp) (x : CvpS) : (s.setCvp n x).hosts = s.hosts := rfl
@[simp] theorem State.setCvp_irqs (s : State) (n : Cvp) (x : CvpS) : (s.setCvp n x).irqs = s.irqs := rfl
@[simp] theorem State.setCvp_hly (s : State) (n : Cvp) (x : CvpS) : (s.setCvp n x).hly = s.hly := rfl
@[simp] theorem State.setCvp_upd (s : State) (n : Cvp) (x : CvpS) : (s.setCvp n x).upd = s.upd := rfl
@[simp] theorem State.setCvp_drill (s : State) (n : Cvp) (x : CvpS) : (s.setCvp n x).drill = s.drill := rfl
@[simp] theorem State.setCvp_sys (s : State) (n : Cvp) (x : CvpS) : (s.setCvp n x).sys = s.sys := rfl
@[simp] theorem State.setCvp_free (s : State) (n : Cvp) (x : CvpS) : (s.setCvp n x).free = s.free := rfl
@[simp] theorem State.setCvp_levelsHigh (s : State) (n : Cvp) (x : CvpS) : (s.setCvp n x).levelsHigh = s.levelsHigh := rfl
@[simp] theorem State.setCvp_tickStage (s : State) (n : Cvp) (x : CvpS) : (s.setCvp n x).tickStage = s.tickStage := rfl
@[simp] theorem State.setCvp_pending (s : State) (n : Cvp) (x : CvpS) : (s.setCvp n x).pending = s.pending := rfl

/-! ### setStn -/

@[simp] theorem State.stn_setStn (s : State) (n : Station) (x : StationS) : (s.setStn n x).stn n = x := mget_mput_self _ _ _ _
theorem State.stn_setStn_ne (s : State) (n j : Station) (x : StationS) (hne : j ≠ n) : (s.setStn n x).stn j = s.stn j :=
  mget_mput_ne _ _ _ _ (fun e => hne (Fin.ext e))
@[simp] theorem State.setStn_now (s : State) (n : Station) (x : StationS) : (s.setStn n x).now = s.now := rfl
@[simp] theorem State.setStn_tbase (s : State) (n : Station) (x : StationS) : (s.setStn n x).tbase = s.tbase := rfl
@[simp] theorem State.setStn_lap (s : State) (n : Station) (x : StationS) : (s.setStn n x).lap = s.lap := rfl
@[simp] theorem State.setStn_seenNew (s : State) (n : Station) (x : StationS) : (s.setStn n x).seenNew = s.seenNew := rfl
@[simp] theorem State.setStn_seenAt (s : State) (n : Station) (x : StationS) : (s.setStn n x).seenAt = s.seenAt := rfl
@[simp] theorem State.setStn_ports (s : State) (n : Station) (x : StationS) : (s.setStn n x).ports = s.ports := rfl
@[simp] theorem State.setStn_turns (s : State) (n : Station) (x : StationS) : (s.setStn n x).turns = s.turns := rfl
@[simp] theorem State.setStn_perrNew (s : State) (n : Station) (x : StationS) : (s.setStn n x).perrNew = s.perrNew := rfl
@[simp] theorem State.setStn_regs (s : State) (n : Station) (x : StationS) : (s.setStn n x).regs = s.regs := rfl
@[simp] theorem State.setStn_threads (s : State) (n : Station) (x : StationS) : (s.setStn n x).threads = s.threads := rfl
@[simp] theorem State.setStn_barrels (s : State) (n : Station) (x : StationS) : (s.setStn n x).barrels = s.barrels := rfl
@[simp] theorem State.setStn_bells (s : State) (n : Station) (x : StationS) : (s.setStn n x).bells = s.bells := rfl
@[simp] theorem State.setStn_evmap (s : State) (n : Station) (x : StationS) : (s.setStn n x).evmap = s.evmap := rfl
@[simp] theorem State.setStn_agenda (s : State) (n : Station) (x : StationS) : (s.setStn n x).agenda = s.agenda := rfl
@[simp] theorem State.setStn_staged (s : State) (n : Station) (x : StationS) : (s.setStn n x).staged = s.staged := rfl
@[simp] theorem State.setStn_reloadUndo (s : State) (n : Station) (x : StationS) : (s.setStn n x).reloadUndo = s.reloadUndo := rfl
@[simp] theorem State.setStn_desk (s : State) (n : Station) (x : StationS) : (s.setStn n x).desk = s.desk := rfl
@[simp] theorem State.setStn_slate (s : State) (n : Station) (x : StationS) : (s.setStn n x).slate = s.slate := rfl
@[simp] theorem State.setStn_hall (s : State) (n : Station) (x : StationS) : (s.setStn n x).hall = s.hall := rfl
@[simp] theorem State.setStn_ins (s : State) (n : Station) (x : StationS) : (s.setStn n x).ins = s.ins := rfl
@[simp] theorem State.setStn_pins (s : State) (n : Station) (x : StationS) : (s.setStn n x).pins = s.pins := rfl
@[simp] theorem State.setStn_lockSeq (s : State) (n : Station) (x : StationS) : (s.setStn n x).lockSeq = s.lockSeq := rfl
@[simp] theorem State.setStn_cals (s : State) (n : Station) (x : StationS) : (s.setStn n x).cals = s.cals := rfl
@[simp] theorem State.setStn_hoists (s : State) (n : Station) (x : StationS) : (s.setStn n x).hoists = s.hoists := rfl
@[simp] theorem State.setStn_sincs (s : State) (n : Station) (x : StationS) : (s.setStn n x).sincs = s.sincs := rfl
@[simp] theorem State.setStn_timers (s : State) (n : Station) (x : StationS) : (s.setStn n x).timers = s.timers := rfl
@[simp] theorem State.setStn_units (s : State) (n : Station) (x : StationS) : (s.setStn n x).units = s.units := rfl
@[simp] theorem State.setStn_gstarts (s : State) (n : Station) (x : StationS) : (s.setStn n x).gstarts = s.gstarts := rfl
@[simp] theorem State.setStn_hostHold (s : State) (n : Station) (x : StationS) : (s.setStn n x).hostHold = s.hostHold := rfl
@[simp] theorem State.setStn_padHold (s : State) (n : Station) (x : StationS) : (s.setStn n x).padHold = s.padHold := rfl
@[simp] theorem State.setStn_strict (s : State) (n : Station) (x : StationS) : (s.setStn n x).strict = s.strict := rfl
@[simp] theorem State.setStn_cvps (s : State) (n : Station) (x : StationS) : (s.setStn n x).cvps = s.cvps := rfl
@[simp] theorem State.setStn_tripsIn (s : State) (n : Station) (x : StationS) : (s.setStn n x).tripsIn = s.tripsIn := rfl
@[simp] theorem State.setStn_tripLevel (s : State) (n : Station) (x : StationS) : (s.setStn n x).tripLevel = s.tripLevel := rfl
@[simp] theorem State.setStn_tripSeen (s : State) (n : Station) (x : StationS) : (s.setStn n x).tripSeen = s.tripSeen := rfl
@[simp] theorem State.setStn_insts (s : State) (n : Station) (x : StationS) : (s.setStn n x).insts = s.insts := rfl
@[simp] theorem State.setStn_memS (s : State) (n : Station) (x : StationS) : (s.setStn n x).memS = s.memS := rfl
@[simp] theorem State.setStn_dma (s : State) (n : Station) (x : StationS) : (s.setStn n x).dma = s.dma := rfl
@[simp] theorem State.setStn_engines (s : State) (n : Station) (x : StationS) : (s.setStn n x).engines = s.engines := rfl
@[simp] theorem State.setStn_tags (s : State) (n : Station) (x : StationS) : (s.setStn n x).tags = s.tags := rfl
@[simp] theorem State.setStn_iports (s : State) (n : Station) (x : StationS) : (s.setStn n x).iports = s.iports := rfl
@[simp] theorem State.setStn_strays (s : State) (n : Station) (x : StationS) : (s.setStn n x).strays = s.strays := rfl
@[simp] theorem State.setStn_rings (s : State) (n : Station) (x : StationS) : (s.setStn n x).rings = s.rings := rfl
@[simp] theorem State.setStn_pools (s : State) (n : Station) (x : StationS) : (s.setStn n x).pools = s.pools := rfl
@[simp] theorem State.setStn_qm (s : State) (n : Station) (x : StationS) : (s.setStn n x).qm = s.qm := rfl
@[simp] theorem State.setStn_locks (s : State) (n : Station) (x : StationS) : (s.setStn n x).locks = s.locks := rfl
@[simp] theorem State.setStn_hosts (s : State) (n : Station) (x : StationS) : (s.setStn n x).hosts = s.hosts := rfl
@[simp] theorem State.setStn_irqs (s : State) (n : Station) (x : StationS) : (s.setStn n x).irqs = s.irqs := rfl
@[simp] theorem State.setStn_hly (s : State) (n : Station) (x : StationS) : (s.setStn n x).hly = s.hly := rfl
@[simp] theorem State.setStn_upd (s : State) (n : Station) (x : StationS) : (s.setStn n x).upd = s.upd := rfl
@[simp] theorem State.setStn_drill (s : State) (n : Station) (x : StationS) : (s.setStn n x).drill = s.drill := rfl
@[simp] theorem State.setStn_sys (s : State) (n : Station) (x : StationS) : (s.setStn n x).sys = s.sys := rfl
@[simp] theorem State.setStn_free (s : State) (n : Station) (x : StationS) : (s.setStn n x).free = s.free := rfl
@[simp] theorem State.setStn_levelsHigh (s : State) (n : Station) (x : StationS) : (s.setStn n x).levelsHigh = s.levelsHigh := rfl
@[simp] theorem State.setStn_tickStage (s : State) (n : Station) (x : StationS) : (s.setStn n x).tickStage = s.tickStage := rfl
@[simp] theorem State.setStn_pending (s : State) (n : Station) (x : StationS) : (s.setStn n x).pending = s.pending := rfl

/-! ### setInst -/

@[simp] theorem State.inst_setInst (s : State) (m : MemInst) (x : InstS) : (s.setInst m x).inst m = x := mget_mput_self _ _ _ _
theorem State.inst_setInst_ne (s : State) (m j : MemInst) (x : InstS) (hne : j ≠ m) : (s.setInst m x).inst j = s.inst j :=
  mget_mput_ne _ _ _ _ (fun e => hne (Fin.ext e))
@[simp] theorem State.setInst_now (s : State) (m : MemInst) (x : InstS) : (s.setInst m x).now = s.now := rfl
@[simp] theorem State.setInst_tbase (s : State) (m : MemInst) (x : InstS) : (s.setInst m x).tbase = s.tbase := rfl
@[simp] theorem State.setInst_lap (s : State) (m : MemInst) (x : InstS) : (s.setInst m x).lap = s.lap := rfl
@[simp] theorem State.setInst_seenNew (s : State) (m : MemInst) (x : InstS) : (s.setInst m x).seenNew = s.seenNew := rfl
@[simp] theorem State.setInst_seenAt (s : State) (m : MemInst) (x : InstS) : (s.setInst m x).seenAt = s.seenAt := rfl
@[simp] theorem State.setInst_ports (s : State) (m : MemInst) (x : InstS) : (s.setInst m x).ports = s.ports := rfl
@[simp] theorem State.setInst_turns (s : State) (m : MemInst) (x : InstS) : (s.setInst m x).turns = s.turns := rfl
@[simp] theorem State.setInst_perrNew (s : State) (m : MemInst) (x : InstS) : (s.setInst m x).perrNew = s.perrNew := rfl
@[simp] theorem State.setInst_regs (s : State) (m : MemInst) (x : InstS) : (s.setInst m x).regs = s.regs := rfl
@[simp] theorem State.setInst_threads (s : State) (m : MemInst) (x : InstS) : (s.setInst m x).threads = s.threads := rfl
@[simp] theorem State.setInst_barrels (s : State) (m : MemInst) (x : InstS) : (s.setInst m x).barrels = s.barrels := rfl
@[simp] theorem State.setInst_bells (s : State) (m : MemInst) (x : InstS) : (s.setInst m x).bells = s.bells := rfl
@[simp] theorem State.setInst_evmap (s : State) (m : MemInst) (x : InstS) : (s.setInst m x).evmap = s.evmap := rfl
@[simp] theorem State.setInst_agenda (s : State) (m : MemInst) (x : InstS) : (s.setInst m x).agenda = s.agenda := rfl
@[simp] theorem State.setInst_staged (s : State) (m : MemInst) (x : InstS) : (s.setInst m x).staged = s.staged := rfl
@[simp] theorem State.setInst_reloadUndo (s : State) (m : MemInst) (x : InstS) : (s.setInst m x).reloadUndo = s.reloadUndo := rfl
@[simp] theorem State.setInst_desk (s : State) (m : MemInst) (x : InstS) : (s.setInst m x).desk = s.desk := rfl
@[simp] theorem State.setInst_slate (s : State) (m : MemInst) (x : InstS) : (s.setInst m x).slate = s.slate := rfl
@[simp] theorem State.setInst_hall (s : State) (m : MemInst) (x : InstS) : (s.setInst m x).hall = s.hall := rfl
@[simp] theorem State.setInst_ins (s : State) (m : MemInst) (x : InstS) : (s.setInst m x).ins = s.ins := rfl
@[simp] theorem State.setInst_pins (s : State) (m : MemInst) (x : InstS) : (s.setInst m x).pins = s.pins := rfl
@[simp] theorem State.setInst_lockSeq (s : State) (m : MemInst) (x : InstS) : (s.setInst m x).lockSeq = s.lockSeq := rfl
@[simp] theorem State.setInst_cals (s : State) (m : MemInst) (x : InstS) : (s.setInst m x).cals = s.cals := rfl
@[simp] theorem State.setInst_hoists (s : State) (m : MemInst) (x : InstS) : (s.setInst m x).hoists = s.hoists := rfl
@[simp] theorem State.setInst_sincs (s : State) (m : MemInst) (x : InstS) : (s.setInst m x).sincs = s.sincs := rfl
@[simp] theorem State.setInst_timers (s : State) (m : MemInst) (x : InstS) : (s.setInst m x).timers = s.timers := rfl
@[simp] theorem State.setInst_units (s : State) (m : MemInst) (x : InstS) : (s.setInst m x).units = s.units := rfl
@[simp] theorem State.setInst_gstarts (s : State) (m : MemInst) (x : InstS) : (s.setInst m x).gstarts = s.gstarts := rfl
@[simp] theorem State.setInst_hostHold (s : State) (m : MemInst) (x : InstS) : (s.setInst m x).hostHold = s.hostHold := rfl
@[simp] theorem State.setInst_padHold (s : State) (m : MemInst) (x : InstS) : (s.setInst m x).padHold = s.padHold := rfl
@[simp] theorem State.setInst_strict (s : State) (m : MemInst) (x : InstS) : (s.setInst m x).strict = s.strict := rfl
@[simp] theorem State.setInst_cvps (s : State) (m : MemInst) (x : InstS) : (s.setInst m x).cvps = s.cvps := rfl
@[simp] theorem State.setInst_tripsIn (s : State) (m : MemInst) (x : InstS) : (s.setInst m x).tripsIn = s.tripsIn := rfl
@[simp] theorem State.setInst_tripLevel (s : State) (m : MemInst) (x : InstS) : (s.setInst m x).tripLevel = s.tripLevel := rfl
@[simp] theorem State.setInst_tripSeen (s : State) (m : MemInst) (x : InstS) : (s.setInst m x).tripSeen = s.tripSeen := rfl
@[simp] theorem State.setInst_stations (s : State) (m : MemInst) (x : InstS) : (s.setInst m x).stations = s.stations := rfl
@[simp] theorem State.setInst_memS (s : State) (m : MemInst) (x : InstS) : (s.setInst m x).memS = s.memS := rfl
@[simp] theorem State.setInst_dma (s : State) (m : MemInst) (x : InstS) : (s.setInst m x).dma = s.dma := rfl
@[simp] theorem State.setInst_engines (s : State) (m : MemInst) (x : InstS) : (s.setInst m x).engines = s.engines := rfl
@[simp] theorem State.setInst_tags (s : State) (m : MemInst) (x : InstS) : (s.setInst m x).tags = s.tags := rfl
@[simp] theorem State.setInst_iports (s : State) (m : MemInst) (x : InstS) : (s.setInst m x).iports = s.iports := rfl
@[simp] theorem State.setInst_strays (s : State) (m : MemInst) (x : InstS) : (s.setInst m x).strays = s.strays := rfl
@[simp] theorem State.setInst_rings (s : State) (m : MemInst) (x : InstS) : (s.setInst m x).rings = s.rings := rfl
@[simp] theorem State.setInst_pools (s : State) (m : MemInst) (x : InstS) : (s.setInst m x).pools = s.pools := rfl
@[simp] theorem State.setInst_qm (s : State) (m : MemInst) (x : InstS) : (s.setInst m x).qm = s.qm := rfl
@[simp] theorem State.setInst_locks (s : State) (m : MemInst) (x : InstS) : (s.setInst m x).locks = s.locks := rfl
@[simp] theorem State.setInst_hosts (s : State) (m : MemInst) (x : InstS) : (s.setInst m x).hosts = s.hosts := rfl
@[simp] theorem State.setInst_irqs (s : State) (m : MemInst) (x : InstS) : (s.setInst m x).irqs = s.irqs := rfl
@[simp] theorem State.setInst_hly (s : State) (m : MemInst) (x : InstS) : (s.setInst m x).hly = s.hly := rfl
@[simp] theorem State.setInst_upd (s : State) (m : MemInst) (x : InstS) : (s.setInst m x).upd = s.upd := rfl
@[simp] theorem State.setInst_drill (s : State) (m : MemInst) (x : InstS) : (s.setInst m x).drill = s.drill := rfl
@[simp] theorem State.setInst_sys (s : State) (m : MemInst) (x : InstS) : (s.setInst m x).sys = s.sys := rfl
@[simp] theorem State.setInst_free (s : State) (m : MemInst) (x : InstS) : (s.setInst m x).free = s.free := rfl
@[simp] theorem State.setInst_levelsHigh (s : State) (m : MemInst) (x : InstS) : (s.setInst m x).levelsHigh = s.levelsHigh := rfl
@[simp] theorem State.setInst_tickStage (s : State) (m : MemInst) (x : InstS) : (s.setInst m x).tickStage = s.tickStage := rfl
@[simp] theorem State.setInst_pending (s : State) (m : MemInst) (x : InstS) : (s.setInst m x).pending = s.pending := rfl

/-! ### setCh -/

@[simp] theorem State.ch_setCh (s : State) (c : DmaCh) (x : DmaChS) : (s.setCh c x).ch c = x := mget_mput_self _ _ _ _
theorem State.ch_setCh_ne (s : State) (c j : DmaCh) (x : DmaChS) (hne : j ≠ c) : (s.setCh c x).ch j = s.ch j :=
  mget_mput_ne _ _ _ _ (fun e => hne (Fin.ext e))
@[simp] theorem State.setCh_now (s : State) (c : DmaCh) (x : DmaChS) : (s.setCh c x).now = s.now := rfl
@[simp] theorem State.setCh_tbase (s : State) (c : DmaCh) (x : DmaChS) : (s.setCh c x).tbase = s.tbase := rfl
@[simp] theorem State.setCh_lap (s : State) (c : DmaCh) (x : DmaChS) : (s.setCh c x).lap = s.lap := rfl
@[simp] theorem State.setCh_seenNew (s : State) (c : DmaCh) (x : DmaChS) : (s.setCh c x).seenNew = s.seenNew := rfl
@[simp] theorem State.setCh_seenAt (s : State) (c : DmaCh) (x : DmaChS) : (s.setCh c x).seenAt = s.seenAt := rfl
@[simp] theorem State.setCh_ports (s : State) (c : DmaCh) (x : DmaChS) : (s.setCh c x).ports = s.ports := rfl
@[simp] theorem State.setCh_turns (s : State) (c : DmaCh) (x : DmaChS) : (s.setCh c x).turns = s.turns := rfl
@[simp] theorem State.setCh_perrNew (s : State) (c : DmaCh) (x : DmaChS) : (s.setCh c x).perrNew = s.perrNew := rfl
@[simp] theorem State.setCh_regs (s : State) (c : DmaCh) (x : DmaChS) : (s.setCh c x).regs = s.regs := rfl
@[simp] theorem State.setCh_threads (s : State) (c : DmaCh) (x : DmaChS) : (s.setCh c x).threads = s.threads := rfl
@[simp] theorem State.setCh_barrels (s : State) (c : DmaCh) (x : DmaChS) : (s.setCh c x).barrels = s.barrels := rfl
@[simp] theorem State.setCh_bells (s : State) (c : DmaCh) (x : DmaChS) : (s.setCh c x).bells = s.bells := rfl
@[simp] theorem State.setCh_evmap (s : State) (c : DmaCh) (x : DmaChS) : (s.setCh c x).evmap = s.evmap := rfl
@[simp] theorem State.setCh_agenda (s : State) (c : DmaCh) (x : DmaChS) : (s.setCh c x).agenda = s.agenda := rfl
@[simp] theorem State.setCh_staged (s : State) (c : DmaCh) (x : DmaChS) : (s.setCh c x).staged = s.staged := rfl
@[simp] theorem State.setCh_reloadUndo (s : State) (c : DmaCh) (x : DmaChS) : (s.setCh c x).reloadUndo = s.reloadUndo := rfl
@[simp] theorem State.setCh_desk (s : State) (c : DmaCh) (x : DmaChS) : (s.setCh c x).desk = s.desk := rfl
@[simp] theorem State.setCh_slate (s : State) (c : DmaCh) (x : DmaChS) : (s.setCh c x).slate = s.slate := rfl
@[simp] theorem State.setCh_hall (s : State) (c : DmaCh) (x : DmaChS) : (s.setCh c x).hall = s.hall := rfl
@[simp] theorem State.setCh_ins (s : State) (c : DmaCh) (x : DmaChS) : (s.setCh c x).ins = s.ins := rfl
@[simp] theorem State.setCh_pins (s : State) (c : DmaCh) (x : DmaChS) : (s.setCh c x).pins = s.pins := rfl
@[simp] theorem State.setCh_lockSeq (s : State) (c : DmaCh) (x : DmaChS) : (s.setCh c x).lockSeq = s.lockSeq := rfl
@[simp] theorem State.setCh_cals (s : State) (c : DmaCh) (x : DmaChS) : (s.setCh c x).cals = s.cals := rfl
@[simp] theorem State.setCh_hoists (s : State) (c : DmaCh) (x : DmaChS) : (s.setCh c x).hoists = s.hoists := rfl
@[simp] theorem State.setCh_sincs (s : State) (c : DmaCh) (x : DmaChS) : (s.setCh c x).sincs = s.sincs := rfl
@[simp] theorem State.setCh_timers (s : State) (c : DmaCh) (x : DmaChS) : (s.setCh c x).timers = s.timers := rfl
@[simp] theorem State.setCh_units (s : State) (c : DmaCh) (x : DmaChS) : (s.setCh c x).units = s.units := rfl
@[simp] theorem State.setCh_gstarts (s : State) (c : DmaCh) (x : DmaChS) : (s.setCh c x).gstarts = s.gstarts := rfl
@[simp] theorem State.setCh_hostHold (s : State) (c : DmaCh) (x : DmaChS) : (s.setCh c x).hostHold = s.hostHold := rfl
@[simp] theorem State.setCh_padHold (s : State) (c : DmaCh) (x : DmaChS) : (s.setCh c x).padHold = s.padHold := rfl
@[simp] theorem State.setCh_strict (s : State) (c : DmaCh) (x : DmaChS) : (s.setCh c x).strict = s.strict := rfl
@[simp] theorem State.setCh_cvps (s : State) (c : DmaCh) (x : DmaChS) : (s.setCh c x).cvps = s.cvps := rfl
@[simp] theorem State.setCh_tripsIn (s : State) (c : DmaCh) (x : DmaChS) : (s.setCh c x).tripsIn = s.tripsIn := rfl
@[simp] theorem State.setCh_tripLevel (s : State) (c : DmaCh) (x : DmaChS) : (s.setCh c x).tripLevel = s.tripLevel := rfl
@[simp] theorem State.setCh_tripSeen (s : State) (c : DmaCh) (x : DmaChS) : (s.setCh c x).tripSeen = s.tripSeen := rfl
@[simp] theorem State.setCh_stations (s : State) (c : DmaCh) (x : DmaChS) : (s.setCh c x).stations = s.stations := rfl
@[simp] theorem State.setCh_insts (s : State) (c : DmaCh) (x : DmaChS) : (s.setCh c x).insts = s.insts := rfl
@[simp] theorem State.setCh_memS (s : State) (c : DmaCh) (x : DmaChS) : (s.setCh c x).memS = s.memS := rfl
@[simp] theorem State.setCh_engines (s : State) (c : DmaCh) (x : DmaChS) : (s.setCh c x).engines = s.engines := rfl
@[simp] theorem State.setCh_tags (s : State) (c : DmaCh) (x : DmaChS) : (s.setCh c x).tags = s.tags := rfl
@[simp] theorem State.setCh_iports (s : State) (c : DmaCh) (x : DmaChS) : (s.setCh c x).iports = s.iports := rfl
@[simp] theorem State.setCh_strays (s : State) (c : DmaCh) (x : DmaChS) : (s.setCh c x).strays = s.strays := rfl
@[simp] theorem State.setCh_rings (s : State) (c : DmaCh) (x : DmaChS) : (s.setCh c x).rings = s.rings := rfl
@[simp] theorem State.setCh_pools (s : State) (c : DmaCh) (x : DmaChS) : (s.setCh c x).pools = s.pools := rfl
@[simp] theorem State.setCh_qm (s : State) (c : DmaCh) (x : DmaChS) : (s.setCh c x).qm = s.qm := rfl
@[simp] theorem State.setCh_locks (s : State) (c : DmaCh) (x : DmaChS) : (s.setCh c x).locks = s.locks := rfl
@[simp] theorem State.setCh_hosts (s : State) (c : DmaCh) (x : DmaChS) : (s.setCh c x).hosts = s.hosts := rfl
@[simp] theorem State.setCh_irqs (s : State) (c : DmaCh) (x : DmaChS) : (s.setCh c x).irqs = s.irqs := rfl
@[simp] theorem State.setCh_hly (s : State) (c : DmaCh) (x : DmaChS) : (s.setCh c x).hly = s.hly := rfl
@[simp] theorem State.setCh_upd (s : State) (c : DmaCh) (x : DmaChS) : (s.setCh c x).upd = s.upd := rfl
@[simp] theorem State.setCh_drill (s : State) (c : DmaCh) (x : DmaChS) : (s.setCh c x).drill = s.drill := rfl
@[simp] theorem State.setCh_sys (s : State) (c : DmaCh) (x : DmaChS) : (s.setCh c x).sys = s.sys := rfl
@[simp] theorem State.setCh_free (s : State) (c : DmaCh) (x : DmaChS) : (s.setCh c x).free = s.free := rfl
@[simp] theorem State.setCh_levelsHigh (s : State) (c : DmaCh) (x : DmaChS) : (s.setCh c x).levelsHigh = s.levelsHigh := rfl
@[simp] theorem State.setCh_tickStage (s : State) (c : DmaCh) (x : DmaChS) : (s.setCh c x).tickStage = s.tickStage := rfl
@[simp] theorem State.setCh_pending (s : State) (c : DmaCh) (x : DmaChS) : (s.setCh c x).pending = s.pending := rfl

/-! ### setEng -/

@[simp] theorem State.eng_setEng (s : State) (e : Engine) (x : EngineS) : (s.setEng e x).eng e = x := mget_mput_self _ _ _ _
theorem State.eng_setEng_ne (s : State) (e j : Engine) (x : EngineS) (hne : j ≠ e) : (s.setEng e x).eng j = s.eng j :=
  mget_mput_ne _ _ _ _ (fun e => hne (Fin.ext e))
@[simp] theorem State.setEng_now (s : State) (e : Engine) (x : EngineS) : (s.setEng e x).now = s.now := rfl
@[simp] theorem State.setEng_tbase (s : State) (e : Engine) (x : EngineS) : (s.setEng e x).tbase = s.tbase := rfl
@[simp] theorem State.setEng_lap (s : State) (e : Engine) (x : EngineS) : (s.setEng e x).lap = s.lap := rfl
@[simp] theorem State.setEng_seenNew (s : State) (e : Engine) (x : EngineS) : (s.setEng e x).seenNew = s.seenNew := rfl
@[simp] theorem State.setEng_seenAt (s : State) (e : Engine) (x : EngineS) : (s.setEng e x).seenAt = s.seenAt := rfl
@[simp] theorem State.setEng_ports (s : State) (e : Engine) (x : EngineS) : (s.setEng e x).ports = s.ports := rfl
@[simp] theorem State.setEng_turns (s : State) (e : Engine) (x : EngineS) : (s.setEng e x).turns = s.turns := rfl
@[simp] theorem State.setEng_perrNew (s : State) (e : Engine) (x : EngineS) : (s.setEng e x).perrNew = s.perrNew := rfl
@[simp] theorem State.setEng_regs (s : State) (e : Engine) (x : EngineS) : (s.setEng e x).regs = s.regs := rfl
@[simp] theorem State.setEng_threads (s : State) (e : Engine) (x : EngineS) : (s.setEng e x).threads = s.threads := rfl
@[simp] theorem State.setEng_barrels (s : State) (e : Engine) (x : EngineS) : (s.setEng e x).barrels = s.barrels := rfl
@[simp] theorem State.setEng_bells (s : State) (e : Engine) (x : EngineS) : (s.setEng e x).bells = s.bells := rfl
@[simp] theorem State.setEng_evmap (s : State) (e : Engine) (x : EngineS) : (s.setEng e x).evmap = s.evmap := rfl
@[simp] theorem State.setEng_agenda (s : State) (e : Engine) (x : EngineS) : (s.setEng e x).agenda = s.agenda := rfl
@[simp] theorem State.setEng_staged (s : State) (e : Engine) (x : EngineS) : (s.setEng e x).staged = s.staged := rfl
@[simp] theorem State.setEng_reloadUndo (s : State) (e : Engine) (x : EngineS) : (s.setEng e x).reloadUndo = s.reloadUndo := rfl
@[simp] theorem State.setEng_desk (s : State) (e : Engine) (x : EngineS) : (s.setEng e x).desk = s.desk := rfl
@[simp] theorem State.setEng_slate (s : State) (e : Engine) (x : EngineS) : (s.setEng e x).slate = s.slate := rfl
@[simp] theorem State.setEng_hall (s : State) (e : Engine) (x : EngineS) : (s.setEng e x).hall = s.hall := rfl
@[simp] theorem State.setEng_ins (s : State) (e : Engine) (x : EngineS) : (s.setEng e x).ins = s.ins := rfl
@[simp] theorem State.setEng_pins (s : State) (e : Engine) (x : EngineS) : (s.setEng e x).pins = s.pins := rfl
@[simp] theorem State.setEng_lockSeq (s : State) (e : Engine) (x : EngineS) : (s.setEng e x).lockSeq = s.lockSeq := rfl
@[simp] theorem State.setEng_cals (s : State) (e : Engine) (x : EngineS) : (s.setEng e x).cals = s.cals := rfl
@[simp] theorem State.setEng_hoists (s : State) (e : Engine) (x : EngineS) : (s.setEng e x).hoists = s.hoists := rfl
@[simp] theorem State.setEng_sincs (s : State) (e : Engine) (x : EngineS) : (s.setEng e x).sincs = s.sincs := rfl
@[simp] theorem State.setEng_timers (s : State) (e : Engine) (x : EngineS) : (s.setEng e x).timers = s.timers := rfl
@[simp] theorem State.setEng_units (s : State) (e : Engine) (x : EngineS) : (s.setEng e x).units = s.units := rfl
@[simp] theorem State.setEng_gstarts (s : State) (e : Engine) (x : EngineS) : (s.setEng e x).gstarts = s.gstarts := rfl
@[simp] theorem State.setEng_hostHold (s : State) (e : Engine) (x : EngineS) : (s.setEng e x).hostHold = s.hostHold := rfl
@[simp] theorem State.setEng_padHold (s : State) (e : Engine) (x : EngineS) : (s.setEng e x).padHold = s.padHold := rfl
@[simp] theorem State.setEng_strict (s : State) (e : Engine) (x : EngineS) : (s.setEng e x).strict = s.strict := rfl
@[simp] theorem State.setEng_cvps (s : State) (e : Engine) (x : EngineS) : (s.setEng e x).cvps = s.cvps := rfl
@[simp] theorem State.setEng_tripsIn (s : State) (e : Engine) (x : EngineS) : (s.setEng e x).tripsIn = s.tripsIn := rfl
@[simp] theorem State.setEng_tripLevel (s : State) (e : Engine) (x : EngineS) : (s.setEng e x).tripLevel = s.tripLevel := rfl
@[simp] theorem State.setEng_tripSeen (s : State) (e : Engine) (x : EngineS) : (s.setEng e x).tripSeen = s.tripSeen := rfl
@[simp] theorem State.setEng_stations (s : State) (e : Engine) (x : EngineS) : (s.setEng e x).stations = s.stations := rfl
@[simp] theorem State.setEng_insts (s : State) (e : Engine) (x : EngineS) : (s.setEng e x).insts = s.insts := rfl
@[simp] theorem State.setEng_memS (s : State) (e : Engine) (x : EngineS) : (s.setEng e x).memS = s.memS := rfl
@[simp] theorem State.setEng_dma (s : State) (e : Engine) (x : EngineS) : (s.setEng e x).dma = s.dma := rfl
@[simp] theorem State.setEng_tags (s : State) (e : Engine) (x : EngineS) : (s.setEng e x).tags = s.tags := rfl
@[simp] theorem State.setEng_iports (s : State) (e : Engine) (x : EngineS) : (s.setEng e x).iports = s.iports := rfl
@[simp] theorem State.setEng_strays (s : State) (e : Engine) (x : EngineS) : (s.setEng e x).strays = s.strays := rfl
@[simp] theorem State.setEng_rings (s : State) (e : Engine) (x : EngineS) : (s.setEng e x).rings = s.rings := rfl
@[simp] theorem State.setEng_pools (s : State) (e : Engine) (x : EngineS) : (s.setEng e x).pools = s.pools := rfl
@[simp] theorem State.setEng_qm (s : State) (e : Engine) (x : EngineS) : (s.setEng e x).qm = s.qm := rfl
@[simp] theorem State.setEng_locks (s : State) (e : Engine) (x : EngineS) : (s.setEng e x).locks = s.locks := rfl
@[simp] theorem State.setEng_hosts (s : State) (e : Engine) (x : EngineS) : (s.setEng e x).hosts = s.hosts := rfl
@[simp] theorem State.setEng_irqs (s : State) (e : Engine) (x : EngineS) : (s.setEng e x).irqs = s.irqs := rfl
@[simp] theorem State.setEng_hly (s : State) (e : Engine) (x : EngineS) : (s.setEng e x).hly = s.hly := rfl
@[simp] theorem State.setEng_upd (s : State) (e : Engine) (x : EngineS) : (s.setEng e x).upd = s.upd := rfl
@[simp] theorem State.setEng_drill (s : State) (e : Engine) (x : EngineS) : (s.setEng e x).drill = s.drill := rfl
@[simp] theorem State.setEng_sys (s : State) (e : Engine) (x : EngineS) : (s.setEng e x).sys = s.sys := rfl
@[simp] theorem State.setEng_free (s : State) (e : Engine) (x : EngineS) : (s.setEng e x).free = s.free := rfl
@[simp] theorem State.setEng_levelsHigh (s : State) (e : Engine) (x : EngineS) : (s.setEng e x).levelsHigh = s.levelsHigh := rfl
@[simp] theorem State.setEng_tickStage (s : State) (e : Engine) (x : EngineS) : (s.setEng e x).tickStage = s.tickStage := rfl
@[simp] theorem State.setEng_pending (s : State) (e : Engine) (x : EngineS) : (s.setEng e x).pending = s.pending := rfl

/-! ### setRing -/

@[simp] theorem State.ring_setRing (s : State) (r : Ring) (x : RingS) : (s.setRing r x).ring r = x := mget_mput_self _ _ _ _
theorem State.ring_setRing_ne (s : State) (r j : Ring) (x : RingS) (hne : j ≠ r) : (s.setRing r x).ring j = s.ring j :=
  mget_mput_ne _ _ _ _ (fun e => hne (Fin.ext e))
@[simp] theorem State.setRing_now (s : State) (r : Ring) (x : RingS) : (s.setRing r x).now = s.now := rfl
@[simp] theorem State.setRing_tbase (s : State) (r : Ring) (x : RingS) : (s.setRing r x).tbase = s.tbase := rfl
@[simp] theorem State.setRing_lap (s : State) (r : Ring) (x : RingS) : (s.setRing r x).lap = s.lap := rfl
@[simp] theorem State.setRing_seenNew (s : State) (r : Ring) (x : RingS) : (s.setRing r x).seenNew = s.seenNew := rfl
@[simp] theorem State.setRing_seenAt (s : State) (r : Ring) (x : RingS) : (s.setRing r x).seenAt = s.seenAt := rfl
@[simp] theorem State.setRing_ports (s : State) (r : Ring) (x : RingS) : (s.setRing r x).ports = s.ports := rfl
@[simp] theorem State.setRing_turns (s : State) (r : Ring) (x : RingS) : (s.setRing r x).turns = s.turns := rfl
@[simp] theorem State.setRing_perrNew (s : State) (r : Ring) (x : RingS) : (s.setRing r x).perrNew = s.perrNew := rfl
@[simp] theorem State.setRing_regs (s : State) (r : Ring) (x : RingS) : (s.setRing r x).regs = s.regs := rfl
@[simp] theorem State.setRing_threads (s : State) (r : Ring) (x : RingS) : (s.setRing r x).threads = s.threads := rfl
@[simp] theorem State.setRing_barrels (s : State) (r : Ring) (x : RingS) : (s.setRing r x).barrels = s.barrels := rfl
@[simp] theorem State.setRing_bells (s : State) (r : Ring) (x : RingS) : (s.setRing r x).bells = s.bells := rfl
@[simp] theorem State.setRing_evmap (s : State) (r : Ring) (x : RingS) : (s.setRing r x).evmap = s.evmap := rfl
@[simp] theorem State.setRing_agenda (s : State) (r : Ring) (x : RingS) : (s.setRing r x).agenda = s.agenda := rfl
@[simp] theorem State.setRing_staged (s : State) (r : Ring) (x : RingS) : (s.setRing r x).staged = s.staged := rfl
@[simp] theorem State.setRing_reloadUndo (s : State) (r : Ring) (x : RingS) : (s.setRing r x).reloadUndo = s.reloadUndo := rfl
@[simp] theorem State.setRing_desk (s : State) (r : Ring) (x : RingS) : (s.setRing r x).desk = s.desk := rfl
@[simp] theorem State.setRing_slate (s : State) (r : Ring) (x : RingS) : (s.setRing r x).slate = s.slate := rfl
@[simp] theorem State.setRing_hall (s : State) (r : Ring) (x : RingS) : (s.setRing r x).hall = s.hall := rfl
@[simp] theorem State.setRing_ins (s : State) (r : Ring) (x : RingS) : (s.setRing r x).ins = s.ins := rfl
@[simp] theorem State.setRing_pins (s : State) (r : Ring) (x : RingS) : (s.setRing r x).pins = s.pins := rfl
@[simp] theorem State.setRing_lockSeq (s : State) (r : Ring) (x : RingS) : (s.setRing r x).lockSeq = s.lockSeq := rfl
@[simp] theorem State.setRing_cals (s : State) (r : Ring) (x : RingS) : (s.setRing r x).cals = s.cals := rfl
@[simp] theorem State.setRing_hoists (s : State) (r : Ring) (x : RingS) : (s.setRing r x).hoists = s.hoists := rfl
@[simp] theorem State.setRing_sincs (s : State) (r : Ring) (x : RingS) : (s.setRing r x).sincs = s.sincs := rfl
@[simp] theorem State.setRing_timers (s : State) (r : Ring) (x : RingS) : (s.setRing r x).timers = s.timers := rfl
@[simp] theorem State.setRing_units (s : State) (r : Ring) (x : RingS) : (s.setRing r x).units = s.units := rfl
@[simp] theorem State.setRing_gstarts (s : State) (r : Ring) (x : RingS) : (s.setRing r x).gstarts = s.gstarts := rfl
@[simp] theorem State.setRing_hostHold (s : State) (r : Ring) (x : RingS) : (s.setRing r x).hostHold = s.hostHold := rfl
@[simp] theorem State.setRing_padHold (s : State) (r : Ring) (x : RingS) : (s.setRing r x).padHold = s.padHold := rfl
@[simp] theorem State.setRing_strict (s : State) (r : Ring) (x : RingS) : (s.setRing r x).strict = s.strict := rfl
@[simp] theorem State.setRing_cvps (s : State) (r : Ring) (x : RingS) : (s.setRing r x).cvps = s.cvps := rfl
@[simp] theorem State.setRing_tripsIn (s : State) (r : Ring) (x : RingS) : (s.setRing r x).tripsIn = s.tripsIn := rfl
@[simp] theorem State.setRing_tripLevel (s : State) (r : Ring) (x : RingS) : (s.setRing r x).tripLevel = s.tripLevel := rfl
@[simp] theorem State.setRing_tripSeen (s : State) (r : Ring) (x : RingS) : (s.setRing r x).tripSeen = s.tripSeen := rfl
@[simp] theorem State.setRing_stations (s : State) (r : Ring) (x : RingS) : (s.setRing r x).stations = s.stations := rfl
@[simp] theorem State.setRing_insts (s : State) (r : Ring) (x : RingS) : (s.setRing r x).insts = s.insts := rfl
@[simp] theorem State.setRing_memS (s : State) (r : Ring) (x : RingS) : (s.setRing r x).memS = s.memS := rfl
@[simp] theorem State.setRing_dma (s : State) (r : Ring) (x : RingS) : (s.setRing r x).dma = s.dma := rfl
@[simp] theorem State.setRing_engines (s : State) (r : Ring) (x : RingS) : (s.setRing r x).engines = s.engines := rfl
@[simp] theorem State.setRing_tags (s : State) (r : Ring) (x : RingS) : (s.setRing r x).tags = s.tags := rfl
@[simp] theorem State.setRing_iports (s : State) (r : Ring) (x : RingS) : (s.setRing r x).iports = s.iports := rfl
@[simp] theorem State.setRing_strays (s : State) (r : Ring) (x : RingS) : (s.setRing r x).strays = s.strays := rfl
@[simp] theorem State.setRing_pools (s : State) (r : Ring) (x : RingS) : (s.setRing r x).pools = s.pools := rfl
@[simp] theorem State.setRing_qm (s : State) (r : Ring) (x : RingS) : (s.setRing r x).qm = s.qm := rfl
@[simp] theorem State.setRing_locks (s : State) (r : Ring) (x : RingS) : (s.setRing r x).locks = s.locks := rfl
@[simp] theorem State.setRing_hosts (s : State) (r : Ring) (x : RingS) : (s.setRing r x).hosts = s.hosts := rfl
@[simp] theorem State.setRing_irqs (s : State) (r : Ring) (x : RingS) : (s.setRing r x).irqs = s.irqs := rfl
@[simp] theorem State.setRing_hly (s : State) (r : Ring) (x : RingS) : (s.setRing r x).hly = s.hly := rfl
@[simp] theorem State.setRing_upd (s : State) (r : Ring) (x : RingS) : (s.setRing r x).upd = s.upd := rfl
@[simp] theorem State.setRing_drill (s : State) (r : Ring) (x : RingS) : (s.setRing r x).drill = s.drill := rfl
@[simp] theorem State.setRing_sys (s : State) (r : Ring) (x : RingS) : (s.setRing r x).sys = s.sys := rfl
@[simp] theorem State.setRing_free (s : State) (r : Ring) (x : RingS) : (s.setRing r x).free = s.free := rfl
@[simp] theorem State.setRing_levelsHigh (s : State) (r : Ring) (x : RingS) : (s.setRing r x).levelsHigh = s.levelsHigh := rfl
@[simp] theorem State.setRing_tickStage (s : State) (r : Ring) (x : RingS) : (s.setRing r x).tickStage = s.tickStage := rfl
@[simp] theorem State.setRing_pending (s : State) (r : Ring) (x : RingS) : (s.setRing r x).pending = s.pending := rfl

/-! ### setPool -/

@[simp] theorem State.pool_setPool (s : State) (p : Fin 8) (x : PoolS) : (s.setPool p x).pool p = x := mget_mput_self _ _ _ _
theorem State.pool_setPool_ne (s : State) (p j : Fin 8) (x : PoolS) (hne : j ≠ p) : (s.setPool p x).pool j = s.pool j :=
  mget_mput_ne _ _ _ _ (fun e => hne (Fin.ext e))
@[simp] theorem State.setPool_now (s : State) (p : Fin 8) (x : PoolS) : (s.setPool p x).now = s.now := rfl
@[simp] theorem State.setPool_tbase (s : State) (p : Fin 8) (x : PoolS) : (s.setPool p x).tbase = s.tbase := rfl
@[simp] theorem State.setPool_lap (s : State) (p : Fin 8) (x : PoolS) : (s.setPool p x).lap = s.lap := rfl
@[simp] theorem State.setPool_seenNew (s : State) (p : Fin 8) (x : PoolS) : (s.setPool p x).seenNew = s.seenNew := rfl
@[simp] theorem State.setPool_seenAt (s : State) (p : Fin 8) (x : PoolS) : (s.setPool p x).seenAt = s.seenAt := rfl
@[simp] theorem State.setPool_ports (s : State) (p : Fin 8) (x : PoolS) : (s.setPool p x).ports = s.ports := rfl
@[simp] theorem State.setPool_turns (s : State) (p : Fin 8) (x : PoolS) : (s.setPool p x).turns = s.turns := rfl
@[simp] theorem State.setPool_perrNew (s : State) (p : Fin 8) (x : PoolS) : (s.setPool p x).perrNew = s.perrNew := rfl
@[simp] theorem State.setPool_regs (s : State) (p : Fin 8) (x : PoolS) : (s.setPool p x).regs = s.regs := rfl
@[simp] theorem State.setPool_threads (s : State) (p : Fin 8) (x : PoolS) : (s.setPool p x).threads = s.threads := rfl
@[simp] theorem State.setPool_barrels (s : State) (p : Fin 8) (x : PoolS) : (s.setPool p x).barrels = s.barrels := rfl
@[simp] theorem State.setPool_bells (s : State) (p : Fin 8) (x : PoolS) : (s.setPool p x).bells = s.bells := rfl
@[simp] theorem State.setPool_evmap (s : State) (p : Fin 8) (x : PoolS) : (s.setPool p x).evmap = s.evmap := rfl
@[simp] theorem State.setPool_agenda (s : State) (p : Fin 8) (x : PoolS) : (s.setPool p x).agenda = s.agenda := rfl
@[simp] theorem State.setPool_staged (s : State) (p : Fin 8) (x : PoolS) : (s.setPool p x).staged = s.staged := rfl
@[simp] theorem State.setPool_reloadUndo (s : State) (p : Fin 8) (x : PoolS) : (s.setPool p x).reloadUndo = s.reloadUndo := rfl
@[simp] theorem State.setPool_desk (s : State) (p : Fin 8) (x : PoolS) : (s.setPool p x).desk = s.desk := rfl
@[simp] theorem State.setPool_slate (s : State) (p : Fin 8) (x : PoolS) : (s.setPool p x).slate = s.slate := rfl
@[simp] theorem State.setPool_hall (s : State) (p : Fin 8) (x : PoolS) : (s.setPool p x).hall = s.hall := rfl
@[simp] theorem State.setPool_ins (s : State) (p : Fin 8) (x : PoolS) : (s.setPool p x).ins = s.ins := rfl
@[simp] theorem State.setPool_pins (s : State) (p : Fin 8) (x : PoolS) : (s.setPool p x).pins = s.pins := rfl
@[simp] theorem State.setPool_lockSeq (s : State) (p : Fin 8) (x : PoolS) : (s.setPool p x).lockSeq = s.lockSeq := rfl
@[simp] theorem State.setPool_cals (s : State) (p : Fin 8) (x : PoolS) : (s.setPool p x).cals = s.cals := rfl
@[simp] theorem State.setPool_hoists (s : State) (p : Fin 8) (x : PoolS) : (s.setPool p x).hoists = s.hoists := rfl
@[simp] theorem State.setPool_sincs (s : State) (p : Fin 8) (x : PoolS) : (s.setPool p x).sincs = s.sincs := rfl
@[simp] theorem State.setPool_timers (s : State) (p : Fin 8) (x : PoolS) : (s.setPool p x).timers = s.timers := rfl
@[simp] theorem State.setPool_units (s : State) (p : Fin 8) (x : PoolS) : (s.setPool p x).units = s.units := rfl
@[simp] theorem State.setPool_gstarts (s : State) (p : Fin 8) (x : PoolS) : (s.setPool p x).gstarts = s.gstarts := rfl
@[simp] theorem State.setPool_hostHold (s : State) (p : Fin 8) (x : PoolS) : (s.setPool p x).hostHold = s.hostHold := rfl
@[simp] theorem State.setPool_padHold (s : State) (p : Fin 8) (x : PoolS) : (s.setPool p x).padHold = s.padHold := rfl
@[simp] theorem State.setPool_strict (s : State) (p : Fin 8) (x : PoolS) : (s.setPool p x).strict = s.strict := rfl
@[simp] theorem State.setPool_cvps (s : State) (p : Fin 8) (x : PoolS) : (s.setPool p x).cvps = s.cvps := rfl
@[simp] theorem State.setPool_tripsIn (s : State) (p : Fin 8) (x : PoolS) : (s.setPool p x).tripsIn = s.tripsIn := rfl
@[simp] theorem State.setPool_tripLevel (s : State) (p : Fin 8) (x : PoolS) : (s.setPool p x).tripLevel = s.tripLevel := rfl
@[simp] theorem State.setPool_tripSeen (s : State) (p : Fin 8) (x : PoolS) : (s.setPool p x).tripSeen = s.tripSeen := rfl
@[simp] theorem State.setPool_stations (s : State) (p : Fin 8) (x : PoolS) : (s.setPool p x).stations = s.stations := rfl
@[simp] theorem State.setPool_insts (s : State) (p : Fin 8) (x : PoolS) : (s.setPool p x).insts = s.insts := rfl
@[simp] theorem State.setPool_memS (s : State) (p : Fin 8) (x : PoolS) : (s.setPool p x).memS = s.memS := rfl
@[simp] theorem State.setPool_dma (s : State) (p : Fin 8) (x : PoolS) : (s.setPool p x).dma = s.dma := rfl
@[simp] theorem State.setPool_engines (s : State) (p : Fin 8) (x : PoolS) : (s.setPool p x).engines = s.engines := rfl
@[simp] theorem State.setPool_tags (s : State) (p : Fin 8) (x : PoolS) : (s.setPool p x).tags = s.tags := rfl
@[simp] theorem State.setPool_iports (s : State) (p : Fin 8) (x : PoolS) : (s.setPool p x).iports = s.iports := rfl
@[simp] theorem State.setPool_strays (s : State) (p : Fin 8) (x : PoolS) : (s.setPool p x).strays = s.strays := rfl
@[simp] theorem State.setPool_rings (s : State) (p : Fin 8) (x : PoolS) : (s.setPool p x).rings = s.rings := rfl
@[simp] theorem State.setPool_qm (s : State) (p : Fin 8) (x : PoolS) : (s.setPool p x).qm = s.qm := rfl
@[simp] theorem State.setPool_locks (s : State) (p : Fin 8) (x : PoolS) : (s.setPool p x).locks = s.locks := rfl
@[simp] theorem State.setPool_hosts (s : State) (p : Fin 8) (x : PoolS) : (s.setPool p x).hosts = s.hosts := rfl
@[simp] theorem State.setPool_irqs (s : State) (p : Fin 8) (x : PoolS) : (s.setPool p x).irqs = s.irqs := rfl
@[simp] theorem State.setPool_hly (s : State) (p : Fin 8) (x : PoolS) : (s.setPool p x).hly = s.hly := rfl
@[simp] theorem State.setPool_upd (s : State) (p : Fin 8) (x : PoolS) : (s.setPool p x).upd = s.upd := rfl
@[simp] theorem State.setPool_drill (s : State) (p : Fin 8) (x : PoolS) : (s.setPool p x).drill = s.drill := rfl
@[simp] theorem State.setPool_sys (s : State) (p : Fin 8) (x : PoolS) : (s.setPool p x).sys = s.sys := rfl
@[simp] theorem State.setPool_free (s : State) (p : Fin 8) (x : PoolS) : (s.setPool p x).free = s.free := rfl
@[simp] theorem State.setPool_levelsHigh (s : State) (p : Fin 8) (x : PoolS) : (s.setPool p x).levelsHigh = s.levelsHigh := rfl
@[simp] theorem State.setPool_tickStage (s : State) (p : Fin 8) (x : PoolS) : (s.setPool p x).tickStage = s.tickStage := rfl
@[simp] theorem State.setPool_pending (s : State) (p : Fin 8) (x : PoolS) : (s.setPool p x).pending = s.pending := rfl

/-! ### setHost -/

@[simp] theorem State.host_setHost (s : State) (h : Host) (x : HostS) : (s.setHost h x).host h = x := mget_mput_self _ _ _ _
theorem State.host_setHost_ne (s : State) (h j : Host) (x : HostS) (hne : j ≠ h) : (s.setHost h x).host j = s.host j :=
  mget_mput_ne _ _ _ _ (fun e => hne (Fin.ext e))
@[simp] theorem State.setHost_now (s : State) (h : Host) (x : HostS) : (s.setHost h x).now = s.now := rfl
@[simp] theorem State.setHost_tbase (s : State) (h : Host) (x : HostS) : (s.setHost h x).tbase = s.tbase := rfl
@[simp] theorem State.setHost_lap (s : State) (h : Host) (x : HostS) : (s.setHost h x).lap = s.lap := rfl
@[simp] theorem State.setHost_seenNew (s : State) (h : Host) (x : HostS) : (s.setHost h x).seenNew = s.seenNew := rfl
@[simp] theorem State.setHost_seenAt (s : State) (h : Host) (x : HostS) : (s.setHost h x).seenAt = s.seenAt := rfl
@[simp] theorem State.setHost_ports (s : State) (h : Host) (x : HostS) : (s.setHost h x).ports = s.ports := rfl
@[simp] theorem State.setHost_turns (s : State) (h : Host) (x : HostS) : (s.setHost h x).turns = s.turns := rfl
@[simp] theorem State.setHost_perrNew (s : State) (h : Host) (x : HostS) : (s.setHost h x).perrNew = s.perrNew := rfl
@[simp] theorem State.setHost_regs (s : State) (h : Host) (x : HostS) : (s.setHost h x).regs = s.regs := rfl
@[simp] theorem State.setHost_threads (s : State) (h : Host) (x : HostS) : (s.setHost h x).threads = s.threads := rfl
@[simp] theorem State.setHost_barrels (s : State) (h : Host) (x : HostS) : (s.setHost h x).barrels = s.barrels := rfl
@[simp] theorem State.setHost_bells (s : State) (h : Host) (x : HostS) : (s.setHost h x).bells = s.bells := rfl
@[simp] theorem State.setHost_evmap (s : State) (h : Host) (x : HostS) : (s.setHost h x).evmap = s.evmap := rfl
@[simp] theorem State.setHost_agenda (s : State) (h : Host) (x : HostS) : (s.setHost h x).agenda = s.agenda := rfl
@[simp] theorem State.setHost_staged (s : State) (h : Host) (x : HostS) : (s.setHost h x).staged = s.staged := rfl
@[simp] theorem State.setHost_reloadUndo (s : State) (h : Host) (x : HostS) : (s.setHost h x).reloadUndo = s.reloadUndo := rfl
@[simp] theorem State.setHost_desk (s : State) (h : Host) (x : HostS) : (s.setHost h x).desk = s.desk := rfl
@[simp] theorem State.setHost_slate (s : State) (h : Host) (x : HostS) : (s.setHost h x).slate = s.slate := rfl
@[simp] theorem State.setHost_hall (s : State) (h : Host) (x : HostS) : (s.setHost h x).hall = s.hall := rfl
@[simp] theorem State.setHost_ins (s : State) (h : Host) (x : HostS) : (s.setHost h x).ins = s.ins := rfl
@[simp] theorem State.setHost_pins (s : State) (h : Host) (x : HostS) : (s.setHost h x).pins = s.pins := rfl
@[simp] theorem State.setHost_lockSeq (s : State) (h : Host) (x : HostS) : (s.setHost h x).lockSeq = s.lockSeq := rfl
@[simp] theorem State.setHost_cals (s : State) (h : Host) (x : HostS) : (s.setHost h x).cals = s.cals := rfl
@[simp] theorem State.setHost_hoists (s : State) (h : Host) (x : HostS) : (s.setHost h x).hoists = s.hoists := rfl
@[simp] theorem State.setHost_sincs (s : State) (h : Host) (x : HostS) : (s.setHost h x).sincs = s.sincs := rfl
@[simp] theorem State.setHost_timers (s : State) (h : Host) (x : HostS) : (s.setHost h x).timers = s.timers := rfl
@[simp] theorem State.setHost_units (s : State) (h : Host) (x : HostS) : (s.setHost h x).units = s.units := rfl
@[simp] theorem State.setHost_gstarts (s : State) (h : Host) (x : HostS) : (s.setHost h x).gstarts = s.gstarts := rfl
@[simp] theorem State.setHost_hostHold (s : State) (h : Host) (x : HostS) : (s.setHost h x).hostHold = s.hostHold := rfl
@[simp] theorem State.setHost_padHold (s : State) (h : Host) (x : HostS) : (s.setHost h x).padHold = s.padHold := rfl
@[simp] theorem State.setHost_strict (s : State) (h : Host) (x : HostS) : (s.setHost h x).strict = s.strict := rfl
@[simp] theorem State.setHost_cvps (s : State) (h : Host) (x : HostS) : (s.setHost h x).cvps = s.cvps := rfl
@[simp] theorem State.setHost_tripsIn (s : State) (h : Host) (x : HostS) : (s.setHost h x).tripsIn = s.tripsIn := rfl
@[simp] theorem State.setHost_tripLevel (s : State) (h : Host) (x : HostS) : (s.setHost h x).tripLevel = s.tripLevel := rfl
@[simp] theorem State.setHost_tripSeen (s : State) (h : Host) (x : HostS) : (s.setHost h x).tripSeen = s.tripSeen := rfl
@[simp] theorem State.setHost_stations (s : State) (h : Host) (x : HostS) : (s.setHost h x).stations = s.stations := rfl
@[simp] theorem State.setHost_insts (s : State) (h : Host) (x : HostS) : (s.setHost h x).insts = s.insts := rfl
@[simp] theorem State.setHost_memS (s : State) (h : Host) (x : HostS) : (s.setHost h x).memS = s.memS := rfl
@[simp] theorem State.setHost_dma (s : State) (h : Host) (x : HostS) : (s.setHost h x).dma = s.dma := rfl
@[simp] theorem State.setHost_engines (s : State) (h : Host) (x : HostS) : (s.setHost h x).engines = s.engines := rfl
@[simp] theorem State.setHost_tags (s : State) (h : Host) (x : HostS) : (s.setHost h x).tags = s.tags := rfl
@[simp] theorem State.setHost_iports (s : State) (h : Host) (x : HostS) : (s.setHost h x).iports = s.iports := rfl
@[simp] theorem State.setHost_strays (s : State) (h : Host) (x : HostS) : (s.setHost h x).strays = s.strays := rfl
@[simp] theorem State.setHost_rings (s : State) (h : Host) (x : HostS) : (s.setHost h x).rings = s.rings := rfl
@[simp] theorem State.setHost_pools (s : State) (h : Host) (x : HostS) : (s.setHost h x).pools = s.pools := rfl
@[simp] theorem State.setHost_qm (s : State) (h : Host) (x : HostS) : (s.setHost h x).qm = s.qm := rfl
@[simp] theorem State.setHost_locks (s : State) (h : Host) (x : HostS) : (s.setHost h x).locks = s.locks := rfl
@[simp] theorem State.setHost_irqs (s : State) (h : Host) (x : HostS) : (s.setHost h x).irqs = s.irqs := rfl
@[simp] theorem State.setHost_hly (s : State) (h : Host) (x : HostS) : (s.setHost h x).hly = s.hly := rfl
@[simp] theorem State.setHost_upd (s : State) (h : Host) (x : HostS) : (s.setHost h x).upd = s.upd := rfl
@[simp] theorem State.setHost_drill (s : State) (h : Host) (x : HostS) : (s.setHost h x).drill = s.drill := rfl
@[simp] theorem State.setHost_sys (s : State) (h : Host) (x : HostS) : (s.setHost h x).sys = s.sys := rfl
@[simp] theorem State.setHost_free (s : State) (h : Host) (x : HostS) : (s.setHost h x).free = s.free := rfl
@[simp] theorem State.setHost_levelsHigh (s : State) (h : Host) (x : HostS) : (s.setHost h x).levelsHigh = s.levelsHigh := rfl
@[simp] theorem State.setHost_tickStage (s : State) (h : Host) (x : HostS) : (s.setHost h x).tickStage = s.tickStage := rfl
@[simp] theorem State.setHost_pending (s : State) (h : Host) (x : HostS) : (s.setHost h x).pending = s.pending := rfl

/-! ### setIrq -/

@[simp] theorem State.irq_setIrq (s : State) (l : IrqLine) (x : IrqS) : (s.setIrq l x).irq l = x := mget_mput_self _ _ _ _
theorem State.irq_setIrq_ne (s : State) (l j : IrqLine) (x : IrqS) (hne : j ≠ l) : (s.setIrq l x).irq j = s.irq j :=
  mget_mput_ne _ _ _ _ (fun e => hne (Fin.ext e))
@[simp] theorem State.setIrq_now (s : State) (l : IrqLine) (x : IrqS) : (s.setIrq l x).now = s.now := rfl
@[simp] theorem State.setIrq_tbase (s : State) (l : IrqLine) (x : IrqS) : (s.setIrq l x).tbase = s.tbase := rfl
@[simp] theorem State.setIrq_lap (s : State) (l : IrqLine) (x : IrqS) : (s.setIrq l x).lap = s.lap := rfl
@[simp] theorem State.setIrq_seenNew (s : State) (l : IrqLine) (x : IrqS) : (s.setIrq l x).seenNew = s.seenNew := rfl
@[simp] theorem State.setIrq_seenAt (s : State) (l : IrqLine) (x : IrqS) : (s.setIrq l x).seenAt = s.seenAt := rfl
@[simp] theorem State.setIrq_ports (s : State) (l : IrqLine) (x : IrqS) : (s.setIrq l x).ports = s.ports := rfl
@[simp] theorem State.setIrq_turns (s : State) (l : IrqLine) (x : IrqS) : (s.setIrq l x).turns = s.turns := rfl
@[simp] theorem State.setIrq_perrNew (s : State) (l : IrqLine) (x : IrqS) : (s.setIrq l x).perrNew = s.perrNew := rfl
@[simp] theorem State.setIrq_regs (s : State) (l : IrqLine) (x : IrqS) : (s.setIrq l x).regs = s.regs := rfl
@[simp] theorem State.setIrq_threads (s : State) (l : IrqLine) (x : IrqS) : (s.setIrq l x).threads = s.threads := rfl
@[simp] theorem State.setIrq_barrels (s : State) (l : IrqLine) (x : IrqS) : (s.setIrq l x).barrels = s.barrels := rfl
@[simp] theorem State.setIrq_bells (s : State) (l : IrqLine) (x : IrqS) : (s.setIrq l x).bells = s.bells := rfl
@[simp] theorem State.setIrq_evmap (s : State) (l : IrqLine) (x : IrqS) : (s.setIrq l x).evmap = s.evmap := rfl
@[simp] theorem State.setIrq_agenda (s : State) (l : IrqLine) (x : IrqS) : (s.setIrq l x).agenda = s.agenda := rfl
@[simp] theorem State.setIrq_staged (s : State) (l : IrqLine) (x : IrqS) : (s.setIrq l x).staged = s.staged := rfl
@[simp] theorem State.setIrq_reloadUndo (s : State) (l : IrqLine) (x : IrqS) : (s.setIrq l x).reloadUndo = s.reloadUndo := rfl
@[simp] theorem State.setIrq_desk (s : State) (l : IrqLine) (x : IrqS) : (s.setIrq l x).desk = s.desk := rfl
@[simp] theorem State.setIrq_slate (s : State) (l : IrqLine) (x : IrqS) : (s.setIrq l x).slate = s.slate := rfl
@[simp] theorem State.setIrq_hall (s : State) (l : IrqLine) (x : IrqS) : (s.setIrq l x).hall = s.hall := rfl
@[simp] theorem State.setIrq_ins (s : State) (l : IrqLine) (x : IrqS) : (s.setIrq l x).ins = s.ins := rfl
@[simp] theorem State.setIrq_pins (s : State) (l : IrqLine) (x : IrqS) : (s.setIrq l x).pins = s.pins := rfl
@[simp] theorem State.setIrq_lockSeq (s : State) (l : IrqLine) (x : IrqS) : (s.setIrq l x).lockSeq = s.lockSeq := rfl
@[simp] theorem State.setIrq_cals (s : State) (l : IrqLine) (x : IrqS) : (s.setIrq l x).cals = s.cals := rfl
@[simp] theorem State.setIrq_hoists (s : State) (l : IrqLine) (x : IrqS) : (s.setIrq l x).hoists = s.hoists := rfl
@[simp] theorem State.setIrq_sincs (s : State) (l : IrqLine) (x : IrqS) : (s.setIrq l x).sincs = s.sincs := rfl
@[simp] theorem State.setIrq_timers (s : State) (l : IrqLine) (x : IrqS) : (s.setIrq l x).timers = s.timers := rfl
@[simp] theorem State.setIrq_units (s : State) (l : IrqLine) (x : IrqS) : (s.setIrq l x).units = s.units := rfl
@[simp] theorem State.setIrq_gstarts (s : State) (l : IrqLine) (x : IrqS) : (s.setIrq l x).gstarts = s.gstarts := rfl
@[simp] theorem State.setIrq_hostHold (s : State) (l : IrqLine) (x : IrqS) : (s.setIrq l x).hostHold = s.hostHold := rfl
@[simp] theorem State.setIrq_padHold (s : State) (l : IrqLine) (x : IrqS) : (s.setIrq l x).padHold = s.padHold := rfl
@[simp] theorem State.setIrq_strict (s : State) (l : IrqLine) (x : IrqS) : (s.setIrq l x).strict = s.strict := rfl
@[simp] theorem State.setIrq_cvps (s : State) (l : IrqLine) (x : IrqS) : (s.setIrq l x).cvps = s.cvps := rfl
@[simp] theorem State.setIrq_tripsIn (s : State) (l : IrqLine) (x : IrqS) : (s.setIrq l x).tripsIn = s.tripsIn := rfl
@[simp] theorem State.setIrq_tripLevel (s : State) (l : IrqLine) (x : IrqS) : (s.setIrq l x).tripLevel = s.tripLevel := rfl
@[simp] theorem State.setIrq_tripSeen (s : State) (l : IrqLine) (x : IrqS) : (s.setIrq l x).tripSeen = s.tripSeen := rfl
@[simp] theorem State.setIrq_stations (s : State) (l : IrqLine) (x : IrqS) : (s.setIrq l x).stations = s.stations := rfl
@[simp] theorem State.setIrq_insts (s : State) (l : IrqLine) (x : IrqS) : (s.setIrq l x).insts = s.insts := rfl
@[simp] theorem State.setIrq_memS (s : State) (l : IrqLine) (x : IrqS) : (s.setIrq l x).memS = s.memS := rfl
@[simp] theorem State.setIrq_dma (s : State) (l : IrqLine) (x : IrqS) : (s.setIrq l x).dma = s.dma := rfl
@[simp] theorem State.setIrq_engines (s : State) (l : IrqLine) (x : IrqS) : (s.setIrq l x).engines = s.engines := rfl
@[simp] theorem State.setIrq_tags (s : State) (l : IrqLine) (x : IrqS) : (s.setIrq l x).tags = s.tags := rfl
@[simp] theorem State.setIrq_iports (s : State) (l : IrqLine) (x : IrqS) : (s.setIrq l x).iports = s.iports := rfl
@[simp] theorem State.setIrq_strays (s : State) (l : IrqLine) (x : IrqS) : (s.setIrq l x).strays = s.strays := rfl
@[simp] theorem State.setIrq_rings (s : State) (l : IrqLine) (x : IrqS) : (s.setIrq l x).rings = s.rings := rfl
@[simp] theorem State.setIrq_pools (s : State) (l : IrqLine) (x : IrqS) : (s.setIrq l x).pools = s.pools := rfl
@[simp] theorem State.setIrq_qm (s : State) (l : IrqLine) (x : IrqS) : (s.setIrq l x).qm = s.qm := rfl
@[simp] theorem State.setIrq_locks (s : State) (l : IrqLine) (x : IrqS) : (s.setIrq l x).locks = s.locks := rfl
@[simp] theorem State.setIrq_hosts (s : State) (l : IrqLine) (x : IrqS) : (s.setIrq l x).hosts = s.hosts := rfl
@[simp] theorem State.setIrq_hly (s : State) (l : IrqLine) (x : IrqS) : (s.setIrq l x).hly = s.hly := rfl
@[simp] theorem State.setIrq_upd (s : State) (l : IrqLine) (x : IrqS) : (s.setIrq l x).upd = s.upd := rfl
@[simp] theorem State.setIrq_drill (s : State) (l : IrqLine) (x : IrqS) : (s.setIrq l x).drill = s.drill := rfl
@[simp] theorem State.setIrq_sys (s : State) (l : IrqLine) (x : IrqS) : (s.setIrq l x).sys = s.sys := rfl
@[simp] theorem State.setIrq_free (s : State) (l : IrqLine) (x : IrqS) : (s.setIrq l x).free = s.free := rfl
@[simp] theorem State.setIrq_levelsHigh (s : State) (l : IrqLine) (x : IrqS) : (s.setIrq l x).levelsHigh = s.levelsHigh := rfl
@[simp] theorem State.setIrq_tickStage (s : State) (l : IrqLine) (x : IrqS) : (s.setIrq l x).tickStage = s.tickStage := rfl
@[simp] theorem State.setIrq_pending (s : State) (l : IrqLine) (x : IrqS) : (s.setIrq l x).pending = s.pending := rfl

/-! ### schedule -/

@[simp] theorem State.schedule_now (s : State) (due prio : Nat) (e : Eff) : (s.schedule due prio e).now = s.now := rfl
@[simp] theorem State.schedule_tbase (s : State) (due prio : Nat) (e : Eff) : (s.schedule due prio e).tbase = s.tbase := rfl
@[simp] theorem State.schedule_lap (s : State) (due prio : Nat) (e : Eff) : (s.schedule due prio e).lap = s.lap := rfl
@[simp] theorem State.schedule_seenNew (s : State) (due prio : Nat) (e : Eff) : (s.schedule due prio e).seenNew = s.seenNew := rfl
@[simp] theorem State.schedule_seenAt (s : State) (due prio : Nat) (e : Eff) : (s.schedule due prio e).seenAt = s.seenAt := rfl
@[simp] theorem State.schedule_ports (s : State) (due prio : Nat) (e : Eff) : (s.schedule due prio e).ports = s.ports := rfl
@[simp] theorem State.schedule_turns (s : State) (due prio : Nat) (e : Eff) : (s.schedule due prio e).turns = s.turns := rfl
@[simp] theorem State.schedule_perrNew (s : State) (due prio : Nat) (e : Eff) : (s.schedule due prio e).perrNew = s.perrNew := rfl
@[simp] theorem State.schedule_regs (s : State) (due prio : Nat) (e : Eff) : (s.schedule due prio e).regs = s.regs := rfl
@[simp] theorem State.schedule_threads (s : State) (due prio : Nat) (e : Eff) : (s.schedule due prio e).threads = s.threads := rfl
@[simp] theorem State.schedule_barrels (s : State) (due prio : Nat) (e : Eff) : (s.schedule due prio e).barrels = s.barrels := rfl
@[simp] theorem State.schedule_bells (s : State) (due prio : Nat) (e : Eff) : (s.schedule due prio e).bells = s.bells := rfl
@[simp] theorem State.schedule_evmap (s : State) (due prio : Nat) (e : Eff) : (s.schedule due prio e).evmap = s.evmap := rfl
@[simp] theorem State.schedule_staged (s : State) (due prio : Nat) (e : Eff) : (s.schedule due prio e).staged = s.staged := rfl
@[simp] theorem State.schedule_reloadUndo (s : State) (due prio : Nat) (e : Eff) : (s.schedule due prio e).reloadUndo = s.reloadUndo := rfl
@[simp] theorem State.schedule_desk (s : State) (due prio : Nat) (e : Eff) : (s.schedule due prio e).desk = s.desk := rfl
@[simp] theorem State.schedule_slate (s : State) (due prio : Nat) (e : Eff) : (s.schedule due prio e).slate = s.slate := rfl
@[simp] theorem State.schedule_hall (s : State) (due prio : Nat) (e : Eff) : (s.schedule due prio e).hall = s.hall := rfl
@[simp] theorem State.schedule_ins (s : State) (due prio : Nat) (e : Eff) : (s.schedule due prio e).ins = s.ins := rfl
@[simp] theorem State.schedule_pins (s : State) (due prio : Nat) (e : Eff) : (s.schedule due prio e).pins = s.pins := rfl
@[simp] theorem State.schedule_lockSeq (s : State) (due prio : Nat) (e : Eff) : (s.schedule due prio e).lockSeq = s.lockSeq := rfl
@[simp] theorem State.schedule_cals (s : State) (due prio : Nat) (e : Eff) : (s.schedule due prio e).cals = s.cals := rfl
@[simp] theorem State.schedule_hoists (s : State) (due prio : Nat) (e : Eff) : (s.schedule due prio e).hoists = s.hoists := rfl
@[simp] theorem State.schedule_sincs (s : State) (due prio : Nat) (e : Eff) : (s.schedule due prio e).sincs = s.sincs := rfl
@[simp] theorem State.schedule_timers (s : State) (due prio : Nat) (e : Eff) : (s.schedule due prio e).timers = s.timers := rfl
@[simp] theorem State.schedule_units (s : State) (due prio : Nat) (e : Eff) : (s.schedule due prio e).units = s.units := rfl
@[simp] theorem State.schedule_gstarts (s : State) (due prio : Nat) (e : Eff) : (s.schedule due prio e).gstarts = s.gstarts := rfl
@[simp] theorem State.schedule_hostHold (s : State) (due prio : Nat) (e : Eff) : (s.schedule due prio e).hostHold = s.hostHold := rfl
@[simp] theorem State.schedule_padHold (s : State) (due prio : Nat) (e : Eff) : (s.schedule due prio e).padHold = s.padHold := rfl
@[simp] theorem State.schedule_strict (s : State) (due prio : Nat) (e : Eff) : (s.schedule due prio e).strict = s.strict := rfl
@[simp] theorem State.schedule_cvps (s : State) (due prio : Nat) (e : Eff) : (s.schedule due prio e).cvps = s.cvps := rfl
@[simp] theorem State.schedule_tripsIn (s : State) (due prio : Nat) (e : Eff) : (s.schedule due prio e).tripsIn = s.tripsIn := rfl
@[simp] theorem State.schedule_tripLevel (s : State) (due prio : Nat) (e : Eff) : (s.schedule due prio e).tripLevel = s.tripLevel := rfl
@[simp] theorem State.schedule_tripSeen (s : State) (due prio : Nat) (e : Eff) : (s.schedule due prio e).tripSeen = s.tripSeen := rfl
@[simp] theorem State.schedule_stations (s : State) (due prio : Nat) (e : Eff) : (s.schedule due prio e).stations = s.stations := rfl
@[simp] theorem State.schedule_insts (s : State) (due prio : Nat) (e : Eff) : (s.schedule due prio e).insts = s.insts := rfl
@[simp] theorem State.schedule_memS (s : State) (due prio : Nat) (e : Eff) : (s.schedule due prio e).memS = s.memS := rfl
@[simp] theorem State.schedule_dma (s : State) (due prio : Nat) (e : Eff) : (s.schedule due prio e).dma = s.dma := rfl
@[simp] theorem State.schedule_engines (s : State) (due prio : Nat) (e : Eff) : (s.schedule due prio e).engines = s.engines := rfl
@[simp] theorem State.schedule_tags (s : State) (due prio : Nat) (e : Eff) : (s.schedule due prio e).tags = s.tags := rfl
@[simp] theorem State.schedule_iports (s : State) (due prio : Nat) (e : Eff) : (s.schedule due prio e).iports = s.iports := rfl
@[simp] theorem State.schedule_strays (s : State) (due prio : Nat) (e : Eff) : (s.schedule due prio e).strays = s.strays := rfl
@[simp] theorem State.schedule_rings (s : State) (due prio : Nat) (e : Eff) : (s.schedule due prio e).rings = s.rings := rfl
@[simp] theorem State.schedule_pools (s : State) (due prio : Nat) (e : Eff) : (s.schedule due prio e).pools = s.pools := rfl
@[simp] theorem State.schedule_qm (s : State) (due prio : Nat) (e : Eff) : (s.schedule due prio e).qm = s.qm := rfl
@[simp] theorem State.schedule_locks (s : State) (due prio : Nat) (e : Eff) : (s.schedule due prio e).locks = s.locks := rfl
@[simp] theorem State.schedule_hosts (s : State) (due prio : Nat) (e : Eff) : (s.schedule due prio e).hosts = s.hosts := rfl
@[simp] theorem State.schedule_irqs (s : State) (due prio : Nat) (e : Eff) : (s.schedule due prio e).irqs = s.irqs := rfl
@[simp] theorem State.schedule_hly (s : State) (due prio : Nat) (e : Eff) : (s.schedule due prio e).hly = s.hly := rfl
@[simp] theorem State.schedule_upd (s : State) (due prio : Nat) (e : Eff) : (s.schedule due prio e).upd = s.upd := rfl
@[simp] theorem State.schedule_drill (s : State) (due prio : Nat) (e : Eff) : (s.schedule due prio e).drill = s.drill := rfl
@[simp] theorem State.schedule_sys (s : State) (due prio : Nat) (e : Eff) : (s.schedule due prio e).sys = s.sys := rfl
@[simp] theorem State.schedule_free (s : State) (due prio : Nat) (e : Eff) : (s.schedule due prio e).free = s.free := rfl
@[simp] theorem State.schedule_levelsHigh (s : State) (due prio : Nat) (e : Eff) : (s.schedule due prio e).levelsHigh = s.levelsHigh := rfl
@[simp] theorem State.schedule_tickStage (s : State) (due prio : Nat) (e : Eff) : (s.schedule due prio e).tickStage = s.tickStage := rfl
@[simp] theorem State.schedule_pending (s : State) (due prio : Nat) (e : Eff) : (s.schedule due prio e).pending = s.pending := rfl

/-! ### scheduleFor -/

@[simp] theorem State.scheduleFor_now (s : State) (t : Tid) (due prio : Nat) (e : Eff) : (s.scheduleFor t due prio e).now = s.now := rfl
@[simp] theorem State.scheduleFor_tbase (s : State) (t : Tid) (due prio : Nat) (e : Eff) : (s.scheduleFor t due prio e).tbase = s.tbase := rfl
@[simp] theorem State.scheduleFor_lap (s : State) (t : Tid) (due prio : Nat) (e : Eff) : (s.scheduleFor t due prio e).lap = s.lap := rfl
@[simp] theorem State.scheduleFor_seenNew (s : State) (t : Tid) (due prio : Nat) (e : Eff) : (s.scheduleFor t due prio e).seenNew = s.seenNew := rfl
@[simp] theorem State.scheduleFor_seenAt (s : State) (t : Tid) (due prio : Nat) (e : Eff) : (s.scheduleFor t due prio e).seenAt = s.seenAt := rfl
@[simp] theorem State.scheduleFor_ports (s : State) (t : Tid) (due prio : Nat) (e : Eff) : (s.scheduleFor t due prio e).ports = s.ports := rfl
@[simp] theorem State.scheduleFor_turns (s : State) (t : Tid) (due prio : Nat) (e : Eff) : (s.scheduleFor t due prio e).turns = s.turns := rfl
@[simp] theorem State.scheduleFor_perrNew (s : State) (t : Tid) (due prio : Nat) (e : Eff) : (s.scheduleFor t due prio e).perrNew = s.perrNew := rfl
@[simp] theorem State.scheduleFor_regs (s : State) (t : Tid) (due prio : Nat) (e : Eff) : (s.scheduleFor t due prio e).regs = s.regs := rfl
@[simp] theorem State.scheduleFor_threads (s : State) (t : Tid) (due prio : Nat) (e : Eff) : (s.scheduleFor t due prio e).threads = s.threads := rfl
@[simp] theorem State.scheduleFor_barrels (s : State) (t : Tid) (due prio : Nat) (e : Eff) : (s.scheduleFor t due prio e).barrels = s.barrels := rfl
@[simp] theorem State.scheduleFor_bells (s : State) (t : Tid) (due prio : Nat) (e : Eff) : (s.scheduleFor t due prio e).bells = s.bells := rfl
@[simp] theorem State.scheduleFor_evmap (s : State) (t : Tid) (due prio : Nat) (e : Eff) : (s.scheduleFor t due prio e).evmap = s.evmap := rfl
@[simp] theorem State.scheduleFor_staged (s : State) (t : Tid) (due prio : Nat) (e : Eff) : (s.scheduleFor t due prio e).staged = s.staged := rfl
@[simp] theorem State.scheduleFor_reloadUndo (s : State) (t : Tid) (due prio : Nat) (e : Eff) : (s.scheduleFor t due prio e).reloadUndo = s.reloadUndo := rfl
@[simp] theorem State.scheduleFor_desk (s : State) (t : Tid) (due prio : Nat) (e : Eff) : (s.scheduleFor t due prio e).desk = s.desk := rfl
@[simp] theorem State.scheduleFor_slate (s : State) (t : Tid) (due prio : Nat) (e : Eff) : (s.scheduleFor t due prio e).slate = s.slate := rfl
@[simp] theorem State.scheduleFor_hall (s : State) (t : Tid) (due prio : Nat) (e : Eff) : (s.scheduleFor t due prio e).hall = s.hall := rfl
@[simp] theorem State.scheduleFor_ins (s : State) (t : Tid) (due prio : Nat) (e : Eff) : (s.scheduleFor t due prio e).ins = s.ins := rfl
@[simp] theorem State.scheduleFor_pins (s : State) (t : Tid) (due prio : Nat) (e : Eff) : (s.scheduleFor t due prio e).pins = s.pins := rfl
@[simp] theorem State.scheduleFor_lockSeq (s : State) (t : Tid) (due prio : Nat) (e : Eff) : (s.scheduleFor t due prio e).lockSeq = s.lockSeq := rfl
@[simp] theorem State.scheduleFor_cals (s : State) (t : Tid) (due prio : Nat) (e : Eff) : (s.scheduleFor t due prio e).cals = s.cals := rfl
@[simp] theorem State.scheduleFor_hoists (s : State) (t : Tid) (due prio : Nat) (e : Eff) : (s.scheduleFor t due prio e).hoists = s.hoists := rfl
@[simp] theorem State.scheduleFor_sincs (s : State) (t : Tid) (due prio : Nat) (e : Eff) : (s.scheduleFor t due prio e).sincs = s.sincs := rfl
@[simp] theorem State.scheduleFor_timers (s : State) (t : Tid) (due prio : Nat) (e : Eff) : (s.scheduleFor t due prio e).timers = s.timers := rfl
@[simp] theorem State.scheduleFor_units (s : State) (t : Tid) (due prio : Nat) (e : Eff) : (s.scheduleFor t due prio e).units = s.units := rfl
@[simp] theorem State.scheduleFor_gstarts (s : State) (t : Tid) (due prio : Nat) (e : Eff) : (s.scheduleFor t due prio e).gstarts = s.gstarts := rfl
@[simp] theorem State.scheduleFor_hostHold (s : State) (t : Tid) (due prio : Nat) (e : Eff) : (s.scheduleFor t due prio e).hostHold = s.hostHold := rfl
@[simp] theorem State.scheduleFor_padHold (s : State) (t : Tid) (due prio : Nat) (e : Eff) : (s.scheduleFor t due prio e).padHold = s.padHold := rfl
@[simp] theorem State.scheduleFor_strict (s : State) (t : Tid) (due prio : Nat) (e : Eff) : (s.scheduleFor t due prio e).strict = s.strict := rfl
@[simp] theorem State.scheduleFor_cvps (s : State) (t : Tid) (due prio : Nat) (e : Eff) : (s.scheduleFor t due prio e).cvps = s.cvps := rfl
@[simp] theorem State.scheduleFor_tripsIn (s : State) (t : Tid) (due prio : Nat) (e : Eff) : (s.scheduleFor t due prio e).tripsIn = s.tripsIn := rfl
@[simp] theorem State.scheduleFor_tripLevel (s : State) (t : Tid) (due prio : Nat) (e : Eff) : (s.scheduleFor t due prio e).tripLevel = s.tripLevel := rfl
@[simp] theorem State.scheduleFor_tripSeen (s : State) (t : Tid) (due prio : Nat) (e : Eff) : (s.scheduleFor t due prio e).tripSeen = s.tripSeen := rfl
@[simp] theorem State.scheduleFor_stations (s : State) (t : Tid) (due prio : Nat) (e : Eff) : (s.scheduleFor t due prio e).stations = s.stations := rfl
@[simp] theorem State.scheduleFor_insts (s : State) (t : Tid) (due prio : Nat) (e : Eff) : (s.scheduleFor t due prio e).insts = s.insts := rfl
@[simp] theorem State.scheduleFor_memS (s : State) (t : Tid) (due prio : Nat) (e : Eff) : (s.scheduleFor t due prio e).memS = s.memS := rfl
@[simp] theorem State.scheduleFor_dma (s : State) (t : Tid) (due prio : Nat) (e : Eff) : (s.scheduleFor t due prio e).dma = s.dma := rfl
@[simp] theorem State.scheduleFor_engines (s : State) (t : Tid) (due prio : Nat) (e : Eff) : (s.scheduleFor t due prio e).engines = s.engines := rfl
@[simp] theorem State.scheduleFor_tags (s : State) (t : Tid) (due prio : Nat) (e : Eff) : (s.scheduleFor t due prio e).tags = s.tags := rfl
@[simp] theorem State.scheduleFor_iports (s : State) (t : Tid) (due prio : Nat) (e : Eff) : (s.scheduleFor t due prio e).iports = s.iports := rfl
@[simp] theorem State.scheduleFor_strays (s : State) (t : Tid) (due prio : Nat) (e : Eff) : (s.scheduleFor t due prio e).strays = s.strays := rfl
@[simp] theorem State.scheduleFor_rings (s : State) (t : Tid) (due prio : Nat) (e : Eff) : (s.scheduleFor t due prio e).rings = s.rings := rfl
@[simp] theorem State.scheduleFor_pools (s : State) (t : Tid) (due prio : Nat) (e : Eff) : (s.scheduleFor t due prio e).pools = s.pools := rfl
@[simp] theorem State.scheduleFor_qm (s : State) (t : Tid) (due prio : Nat) (e : Eff) : (s.scheduleFor t due prio e).qm = s.qm := rfl
@[simp] theorem State.scheduleFor_locks (s : State) (t : Tid) (due prio : Nat) (e : Eff) : (s.scheduleFor t due prio e).locks = s.locks := rfl
@[simp] theorem State.scheduleFor_hosts (s : State) (t : Tid) (due prio : Nat) (e : Eff) : (s.scheduleFor t due prio e).hosts = s.hosts := rfl
@[simp] theorem State.scheduleFor_irqs (s : State) (t : Tid) (due prio : Nat) (e : Eff) : (s.scheduleFor t due prio e).irqs = s.irqs := rfl
@[simp] theorem State.scheduleFor_hly (s : State) (t : Tid) (due prio : Nat) (e : Eff) : (s.scheduleFor t due prio e).hly = s.hly := rfl
@[simp] theorem State.scheduleFor_upd (s : State) (t : Tid) (due prio : Nat) (e : Eff) : (s.scheduleFor t due prio e).upd = s.upd := rfl
@[simp] theorem State.scheduleFor_drill (s : State) (t : Tid) (due prio : Nat) (e : Eff) : (s.scheduleFor t due prio e).drill = s.drill := rfl
@[simp] theorem State.scheduleFor_sys (s : State) (t : Tid) (due prio : Nat) (e : Eff) : (s.scheduleFor t due prio e).sys = s.sys := rfl
@[simp] theorem State.scheduleFor_free (s : State) (t : Tid) (due prio : Nat) (e : Eff) : (s.scheduleFor t due prio e).free = s.free := rfl
@[simp] theorem State.scheduleFor_levelsHigh (s : State) (t : Tid) (due prio : Nat) (e : Eff) : (s.scheduleFor t due prio e).levelsHigh = s.levelsHigh := rfl
@[simp] theorem State.scheduleFor_tickStage (s : State) (t : Tid) (due prio : Nat) (e : Eff) : (s.scheduleFor t due prio e).tickStage = s.tickStage := rfl
@[simp] theorem State.scheduleFor_pending (s : State) (t : Tid) (due prio : Nat) (e : Eff) : (s.scheduleFor t due prio e).pending = s.pending := rfl

/-! ### setDesk -/

@[simp] theorem State.setDesk_now (s : State) (b : Barrel) (a : Nat) (v : Byte) : (s.setDesk b a v).now = s.now := rfl
@[simp] theorem State.setDesk_tbase (s : State) (b : Barrel) (a : Nat) (v : Byte) : (s.setDesk b a v).tbase = s.tbase := rfl
@[simp] theorem State.setDesk_lap (s : State) (b : Barrel) (a : Nat) (v : Byte) : (s.setDesk b a v).lap = s.lap := rfl
@[simp] theorem State.setDesk_seenNew (s : State) (b : Barrel) (a : Nat) (v : Byte) : (s.setDesk b a v).seenNew = s.seenNew := rfl
@[simp] theorem State.setDesk_seenAt (s : State) (b : Barrel) (a : Nat) (v : Byte) : (s.setDesk b a v).seenAt = s.seenAt := rfl
@[simp] theorem State.setDesk_ports (s : State) (b : Barrel) (a : Nat) (v : Byte) : (s.setDesk b a v).ports = s.ports := rfl
@[simp] theorem State.setDesk_turns (s : State) (b : Barrel) (a : Nat) (v : Byte) : (s.setDesk b a v).turns = s.turns := rfl
@[simp] theorem State.setDesk_perrNew (s : State) (b : Barrel) (a : Nat) (v : Byte) : (s.setDesk b a v).perrNew = s.perrNew := rfl
@[simp] theorem State.setDesk_regs (s : State) (b : Barrel) (a : Nat) (v : Byte) : (s.setDesk b a v).regs = s.regs := rfl
@[simp] theorem State.setDesk_threads (s : State) (b : Barrel) (a : Nat) (v : Byte) : (s.setDesk b a v).threads = s.threads := rfl
@[simp] theorem State.setDesk_barrels (s : State) (b : Barrel) (a : Nat) (v : Byte) : (s.setDesk b a v).barrels = s.barrels := rfl
@[simp] theorem State.setDesk_bells (s : State) (b : Barrel) (a : Nat) (v : Byte) : (s.setDesk b a v).bells = s.bells := rfl
@[simp] theorem State.setDesk_evmap (s : State) (b : Barrel) (a : Nat) (v : Byte) : (s.setDesk b a v).evmap = s.evmap := rfl
@[simp] theorem State.setDesk_agenda (s : State) (b : Barrel) (a : Nat) (v : Byte) : (s.setDesk b a v).agenda = s.agenda := rfl
@[simp] theorem State.setDesk_staged (s : State) (b : Barrel) (a : Nat) (v : Byte) : (s.setDesk b a v).staged = s.staged := rfl
@[simp] theorem State.setDesk_reloadUndo (s : State) (b : Barrel) (a : Nat) (v : Byte) : (s.setDesk b a v).reloadUndo = s.reloadUndo := rfl
@[simp] theorem State.setDesk_slate (s : State) (b : Barrel) (a : Nat) (v : Byte) : (s.setDesk b a v).slate = s.slate := rfl
@[simp] theorem State.setDesk_hall (s : State) (b : Barrel) (a : Nat) (v : Byte) : (s.setDesk b a v).hall = s.hall := rfl
@[simp] theorem State.setDesk_ins (s : State) (b : Barrel) (a : Nat) (v : Byte) : (s.setDesk b a v).ins = s.ins := rfl
@[simp] theorem State.setDesk_pins (s : State) (b : Barrel) (a : Nat) (v : Byte) : (s.setDesk b a v).pins = s.pins := rfl
@[simp] theorem State.setDesk_lockSeq (s : State) (b : Barrel) (a : Nat) (v : Byte) : (s.setDesk b a v).lockSeq = s.lockSeq := rfl
@[simp] theorem State.setDesk_cals (s : State) (b : Barrel) (a : Nat) (v : Byte) : (s.setDesk b a v).cals = s.cals := rfl
@[simp] theorem State.setDesk_hoists (s : State) (b : Barrel) (a : Nat) (v : Byte) : (s.setDesk b a v).hoists = s.hoists := rfl
@[simp] theorem State.setDesk_sincs (s : State) (b : Barrel) (a : Nat) (v : Byte) : (s.setDesk b a v).sincs = s.sincs := rfl
@[simp] theorem State.setDesk_timers (s : State) (b : Barrel) (a : Nat) (v : Byte) : (s.setDesk b a v).timers = s.timers := rfl
@[simp] theorem State.setDesk_units (s : State) (b : Barrel) (a : Nat) (v : Byte) : (s.setDesk b a v).units = s.units := rfl
@[simp] theorem State.setDesk_gstarts (s : State) (b : Barrel) (a : Nat) (v : Byte) : (s.setDesk b a v).gstarts = s.gstarts := rfl
@[simp] theorem State.setDesk_hostHold (s : State) (b : Barrel) (a : Nat) (v : Byte) : (s.setDesk b a v).hostHold = s.hostHold := rfl
@[simp] theorem State.setDesk_padHold (s : State) (b : Barrel) (a : Nat) (v : Byte) : (s.setDesk b a v).padHold = s.padHold := rfl
@[simp] theorem State.setDesk_strict (s : State) (b : Barrel) (a : Nat) (v : Byte) : (s.setDesk b a v).strict = s.strict := rfl
@[simp] theorem State.setDesk_cvps (s : State) (b : Barrel) (a : Nat) (v : Byte) : (s.setDesk b a v).cvps = s.cvps := rfl
@[simp] theorem State.setDesk_tripsIn (s : State) (b : Barrel) (a : Nat) (v : Byte) : (s.setDesk b a v).tripsIn = s.tripsIn := rfl
@[simp] theorem State.setDesk_tripLevel (s : State) (b : Barrel) (a : Nat) (v : Byte) : (s.setDesk b a v).tripLevel = s.tripLevel := rfl
@[simp] theorem State.setDesk_tripSeen (s : State) (b : Barrel) (a : Nat) (v : Byte) : (s.setDesk b a v).tripSeen = s.tripSeen := rfl
@[simp] theorem State.setDesk_stations (s : State) (b : Barrel) (a : Nat) (v : Byte) : (s.setDesk b a v).stations = s.stations := rfl
@[simp] theorem State.setDesk_insts (s : State) (b : Barrel) (a : Nat) (v : Byte) : (s.setDesk b a v).insts = s.insts := rfl
@[simp] theorem State.setDesk_memS (s : State) (b : Barrel) (a : Nat) (v : Byte) : (s.setDesk b a v).memS = s.memS := rfl
@[simp] theorem State.setDesk_dma (s : State) (b : Barrel) (a : Nat) (v : Byte) : (s.setDesk b a v).dma = s.dma := rfl
@[simp] theorem State.setDesk_engines (s : State) (b : Barrel) (a : Nat) (v : Byte) : (s.setDesk b a v).engines = s.engines := rfl
@[simp] theorem State.setDesk_tags (s : State) (b : Barrel) (a : Nat) (v : Byte) : (s.setDesk b a v).tags = s.tags := rfl
@[simp] theorem State.setDesk_iports (s : State) (b : Barrel) (a : Nat) (v : Byte) : (s.setDesk b a v).iports = s.iports := rfl
@[simp] theorem State.setDesk_strays (s : State) (b : Barrel) (a : Nat) (v : Byte) : (s.setDesk b a v).strays = s.strays := rfl
@[simp] theorem State.setDesk_rings (s : State) (b : Barrel) (a : Nat) (v : Byte) : (s.setDesk b a v).rings = s.rings := rfl
@[simp] theorem State.setDesk_pools (s : State) (b : Barrel) (a : Nat) (v : Byte) : (s.setDesk b a v).pools = s.pools := rfl
@[simp] theorem State.setDesk_qm (s : State) (b : Barrel) (a : Nat) (v : Byte) : (s.setDesk b a v).qm = s.qm := rfl
@[simp] theorem State.setDesk_locks (s : State) (b : Barrel) (a : Nat) (v : Byte) : (s.setDesk b a v).locks = s.locks := rfl
@[simp] theorem State.setDesk_hosts (s : State) (b : Barrel) (a : Nat) (v : Byte) : (s.setDesk b a v).hosts = s.hosts := rfl
@[simp] theorem State.setDesk_irqs (s : State) (b : Barrel) (a : Nat) (v : Byte) : (s.setDesk b a v).irqs = s.irqs := rfl
@[simp] theorem State.setDesk_hly (s : State) (b : Barrel) (a : Nat) (v : Byte) : (s.setDesk b a v).hly = s.hly := rfl
@[simp] theorem State.setDesk_upd (s : State) (b : Barrel) (a : Nat) (v : Byte) : (s.setDesk b a v).upd = s.upd := rfl
@[simp] theorem State.setDesk_drill (s : State) (b : Barrel) (a : Nat) (v : Byte) : (s.setDesk b a v).drill = s.drill := rfl
@[simp] theorem State.setDesk_sys (s : State) (b : Barrel) (a : Nat) (v : Byte) : (s.setDesk b a v).sys = s.sys := rfl
@[simp] theorem State.setDesk_free (s : State) (b : Barrel) (a : Nat) (v : Byte) : (s.setDesk b a v).free = s.free := rfl
@[simp] theorem State.setDesk_levelsHigh (s : State) (b : Barrel) (a : Nat) (v : Byte) : (s.setDesk b a v).levelsHigh = s.levelsHigh := rfl
@[simp] theorem State.setDesk_tickStage (s : State) (b : Barrel) (a : Nat) (v : Byte) : (s.setDesk b a v).tickStage = s.tickStage := rfl
@[simp] theorem State.setDesk_pending (s : State) (b : Barrel) (a : Nat) (v : Byte) : (s.setDesk b a v).pending = s.pending := rfl

/-! ### setHall -/

@[simp] theorem State.setHall_now (s : State) (a : Nat) (v : Byte) : (s.setHall a v).now = s.now := rfl
@[simp] theorem State.setHall_tbase (s : State) (a : Nat) (v : Byte) : (s.setHall a v).tbase = s.tbase := rfl
@[simp] theorem State.setHall_lap (s : State) (a : Nat) (v : Byte) : (s.setHall a v).lap = s.lap := rfl
@[simp] theorem State.setHall_seenNew (s : State) (a : Nat) (v : Byte) : (s.setHall a v).seenNew = s.seenNew := rfl
@[simp] theorem State.setHall_seenAt (s : State) (a : Nat) (v : Byte) : (s.setHall a v).seenAt = s.seenAt := rfl
@[simp] theorem State.setHall_ports (s : State) (a : Nat) (v : Byte) : (s.setHall a v).ports = s.ports := rfl
@[simp] theorem State.setHall_turns (s : State) (a : Nat) (v : Byte) : (s.setHall a v).turns = s.turns := rfl
@[simp] theorem State.setHall_perrNew (s : State) (a : Nat) (v : Byte) : (s.setHall a v).perrNew = s.perrNew := rfl
@[simp] theorem State.setHall_regs (s : State) (a : Nat) (v : Byte) : (s.setHall a v).regs = s.regs := rfl
@[simp] theorem State.setHall_threads (s : State) (a : Nat) (v : Byte) : (s.setHall a v).threads = s.threads := rfl
@[simp] theorem State.setHall_barrels (s : State) (a : Nat) (v : Byte) : (s.setHall a v).barrels = s.barrels := rfl
@[simp] theorem State.setHall_bells (s : State) (a : Nat) (v : Byte) : (s.setHall a v).bells = s.bells := rfl
@[simp] theorem State.setHall_evmap (s : State) (a : Nat) (v : Byte) : (s.setHall a v).evmap = s.evmap := rfl
@[simp] theorem State.setHall_agenda (s : State) (a : Nat) (v : Byte) : (s.setHall a v).agenda = s.agenda := rfl
@[simp] theorem State.setHall_staged (s : State) (a : Nat) (v : Byte) : (s.setHall a v).staged = s.staged := rfl
@[simp] theorem State.setHall_reloadUndo (s : State) (a : Nat) (v : Byte) : (s.setHall a v).reloadUndo = s.reloadUndo := rfl
@[simp] theorem State.setHall_desk (s : State) (a : Nat) (v : Byte) : (s.setHall a v).desk = s.desk := rfl
@[simp] theorem State.setHall_slate (s : State) (a : Nat) (v : Byte) : (s.setHall a v).slate = s.slate := rfl
@[simp] theorem State.setHall_ins (s : State) (a : Nat) (v : Byte) : (s.setHall a v).ins = s.ins := rfl
@[simp] theorem State.setHall_pins (s : State) (a : Nat) (v : Byte) : (s.setHall a v).pins = s.pins := rfl
@[simp] theorem State.setHall_lockSeq (s : State) (a : Nat) (v : Byte) : (s.setHall a v).lockSeq = s.lockSeq := rfl
@[simp] theorem State.setHall_cals (s : State) (a : Nat) (v : Byte) : (s.setHall a v).cals = s.cals := rfl
@[simp] theorem State.setHall_hoists (s : State) (a : Nat) (v : Byte) : (s.setHall a v).hoists = s.hoists := rfl
@[simp] theorem State.setHall_sincs (s : State) (a : Nat) (v : Byte) : (s.setHall a v).sincs = s.sincs := rfl
@[simp] theorem State.setHall_timers (s : State) (a : Nat) (v : Byte) : (s.setHall a v).timers = s.timers := rfl
@[simp] theorem State.setHall_units (s : State) (a : Nat) (v : Byte) : (s.setHall a v).units = s.units := rfl
@[simp] theorem State.setHall_gstarts (s : State) (a : Nat) (v : Byte) : (s.setHall a v).gstarts = s.gstarts := rfl
@[simp] theorem State.setHall_hostHold (s : State) (a : Nat) (v : Byte) : (s.setHall a v).hostHold = s.hostHold := rfl
@[simp] theorem State.setHall_padHold (s : State) (a : Nat) (v : Byte) : (s.setHall a v).padHold = s.padHold := rfl
@[simp] theorem State.setHall_strict (s : State) (a : Nat) (v : Byte) : (s.setHall a v).strict = s.strict := rfl
@[simp] theorem State.setHall_cvps (s : State) (a : Nat) (v : Byte) : (s.setHall a v).cvps = s.cvps := rfl
@[simp] theorem State.setHall_tripsIn (s : State) (a : Nat) (v : Byte) : (s.setHall a v).tripsIn = s.tripsIn := rfl
@[simp] theorem State.setHall_tripLevel (s : State) (a : Nat) (v : Byte) : (s.setHall a v).tripLevel = s.tripLevel := rfl
@[simp] theorem State.setHall_tripSeen (s : State) (a : Nat) (v : Byte) : (s.setHall a v).tripSeen = s.tripSeen := rfl
@[simp] theorem State.setHall_stations (s : State) (a : Nat) (v : Byte) : (s.setHall a v).stations = s.stations := rfl
@[simp] theorem State.setHall_insts (s : State) (a : Nat) (v : Byte) : (s.setHall a v).insts = s.insts := rfl
@[simp] theorem State.setHall_memS (s : State) (a : Nat) (v : Byte) : (s.setHall a v).memS = s.memS := rfl
@[simp] theorem State.setHall_dma (s : State) (a : Nat) (v : Byte) : (s.setHall a v).dma = s.dma := rfl
@[simp] theorem State.setHall_engines (s : State) (a : Nat) (v : Byte) : (s.setHall a v).engines = s.engines := rfl
@[simp] theorem State.setHall_tags (s : State) (a : Nat) (v : Byte) : (s.setHall a v).tags = s.tags := rfl
@[simp] theorem State.setHall_iports (s : State) (a : Nat) (v : Byte) : (s.setHall a v).iports = s.iports := rfl
@[simp] theorem State.setHall_strays (s : State) (a : Nat) (v : Byte) : (s.setHall a v).strays = s.strays := rfl
@[simp] theorem State.setHall_rings (s : State) (a : Nat) (v : Byte) : (s.setHall a v).rings = s.rings := rfl
@[simp] theorem State.setHall_pools (s : State) (a : Nat) (v : Byte) : (s.setHall a v).pools = s.pools := rfl
@[simp] theorem State.setHall_qm (s : State) (a : Nat) (v : Byte) : (s.setHall a v).qm = s.qm := rfl
@[simp] theorem State.setHall_locks (s : State) (a : Nat) (v : Byte) : (s.setHall a v).locks = s.locks := rfl
@[simp] theorem State.setHall_hosts (s : State) (a : Nat) (v : Byte) : (s.setHall a v).hosts = s.hosts := rfl
@[simp] theorem State.setHall_irqs (s : State) (a : Nat) (v : Byte) : (s.setHall a v).irqs = s.irqs := rfl
@[simp] theorem State.setHall_hly (s : State) (a : Nat) (v : Byte) : (s.setHall a v).hly = s.hly := rfl
@[simp] theorem State.setHall_upd (s : State) (a : Nat) (v : Byte) : (s.setHall a v).upd = s.upd := rfl
@[simp] theorem State.setHall_drill (s : State) (a : Nat) (v : Byte) : (s.setHall a v).drill = s.drill := rfl
@[simp] theorem State.setHall_sys (s : State) (a : Nat) (v : Byte) : (s.setHall a v).sys = s.sys := rfl
@[simp] theorem State.setHall_free (s : State) (a : Nat) (v : Byte) : (s.setHall a v).free = s.free := rfl
@[simp] theorem State.setHall_levelsHigh (s : State) (a : Nat) (v : Byte) : (s.setHall a v).levelsHigh = s.levelsHigh := rfl
@[simp] theorem State.setHall_tickStage (s : State) (a : Nat) (v : Byte) : (s.setHall a v).tickStage = s.tickStage := rfl
@[simp] theorem State.setHall_pending (s : State) (a : Nat) (v : Byte) : (s.setHall a v).pending = s.pending := rfl

/-! ### setSlate -/

@[simp] theorem State.setSlate_now (s : State) (t : Tid) (copy : Bool) (line off : Nat) (v : Byte) : (s.setSlate t copy line off v).now = s.now := rfl
@[simp] theorem State.setSlate_tbase (s : State) (t : Tid) (copy : Bool) (line off : Nat) (v : Byte) : (s.setSlate t copy line off v).tbase = s.tbase := rfl
@[simp] theorem State.setSlate_lap (s : State) (t : Tid) (copy : Bool) (line off : Nat) (v : Byte) : (s.setSlate t copy line off v).lap = s.lap := rfl
@[simp] theorem State.setSlate_seenNew (s : State) (t : Tid) (copy : Bool) (line off : Nat) (v : Byte) : (s.setSlate t copy line off v).seenNew = s.seenNew := rfl
@[simp] theorem State.setSlate_seenAt (s : State) (t : Tid) (copy : Bool) (line off : Nat) (v : Byte) : (s.setSlate t copy line off v).seenAt = s.seenAt := rfl
@[simp] theorem State.setSlate_ports (s : State) (t : Tid) (copy : Bool) (line off : Nat) (v : Byte) : (s.setSlate t copy line off v).ports = s.ports := rfl
@[simp] theorem State.setSlate_turns (s : State) (t : Tid) (copy : Bool) (line off : Nat) (v : Byte) : (s.setSlate t copy line off v).turns = s.turns := rfl
@[simp] theorem State.setSlate_perrNew (s : State) (t : Tid) (copy : Bool) (line off : Nat) (v : Byte) : (s.setSlate t copy line off v).perrNew = s.perrNew := rfl
@[simp] theorem State.setSlate_regs (s : State) (t : Tid) (copy : Bool) (line off : Nat) (v : Byte) : (s.setSlate t copy line off v).regs = s.regs := rfl
@[simp] theorem State.setSlate_threads (s : State) (t : Tid) (copy : Bool) (line off : Nat) (v : Byte) : (s.setSlate t copy line off v).threads = s.threads := rfl
@[simp] theorem State.setSlate_barrels (s : State) (t : Tid) (copy : Bool) (line off : Nat) (v : Byte) : (s.setSlate t copy line off v).barrels = s.barrels := rfl
@[simp] theorem State.setSlate_bells (s : State) (t : Tid) (copy : Bool) (line off : Nat) (v : Byte) : (s.setSlate t copy line off v).bells = s.bells := rfl
@[simp] theorem State.setSlate_evmap (s : State) (t : Tid) (copy : Bool) (line off : Nat) (v : Byte) : (s.setSlate t copy line off v).evmap = s.evmap := rfl
@[simp] theorem State.setSlate_agenda (s : State) (t : Tid) (copy : Bool) (line off : Nat) (v : Byte) : (s.setSlate t copy line off v).agenda = s.agenda := rfl
@[simp] theorem State.setSlate_staged (s : State) (t : Tid) (copy : Bool) (line off : Nat) (v : Byte) : (s.setSlate t copy line off v).staged = s.staged := rfl
@[simp] theorem State.setSlate_reloadUndo (s : State) (t : Tid) (copy : Bool) (line off : Nat) (v : Byte) : (s.setSlate t copy line off v).reloadUndo = s.reloadUndo := rfl
@[simp] theorem State.setSlate_desk (s : State) (t : Tid) (copy : Bool) (line off : Nat) (v : Byte) : (s.setSlate t copy line off v).desk = s.desk := rfl
@[simp] theorem State.setSlate_hall (s : State) (t : Tid) (copy : Bool) (line off : Nat) (v : Byte) : (s.setSlate t copy line off v).hall = s.hall := rfl
@[simp] theorem State.setSlate_ins (s : State) (t : Tid) (copy : Bool) (line off : Nat) (v : Byte) : (s.setSlate t copy line off v).ins = s.ins := rfl
@[simp] theorem State.setSlate_pins (s : State) (t : Tid) (copy : Bool) (line off : Nat) (v : Byte) : (s.setSlate t copy line off v).pins = s.pins := rfl
@[simp] theorem State.setSlate_lockSeq (s : State) (t : Tid) (copy : Bool) (line off : Nat) (v : Byte) : (s.setSlate t copy line off v).lockSeq = s.lockSeq := rfl
@[simp] theorem State.setSlate_cals (s : State) (t : Tid) (copy : Bool) (line off : Nat) (v : Byte) : (s.setSlate t copy line off v).cals = s.cals := rfl
@[simp] theorem State.setSlate_hoists (s : State) (t : Tid) (copy : Bool) (line off : Nat) (v : Byte) : (s.setSlate t copy line off v).hoists = s.hoists := rfl
@[simp] theorem State.setSlate_sincs (s : State) (t : Tid) (copy : Bool) (line off : Nat) (v : Byte) : (s.setSlate t copy line off v).sincs = s.sincs := rfl
@[simp] theorem State.setSlate_timers (s : State) (t : Tid) (copy : Bool) (line off : Nat) (v : Byte) : (s.setSlate t copy line off v).timers = s.timers := rfl
@[simp] theorem State.setSlate_units (s : State) (t : Tid) (copy : Bool) (line off : Nat) (v : Byte) : (s.setSlate t copy line off v).units = s.units := rfl
@[simp] theorem State.setSlate_gstarts (s : State) (t : Tid) (copy : Bool) (line off : Nat) (v : Byte) : (s.setSlate t copy line off v).gstarts = s.gstarts := rfl
@[simp] theorem State.setSlate_hostHold (s : State) (t : Tid) (copy : Bool) (line off : Nat) (v : Byte) : (s.setSlate t copy line off v).hostHold = s.hostHold := rfl
@[simp] theorem State.setSlate_padHold (s : State) (t : Tid) (copy : Bool) (line off : Nat) (v : Byte) : (s.setSlate t copy line off v).padHold = s.padHold := rfl
@[simp] theorem State.setSlate_strict (s : State) (t : Tid) (copy : Bool) (line off : Nat) (v : Byte) : (s.setSlate t copy line off v).strict = s.strict := rfl
@[simp] theorem State.setSlate_cvps (s : State) (t : Tid) (copy : Bool) (line off : Nat) (v : Byte) : (s.setSlate t copy line off v).cvps = s.cvps := rfl
@[simp] theorem State.setSlate_tripsIn (s : State) (t : Tid) (copy : Bool) (line off : Nat) (v : Byte) : (s.setSlate t copy line off v).tripsIn = s.tripsIn := rfl
@[simp] theorem State.setSlate_tripLevel (s : State) (t : Tid) (copy : Bool) (line off : Nat) (v : Byte) : (s.setSlate t copy line off v).tripLevel = s.tripLevel := rfl
@[simp] theorem State.setSlate_tripSeen (s : State) (t : Tid) (copy : Bool) (line off : Nat) (v : Byte) : (s.setSlate t copy line off v).tripSeen = s.tripSeen := rfl
@[simp] theorem State.setSlate_stations (s : State) (t : Tid) (copy : Bool) (line off : Nat) (v : Byte) : (s.setSlate t copy line off v).stations = s.stations := rfl
@[simp] theorem State.setSlate_insts (s : State) (t : Tid) (copy : Bool) (line off : Nat) (v : Byte) : (s.setSlate t copy line off v).insts = s.insts := rfl
@[simp] theorem State.setSlate_memS (s : State) (t : Tid) (copy : Bool) (line off : Nat) (v : Byte) : (s.setSlate t copy line off v).memS = s.memS := rfl
@[simp] theorem State.setSlate_dma (s : State) (t : Tid) (copy : Bool) (line off : Nat) (v : Byte) : (s.setSlate t copy line off v).dma = s.dma := rfl
@[simp] theorem State.setSlate_engines (s : State) (t : Tid) (copy : Bool) (line off : Nat) (v : Byte) : (s.setSlate t copy line off v).engines = s.engines := rfl
@[simp] theorem State.setSlate_tags (s : State) (t : Tid) (copy : Bool) (line off : Nat) (v : Byte) : (s.setSlate t copy line off v).tags = s.tags := rfl
@[simp] theorem State.setSlate_iports (s : State) (t : Tid) (copy : Bool) (line off : Nat) (v : Byte) : (s.setSlate t copy line off v).iports = s.iports := rfl
@[simp] theorem State.setSlate_strays (s : State) (t : Tid) (copy : Bool) (line off : Nat) (v : Byte) : (s.setSlate t copy line off v).strays = s.strays := rfl
@[simp] theorem State.setSlate_rings (s : State) (t : Tid) (copy : Bool) (line off : Nat) (v : Byte) : (s.setSlate t copy line off v).rings = s.rings := rfl
@[simp] theorem State.setSlate_pools (s : State) (t : Tid) (copy : Bool) (line off : Nat) (v : Byte) : (s.setSlate t copy line off v).pools = s.pools := rfl
@[simp] theorem State.setSlate_qm (s : State) (t : Tid) (copy : Bool) (line off : Nat) (v : Byte) : (s.setSlate t copy line off v).qm = s.qm := rfl
@[simp] theorem State.setSlate_locks (s : State) (t : Tid) (copy : Bool) (line off : Nat) (v : Byte) : (s.setSlate t copy line off v).locks = s.locks := rfl
@[simp] theorem State.setSlate_hosts (s : State) (t : Tid) (copy : Bool) (line off : Nat) (v : Byte) : (s.setSlate t copy line off v).hosts = s.hosts := rfl
@[simp] theorem State.setSlate_irqs (s : State) (t : Tid) (copy : Bool) (line off : Nat) (v : Byte) : (s.setSlate t copy line off v).irqs = s.irqs := rfl
@[simp] theorem State.setSlate_hly (s : State) (t : Tid) (copy : Bool) (line off : Nat) (v : Byte) : (s.setSlate t copy line off v).hly = s.hly := rfl
@[simp] theorem State.setSlate_upd (s : State) (t : Tid) (copy : Bool) (line off : Nat) (v : Byte) : (s.setSlate t copy line off v).upd = s.upd := rfl
@[simp] theorem State.setSlate_drill (s : State) (t : Tid) (copy : Bool) (line off : Nat) (v : Byte) : (s.setSlate t copy line off v).drill = s.drill := rfl
@[simp] theorem State.setSlate_sys (s : State) (t : Tid) (copy : Bool) (line off : Nat) (v : Byte) : (s.setSlate t copy line off v).sys = s.sys := rfl
@[simp] theorem State.setSlate_free (s : State) (t : Tid) (copy : Bool) (line off : Nat) (v : Byte) : (s.setSlate t copy line off v).free = s.free := rfl
@[simp] theorem State.setSlate_levelsHigh (s : State) (t : Tid) (copy : Bool) (line off : Nat) (v : Byte) : (s.setSlate t copy line off v).levelsHigh = s.levelsHigh := rfl
@[simp] theorem State.setSlate_tickStage (s : State) (t : Tid) (copy : Bool) (line off : Nat) (v : Byte) : (s.setSlate t copy line off v).tickStage = s.tickStage := rfl
@[simp] theorem State.setSlate_pending (s : State) (t : Tid) (copy : Bool) (line off : Nat) (v : Byte) : (s.setSlate t copy line off v).pending = s.pending := rfl

/-! ### setIns -/

@[simp] theorem State.setIns_now (s : State) (b : Barrel) (y : Bool) (w : Nat) (v : Word) : (s.setIns b y w v).now = s.now := rfl
@[simp] theorem State.setIns_tbase (s : State) (b : Barrel) (y : Bool) (w : Nat) (v : Word) : (s.setIns b y w v).tbase = s.tbase := rfl
@[simp] theorem State.setIns_lap (s : State) (b : Barrel) (y : Bool) (w : Nat) (v : Word) : (s.setIns b y w v).lap = s.lap := rfl
@[simp] theorem State.setIns_seenNew (s : State) (b : Barrel) (y : Bool) (w : Nat) (v : Word) : (s.setIns b y w v).seenNew = s.seenNew := rfl
@[simp] theorem State.setIns_seenAt (s : State) (b : Barrel) (y : Bool) (w : Nat) (v : Word) : (s.setIns b y w v).seenAt = s.seenAt := rfl
@[simp] theorem State.setIns_ports (s : State) (b : Barrel) (y : Bool) (w : Nat) (v : Word) : (s.setIns b y w v).ports = s.ports := rfl
@[simp] theorem State.setIns_turns (s : State) (b : Barrel) (y : Bool) (w : Nat) (v : Word) : (s.setIns b y w v).turns = s.turns := rfl
@[simp] theorem State.setIns_perrNew (s : State) (b : Barrel) (y : Bool) (w : Nat) (v : Word) : (s.setIns b y w v).perrNew = s.perrNew := rfl
@[simp] theorem State.setIns_regs (s : State) (b : Barrel) (y : Bool) (w : Nat) (v : Word) : (s.setIns b y w v).regs = s.regs := rfl
@[simp] theorem State.setIns_threads (s : State) (b : Barrel) (y : Bool) (w : Nat) (v : Word) : (s.setIns b y w v).threads = s.threads := rfl
@[simp] theorem State.setIns_barrels (s : State) (b : Barrel) (y : Bool) (w : Nat) (v : Word) : (s.setIns b y w v).barrels = s.barrels := rfl
@[simp] theorem State.setIns_bells (s : State) (b : Barrel) (y : Bool) (w : Nat) (v : Word) : (s.setIns b y w v).bells = s.bells := rfl
@[simp] theorem State.setIns_evmap (s : State) (b : Barrel) (y : Bool) (w : Nat) (v : Word) : (s.setIns b y w v).evmap = s.evmap := rfl
@[simp] theorem State.setIns_agenda (s : State) (b : Barrel) (y : Bool) (w : Nat) (v : Word) : (s.setIns b y w v).agenda = s.agenda := rfl
@[simp] theorem State.setIns_staged (s : State) (b : Barrel) (y : Bool) (w : Nat) (v : Word) : (s.setIns b y w v).staged = s.staged := rfl
@[simp] theorem State.setIns_reloadUndo (s : State) (b : Barrel) (y : Bool) (w : Nat) (v : Word) : (s.setIns b y w v).reloadUndo = s.reloadUndo := rfl
@[simp] theorem State.setIns_desk (s : State) (b : Barrel) (y : Bool) (w : Nat) (v : Word) : (s.setIns b y w v).desk = s.desk := rfl
@[simp] theorem State.setIns_slate (s : State) (b : Barrel) (y : Bool) (w : Nat) (v : Word) : (s.setIns b y w v).slate = s.slate := rfl
@[simp] theorem State.setIns_hall (s : State) (b : Barrel) (y : Bool) (w : Nat) (v : Word) : (s.setIns b y w v).hall = s.hall := rfl
@[simp] theorem State.setIns_pins (s : State) (b : Barrel) (y : Bool) (w : Nat) (v : Word) : (s.setIns b y w v).pins = s.pins := rfl
@[simp] theorem State.setIns_lockSeq (s : State) (b : Barrel) (y : Bool) (w : Nat) (v : Word) : (s.setIns b y w v).lockSeq = s.lockSeq := rfl
@[simp] theorem State.setIns_cals (s : State) (b : Barrel) (y : Bool) (w : Nat) (v : Word) : (s.setIns b y w v).cals = s.cals := rfl
@[simp] theorem State.setIns_hoists (s : State) (b : Barrel) (y : Bool) (w : Nat) (v : Word) : (s.setIns b y w v).hoists = s.hoists := rfl
@[simp] theorem State.setIns_sincs (s : State) (b : Barrel) (y : Bool) (w : Nat) (v : Word) : (s.setIns b y w v).sincs = s.sincs := rfl
@[simp] theorem State.setIns_timers (s : State) (b : Barrel) (y : Bool) (w : Nat) (v : Word) : (s.setIns b y w v).timers = s.timers := rfl
@[simp] theorem State.setIns_units (s : State) (b : Barrel) (y : Bool) (w : Nat) (v : Word) : (s.setIns b y w v).units = s.units := rfl
@[simp] theorem State.setIns_gstarts (s : State) (b : Barrel) (y : Bool) (w : Nat) (v : Word) : (s.setIns b y w v).gstarts = s.gstarts := rfl
@[simp] theorem State.setIns_hostHold (s : State) (b : Barrel) (y : Bool) (w : Nat) (v : Word) : (s.setIns b y w v).hostHold = s.hostHold := rfl
@[simp] theorem State.setIns_padHold (s : State) (b : Barrel) (y : Bool) (w : Nat) (v : Word) : (s.setIns b y w v).padHold = s.padHold := rfl
@[simp] theorem State.setIns_strict (s : State) (b : Barrel) (y : Bool) (w : Nat) (v : Word) : (s.setIns b y w v).strict = s.strict := rfl
@[simp] theorem State.setIns_cvps (s : State) (b : Barrel) (y : Bool) (w : Nat) (v : Word) : (s.setIns b y w v).cvps = s.cvps := rfl
@[simp] theorem State.setIns_tripsIn (s : State) (b : Barrel) (y : Bool) (w : Nat) (v : Word) : (s.setIns b y w v).tripsIn = s.tripsIn := rfl
@[simp] theorem State.setIns_tripLevel (s : State) (b : Barrel) (y : Bool) (w : Nat) (v : Word) : (s.setIns b y w v).tripLevel = s.tripLevel := rfl
@[simp] theorem State.setIns_tripSeen (s : State) (b : Barrel) (y : Bool) (w : Nat) (v : Word) : (s.setIns b y w v).tripSeen = s.tripSeen := rfl
@[simp] theorem State.setIns_stations (s : State) (b : Barrel) (y : Bool) (w : Nat) (v : Word) : (s.setIns b y w v).stations = s.stations := rfl
@[simp] theorem State.setIns_insts (s : State) (b : Barrel) (y : Bool) (w : Nat) (v : Word) : (s.setIns b y w v).insts = s.insts := rfl
@[simp] theorem State.setIns_memS (s : State) (b : Barrel) (y : Bool) (w : Nat) (v : Word) : (s.setIns b y w v).memS = s.memS := rfl
@[simp] theorem State.setIns_dma (s : State) (b : Barrel) (y : Bool) (w : Nat) (v : Word) : (s.setIns b y w v).dma = s.dma := rfl
@[simp] theorem State.setIns_engines (s : State) (b : Barrel) (y : Bool) (w : Nat) (v : Word) : (s.setIns b y w v).engines = s.engines := rfl
@[simp] theorem State.setIns_tags (s : State) (b : Barrel) (y : Bool) (w : Nat) (v : Word) : (s.setIns b y w v).tags = s.tags := rfl
@[simp] theorem State.setIns_iports (s : State) (b : Barrel) (y : Bool) (w : Nat) (v : Word) : (s.setIns b y w v).iports = s.iports := rfl
@[simp] theorem State.setIns_strays (s : State) (b : Barrel) (y : Bool) (w : Nat) (v : Word) : (s.setIns b y w v).strays = s.strays := rfl
@[simp] theorem State.setIns_rings (s : State) (b : Barrel) (y : Bool) (w : Nat) (v : Word) : (s.setIns b y w v).rings = s.rings := rfl
@[simp] theorem State.setIns_pools (s : State) (b : Barrel) (y : Bool) (w : Nat) (v : Word) : (s.setIns b y w v).pools = s.pools := rfl
@[simp] theorem State.setIns_qm (s : State) (b : Barrel) (y : Bool) (w : Nat) (v : Word) : (s.setIns b y w v).qm = s.qm := rfl
@[simp] theorem State.setIns_locks (s : State) (b : Barrel) (y : Bool) (w : Nat) (v : Word) : (s.setIns b y w v).locks = s.locks := rfl
@[simp] theorem State.setIns_hosts (s : State) (b : Barrel) (y : Bool) (w : Nat) (v : Word) : (s.setIns b y w v).hosts = s.hosts := rfl
@[simp] theorem State.setIns_irqs (s : State) (b : Barrel) (y : Bool) (w : Nat) (v : Word) : (s.setIns b y w v).irqs = s.irqs := rfl
@[simp] theorem State.setIns_hly (s : State) (b : Barrel) (y : Bool) (w : Nat) (v : Word) : (s.setIns b y w v).hly = s.hly := rfl
@[simp] theorem State.setIns_upd (s : State) (b : Barrel) (y : Bool) (w : Nat) (v : Word) : (s.setIns b y w v).upd = s.upd := rfl
@[simp] theorem State.setIns_drill (s : State) (b : Barrel) (y : Bool) (w : Nat) (v : Word) : (s.setIns b y w v).drill = s.drill := rfl
@[simp] theorem State.setIns_sys (s : State) (b : Barrel) (y : Bool) (w : Nat) (v : Word) : (s.setIns b y w v).sys = s.sys := rfl
@[simp] theorem State.setIns_free (s : State) (b : Barrel) (y : Bool) (w : Nat) (v : Word) : (s.setIns b y w v).free = s.free := rfl
@[simp] theorem State.setIns_levelsHigh (s : State) (b : Barrel) (y : Bool) (w : Nat) (v : Word) : (s.setIns b y w v).levelsHigh = s.levelsHigh := rfl
@[simp] theorem State.setIns_tickStage (s : State) (b : Barrel) (y : Bool) (w : Nat) (v : Word) : (s.setIns b y w v).tickStage = s.tickStage := rfl
@[simp] theorem State.setIns_pending (s : State) (b : Barrel) (y : Bool) (w : Nat) (v : Word) : (s.setIns b y w v).pending = s.pending := rfl

/-! ### setReg -/

@[simp] theorem State.setReg_now (s : State) (r : Reg) (v : Word) : (s.setReg r v).now = s.now := rfl
@[simp] theorem State.setReg_tbase (s : State) (r : Reg) (v : Word) : (s.setReg r v).tbase = s.tbase := rfl
@[simp] theorem State.setReg_lap (s : State) (r : Reg) (v : Word) : (s.setReg r v).lap = s.lap := rfl
@[simp] theorem State.setReg_seenNew (s : State) (r : Reg) (v : Word) : (s.setReg r v).seenNew = s.seenNew := rfl
@[simp] theorem State.setReg_seenAt (s : State) (r : Reg) (v : Word) : (s.setReg r v).seenAt = s.seenAt := rfl
@[simp] theorem State.setReg_ports (s : State) (r : Reg) (v : Word) : (s.setReg r v).ports = s.ports := rfl
@[simp] theorem State.setReg_turns (s : State) (r : Reg) (v : Word) : (s.setReg r v).turns = s.turns := rfl
@[simp] theorem State.setReg_perrNew (s : State) (r : Reg) (v : Word) : (s.setReg r v).perrNew = s.perrNew := rfl
@[simp] theorem State.setReg_threads (s : State) (r : Reg) (v : Word) : (s.setReg r v).threads = s.threads := rfl
@[simp] theorem State.setReg_barrels (s : State) (r : Reg) (v : Word) : (s.setReg r v).barrels = s.barrels := rfl
@[simp] theorem State.setReg_bells (s : State) (r : Reg) (v : Word) : (s.setReg r v).bells = s.bells := rfl
@[simp] theorem State.setReg_evmap (s : State) (r : Reg) (v : Word) : (s.setReg r v).evmap = s.evmap := rfl
@[simp] theorem State.setReg_agenda (s : State) (r : Reg) (v : Word) : (s.setReg r v).agenda = s.agenda := rfl
@[simp] theorem State.setReg_staged (s : State) (r : Reg) (v : Word) : (s.setReg r v).staged = s.staged := rfl
@[simp] theorem State.setReg_reloadUndo (s : State) (r : Reg) (v : Word) : (s.setReg r v).reloadUndo = s.reloadUndo := rfl
@[simp] theorem State.setReg_desk (s : State) (r : Reg) (v : Word) : (s.setReg r v).desk = s.desk := rfl
@[simp] theorem State.setReg_slate (s : State) (r : Reg) (v : Word) : (s.setReg r v).slate = s.slate := rfl
@[simp] theorem State.setReg_hall (s : State) (r : Reg) (v : Word) : (s.setReg r v).hall = s.hall := rfl
@[simp] theorem State.setReg_ins (s : State) (r : Reg) (v : Word) : (s.setReg r v).ins = s.ins := rfl
@[simp] theorem State.setReg_pins (s : State) (r : Reg) (v : Word) : (s.setReg r v).pins = s.pins := rfl
@[simp] theorem State.setReg_lockSeq (s : State) (r : Reg) (v : Word) : (s.setReg r v).lockSeq = s.lockSeq := rfl
@[simp] theorem State.setReg_cals (s : State) (r : Reg) (v : Word) : (s.setReg r v).cals = s.cals := rfl
@[simp] theorem State.setReg_hoists (s : State) (r : Reg) (v : Word) : (s.setReg r v).hoists = s.hoists := rfl
@[simp] theorem State.setReg_sincs (s : State) (r : Reg) (v : Word) : (s.setReg r v).sincs = s.sincs := rfl
@[simp] theorem State.setReg_timers (s : State) (r : Reg) (v : Word) : (s.setReg r v).timers = s.timers := rfl
@[simp] theorem State.setReg_units (s : State) (r : Reg) (v : Word) : (s.setReg r v).units = s.units := rfl
@[simp] theorem State.setReg_gstarts (s : State) (r : Reg) (v : Word) : (s.setReg r v).gstarts = s.gstarts := rfl
@[simp] theorem State.setReg_hostHold (s : State) (r : Reg) (v : Word) : (s.setReg r v).hostHold = s.hostHold := rfl
@[simp] theorem State.setReg_padHold (s : State) (r : Reg) (v : Word) : (s.setReg r v).padHold = s.padHold := rfl
@[simp] theorem State.setReg_strict (s : State) (r : Reg) (v : Word) : (s.setReg r v).strict = s.strict := rfl
@[simp] theorem State.setReg_cvps (s : State) (r : Reg) (v : Word) : (s.setReg r v).cvps = s.cvps := rfl
@[simp] theorem State.setReg_tripsIn (s : State) (r : Reg) (v : Word) : (s.setReg r v).tripsIn = s.tripsIn := rfl
@[simp] theorem State.setReg_tripLevel (s : State) (r : Reg) (v : Word) : (s.setReg r v).tripLevel = s.tripLevel := rfl
@[simp] theorem State.setReg_tripSeen (s : State) (r : Reg) (v : Word) : (s.setReg r v).tripSeen = s.tripSeen := rfl
@[simp] theorem State.setReg_stations (s : State) (r : Reg) (v : Word) : (s.setReg r v).stations = s.stations := rfl
@[simp] theorem State.setReg_insts (s : State) (r : Reg) (v : Word) : (s.setReg r v).insts = s.insts := rfl
@[simp] theorem State.setReg_memS (s : State) (r : Reg) (v : Word) : (s.setReg r v).memS = s.memS := rfl
@[simp] theorem State.setReg_dma (s : State) (r : Reg) (v : Word) : (s.setReg r v).dma = s.dma := rfl
@[simp] theorem State.setReg_engines (s : State) (r : Reg) (v : Word) : (s.setReg r v).engines = s.engines := rfl
@[simp] theorem State.setReg_tags (s : State) (r : Reg) (v : Word) : (s.setReg r v).tags = s.tags := rfl
@[simp] theorem State.setReg_iports (s : State) (r : Reg) (v : Word) : (s.setReg r v).iports = s.iports := rfl
@[simp] theorem State.setReg_strays (s : State) (r : Reg) (v : Word) : (s.setReg r v).strays = s.strays := rfl
@[simp] theorem State.setReg_rings (s : State) (r : Reg) (v : Word) : (s.setReg r v).rings = s.rings := rfl
@[simp] theorem State.setReg_pools (s : State) (r : Reg) (v : Word) : (s.setReg r v).pools = s.pools := rfl
@[simp] theorem State.setReg_qm (s : State) (r : Reg) (v : Word) : (s.setReg r v).qm = s.qm := rfl
@[simp] theorem State.setReg_locks (s : State) (r : Reg) (v : Word) : (s.setReg r v).locks = s.locks := rfl
@[simp] theorem State.setReg_hosts (s : State) (r : Reg) (v : Word) : (s.setReg r v).hosts = s.hosts := rfl
@[simp] theorem State.setReg_irqs (s : State) (r : Reg) (v : Word) : (s.setReg r v).irqs = s.irqs := rfl
@[simp] theorem State.setReg_hly (s : State) (r : Reg) (v : Word) : (s.setReg r v).hly = s.hly := rfl
@[simp] theorem State.setReg_upd (s : State) (r : Reg) (v : Word) : (s.setReg r v).upd = s.upd := rfl
@[simp] theorem State.setReg_drill (s : State) (r : Reg) (v : Word) : (s.setReg r v).drill = s.drill := rfl
@[simp] theorem State.setReg_sys (s : State) (r : Reg) (v : Word) : (s.setReg r v).sys = s.sys := rfl
@[simp] theorem State.setReg_free (s : State) (r : Reg) (v : Word) : (s.setReg r v).free = s.free := rfl
@[simp] theorem State.setReg_levelsHigh (s : State) (r : Reg) (v : Word) : (s.setReg r v).levelsHigh = s.levelsHigh := rfl
@[simp] theorem State.setReg_tickStage (s : State) (r : Reg) (v : Word) : (s.setReg r v).tickStage = s.tickStage := rfl
@[simp] theorem State.setReg_pending (s : State) (r : Reg) (v : Word) : (s.setReg r v).pending = s.pending := rfl

/-! ### modTurn -/

@[simp] theorem State.turn_modTurn (s : State) (k : Nat) (f : PortTurn → PortTurn) : (s.modTurn k f).turn k = f (s.turn k) :=
  mget_mput_self _ _ _ _
theorem State.turn_modTurn_ne (s : State) (k j : Nat) (f : PortTurn → PortTurn) (hne : j ≠ k) : (s.modTurn k f).turn j = s.turn j :=
  mget_mput_ne _ _ _ _ hne
@[simp] theorem State.modTurn_now (s : State) (k : Nat) (f : PortTurn → PortTurn) : (s.modTurn k f).now = s.now := rfl
@[simp] theorem State.modTurn_tbase (s : State) (k : Nat) (f : PortTurn → PortTurn) : (s.modTurn k f).tbase = s.tbase := rfl
@[simp] theorem State.modTurn_lap (s : State) (k : Nat) (f : PortTurn → PortTurn) : (s.modTurn k f).lap = s.lap := rfl
@[simp] theorem State.modTurn_regs (s : State) (k : Nat) (f : PortTurn → PortTurn) : (s.modTurn k f).regs = s.regs := rfl
@[simp] theorem State.modTurn_threads (s : State) (k : Nat) (f : PortTurn → PortTurn) : (s.modTurn k f).threads = s.threads := rfl
@[simp] theorem State.modTurn_barrels (s : State) (k : Nat) (f : PortTurn → PortTurn) : (s.modTurn k f).barrels = s.barrels := rfl
@[simp] theorem State.modTurn_bells (s : State) (k : Nat) (f : PortTurn → PortTurn) : (s.modTurn k f).bells = s.bells := rfl
@[simp] theorem State.modTurn_evmap (s : State) (k : Nat) (f : PortTurn → PortTurn) : (s.modTurn k f).evmap = s.evmap := rfl
@[simp] theorem State.modTurn_agenda (s : State) (k : Nat) (f : PortTurn → PortTurn) : (s.modTurn k f).agenda = s.agenda := rfl
@[simp] theorem State.modTurn_staged (s : State) (k : Nat) (f : PortTurn → PortTurn) : (s.modTurn k f).staged = s.staged := rfl
@[simp] theorem State.modTurn_reloadUndo (s : State) (k : Nat) (f : PortTurn → PortTurn) : (s.modTurn k f).reloadUndo = s.reloadUndo := rfl
@[simp] theorem State.modTurn_desk (s : State) (k : Nat) (f : PortTurn → PortTurn) : (s.modTurn k f).desk = s.desk := rfl
@[simp] theorem State.modTurn_slate (s : State) (k : Nat) (f : PortTurn → PortTurn) : (s.modTurn k f).slate = s.slate := rfl
@[simp] theorem State.modTurn_hall (s : State) (k : Nat) (f : PortTurn → PortTurn) : (s.modTurn k f).hall = s.hall := rfl
@[simp] theorem State.modTurn_ins (s : State) (k : Nat) (f : PortTurn → PortTurn) : (s.modTurn k f).ins = s.ins := rfl
@[simp] theorem State.modTurn_pins (s : State) (k : Nat) (f : PortTurn → PortTurn) : (s.modTurn k f).pins = s.pins := rfl
@[simp] theorem State.modTurn_lockSeq (s : State) (k : Nat) (f : PortTurn → PortTurn) : (s.modTurn k f).lockSeq = s.lockSeq := rfl
@[simp] theorem State.modTurn_cals (s : State) (k : Nat) (f : PortTurn → PortTurn) : (s.modTurn k f).cals = s.cals := rfl
@[simp] theorem State.modTurn_hoists (s : State) (k : Nat) (f : PortTurn → PortTurn) : (s.modTurn k f).hoists = s.hoists := rfl
@[simp] theorem State.modTurn_sincs (s : State) (k : Nat) (f : PortTurn → PortTurn) : (s.modTurn k f).sincs = s.sincs := rfl
@[simp] theorem State.modTurn_timers (s : State) (k : Nat) (f : PortTurn → PortTurn) : (s.modTurn k f).timers = s.timers := rfl
@[simp] theorem State.modTurn_units (s : State) (k : Nat) (f : PortTurn → PortTurn) : (s.modTurn k f).units = s.units := rfl
@[simp] theorem State.modTurn_gstarts (s : State) (k : Nat) (f : PortTurn → PortTurn) : (s.modTurn k f).gstarts = s.gstarts := rfl
@[simp] theorem State.modTurn_hostHold (s : State) (k : Nat) (f : PortTurn → PortTurn) : (s.modTurn k f).hostHold = s.hostHold := rfl
@[simp] theorem State.modTurn_padHold (s : State) (k : Nat) (f : PortTurn → PortTurn) : (s.modTurn k f).padHold = s.padHold := rfl
@[simp] theorem State.modTurn_strict (s : State) (k : Nat) (f : PortTurn → PortTurn) : (s.modTurn k f).strict = s.strict := rfl
@[simp] theorem State.modTurn_cvps (s : State) (k : Nat) (f : PortTurn → PortTurn) : (s.modTurn k f).cvps = s.cvps := rfl
@[simp] theorem State.modTurn_tripsIn (s : State) (k : Nat) (f : PortTurn → PortTurn) : (s.modTurn k f).tripsIn = s.tripsIn := rfl
@[simp] theorem State.modTurn_tripLevel (s : State) (k : Nat) (f : PortTurn → PortTurn) : (s.modTurn k f).tripLevel = s.tripLevel := rfl
@[simp] theorem State.modTurn_tripSeen (s : State) (k : Nat) (f : PortTurn → PortTurn) : (s.modTurn k f).tripSeen = s.tripSeen := rfl
@[simp] theorem State.modTurn_seenNew (s : State) (k : Nat) (f : PortTurn → PortTurn) : (s.modTurn k f).seenNew = s.seenNew := rfl
@[simp] theorem State.modTurn_seenAt (s : State) (k : Nat) (f : PortTurn → PortTurn) : (s.modTurn k f).seenAt = s.seenAt := rfl
@[simp] theorem State.modTurn_stations (s : State) (k : Nat) (f : PortTurn → PortTurn) : (s.modTurn k f).stations = s.stations := rfl
@[simp] theorem State.modTurn_insts (s : State) (k : Nat) (f : PortTurn → PortTurn) : (s.modTurn k f).insts = s.insts := rfl
@[simp] theorem State.modTurn_memS (s : State) (k : Nat) (f : PortTurn → PortTurn) : (s.modTurn k f).memS = s.memS := rfl
@[simp] theorem State.modTurn_ports (s : State) (k : Nat) (f : PortTurn → PortTurn) : (s.modTurn k f).ports = s.ports := rfl
@[simp] theorem State.modTurn_perrNew (s : State) (k : Nat) (f : PortTurn → PortTurn) : (s.modTurn k f).perrNew = s.perrNew := rfl
@[simp] theorem State.modTurn_dma (s : State) (k : Nat) (f : PortTurn → PortTurn) : (s.modTurn k f).dma = s.dma := rfl
@[simp] theorem State.modTurn_engines (s : State) (k : Nat) (f : PortTurn → PortTurn) : (s.modTurn k f).engines = s.engines := rfl
@[simp] theorem State.modTurn_tags (s : State) (k : Nat) (f : PortTurn → PortTurn) : (s.modTurn k f).tags = s.tags := rfl
@[simp] theorem State.modTurn_iports (s : State) (k : Nat) (f : PortTurn → PortTurn) : (s.modTurn k f).iports = s.iports := rfl
@[simp] theorem State.modTurn_strays (s : State) (k : Nat) (f : PortTurn → PortTurn) : (s.modTurn k f).strays = s.strays := rfl
@[simp] theorem State.modTurn_rings (s : State) (k : Nat) (f : PortTurn → PortTurn) : (s.modTurn k f).rings = s.rings := rfl
@[simp] theorem State.modTurn_pools (s : State) (k : Nat) (f : PortTurn → PortTurn) : (s.modTurn k f).pools = s.pools := rfl
@[simp] theorem State.modTurn_qm (s : State) (k : Nat) (f : PortTurn → PortTurn) : (s.modTurn k f).qm = s.qm := rfl
@[simp] theorem State.modTurn_locks (s : State) (k : Nat) (f : PortTurn → PortTurn) : (s.modTurn k f).locks = s.locks := rfl
@[simp] theorem State.modTurn_hosts (s : State) (k : Nat) (f : PortTurn → PortTurn) : (s.modTurn k f).hosts = s.hosts := rfl
@[simp] theorem State.modTurn_irqs (s : State) (k : Nat) (f : PortTurn → PortTurn) : (s.modTurn k f).irqs = s.irqs := rfl
@[simp] theorem State.modTurn_hly (s : State) (k : Nat) (f : PortTurn → PortTurn) : (s.modTurn k f).hly = s.hly := rfl
@[simp] theorem State.modTurn_upd (s : State) (k : Nat) (f : PortTurn → PortTurn) : (s.modTurn k f).upd = s.upd := rfl
@[simp] theorem State.modTurn_drill (s : State) (k : Nat) (f : PortTurn → PortTurn) : (s.modTurn k f).drill = s.drill := rfl
@[simp] theorem State.modTurn_sys (s : State) (k : Nat) (f : PortTurn → PortTurn) : (s.modTurn k f).sys = s.sys := rfl
@[simp] theorem State.modTurn_free (s : State) (k : Nat) (f : PortTurn → PortTurn) : (s.modTurn k f).free = s.free := rfl
@[simp] theorem State.modTurn_levelsHigh (s : State) (k : Nat) (f : PortTurn → PortTurn) : (s.modTurn k f).levelsHigh = s.levelsHigh := rfl
@[simp] theorem State.modTurn_tickStage (s : State) (k : Nat) (f : PortTurn → PortTurn) : (s.modTurn k f).tickStage = s.tickStage := rfl
@[simp] theorem State.modTurn_pending (s : State) (k : Nat) (f : PortTurn → PortTurn) : (s.modTurn k f).pending = s.pending := rfl

/-! ### enter -/

@[simp] theorem State.enter_now (s : State) (t : Tid) (c prio : Nat) (e : Eff) : (s.enter t c prio e).now = s.now := rfl
@[simp] theorem State.enter_tbase (s : State) (t : Tid) (c prio : Nat) (e : Eff) : (s.enter t c prio e).tbase = s.tbase := rfl
@[simp] theorem State.enter_lap (s : State) (t : Tid) (c prio : Nat) (e : Eff) : (s.enter t c prio e).lap = s.lap := rfl
@[simp] theorem State.enter_regs (s : State) (t : Tid) (c prio : Nat) (e : Eff) : (s.enter t c prio e).regs = s.regs := rfl
@[simp] theorem State.enter_threads (s : State) (t : Tid) (c prio : Nat) (e : Eff) : (s.enter t c prio e).threads = s.threads := rfl
@[simp] theorem State.enter_barrels (s : State) (t : Tid) (c prio : Nat) (e : Eff) : (s.enter t c prio e).barrels = s.barrels := rfl
@[simp] theorem State.enter_bells (s : State) (t : Tid) (c prio : Nat) (e : Eff) : (s.enter t c prio e).bells = s.bells := rfl
@[simp] theorem State.enter_evmap (s : State) (t : Tid) (c prio : Nat) (e : Eff) : (s.enter t c prio e).evmap = s.evmap := rfl
@[simp] theorem State.enter_staged (s : State) (t : Tid) (c prio : Nat) (e : Eff) : (s.enter t c prio e).staged = s.staged := rfl
@[simp] theorem State.enter_reloadUndo (s : State) (t : Tid) (c prio : Nat) (e : Eff) : (s.enter t c prio e).reloadUndo = s.reloadUndo := rfl
@[simp] theorem State.enter_desk (s : State) (t : Tid) (c prio : Nat) (e : Eff) : (s.enter t c prio e).desk = s.desk := rfl
@[simp] theorem State.enter_slate (s : State) (t : Tid) (c prio : Nat) (e : Eff) : (s.enter t c prio e).slate = s.slate := rfl
@[simp] theorem State.enter_hall (s : State) (t : Tid) (c prio : Nat) (e : Eff) : (s.enter t c prio e).hall = s.hall := rfl
@[simp] theorem State.enter_ins (s : State) (t : Tid) (c prio : Nat) (e : Eff) : (s.enter t c prio e).ins = s.ins := rfl
@[simp] theorem State.enter_pins (s : State) (t : Tid) (c prio : Nat) (e : Eff) : (s.enter t c prio e).pins = s.pins := rfl
@[simp] theorem State.enter_lockSeq (s : State) (t : Tid) (c prio : Nat) (e : Eff) : (s.enter t c prio e).lockSeq = s.lockSeq := rfl
@[simp] theorem State.enter_cals (s : State) (t : Tid) (c prio : Nat) (e : Eff) : (s.enter t c prio e).cals = s.cals := rfl
@[simp] theorem State.enter_hoists (s : State) (t : Tid) (c prio : Nat) (e : Eff) : (s.enter t c prio e).hoists = s.hoists := rfl
@[simp] theorem State.enter_sincs (s : State) (t : Tid) (c prio : Nat) (e : Eff) : (s.enter t c prio e).sincs = s.sincs := rfl
@[simp] theorem State.enter_timers (s : State) (t : Tid) (c prio : Nat) (e : Eff) : (s.enter t c prio e).timers = s.timers := rfl
@[simp] theorem State.enter_units (s : State) (t : Tid) (c prio : Nat) (e : Eff) : (s.enter t c prio e).units = s.units := rfl
@[simp] theorem State.enter_gstarts (s : State) (t : Tid) (c prio : Nat) (e : Eff) : (s.enter t c prio e).gstarts = s.gstarts := rfl
@[simp] theorem State.enter_hostHold (s : State) (t : Tid) (c prio : Nat) (e : Eff) : (s.enter t c prio e).hostHold = s.hostHold := rfl
@[simp] theorem State.enter_padHold (s : State) (t : Tid) (c prio : Nat) (e : Eff) : (s.enter t c prio e).padHold = s.padHold := rfl
@[simp] theorem State.enter_strict (s : State) (t : Tid) (c prio : Nat) (e : Eff) : (s.enter t c prio e).strict = s.strict := rfl
@[simp] theorem State.enter_cvps (s : State) (t : Tid) (c prio : Nat) (e : Eff) : (s.enter t c prio e).cvps = s.cvps := rfl
@[simp] theorem State.enter_tripsIn (s : State) (t : Tid) (c prio : Nat) (e : Eff) : (s.enter t c prio e).tripsIn = s.tripsIn := rfl
@[simp] theorem State.enter_tripLevel (s : State) (t : Tid) (c prio : Nat) (e : Eff) : (s.enter t c prio e).tripLevel = s.tripLevel := rfl
@[simp] theorem State.enter_tripSeen (s : State) (t : Tid) (c prio : Nat) (e : Eff) : (s.enter t c prio e).tripSeen = s.tripSeen := rfl
@[simp] theorem State.enter_seenNew (s : State) (t : Tid) (c prio : Nat) (e : Eff) : (s.enter t c prio e).seenNew = s.seenNew := rfl
@[simp] theorem State.enter_seenAt (s : State) (t : Tid) (c prio : Nat) (e : Eff) : (s.enter t c prio e).seenAt = s.seenAt := rfl
@[simp] theorem State.enter_stations (s : State) (t : Tid) (c prio : Nat) (e : Eff) : (s.enter t c prio e).stations = s.stations := rfl
@[simp] theorem State.enter_insts (s : State) (t : Tid) (c prio : Nat) (e : Eff) : (s.enter t c prio e).insts = s.insts := rfl
@[simp] theorem State.enter_memS (s : State) (t : Tid) (c prio : Nat) (e : Eff) : (s.enter t c prio e).memS = s.memS := rfl
@[simp] theorem State.enter_ports (s : State) (t : Tid) (c prio : Nat) (e : Eff) : (s.enter t c prio e).ports = s.ports := rfl
@[simp] theorem State.enter_turns (s : State) (t : Tid) (c prio : Nat) (e : Eff) : (s.enter t c prio e).turns = s.turns := rfl
@[simp] theorem State.enter_perrNew (s : State) (t : Tid) (c prio : Nat) (e : Eff) : (s.enter t c prio e).perrNew = s.perrNew := rfl
@[simp] theorem State.enter_dma (s : State) (t : Tid) (c prio : Nat) (e : Eff) : (s.enter t c prio e).dma = s.dma := rfl
@[simp] theorem State.enter_engines (s : State) (t : Tid) (c prio : Nat) (e : Eff) : (s.enter t c prio e).engines = s.engines := rfl
@[simp] theorem State.enter_tags (s : State) (t : Tid) (c prio : Nat) (e : Eff) : (s.enter t c prio e).tags = s.tags := rfl
@[simp] theorem State.enter_iports (s : State) (t : Tid) (c prio : Nat) (e : Eff) : (s.enter t c prio e).iports = s.iports := rfl
@[simp] theorem State.enter_strays (s : State) (t : Tid) (c prio : Nat) (e : Eff) : (s.enter t c prio e).strays = s.strays := rfl
@[simp] theorem State.enter_rings (s : State) (t : Tid) (c prio : Nat) (e : Eff) : (s.enter t c prio e).rings = s.rings := rfl
@[simp] theorem State.enter_pools (s : State) (t : Tid) (c prio : Nat) (e : Eff) : (s.enter t c prio e).pools = s.pools := rfl
@[simp] theorem State.enter_qm (s : State) (t : Tid) (c prio : Nat) (e : Eff) : (s.enter t c prio e).qm = s.qm := rfl
@[simp] theorem State.enter_locks (s : State) (t : Tid) (c prio : Nat) (e : Eff) : (s.enter t c prio e).locks = s.locks := rfl
@[simp] theorem State.enter_hosts (s : State) (t : Tid) (c prio : Nat) (e : Eff) : (s.enter t c prio e).hosts = s.hosts := rfl
@[simp] theorem State.enter_irqs (s : State) (t : Tid) (c prio : Nat) (e : Eff) : (s.enter t c prio e).irqs = s.irqs := rfl
@[simp] theorem State.enter_hly (s : State) (t : Tid) (c prio : Nat) (e : Eff) : (s.enter t c prio e).hly = s.hly := rfl
@[simp] theorem State.enter_upd (s : State) (t : Tid) (c prio : Nat) (e : Eff) : (s.enter t c prio e).upd = s.upd := rfl
@[simp] theorem State.enter_drill (s : State) (t : Tid) (c prio : Nat) (e : Eff) : (s.enter t c prio e).drill = s.drill := rfl
@[simp] theorem State.enter_sys (s : State) (t : Tid) (c prio : Nat) (e : Eff) : (s.enter t c prio e).sys = s.sys := rfl
@[simp] theorem State.enter_free (s : State) (t : Tid) (c prio : Nat) (e : Eff) : (s.enter t c prio e).free = s.free := rfl
@[simp] theorem State.enter_levelsHigh (s : State) (t : Tid) (c prio : Nat) (e : Eff) : (s.enter t c prio e).levelsHigh = s.levelsHigh := rfl
@[simp] theorem State.enter_tickStage (s : State) (t : Tid) (c prio : Nat) (e : Eff) : (s.enter t c prio e).tickStage = s.tickStage := rfl
@[simp] theorem State.enter_pending (s : State) (t : Tid) (c prio : Nat) (e : Eff) : (s.enter t c prio e).pending = s.pending := rfl

/-! ### Changes of a thread -/

@[simp] theorem State.thr_modThr (s : State) (t : Tid) (f : Thread → Thread) : (s.modThr t f).thr t = f (s.thr t) := State.thr_setThr _ _ _
@[simp] theorem State.thr_modAll (s : State) (t : Tid) (f : ThreadS → ThreadS) : (s.modAll t f).thr t = (s.thr t).onAll f := State.thr_modThr _ _ _
@[simp] theorem State.thr_modFrom (s : State) (t : Tid) (k : Nat) (f : ThreadS → ThreadS) : (s.modFrom t k f).thr t = (s.thr t).onFrom k f :=
  State.thr_modThr _ _ _
theorem State.thr_modThr_ne (s : State) (t j : Tid) (f : Thread → Thread) (hne : j ≠ t) : (s.modThr t f).thr j = s.thr j :=
  State.thr_setThr_ne _ _ _ _ hne

/-- A register reads as what was stored in it. -/
@[simp] theorem State.reg_setReg (s : State) (r : Reg) (v : Word) : (s.setReg r v).reg r = v := mget_mput_self _ _ _ _

/-- A store into a register leaves every register of another key. -/
theorem State.reg_setReg_ne (s : State) (r q : Reg) (v : Word) (hne : q.key ≠ r.key) : (s.setReg r v).reg q = s.reg q :=
  mget_mput_ne _ _ _ _ hne

/-- A desk byte reads as it was written. -/
@[simp] theorem State.deskByte_setDesk (s : State) (b : Barrel) (a : Nat) (v : Byte) : (s.setDesk b a v).deskByte b a = v :=
  peek_poke_self _ _ _

/-- A hall byte reads as it was written. -/
@[simp] theorem State.hallByte_setHall (s : State) (a : Nat) (v : Byte) : (s.setHall a v).hallByte a = v := peek_poke_self _ _ _

/-- A slate byte reads as it was written. -/
@[simp] theorem State.slateByte_setSlate (s : State) (t : Tid) (copy : Bool) (line off : Nat) (v : Byte) :
    (s.setSlate t copy line off v).slateByte t copy line off = v := peek_poke_self _ _ _

/-- An instruction word reads as it was written. -/
@[simp] theorem State.insWord_setIns (s : State) (b : Barrel) (y : Bool) (w : Nat) (v : Word) : (s.setIns b y w v).insWord b y w = v :=
  mget_mput_self _ _ _ _

end Sys2Proof.Machine
end

