-- ==== Sys2Proof/Laws/Keeps.lean ====
section
/-! SUPPORT. How `Keeps` goes through the shared shapes of definitions: updates of fields, folds and writes of memories. -/

namespace Sys2Proof.Machine

theorem Keeps.refl (s : State) : Keeps s s := ⟨rfl, rfl, id, id⟩

/-- A state that agrees in the fields that `Keeps` looks at. -/
theorem Keeps.like {s₀ s t : State} (h : Keeps s₀ s) (hp : t.pending = s.pending) (hs : t.tickStage = s.tickStage) (hd : t.desk = s.desk)
    (hl : t.slate = s.slate) (hh : t.hall = s.hall) (hi : t.ins = s.ins) (hu : t.upd.lc = s.upd.lc) : Keeps s₀ t := by
  refine ⟨hp.trans h.pending, hs.trans h.stage, fun m => ?_, fun m => ?_⟩
  · have := h.mem m; simpa only [State.memOk, hd, hl, hh, hi] using this
  · have := h.scrapped m; simpa only [State.isScrapped, hu] using this

/-- A change of some fields of the state. -/
theorem Keeps.lit {s₀ s : State} {u : UpdS} {v_now : Nat} {v_tbase : DWord} {v_lap : Int} {v_regs : SMap Word} {v_threads : SMap Thread} {v_barrels : SMap BarrelS} {v_bells : SMap BellS} {v_evmap : SMap (BitVec 11 × BitVec 2)} {v_agenda : List Landing} {v_staged : List (Tid × Staged)} {v_reloadUndo : List (Tid × TimerNo × Word × TimerS)} {v_pins : SMap PinS} {v_lockSeq : LockSeq} {v_cals : SMap CalS} {v_hoists : SMap HoistS} {v_sincs : SMap SincS} {v_timers : SMap TimerS} {v_units : SMap UnitS} {v_gstarts : SMap GStart} {v_hostHold : SMap Word} {v_padHold : Bool} {v_strict : List Nat} {v_cvps : SMap CvpS} {v_tripsIn : SMap Bool} {v_tripLevel : BitVec 128} {v_tripSeen : BitVec 128} {v_seenNew : BitVec 128} {v_seenAt : Nat} {v_stations : SMap StationS} {v_insts : SMap InstS} {v_memS : MemS} {v_ports : List PortReq} {v_turns : SMap PortTurn} {v_perrNew : Option Nat} {v_dma : SMap DmaChS} {v_engines : SMap EngineS} {v_tags : List TagUse} {v_iports : SMap IPort} {v_strays : SMap Nat} {v_rings : SMap RingS} {v_pools : SMap PoolS} {v_qm : QmS} {v_locks : LockS} {v_hosts : SMap HostS} {v_irqs : SMap IrqS} {v_hly : HlyS} {v_drill : DrillS} {v_sys : Sys} {v_free : Nat} {v_levelsHigh : List Nat}
    (h : Keeps s₀ s) (hu : u.lc = s.upd.lc) : Keeps s₀ { now := v_now, tbase := v_tbase, lap := v_lap, regs := v_regs, threads := v_threads, barrels := v_barrels, bells := v_bells, evmap := v_evmap, agenda := v_agenda, staged := v_staged, reloadUndo := v_reloadUndo, desk := s.desk, slate := s.slate, hall := s.hall, ins := s.ins, pins := v_pins, lockSeq := v_lockSeq, cals := v_cals, hoists := v_hoists, sincs := v_sincs, timers := v_timers, units := v_units, gstarts := v_gstarts, hostHold := v_hostHold, padHold := v_padHold, strict := v_strict, cvps := v_cvps, tripsIn := v_tripsIn, tripLevel := v_tripLevel, tripSeen := v_tripSeen, seenNew := v_seenNew, seenAt := v_seenAt, stations := v_stations, insts := v_insts, memS := v_memS, ports := v_ports, turns := v_turns, perrNew := v_perrNew, dma := v_dma, engines := v_engines, tags := v_tags, iports := v_iports, strays := v_strays, rings := v_rings, pools := v_pools, qm := v_qm, locks := v_locks, hosts := v_hosts, irqs := v_irqs, hly := v_hly, upd := u, drill := v_drill, sys := v_sys, free := v_free, levelsHigh := v_levelsHigh, tickStage := s.tickStage, pending := s.pending } := h.like rfl rfl rfl rfl rfl rfl hu

/-- The same as a rewriting rule. -/
theorem Keeps.lit_iff {s₀ s : State} {u : UpdS} {v_now : Nat} {v_tbase : DWord} {v_lap : Int} {v_regs : SMap Word} {v_threads : SMap Thread} {v_barrels : SMap BarrelS} {v_bells : SMap BellS} {v_evmap : SMap (BitVec 11 × BitVec 2)} {v_agenda : List Landing} {v_staged : List (Tid × Staged)} {v_reloadUndo : List (Tid × TimerNo × Word × TimerS)} {v_pins : SMap PinS} {v_lockSeq : LockSeq} {v_cals : SMap CalS} {v_hoists : SMap HoistS} {v_sincs : SMap SincS} {v_timers : SMap TimerS} {v_units : SMap UnitS} {v_gstarts : SMap GStart} {v_hostHold : SMap Word} {v_padHold : Bool} {v_strict : List Nat} {v_cvps : SMap CvpS} {v_tripsIn : SMap Bool} {v_tripLevel : BitVec 128} {v_tripSeen : BitVec 128} {v_seenNew : BitVec 128} {v_seenAt : Nat} {v_stations : SMap StationS} {v_insts : SMap InstS} {v_memS : MemS} {v_ports : List PortReq} {v_turns : SMap PortTurn} {v_perrNew : Option Nat} {v_dma : SMap DmaChS} {v_engines : SMap EngineS} {v_tags : List TagUse} {v_iports : SMap IPort} {v_strays : SMap Nat} {v_rings : SMap RingS} {v_pools : SMap PoolS} {v_qm : QmS} {v_locks : LockS} {v_hosts : SMap HostS} {v_irqs : SMap IrqS} {v_hly : HlyS} {v_drill : DrillS} {v_sys : Sys} {v_free : Nat} {v_levelsHigh : List Nat}
    (hu : u.lc = s.upd.lc) : Keeps s₀ { now := v_now, tbase := v_tbase, lap := v_lap, regs := v_regs, threads := v_threads, barrels := v_barrels, bells := v_bells, evmap := v_evmap, agenda := v_agenda, staged := v_staged, reloadUndo := v_reloadUndo, desk := s.desk, slate := s.slate, hall := s.hall, ins := s.ins, pins := v_pins, lockSeq := v_lockSeq, cals := v_cals, hoists := v_hoists, sincs := v_sincs, timers := v_timers, units := v_units, gstarts := v_gstarts, hostHold := v_hostHold, padHold := v_padHold, strict := v_strict, cvps := v_cvps, tripsIn := v_tripsIn, tripLevel := v_tripLevel, tripSeen := v_tripSeen, seenNew := v_seenNew, seenAt := v_seenAt, stations := v_stations, insts := v_insts, memS := v_memS, ports := v_ports, turns := v_turns, perrNew := v_perrNew, dma := v_dma, engines := v_engines, tags := v_tags, iports := v_iports, strays := v_strays, rings := v_rings, pools := v_pools, qm := v_qm, locks := v_locks, hosts := v_hosts, irqs := v_irqs, hly := v_hly, upd := u, drill := v_drill, sys := v_sys, free := v_free, levelsHigh := v_levelsHigh, tickStage := s.tickStage, pending := s.pending } ↔ Keeps s₀ s :=
  ⟨fun h => h.like rfl rfl rfl rfl rfl rfl hu.symm, fun h => h.lit hu⟩

theorem Keeps.foldl {α : Type} {s₀ s : State} {f : State → α → State} (h : Keeps s₀ s) (l : List α)
    (hf : ∀ t x, Keeps s₀ t → Keeps s₀ (f t x)) : Keeps s₀ (l.foldl f s) := by
  induction l generalizing s with
  | nil => exact h
  | cons x rest ih => exact ih (hf s x h)

theorem Keeps.foldr {α : Type} {s₀ s : State} {f : α → State → State} (h : Keeps s₀ s) (l : List α)
    (hf : ∀ t x, Keeps s₀ t → Keeps s₀ (f x t)) : Keeps s₀ (l.foldr f s) := by
  induction l with
  | nil => exact h
  | cons x rest ih => exact hf _ x ih

theorem Keeps.foldl_snd {α β : Type} {s₀ : State} {b : β × State} {f : β × State → α → β × State} (h : Keeps s₀ b.2) (l : List α)
    (hf : ∀ b x, Keeps s₀ b.2 → Keeps s₀ (f b x).2) : Keeps s₀ (l.foldl f b).2 := by
  induction l generalizing b with
  | nil => exact h
  | cons x rest ih => exact ih (hf b x h)

theorem Keeps.foldl_snd_snd {α β γ : Type} {s₀ : State} {b : β × γ × State} {f : β × γ × State → α → β × γ × State}
    (h : Keeps s₀ b.2.2) (l : List α) (hf : ∀ b x, Keeps s₀ b.2.2 → Keeps s₀ (f b x).2.2) : Keeps s₀ (l.foldl f b).2.2 := by
  induction l generalizing b with
  | nil => exact h
  | cons x rest ih => exact ih (hf b x h)

end Sys2Proof.Machine
end

