-- ==== Sys2Proof/Laws/Keep/Store.lean ====
section
/-! SUPPORT. The definitions of Machine/Store.lean keep what `Keeps` names. -/

set_option linter.unusedTactic false
set_option linter.unreachableTactic false
set_option linter.unusedSimpArgs false
set_option linter.unnecessarySimpa false

namespace Sys2Proof.Machine

theorem State.setThr_keeps {s₀ s : State} (t : Tid) (x : Thread) (hk : Keeps s₀ s) : Keeps s₀ (s.setThr t x) := by
  unfold State.setThr
  try dsimp only
  repeat' (first | with_reducible assumption | with_reducible rfl | intro _ | with_reducible apply Keeps.foldl | with_reducible apply Keeps.foldr | with_reducible apply Keeps.foldl_snd_snd | with_reducible apply Keeps.foldl_snd | simp only [Keeps.lit_iff] | dsimp only [id_eq] | split)

theorem State.modThr_keeps {s₀ s : State} (t : Tid) (f : Thread → Thread) (hk : Keeps s₀ s) : Keeps s₀ (s.modThr t f) := by
  unfold State.modThr
  try dsimp only
  repeat' (first | with_reducible assumption | with_reducible rfl | intro _ | with_reducible apply State.setThr_keeps | with_reducible apply Keeps.foldl | with_reducible apply Keeps.foldr | with_reducible apply Keeps.foldl_snd_snd | with_reducible apply Keeps.foldl_snd | simp only [Keeps.lit_iff] | dsimp only [id_eq] | split)

theorem State.setBar_keeps {s₀ s : State} (b : Barrel) (x : BarrelS) (hk : Keeps s₀ s) : Keeps s₀ (s.setBar b x) := by
  unfold State.setBar
  try dsimp only
  repeat' (first | with_reducible assumption | with_reducible rfl | intro _ | with_reducible apply Keeps.foldl | with_reducible apply Keeps.foldr | with_reducible apply Keeps.foldl_snd_snd | with_reducible apply Keeps.foldl_snd | simp only [Keeps.lit_iff] | dsimp only [id_eq] | split)

theorem State.modBar_keeps {s₀ s : State} (b : Barrel) (f : BarrelS → BarrelS) (hk : Keeps s₀ s) : Keeps s₀ (s.modBar b f) := by
  unfold State.modBar
  try dsimp only
  repeat' (first | with_reducible assumption | with_reducible rfl | intro _ | with_reducible apply State.setBar_keeps | with_reducible apply Keeps.foldl | with_reducible apply Keeps.foldr | with_reducible apply Keeps.foldl_snd_snd | with_reducible apply Keeps.foldl_snd | simp only [Keeps.lit_iff] | dsimp only [id_eq] | split)

theorem State.setBell_keeps {s₀ s : State} (b : Bell) (x : BellS) (hk : Keeps s₀ s) : Keeps s₀ (s.setBell b x) := by
  unfold State.setBell
  try dsimp only
  repeat' (first | with_reducible assumption | with_reducible rfl | intro _ | with_reducible apply Keeps.foldl | with_reducible apply Keeps.foldr | with_reducible apply Keeps.foldl_snd_snd | with_reducible apply Keeps.foldl_snd | simp only [Keeps.lit_iff] | dsimp only [id_eq] | split)

theorem State.modBell_keeps {s₀ s : State} (b : Bell) (f : BellS → BellS) (hk : Keeps s₀ s) : Keeps s₀ (s.modBell b f) := by
  unfold State.modBell
  try dsimp only
  repeat' (first | with_reducible assumption | with_reducible rfl | intro _ | with_reducible apply State.setBell_keeps | with_reducible apply Keeps.foldl | with_reducible apply Keeps.foldr | with_reducible apply Keeps.foldl_snd_snd | with_reducible apply Keeps.foldl_snd | simp only [Keeps.lit_iff] | dsimp only [id_eq] | split)

theorem State.setPin_keeps {s₀ s : State} (c : Chan) (x : PinS) (hk : Keeps s₀ s) : Keeps s₀ (s.setPin c x) := by
  unfold State.setPin
  try dsimp only
  repeat' (first | with_reducible assumption | with_reducible rfl | intro _ | with_reducible apply Keeps.foldl | with_reducible apply Keeps.foldr | with_reducible apply Keeps.foldl_snd_snd | with_reducible apply Keeps.foldl_snd | simp only [Keeps.lit_iff] | dsimp only [id_eq] | split)

theorem State.modPin_keeps {s₀ s : State} (c : Chan) (f : PinS → PinS) (hk : Keeps s₀ s) : Keeps s₀ (s.modPin c f) := by
  unfold State.modPin
  try dsimp only
  repeat' (first | with_reducible assumption | with_reducible rfl | intro _ | with_reducible apply State.setPin_keeps | with_reducible apply Keeps.foldl | with_reducible apply Keeps.foldr | with_reducible apply Keeps.foldl_snd_snd | with_reducible apply Keeps.foldl_snd | simp only [Keeps.lit_iff] | dsimp only [id_eq] | split)

theorem State.setCal_keeps {s₀ s : State} (g : CalGroup) (x : CalS) (hk : Keeps s₀ s) : Keeps s₀ (s.setCal g x) := by
  unfold State.setCal
  try dsimp only
  repeat' (first | with_reducible assumption | with_reducible rfl | intro _ | with_reducible apply Keeps.foldl | with_reducible apply Keeps.foldr | with_reducible apply Keeps.foldl_snd_snd | with_reducible apply Keeps.foldl_snd | simp only [Keeps.lit_iff] | dsimp only [id_eq] | split)

theorem State.modCal_keeps {s₀ s : State} (g : CalGroup) (f : CalS → CalS) (hk : Keeps s₀ s) : Keeps s₀ (s.modCal g f) := by
  unfold State.modCal
  try dsimp only
  repeat' (first | with_reducible assumption | with_reducible rfl | intro _ | with_reducible apply State.setCal_keeps | with_reducible apply Keeps.foldl | with_reducible apply Keeps.foldr | with_reducible apply Keeps.foldl_snd_snd | with_reducible apply Keeps.foldl_snd | simp only [Keeps.lit_iff] | dsimp only [id_eq] | split)

theorem State.setHoist_keeps {s₀ s : State} (h : Hoist) (x : HoistS) (hk : Keeps s₀ s) : Keeps s₀ (s.setHoist h x) := by
  unfold State.setHoist
  try dsimp only
  repeat' (first | with_reducible assumption | with_reducible rfl | intro _ | with_reducible apply Keeps.foldl | with_reducible apply Keeps.foldr | with_reducible apply Keeps.foldl_snd_snd | with_reducible apply Keeps.foldl_snd | simp only [Keeps.lit_iff] | dsimp only [id_eq] | split)

theorem State.modHoist_keeps {s₀ s : State} (h : Hoist) (f : HoistS → HoistS) (hk : Keeps s₀ s) : Keeps s₀ (s.modHoist h f) := by
  unfold State.modHoist
  try dsimp only
  repeat' (first | with_reducible assumption | with_reducible rfl | intro _ | with_reducible apply State.setHoist_keeps | with_reducible apply Keeps.foldl | with_reducible apply Keeps.foldr | with_reducible apply Keeps.foldl_snd_snd | with_reducible apply Keeps.foldl_snd | simp only [Keeps.lit_iff] | dsimp only [id_eq] | split)

theorem State.setSinc_keeps {s₀ s : State} (n : SincNo) (x : SincS) (hk : Keeps s₀ s) : Keeps s₀ (s.setSinc n x) := by
  unfold State.setSinc
  try dsimp only
  repeat' (first | with_reducible assumption | with_reducible rfl | intro _ | with_reducible apply Keeps.foldl | with_reducible apply Keeps.foldr | with_reducible apply Keeps.foldl_snd_snd | with_reducible apply Keeps.foldl_snd | simp only [Keeps.lit_iff] | dsimp only [id_eq] | split)

theorem State.modSinc_keeps {s₀ s : State} (n : SincNo) (f : SincS → SincS) (hk : Keeps s₀ s) : Keeps s₀ (s.modSinc n f) := by
  unfold State.modSinc
  try dsimp only
  repeat' (first | with_reducible assumption | with_reducible rfl | intro _ | with_reducible apply State.setSinc_keeps | with_reducible apply Keeps.foldl | with_reducible apply Keeps.foldr | with_reducible apply Keeps.foldl_snd_snd | with_reducible apply Keeps.foldl_snd | simp only [Keeps.lit_iff] | dsimp only [id_eq] | split)

theorem State.setTimer_keeps {s₀ s : State} (n : TimerNo) (x : TimerS) (hk : Keeps s₀ s) : Keeps s₀ (s.setTimer n x) := by
  unfold State.setTimer
  try dsimp only
  repeat' (first | with_reducible assumption | with_reducible rfl | intro _ | with_reducible apply Keeps.foldl | with_reducible apply Keeps.foldr | with_reducible apply Keeps.foldl_snd_snd | with_reducible apply Keeps.foldl_snd | simp only [Keeps.lit_iff] | dsimp only [id_eq] | split)

theorem State.modTimer_keeps {s₀ s : State} (n : TimerNo) (f : TimerS → TimerS) (hk : Keeps s₀ s) : Keeps s₀ (s.modTimer n f) := by
  unfold State.modTimer
  try dsimp only
  repeat' (first | with_reducible assumption | with_reducible rfl | intro _ | with_reducible apply State.setTimer_keeps | with_reducible apply Keeps.foldl | with_reducible apply Keeps.foldr | with_reducible apply Keeps.foldl_snd_snd | with_reducible apply Keeps.foldl_snd | simp only [Keeps.lit_iff] | dsimp only [id_eq] | split)

theorem State.setUnit_keeps {s₀ s : State} (u : UnitNo) (x : UnitS) (hk : Keeps s₀ s) : Keeps s₀ (s.setUnit u x) := by
  unfold State.setUnit
  try dsimp only
  repeat' (first | with_reducible assumption | with_reducible rfl | intro _ | with_reducible apply Keeps.foldl | with_reducible apply Keeps.foldr | with_reducible apply Keeps.foldl_snd_snd | with_reducible apply Keeps.foldl_snd | simp only [Keeps.lit_iff] | dsimp only [id_eq] | split)

theorem State.modUnit_keeps {s₀ s : State} (u : UnitNo) (f : UnitS → UnitS) (hk : Keeps s₀ s) : Keeps s₀ (s.modUnit u f) := by
  unfold State.modUnit
  try dsimp only
  repeat' (first | with_reducible assumption | with_reducible rfl | intro _ | with_reducible apply State.setUnit_keeps | with_reducible apply Keeps.foldl | with_reducible apply Keeps.foldr | with_reducible apply Keeps.foldl_snd_snd | with_reducible apply Keeps.foldl_snd | simp only [Keeps.lit_iff] | dsimp only [id_eq] | split)

theorem State.setGstart_keeps {s₀ s : State} (h : Host) (x : GStart) (hk : Keeps s₀ s) : Keeps s₀ (s.setGstart h x) := by
  unfold State.setGstart
  try dsimp only
  repeat' (first | with_reducible assumption | with_reducible rfl | intro _ | with_reducible apply Keeps.foldl | with_reducible apply Keeps.foldr | with_reducible apply Keeps.foldl_snd_snd | with_reducible apply Keeps.foldl_snd | simp only [Keeps.lit_iff] | dsimp only [id_eq] | split)

theorem State.modGstart_keeps {s₀ s : State} (h : Host) (f : GStart → GStart) (hk : Keeps s₀ s) : Keeps s₀ (s.modGstart h f) := by
  unfold State.modGstart
  try dsimp only
  repeat' (first | with_reducible assumption | with_reducible rfl | intro _ | with_reducible apply State.setGstart_keeps | with_reducible apply Keeps.foldl | with_reducible apply Keeps.foldr | with_reducible apply Keeps.foldl_snd_snd | with_reducible apply Keeps.foldl_snd | simp only [Keeps.lit_iff] | dsimp only [id_eq] | split)

theorem State.setCvp_keeps {s₀ s : State} (n : Cvp) (x : CvpS) (hk : Keeps s₀ s) : Keeps s₀ (s.setCvp n x) := by
  unfold State.setCvp
  try dsimp only
  repeat' (first | with_reducible assumption | with_reducible rfl | intro _ | with_reducible apply Keeps.foldl | with_reducible apply Keeps.foldr | with_reducible apply Keeps.foldl_snd_snd | with_reducible apply Keeps.foldl_snd | simp only [Keeps.lit_iff] | dsimp only [id_eq] | split)

theorem State.modCvp_keeps {s₀ s : State} (n : Cvp) (f : CvpS → CvpS) (hk : Keeps s₀ s) : Keeps s₀ (s.modCvp n f) := by
  unfold State.modCvp
  try dsimp only
  repeat' (first | with_reducible assumption | with_reducible rfl | intro _ | with_reducible apply State.setCvp_keeps | with_reducible apply Keeps.foldl | with_reducible apply Keeps.foldr | with_reducible apply Keeps.foldl_snd_snd | with_reducible apply Keeps.foldl_snd | simp only [Keeps.lit_iff] | dsimp only [id_eq] | split)

theorem State.setStn_keeps {s₀ s : State} (n : Station) (x : StationS) (hk : Keeps s₀ s) : Keeps s₀ (s.setStn n x) := by
  unfold State.setStn
  try dsimp only
  repeat' (first | with_reducible assumption | with_reducible rfl | intro _ | with_reducible apply Keeps.foldl | with_reducible apply Keeps.foldr | with_reducible apply Keeps.foldl_snd_snd | with_reducible apply Keeps.foldl_snd | simp only [Keeps.lit_iff] | dsimp only [id_eq] | split)

theorem State.modStn_keeps {s₀ s : State} (n : Station) (f : StationS → StationS) (hk : Keeps s₀ s) : Keeps s₀ (s.modStn n f) := by
  unfold State.modStn
  try dsimp only
  repeat' (first | with_reducible assumption | with_reducible rfl | intro _ | with_reducible apply State.setStn_keeps | with_reducible apply Keeps.foldl | with_reducible apply Keeps.foldr | with_reducible apply Keeps.foldl_snd_snd | with_reducible apply Keeps.foldl_snd | simp only [Keeps.lit_iff] | dsimp only [id_eq] | split)

theorem State.setInst_keeps {s₀ s : State} (m : MemInst) (x : InstS) (hk : Keeps s₀ s) : Keeps s₀ (s.setInst m x) := by
  unfold State.setInst
  try dsimp only
  repeat' (first | with_reducible assumption | with_reducible rfl | intro _ | with_reducible apply Keeps.foldl | with_reducible apply Keeps.foldr | with_reducible apply Keeps.foldl_snd_snd | with_reducible apply Keeps.foldl_snd | simp only [Keeps.lit_iff] | dsimp only [id_eq] | split)

theorem State.modInst_keeps {s₀ s : State} (m : MemInst) (f : InstS → InstS) (hk : Keeps s₀ s) : Keeps s₀ (s.modInst m f) := by
  unfold State.modInst
  try dsimp only
  repeat' (first | with_reducible assumption | with_reducible rfl | intro _ | with_reducible apply State.setInst_keeps | with_reducible apply Keeps.foldl | with_reducible apply Keeps.foldr | with_reducible apply Keeps.foldl_snd_snd | with_reducible apply Keeps.foldl_snd | simp only [Keeps.lit_iff] | dsimp only [id_eq] | split)

theorem State.modTurn_keeps {s₀ s : State} (k : Nat) (f : PortTurn → PortTurn) (hk : Keeps s₀ s) : Keeps s₀ (s.modTurn k f) := by
  unfold State.modTurn
  try dsimp only
  repeat' (first | with_reducible assumption | with_reducible rfl | intro _ | with_reducible apply Keeps.foldl | with_reducible apply Keeps.foldr | with_reducible apply Keeps.foldl_snd_snd | with_reducible apply Keeps.foldl_snd | simp only [Keeps.lit_iff] | dsimp only [id_eq] | split)

theorem State.setCh_keeps {s₀ s : State} (c : DmaCh) (x : DmaChS) (hk : Keeps s₀ s) : Keeps s₀ (s.setCh c x) := by
  unfold State.setCh
  try dsimp only
  repeat' (first | with_reducible assumption | with_reducible rfl | intro _ | with_reducible apply Keeps.foldl | with_reducible apply Keeps.foldr | with_reducible apply Keeps.foldl_snd_snd | with_reducible apply Keeps.foldl_snd | simp only [Keeps.lit_iff] | dsimp only [id_eq] | split)

theorem State.modCh_keeps {s₀ s : State} (c : DmaCh) (f : DmaChS → DmaChS) (hk : Keeps s₀ s) : Keeps s₀ (s.modCh c f) := by
  unfold State.modCh
  try dsimp only
  repeat' (first | with_reducible assumption | with_reducible rfl | intro _ | with_reducible apply State.setCh_keeps | with_reducible apply Keeps.foldl | with_reducible apply Keeps.foldr | with_reducible apply Keeps.foldl_snd_snd | with_reducible apply Keeps.foldl_snd | simp only [Keeps.lit_iff] | dsimp only [id_eq] | split)

theorem State.setEng_keeps {s₀ s : State} (e : Engine) (x : EngineS) (hk : Keeps s₀ s) : Keeps s₀ (s.setEng e x) := by
  unfold State.setEng
  try dsimp only
  repeat' (first | with_reducible assumption | with_reducible rfl | intro _ | with_reducible apply Keeps.foldl | with_reducible apply Keeps.foldr | with_reducible apply Keeps.foldl_snd_snd | with_reducible apply Keeps.foldl_snd | simp only [Keeps.lit_iff] | dsimp only [id_eq] | split)

theorem State.modEng_keeps {s₀ s : State} (e : Engine) (f : EngineS → EngineS) (hk : Keeps s₀ s) : Keeps s₀ (s.modEng e f) := by
  unfold State.modEng
  try dsimp only
  repeat' (first | with_reducible assumption | with_reducible rfl | intro _ | with_reducible apply State.setEng_keeps | with_reducible apply Keeps.foldl | with_reducible apply Keeps.foldr | with_reducible apply Keeps.foldl_snd_snd | with_reducible apply Keeps.foldl_snd | simp only [Keeps.lit_iff] | dsimp only [id_eq] | split)

theorem State.setRing_keeps {s₀ s : State} (r : Ring) (x : RingS) (hk : Keeps s₀ s) : Keeps s₀ (s.setRing r x) := by
  unfold State.setRing
  try dsimp only
  repeat' (first | with_reducible assumption | with_reducible rfl | intro _ | with_reducible apply Keeps.foldl | with_reducible apply Keeps.foldr | with_reducible apply Keeps.foldl_snd_snd | with_reducible apply Keeps.foldl_snd | simp only [Keeps.lit_iff] | dsimp only [id_eq] | split)

theorem State.modRing_keeps {s₀ s : State} (r : Ring) (f : RingS → RingS) (hk : Keeps s₀ s) : Keeps s₀ (s.modRing r f) := by
  unfold State.modRing
  try dsimp only
  repeat' (first | with_reducible assumption | with_reducible rfl | intro _ | with_reducible apply State.setRing_keeps | with_reducible apply Keeps.foldl | with_reducible apply Keeps.foldr | with_reducible apply Keeps.foldl_snd_snd | with_reducible apply Keeps.foldl_snd | simp only [Keeps.lit_iff] | dsimp only [id_eq] | split)

theorem State.setPool_keeps {s₀ s : State} (p : Fin 8) (x : PoolS) (hk : Keeps s₀ s) : Keeps s₀ (s.setPool p x) := by
  unfold State.setPool
  try dsimp only
  repeat' (first | with_reducible assumption | with_reducible rfl | intro _ | with_reducible apply Keeps.foldl | with_reducible apply Keeps.foldr | with_reducible apply Keeps.foldl_snd_snd | with_reducible apply Keeps.foldl_snd | simp only [Keeps.lit_iff] | dsimp only [id_eq] | split)

theorem State.modPool_keeps {s₀ s : State} (p : Fin 8) (f : PoolS → PoolS) (hk : Keeps s₀ s) : Keeps s₀ (s.modPool p f) := by
  unfold State.modPool
  try dsimp only
  repeat' (first | with_reducible assumption | with_reducible rfl | intro _ | with_reducible apply State.setPool_keeps | with_reducible apply Keeps.foldl | with_reducible apply Keeps.foldr | with_reducible apply Keeps.foldl_snd_snd | with_reducible apply Keeps.foldl_snd | simp only [Keeps.lit_iff] | dsimp only [id_eq] | split)

theorem State.setHost_keeps {s₀ s : State} (h : Host) (x : HostS) (hk : Keeps s₀ s) : Keeps s₀ (s.setHost h x) := by
  unfold State.setHost
  try dsimp only
  repeat' (first | with_reducible assumption | with_reducible rfl | intro _ | with_reducible apply Keeps.foldl | with_reducible apply Keeps.foldr | with_reducible apply Keeps.foldl_snd_snd | with_reducible apply Keeps.foldl_snd | simp only [Keeps.lit_iff] | dsimp only [id_eq] | split)

theorem State.modHost_keeps {s₀ s : State} (h : Host) (f : HostS → HostS) (hk : Keeps s₀ s) : Keeps s₀ (s.modHost h f) := by
  unfold State.modHost
  try dsimp only
  repeat' (first | with_reducible assumption | with_reducible rfl | intro _ | with_reducible apply State.setHost_keeps | with_reducible apply Keeps.foldl | with_reducible apply Keeps.foldr | with_reducible apply Keeps.foldl_snd_snd | with_reducible apply Keeps.foldl_snd | simp only [Keeps.lit_iff] | dsimp only [id_eq] | split)

theorem State.setIrq_keeps {s₀ s : State} (l : IrqLine) (x : IrqS) (hk : Keeps s₀ s) : Keeps s₀ (s.setIrq l x) := by
  unfold State.setIrq
  try dsimp only
  repeat' (first | with_reducible assumption | with_reducible rfl | intro _ | with_reducible apply Keeps.foldl | with_reducible apply Keeps.foldr | with_reducible apply Keeps.foldl_snd_snd | with_reducible apply Keeps.foldl_snd | simp only [Keeps.lit_iff] | dsimp only [id_eq] | split)

theorem State.modIrq_keeps {s₀ s : State} (l : IrqLine) (f : IrqS → IrqS) (hk : Keeps s₀ s) : Keeps s₀ (s.modIrq l f) := by
  unfold State.modIrq
  try dsimp only
  repeat' (first | with_reducible assumption | with_reducible rfl | intro _ | with_reducible apply State.setIrq_keeps | with_reducible apply Keeps.foldl | with_reducible apply Keeps.foldr | with_reducible apply Keeps.foldl_snd_snd | with_reducible apply Keeps.foldl_snd | simp only [Keeps.lit_iff] | dsimp only [id_eq] | split)

theorem State.modHps_keeps {s₀ s : State} (h : Host) (f : HpsBank → HpsBank) (hk : Keeps s₀ s) : Keeps s₀ (s.modHps h f) := by
  unfold State.modHps
  try dsimp only
  repeat' (first | with_reducible assumption | with_reducible rfl | intro _ | with_reducible apply Keeps.foldl | with_reducible apply Keeps.foldr | with_reducible apply Keeps.foldl_snd_snd | with_reducible apply Keeps.foldl_snd | simp only [Keeps.lit_iff] | dsimp only [id_eq] | split)

theorem State.modLockStat_keeps {s₀ s : State} (t : Tid) (f : LockStat → LockStat) (hk : Keeps s₀ s) : Keeps s₀ (s.modLockStat t f) := by
  unfold State.modLockStat
  try dsimp only
  repeat' (first | with_reducible assumption | with_reducible rfl | intro _ | with_reducible apply Keeps.foldl | with_reducible apply Keeps.foldr | with_reducible apply Keeps.foldl_snd_snd | with_reducible apply Keeps.foldl_snd | simp only [Keeps.lit_iff] | dsimp only [id_eq] | split)

theorem State.modAll_keeps {s₀ s : State} (t : Tid) (f : ThreadS → ThreadS) (hk : Keeps s₀ s) : Keeps s₀ (s.modAll t f) := by
  unfold State.modAll
  try dsimp only
  repeat' (first | with_reducible assumption | with_reducible rfl | intro _ | with_reducible apply State.modThr_keeps | with_reducible apply Keeps.foldl | with_reducible apply Keeps.foldr | with_reducible apply Keeps.foldl_snd_snd | with_reducible apply Keeps.foldl_snd | simp only [Keeps.lit_iff] | dsimp only [id_eq] | split)

theorem State.modFrom_keeps {s₀ s : State} (t : Tid) (k : Nat) (f : ThreadS → ThreadS) (hk : Keeps s₀ s) : Keeps s₀ (s.modFrom t k f) := by
  unfold State.modFrom
  try dsimp only
  repeat' (first | with_reducible assumption | with_reducible rfl | intro _ | with_reducible apply State.modThr_keeps | with_reducible apply Keeps.foldl | with_reducible apply Keeps.foldr | with_reducible apply Keeps.foldl_snd_snd | with_reducible apply Keeps.foldl_snd | simp only [Keeps.lit_iff] | dsimp only [id_eq] | split)

theorem State.modEv_keeps {s₀ s : State} (t : Tid) (f : Events → Events) (hk : Keeps s₀ s) : Keeps s₀ (s.modEv t f) := by
  unfold State.modEv
  try dsimp only
  repeat' (first | with_reducible assumption | with_reducible rfl | intro _ | with_reducible apply State.modThr_keeps | with_reducible apply Keeps.foldl | with_reducible apply Keeps.foldr | with_reducible apply Keeps.foldl_snd_snd | with_reducible apply Keeps.foldl_snd | simp only [Keeps.lit_iff] | dsimp only [id_eq] | split)

theorem State.modPer_keeps {s₀ s : State} (t : Tid) (f : Period → Period) (hk : Keeps s₀ s) : Keeps s₀ (s.modPer t f) := by
  unfold State.modPer
  try dsimp only
  repeat' (first | with_reducible assumption | with_reducible rfl | intro _ | with_reducible apply State.modThr_keeps | with_reducible apply Keeps.foldl | with_reducible apply Keeps.foldr | with_reducible apply Keeps.foldl_snd_snd | with_reducible apply Keeps.foldl_snd | simp only [Keeps.lit_iff] | dsimp only [id_eq] | split)

theorem State.modEvAll_keeps {s₀ s : State} (t : Tid) (f : Events → Events) (hk : Keeps s₀ s) : Keeps s₀ (s.modEvAll t f) := by
  unfold State.modEvAll
  try dsimp only
  repeat' (first | with_reducible assumption | with_reducible rfl | intro _ | with_reducible apply State.modAll_keeps | with_reducible apply Keeps.foldl | with_reducible apply Keeps.foldr | with_reducible apply Keeps.foldl_snd_snd | with_reducible apply Keeps.foldl_snd | simp only [Keeps.lit_iff] | dsimp only [id_eq] | split)

theorem State.setDesk_keeps {s₀ s : State} (b : Barrel) (a : Nat) (v : Byte) (hk : Keeps s₀ s) : Keeps s₀ (s.setDesk b a v) := by
  refine ⟨hk.pending, hk.stage, fun m => ?_, hk.scrapped⟩
  have := hk.mem m
  simp only [State.memOk, Bool.and_eq_true] at this
  obtain ⟨⟨⟨m1, m2⟩, m3⟩, m4⟩ := this
  simp only [State.memOk, Bool.and_eq_true]
  exact ⟨⟨⟨poke_wf _ _ _ m1, m2⟩, m3⟩, m4⟩

theorem State.setDesks_keeps {s₀ s : State} (b : Barrel) (a : Nat) (l : List Byte) (hk : Keeps s₀ s) : Keeps s₀ (s.setDesks b a l) := by
  induction l generalizing s a with
  | nil => exact hk
  | cons v rest ih => exact ih _ (State.setDesk_keeps _ _ _ hk)

theorem State.setHall_keeps {s₀ s : State} (a : Nat) (v : Byte) (hk : Keeps s₀ s) : Keeps s₀ (s.setHall a v) := by
  refine ⟨hk.pending, hk.stage, fun m => ?_, hk.scrapped⟩
  have := hk.mem m
  simp only [State.memOk, Bool.and_eq_true] at this
  obtain ⟨⟨⟨m1, m2⟩, m3⟩, m4⟩ := this
  simp only [State.memOk, Bool.and_eq_true]
  exact ⟨⟨⟨m1, m2⟩, poke_wf _ _ _ m3⟩, m4⟩

theorem State.setHalls_keeps {s₀ s : State} (a : Nat) (l : List Byte) (hk : Keeps s₀ s) : Keeps s₀ (s.setHalls a l) := by
  induction l generalizing s a with
  | nil => exact hk
  | cons v rest ih => exact ih _ (State.setHall_keeps _ _ hk)

theorem State.setHallWord_keeps {s₀ s : State} (a : Nat) (v : DWord) (hk : Keeps s₀ s) : Keeps s₀ (s.setHallWord a v) := by
  unfold State.setHallWord
  try dsimp only
  repeat' (first | with_reducible assumption | with_reducible rfl | intro _ | with_reducible apply State.setHalls_keeps | with_reducible apply Keeps.foldl | with_reducible apply Keeps.foldr | with_reducible apply Keeps.foldl_snd_snd | with_reducible apply Keeps.foldl_snd | simp only [Keeps.lit_iff] | dsimp only [id_eq] | split)

theorem State.setSlate_keeps {s₀ s : State} (t : Tid) (copy : Bool) (line off : Nat) (v : Byte) (hk : Keeps s₀ s) : Keeps s₀ (s.setSlate t copy line off v) := by
  refine ⟨hk.pending, hk.stage, fun m => ?_, hk.scrapped⟩
  have := hk.mem m
  simp only [State.memOk, Bool.and_eq_true] at this
  obtain ⟨⟨⟨m1, m2⟩, m3⟩, m4⟩ := this
  simp only [State.memOk, Bool.and_eq_true]
  exact ⟨⟨⟨m1, poke_wf _ _ _ m2⟩, m3⟩, m4⟩

theorem State.setIns_keeps {s₀ s : State} (b : Barrel) (y : Bool) (w : Nat) (v : Word) (hk : Keeps s₀ s) : Keeps s₀ (s.setIns b y w v) := by
  refine ⟨hk.pending, hk.stage, fun m => ?_, hk.scrapped⟩
  have := hk.mem m
  simp only [State.memOk, Bool.and_eq_true] at this
  obtain ⟨⟨⟨m1, m2⟩, m3⟩, m4⟩ := this
  simp only [State.memOk, Bool.and_eq_true]
  exact ⟨⟨⟨m1, m2⟩, m3⟩, mput_wf _ _ _ _ m4⟩

end Sys2Proof.Machine
end

