-- ==== Sys2Proof/Laws/Keep/Regs.lean ====
section
/-! SUPPORT. The definitions of Machine/Regs.lean keep what `Keeps` names. -/

set_option linter.unusedTactic false
set_option linter.unreachableTactic false
set_option linter.unusedSimpArgs false
set_option linter.unnecessarySimpa false

namespace Sys2Proof.Machine

theorem State.setReg_keeps {s₀ s : State} (r : Reg) (v : Word) (hk : Keeps s₀ s) : Keeps s₀ (s.setReg r v) := by
  unfold State.setReg
  try dsimp only
  repeat' (first | with_reducible assumption | with_reducible rfl | intro _ | with_reducible apply Keeps.foldl | with_reducible apply Keeps.foldr | with_reducible apply Keeps.foldl_snd_snd | with_reducible apply Keeps.foldl_snd | simp only [Keeps.lit_iff] | dsimp only [id_eq] | split)

theorem State.storeRw_keeps {s₀ s : State} (r : Reg) (v : Word) (hk : Keeps s₀ s) : Keeps s₀ (s.storeRw r v) := by
  unfold State.storeRw
  try dsimp only
  repeat' (first | with_reducible assumption | with_reducible rfl | intro _ | with_reducible apply State.setReg_keeps | with_reducible apply Keeps.foldl | with_reducible apply Keeps.foldr | with_reducible apply Keeps.foldl_snd_snd | with_reducible apply Keeps.foldl_snd | simp only [Keeps.lit_iff] | dsimp only [id_eq] | split)

end Sys2Proof.Machine
end

