-- ==== Sys2Proof/Laws/Keep/Agenda.lean ====
section
/-! SUPPORT. The definitions of Machine/Agenda.lean keep what `Keeps` names. -/

set_option linter.unusedTactic false
set_option linter.unreachableTactic false
set_option linter.unusedSimpArgs false
set_option linter.unnecessarySimpa false

namespace Sys2Proof.Machine

theorem State.schedule_keeps {s₀ s : State} (due prio : Nat) (e : Eff) (hk : Keeps s₀ s) : Keeps s₀ (s.schedule due prio e) := by
  unfold State.schedule
  try dsimp only
  repeat' (first | with_reducible assumption | with_reducible rfl | intro _ | with_reducible apply Keeps.foldl | with_reducible apply Keeps.foldr | with_reducible apply Keeps.foldl_snd_snd | with_reducible apply Keeps.foldl_snd | simp only [Keeps.lit_iff] | dsimp only [id_eq] | split)

theorem State.scheduleFor_keeps {s₀ s : State} (t : Tid) (due prio : Nat) (e : Eff) (hk : Keeps s₀ s) : Keeps s₀ (s.scheduleFor t due prio e) := by
  unfold State.scheduleFor
  try dsimp only
  repeat' (first | with_reducible assumption | with_reducible rfl | intro _ | with_reducible apply Keeps.foldl | with_reducible apply Keeps.foldr | with_reducible apply Keeps.foldl_snd_snd | with_reducible apply Keeps.foldl_snd | simp only [Keeps.lit_iff] | dsimp only [id_eq] | split)

theorem State.sourceAt_keeps {s₀ s : State} (due src : Nat) (hk : Keeps s₀ s) : Keeps s₀ (s.sourceAt due src) := by
  unfold State.sourceAt
  try dsimp only
  repeat' (first | with_reducible assumption | with_reducible rfl | intro _ | with_reducible apply State.schedule_keeps | with_reducible apply Keeps.foldl | with_reducible apply Keeps.foldr | with_reducible apply Keeps.foldl_snd_snd | with_reducible apply Keeps.foldl_snd | simp only [Keeps.lit_iff] | dsimp only [id_eq] | split)

theorem State.pulseSoon_keeps {s₀ s : State} (src : Nat) (hk : Keeps s₀ s) : Keeps s₀ (s.pulseSoon src) := by
  unfold State.pulseSoon
  try dsimp only
  repeat' (first | with_reducible assumption | with_reducible rfl | intro _ | with_reducible apply State.sourceAt_keeps | with_reducible apply Keeps.foldl | with_reducible apply Keeps.foldr | with_reducible apply Keeps.foldl_snd_snd | with_reducible apply Keeps.foldl_snd | simp only [Keeps.lit_iff] | dsimp only [id_eq] | split)

theorem State.command_keeps {s₀ s : State} (due : Nat) (c : Instr) (hk : Keeps s₀ s) : Keeps s₀ (s.command due c) := by
  unfold State.command
  try dsimp only
  repeat' (first | with_reducible assumption | with_reducible rfl | intro _ | with_reducible apply State.schedule_keeps | with_reducible apply Keeps.foldl | with_reducible apply Keeps.foldr | with_reducible apply Keeps.foldl_snd_snd | with_reducible apply Keeps.foldl_snd | simp only [Keeps.lit_iff] | dsimp only [id_eq] | split)

theorem State.enter_keeps {s₀ s : State} (t : Tid) (c prio : Nat) (e : Eff) (hk : Keeps s₀ s) : Keeps s₀ (s.enter t c prio e) := by
  unfold State.enter
  try dsimp only
  repeat' (first | with_reducible assumption | with_reducible rfl | intro _ | with_reducible apply Keeps.foldl | with_reducible apply Keeps.foldr | with_reducible apply Keeps.foldl_snd_snd | with_reducible apply Keeps.foldl_snd | simp only [Keeps.lit_iff] | dsimp only [id_eq] | split)

theorem State.dropFrom_keeps {s₀ s : State} (t : Tid) (k : Nat) (hk : Keeps s₀ s) : Keeps s₀ (s.dropFrom t k) := by
  unfold State.dropFrom
  try dsimp only
  repeat' (first | with_reducible assumption | with_reducible rfl | intro _ | with_reducible apply Keeps.foldl | with_reducible apply Keeps.foldr | with_reducible apply Keeps.foldl_snd_snd | with_reducible apply Keeps.foldl_snd | simp only [Keeps.lit_iff] | dsimp only [id_eq] | split)

theorem State.dropHall_keeps {s₀ s : State} (t : Tid) (hk : Keeps s₀ s) : Keeps s₀ (s.dropHall t) := by
  unfold State.dropHall
  try dsimp only
  repeat' (first | with_reducible assumption | with_reducible rfl | intro _ | with_reducible apply Keeps.foldl | with_reducible apply Keeps.foldr | with_reducible apply Keeps.foldl_snd_snd | with_reducible apply Keeps.foldl_snd | simp only [Keeps.lit_iff] | dsimp only [id_eq] | split)

theorem State.answer_keeps {s₀ s : State} (h : Host) (tag : BitVec 5) (status : BitVec 2) (data : List (BitVec 128)) (hk : Keeps s₀ s) : Keeps s₀ (s.answer h tag status data) := by
  unfold State.answer
  try dsimp only
  repeat' (first | with_reducible assumption | with_reducible rfl | intro _ | with_reducible apply State.modHost_keeps | with_reducible apply Keeps.foldl | with_reducible apply Keeps.foldr | with_reducible apply Keeps.foldl_snd_snd | with_reducible apply Keeps.foldl_snd | simp only [Keeps.lit_iff] | dsimp only [id_eq] | split)

theorem State.respond_keeps {s₀ s : State} (a : Agent) (status : BitVec 2) (hk : Keeps s₀ s) : Keeps s₀ (s.respond a status) := by
  unfold State.respond
  try dsimp only
  repeat' (first | with_reducible assumption | with_reducible rfl | intro _ | with_reducible apply State.answer_keeps | with_reducible apply Keeps.foldl | with_reducible apply Keeps.foldr | with_reducible apply Keeps.foldl_snd_snd | with_reducible apply Keeps.foldl_snd | simp only [Keeps.lit_iff] | dsimp only [id_eq] | split)

theorem State.regWrite_keeps {s₀ s : State} (a : Agent) (inside : Bool) (eff : State → State) (hk : Keeps s₀ s) (hk_eff : ∀ x0, Keeps s₀ x0 → Keeps s₀ (eff x0)) : Keeps s₀ (s.regWrite a inside eff) := by
  unfold State.regWrite
  try dsimp only
  repeat' (first | with_reducible assumption | with_reducible rfl | intro _ | with_reducible apply State.respond_keeps | with_reducible apply hk_eff | with_reducible apply Keeps.foldl | with_reducible apply Keeps.foldr | with_reducible apply Keeps.foldl_snd_snd | with_reducible apply Keeps.foldl_snd | simp only [Keeps.lit_iff] | dsimp only [id_eq] | split)

theorem State.regWriteOut_keeps {s₀ s : State} (a : Agent) (superv : Bool) (chan : Option Chan) (inside : Bool) (eff : State → State) (hk : Keeps s₀ s) (hk_eff : ∀ x0, Keeps s₀ x0 → Keeps s₀ (eff x0)) : Keeps s₀ (s.regWriteOut a superv chan inside eff) := by
  unfold State.regWriteOut
  try dsimp only
  repeat' (first | with_reducible assumption | with_reducible rfl | intro _ | with_reducible apply State.regWrite_keeps | with_reducible apply hk_eff | with_reducible apply Keeps.foldl | with_reducible apply Keeps.foldr | with_reducible apply Keeps.foldl_snd_snd | with_reducible apply Keeps.foldl_snd | simp only [Keeps.lit_iff] | dsimp only [id_eq] | split)

theorem State.regWriteLow_keeps {s₀ s : State} (a : Agent) (inside : Bool) (eff : State → State) (hk : Keeps s₀ s) (hk_eff : ∀ x0, Keeps s₀ x0 → Keeps s₀ (eff x0)) : Keeps s₀ (s.regWriteLow a inside eff) := by
  unfold State.regWriteLow
  try dsimp only
  repeat' (first | with_reducible assumption | with_reducible rfl | intro _ | with_reducible apply State.regWrite_keeps | with_reducible apply hk_eff | with_reducible apply Keeps.foldl | with_reducible apply Keeps.foldr | with_reducible apply Keeps.foldl_snd_snd | with_reducible apply Keeps.foldl_snd | simp only [Keeps.lit_iff] | dsimp only [id_eq] | split)

theorem State.pendPulse_keeps {s₀ s : State} (t : Tid) (i : Nat) (hk : Keeps s₀ s) : Keeps s₀ (s.pendPulse t i) := by
  unfold State.pendPulse
  try dsimp only
  repeat' (first | with_reducible assumption | with_reducible rfl | intro _ | with_reducible apply State.modEvAll_keeps | with_reducible apply Keeps.foldl | with_reducible apply Keeps.foldr | with_reducible apply Keeps.foldl_snd_snd | with_reducible apply Keeps.foldl_snd | simp only [Keeps.lit_iff] | dsimp only [id_eq] | split)

theorem State.pendLevel_keeps {s₀ s : State} (t : Tid) (i : Nat) (hk : Keeps s₀ s) : Keeps s₀ (s.pendLevel t i) := by
  unfold State.pendLevel
  try dsimp only
  repeat' (first | with_reducible assumption | with_reducible rfl | intro _ | with_reducible apply State.modEvAll_keeps | with_reducible apply Keeps.foldl | with_reducible apply Keeps.foldr | with_reducible apply Keeps.foldl_snd_snd | with_reducible apply Keeps.foldl_snd | simp only [Keeps.lit_iff] | dsimp only [id_eq] | split)

theorem State.countSource_keeps {s₀ s : State} (src : Nat) (hk : Keeps s₀ s) : Keeps s₀ (s.countSource src) := by
  unfold State.countSource
  try dsimp only
  repeat' (first | with_reducible assumption | with_reducible rfl | intro _ | with_reducible apply State.command_keeps | with_reducible apply Keeps.foldl | with_reducible apply Keeps.foldr | with_reducible apply Keeps.foldl_snd_snd | with_reducible apply Keeps.foldl_snd | simp only [Keeps.lit_iff] | dsimp only [id_eq] | split)

theorem State.noteMove_keeps {s₀ s : State} (src : Nat) (hk : Keeps s₀ s) : Keeps s₀ (s.noteMove src) := by
  unfold State.noteMove
  try dsimp only
  repeat' (first | with_reducible assumption | with_reducible rfl | intro _ | with_reducible apply Keeps.foldl | with_reducible apply Keeps.foldr | with_reducible apply Keeps.foldl_snd_snd | with_reducible apply Keeps.foldl_snd | simp only [Keeps.lit_iff] | dsimp only [id_eq] | split)

theorem State.grant_keeps {s₀ s : State} (src : Nat) (hk : Keeps s₀ s) : Keeps s₀ (s.grant src) := by
  unfold State.grant
  try dsimp only
  repeat' (first | with_reducible assumption | with_reducible rfl | intro _ | with_reducible apply State.modCh_keeps | with_reducible apply Keeps.foldl | with_reducible apply Keeps.foldr | with_reducible apply Keeps.foldl_snd_snd | with_reducible apply Keeps.foldl_snd | simp only [Keeps.lit_iff] | dsimp only [id_eq] | split)

theorem State.pulse_keeps {s₀ s : State} (src : Nat) (hk : Keeps s₀ s) : Keeps s₀ (s.pulse src) := by
  unfold State.pulse
  try dsimp only
  repeat' (first | with_reducible assumption | with_reducible rfl | intro _ | with_reducible apply State.countSource_keeps | with_reducible apply State.grant_keeps | with_reducible apply State.noteMove_keeps | with_reducible apply State.pendPulse_keeps | with_reducible apply Keeps.foldl | with_reducible apply Keeps.foldr | with_reducible apply Keeps.foldl_snd_snd | with_reducible apply Keeps.foldl_snd | simp only [Keeps.lit_iff] | dsimp only [id_eq] | split)

theorem State.wakeInput_keeps {s₀ s : State} (t : Tid) (i : Nat) (hk : Keeps s₀ s) : Keeps s₀ (s.wakeInput t i) := by
  unfold State.wakeInput
  try dsimp only
  repeat' (first | with_reducible assumption | with_reducible rfl | intro _ | with_reducible apply State.modEvAll_keeps | with_reducible apply State.pendPulse_keeps | with_reducible apply Keeps.foldl | with_reducible apply Keeps.foldr | with_reducible apply Keeps.foldl_snd_snd | with_reducible apply Keeps.foldl_snd | simp only [Keeps.lit_iff] | dsimp only [id_eq] | split)

end Sys2Proof.Machine
end

