-- ==== Sys2Proof/Laws/Keep/Timers.lean ====
section
/-! SUPPORT. The definitions of Machine/Timers.lean keep what `Keeps` names. -/

set_option linter.unusedTactic false
set_option linter.unreachableTactic false
set_option linter.unusedSimpArgs false
set_option linter.unnecessarySimpa false

namespace Sys2Proof.Machine

theorem State.stage_keeps {s₀ s : State} (t : Tid) (x : Staged) (hk : Keeps s₀ s) : Keeps s₀ (s.stage t x) := by
  unfold State.stage
  try dsimp only
  repeat' (first | with_reducible assumption | with_reducible rfl | intro _ | with_reducible apply Keeps.foldl | with_reducible apply Keeps.foldr | with_reducible apply Keeps.foldl_snd_snd | with_reducible apply Keeps.foldl_snd | simp only [Keeps.lit_iff] | dsimp only [id_eq] | split)

theorem State.unstage_keeps {s₀ s : State} (t : Tid) (hk : Keeps s₀ s) : Keeps s₀ (s.unstage t) := by
  unfold State.unstage
  try dsimp only
  repeat' (first | with_reducible assumption | with_reducible rfl | intro _ | with_reducible apply Keeps.foldl | with_reducible apply Keeps.foldr | with_reducible apply Keeps.foldl_snd_snd | with_reducible apply Keeps.foldl_snd | simp only [Keeps.lit_iff] | dsimp only [id_eq] | split)

theorem State.addTbase_keeps {s₀ s : State} (d : Int) (hk : Keeps s₀ s) : Keeps s₀ (s.addTbase d) := by
  unfold State.addTbase
  try dsimp only
  repeat' (first | with_reducible assumption | with_reducible rfl | intro _ | with_reducible apply Keeps.foldl | with_reducible apply Keeps.foldr | with_reducible apply Keeps.foldl_snd_snd | with_reducible apply Keeps.foldl_snd | simp only [Keeps.lit_iff] | dsimp only [id_eq] | split)

theorem State.cvTrigger_keeps {s₀ s : State} (n : Cvp) (hk : Keeps s₀ s) : Keeps s₀ (s.cvTrigger n) := by
  unfold State.cvTrigger
  try dsimp only
  repeat' (first | with_reducible assumption | with_reducible rfl | intro _ | with_reducible apply State.modCvp_keeps | with_reducible apply Keeps.foldl | with_reducible apply Keeps.foldr | with_reducible apply Keeps.foldl_snd_snd | with_reducible apply Keeps.foldl_snd | simp only [Keeps.lit_iff] | dsimp only [id_eq] | split)

theorem State.cvCause_keeps {s₀ s : State} (kind num : Nat) (hk : Keeps s₀ s) : Keeps s₀ (s.cvCause kind num) := by
  unfold State.cvCause
  try dsimp only
  repeat' (first | with_reducible assumption | with_reducible rfl | intro _ | with_reducible apply State.cvTrigger_keeps | with_reducible apply Keeps.foldl | with_reducible apply Keeps.foldr | with_reducible apply Keeps.foldl_snd_snd | with_reducible apply Keeps.foldl_snd | simp only [Keeps.lit_iff] | dsimp only [id_eq] | split)

theorem State.sincRestart_keeps {s₀ s : State} (u : UnitNo) (hk : Keeps s₀ s) : Keeps s₀ (s.sincRestart u) := by
  unfold State.sincRestart
  try dsimp only
  repeat' (first | with_reducible assumption | with_reducible rfl | intro _ | with_reducible apply State.modSinc_keeps | with_reducible apply Keeps.foldl | with_reducible apply Keeps.foldr | with_reducible apply Keeps.foldl_snd_snd | with_reducible apply Keeps.foldl_snd | simp only [Keeps.lit_iff] | dsimp only [id_eq] | split)

theorem State.timersAdvance_keeps {s₀ s : State} (hk : Keeps s₀ s) : Keeps s₀ s.timersAdvance := by
  unfold State.timersAdvance
  try dsimp only
  repeat' (first | with_reducible assumption | with_reducible rfl | intro _ | with_reducible apply State.modTimer_keeps | with_reducible apply Keeps.foldl | with_reducible apply Keeps.foldr | with_reducible apply Keeps.foldl_snd_snd | with_reducible apply Keeps.foldl_snd | simp only [Keeps.lit_iff] | dsimp only [id_eq] | split)

theorem State.unitAct_keeps {s₀ s : State} (u : UnitNo) (act : Nat) (fine : BitVec 5) (hk : Keeps s₀ s) : Keeps s₀ (s.unitAct u act fine) := by
  unfold State.unitAct
  try dsimp only
  repeat' (first | with_reducible assumption | with_reducible rfl | intro _ | with_reducible apply State.modUnit_keeps | with_reducible apply Keeps.foldl | with_reducible apply Keeps.foldr | with_reducible apply Keeps.foldl_snd_snd | with_reducible apply Keeps.foldl_snd | simp only [Keeps.lit_iff] | dsimp only [id_eq] | split)

theorem State.unitFire_keeps {s₀ s : State} (u : UnitNo) (fine : BitVec 5) (hk : Keeps s₀ s) : Keeps s₀ (s.unitFire u fine) := by
  unfold State.unitFire
  try dsimp only
  repeat' (first | with_reducible assumption | with_reducible rfl | intro _ | with_reducible apply State.cvCause_keeps | with_reducible apply State.modUnit_keeps | with_reducible apply State.pulse_keeps | with_reducible apply State.sincRestart_keeps | with_reducible apply State.unitAct_keeps | with_reducible apply Keeps.foldl | with_reducible apply Keeps.foldr | with_reducible apply Keeps.foldl_snd_snd | with_reducible apply Keeps.foldl_snd | simp only [Keeps.lit_iff] | dsimp only [id_eq] | split)

theorem State.unitCatch_keeps {s₀ s : State} (u : UnitNo) (hk : Keeps s₀ s) : Keeps s₀ (s.unitCatch u) := by
  unfold State.unitCatch
  try dsimp only
  repeat' (first | with_reducible assumption | with_reducible rfl | intro _ | with_reducible apply State.modUnit_keeps | with_reducible apply State.unitFire_keeps | with_reducible apply Keeps.foldl | with_reducible apply Keeps.foldr | with_reducible apply Keeps.foldl_snd_snd | with_reducible apply Keeps.foldl_snd | simp only [Keeps.lit_iff] | dsimp only [id_eq] | split)

theorem State.compareMatch_keeps {s₀ s : State} (u : UnitNo) (hk : Keeps s₀ s) : Keeps s₀ (s.compareMatch u) := by
  unfold State.compareMatch
  try dsimp only
  repeat' (first | with_reducible assumption | with_reducible rfl | intro _ | with_reducible apply State.unitFire_keeps | with_reducible apply Keeps.foldl | with_reducible apply Keeps.foldr | with_reducible apply Keeps.foldl_snd_snd | with_reducible apply Keeps.foldl_snd | simp only [Keeps.lit_iff] | dsimp only [id_eq] | split)

theorem State.unitCopy_keeps {s₀ s : State} (u : UnitNo) (hk : Keeps s₀ s) : Keeps s₀ (s.unitCopy u) := by
  unfold State.unitCopy
  try dsimp only
  repeat' (first | with_reducible assumption | with_reducible rfl | intro _ | with_reducible apply State.modUnit_keeps | with_reducible apply Keeps.foldl | with_reducible apply Keeps.foldr | with_reducible apply Keeps.foldl_snd_snd | with_reducible apply Keeps.foldl_snd | simp only [Keeps.lit_iff] | dsimp only [id_eq] | split)

theorem State.unitTop_keeps {s₀ s : State} (u : UnitNo) (clean : Bool) (hk : Keeps s₀ s) : Keeps s₀ (s.unitTop u clean) := by
  unfold State.unitTop
  try dsimp only
  repeat' (first | with_reducible assumption | with_reducible rfl | intro _ | with_reducible apply State.modUnit_keeps | with_reducible apply State.unitAct_keeps | with_reducible apply State.unitCopy_keeps | with_reducible apply Keeps.foldl | with_reducible apply Keeps.foldr | with_reducible apply Keeps.foldl_snd_snd | with_reducible apply Keeps.foldl_snd | simp only [Keeps.lit_iff] | dsimp only [id_eq] | split)

theorem State.timerTop_keeps {s₀ s : State} (n : TimerNo) (hk : Keeps s₀ s) : Keeps s₀ (s.timerTop n) := by
  unfold State.timerTop
  try dsimp only
  repeat' (first | with_reducible assumption | with_reducible rfl | intro _ | with_reducible apply State.cvCause_keeps | with_reducible apply State.modTimer_keeps | with_reducible apply State.pulse_keeps | with_reducible apply State.unitTop_keeps | with_reducible apply Keeps.foldl | with_reducible apply Keeps.foldr | with_reducible apply Keeps.foldl_snd_snd | with_reducible apply Keeps.foldl_snd | simp only [Keeps.lit_iff] | dsimp only [id_eq] | split)

theorem State.timerValley_keeps {s₀ s : State} (n : TimerNo) (hk : Keeps s₀ s) : Keeps s₀ (s.timerValley n) := by
  unfold State.timerValley
  try dsimp only
  repeat' (first | with_reducible assumption | with_reducible rfl | intro _ | with_reducible apply State.cvCause_keeps | with_reducible apply State.modTimer_keeps | with_reducible apply State.modUnit_keeps | with_reducible apply State.pulse_keeps | with_reducible apply State.unitCopy_keeps | with_reducible apply Keeps.foldl | with_reducible apply Keeps.foldr | with_reducible apply Keeps.foldl_snd_snd | with_reducible apply Keeps.foldl_snd | simp only [Keeps.lit_iff] | dsimp only [id_eq] | split)

theorem State.supersede_keeps {s₀ s : State} (due : Nat) (f : Eff → Bool) (hk : Keeps s₀ s) : Keeps s₀ (s.supersede due f) := by
  unfold State.supersede
  try dsimp only
  repeat' (first | with_reducible assumption | with_reducible rfl | intro _ | with_reducible apply Keeps.foldl | with_reducible apply Keeps.foldr | with_reducible apply Keeps.foldl_snd_snd | with_reducible apply Keeps.foldl_snd | simp only [Keeps.lit_iff] | dsimp only [id_eq] | split)

theorem State.compareWrite_keeps {s₀ s : State} (u : UnitNo) (c : Word) (f : BitVec 5) (hk : Keeps s₀ s) : Keeps s₀ (s.compareWrite u c f) := by
  unfold State.compareWrite
  try dsimp only
  repeat' (first | with_reducible assumption | with_reducible rfl | intro _ | with_reducible apply State.schedule_keeps | with_reducible apply State.supersede_keeps | with_reducible apply Keeps.foldl | with_reducible apply Keeps.foldr | with_reducible apply Keeps.foldl_snd_snd | with_reducible apply Keeps.foldl_snd | simp only [Keeps.lit_iff] | dsimp only [id_eq] | split)

theorem State.compareBy_keeps {s₀ s : State} (a : Agent) (u : UnitNo) (c : Word) (f : BitVec 5) (hk : Keeps s₀ s) : Keeps s₀ (s.compareBy a u c f) := by
  unfold State.compareBy
  try dsimp only
  repeat' (first | with_reducible assumption | with_reducible rfl | intro _ | with_reducible apply State.compareWrite_keeps | with_reducible apply State.stage_keeps | with_reducible apply Keeps.foldl | with_reducible apply Keeps.foldr | with_reducible apply Keeps.foldl_snd_snd | with_reducible apply Keeps.foldl_snd | simp only [Keeps.lit_iff] | dsimp only [id_eq] | split)

theorem State.reloadDirect_keeps {s₀ s : State} (n : TimerNo) (v : Word) (hk : Keeps s₀ s) : Keeps s₀ (s.reloadDirect n v) := by
  unfold State.reloadDirect
  try dsimp only
  repeat' (first | with_reducible assumption | with_reducible rfl | intro _ | with_reducible apply State.schedule_keeps | with_reducible apply State.supersede_keeps | with_reducible apply Keeps.foldl | with_reducible apply Keeps.foldr | with_reducible apply Keeps.foldl_snd_snd | with_reducible apply Keeps.foldl_snd | simp only [Keeps.lit_iff] | dsimp only [id_eq] | split)

theorem State.reloadBy_keeps {s₀ s : State} (a : Agent) (n : TimerNo) (v : Word) (hk : Keeps s₀ s) : Keeps s₀ (s.reloadBy a n v) := by
  unfold State.reloadBy
  try dsimp only
  repeat' (first | with_reducible assumption | with_reducible rfl | intro _ | with_reducible apply State.reloadDirect_keeps | with_reducible apply State.stage_keeps | with_reducible apply Keeps.foldl | with_reducible apply Keeps.foldr | with_reducible apply Keeps.foldl_snd_snd | with_reducible apply Keeps.foldl_snd | simp only [Keeps.lit_iff] | dsimp only [id_eq] | split)

theorem State.catchSkipped_keeps {s₀ s : State} (n : TimerNo) (x v : Nat) (hk : Keeps s₀ s) : Keeps s₀ (s.catchSkipped n x v) := by
  unfold State.catchSkipped
  try dsimp only
  repeat' (first | with_reducible assumption | with_reducible rfl | intro _ | with_reducible apply State.unitCatch_keeps | with_reducible apply Keeps.foldl | with_reducible apply Keeps.foldr | with_reducible apply Keeps.foldl_snd_snd | with_reducible apply Keeps.foldl_snd | simp only [Keeps.lit_iff] | dsimp only [id_eq] | split)

theorem State.catchUp_keeps {s₀ s : State} (n : TimerNo) (x : Nat) (hk : Keeps s₀ s) : Keeps s₀ (s.catchUp n x) := by
  unfold State.catchUp
  try dsimp only
  repeat' (first | with_reducible assumption | with_reducible rfl | intro _ | with_reducible apply State.unitCatch_keeps | with_reducible apply Keeps.foldl | with_reducible apply Keeps.foldr | with_reducible apply Keeps.foldl_snd_snd | with_reducible apply Keeps.foldl_snd | simp only [Keeps.lit_iff] | dsimp only [id_eq] | split)

theorem State.recount_keeps {s₀ s : State} (n : TimerNo) (hk : Keeps s₀ s) : Keeps s₀ (s.recount n) := by
  unfold State.recount
  try dsimp only
  repeat' (first | with_reducible assumption | with_reducible rfl | intro _ | with_reducible apply State.modUnit_keeps | with_reducible apply Keeps.foldl | with_reducible apply Keeps.foldr | with_reducible apply Keeps.foldl_snd_snd | with_reducible apply Keeps.foldl_snd | simp only [Keeps.lit_iff] | dsimp only [id_eq] | split)

theorem State.landReload_keeps {s₀ s : State} (n : TimerNo) (v : Word) (hk : Keeps s₀ s) : Keeps s₀ (s.landReload n v) := by
  unfold State.landReload
  try dsimp only
  repeat' (first | with_reducible assumption | with_reducible rfl | intro _ | with_reducible apply State.modTimer_keeps | with_reducible apply State.setReg_keeps | with_reducible apply Keeps.foldl | with_reducible apply Keeps.foldr | with_reducible apply Keeps.foldl_snd_snd | with_reducible apply Keeps.foldl_snd | simp only [Keeps.lit_iff] | dsimp only [id_eq] | split)

theorem State.landJump_keeps {s₀ s : State} (n : TimerNo) (v : Word) (hk : Keeps s₀ s) : Keeps s₀ (s.landJump n v) := by
  unfold State.landJump
  try dsimp only
  repeat' (first | with_reducible assumption | with_reducible rfl | intro _ | with_reducible apply State.catchSkipped_keeps | with_reducible apply State.catchUp_keeps | with_reducible apply State.modTimer_keeps | with_reducible apply State.recount_keeps | with_reducible apply State.setTimer_keeps | with_reducible apply Keeps.foldl | with_reducible apply Keeps.foldr | with_reducible apply Keeps.foldl_snd_snd | with_reducible apply Keeps.foldl_snd | simp only [Keeps.lit_iff] | dsimp only [id_eq] | split)

theorem State.landPreload_keeps {s₀ s : State} (u : UnitNo) (c : Word) (f : BitVec 5) (hk : Keeps s₀ s) : Keeps s₀ (s.landPreload u c f) := by
  unfold State.landPreload
  try dsimp only
  repeat' (first | with_reducible assumption | with_reducible rfl | intro _ | with_reducible apply State.modUnit_keeps | with_reducible apply Keeps.foldl | with_reducible apply Keeps.foldr | with_reducible apply Keeps.foldl_snd_snd | with_reducible apply Keeps.foldl_snd | simp only [Keeps.lit_iff] | dsimp only [id_eq] | split)

theorem State.landActive_keeps {s₀ s : State} (u : UnitNo) (c : Word) (f : BitVec 5) (hk : Keeps s₀ s) : Keeps s₀ (s.landActive u c f) := by
  unfold State.landActive
  try dsimp only
  repeat' (first | with_reducible assumption | with_reducible rfl | intro _ | with_reducible apply State.modUnit_keeps | with_reducible apply State.unitCatch_keeps | with_reducible apply Keeps.foldl | with_reducible apply Keeps.foldr | with_reducible apply Keeps.foldl_snd_snd | with_reducible apply Keeps.foldl_snd | simp only [Keeps.lit_iff] | dsimp only [id_eq] | split)

theorem State.landInit_keeps {s₀ s : State} (u : UnitNo) (hk : Keeps s₀ s) : Keeps s₀ (s.landInit u) := by
  unfold State.landInit
  try dsimp only
  repeat' (first | with_reducible assumption | with_reducible rfl | intro _ | with_reducible apply State.modUnit_keeps | with_reducible apply Keeps.foldl | with_reducible apply Keeps.foldr | with_reducible apply Keeps.foldl_snd_snd | with_reducible apply Keeps.foldl_snd | simp only [Keeps.lit_iff] | dsimp only [id_eq] | split)

theorem State.landForce_keeps {s₀ s : State} (u : UnitNo) (hk : Keeps s₀ s) : Keeps s₀ (s.landForce u) := by
  unfold State.landForce
  try dsimp only
  repeat' (first | with_reducible assumption | with_reducible rfl | intro _ | with_reducible apply State.modUnit_keeps | with_reducible apply Keeps.foldl | with_reducible apply Keeps.foldr | with_reducible apply Keeps.foldl_snd_snd | with_reducible apply Keeps.foldl_snd | simp only [Keeps.lit_iff] | dsimp only [id_eq] | split)

theorem State.timerHold_keeps {s₀ s : State} (n : TimerNo) (hk : Keeps s₀ s) : Keeps s₀ (s.timerHold n) := by
  unfold State.timerHold
  try dsimp only
  repeat' (first | with_reducible assumption | with_reducible rfl | intro _ | with_reducible apply State.modTimer_keeps | with_reducible apply Keeps.foldl | with_reducible apply Keeps.foldr | with_reducible apply Keeps.foldl_snd_snd | with_reducible apply Keeps.foldl_snd | simp only [Keeps.lit_iff] | dsimp only [id_eq] | split)

theorem State.timerResume_keeps {s₀ s : State} (n : TimerNo) (hk : Keeps s₀ s) : Keeps s₀ (s.timerResume n) := by
  unfold State.timerResume
  try dsimp only
  repeat' (first | with_reducible assumption | with_reducible rfl | intro _ | with_reducible apply State.modTimer_keeps | with_reducible apply Keeps.foldl | with_reducible apply Keeps.foldr | with_reducible apply Keeps.foldl_snd_snd | with_reducible apply Keeps.foldl_snd | simp only [Keeps.lit_iff] | dsimp only [id_eq] | split)

theorem State.timCtlWrite_keeps {s₀ s : State} (n : TimerNo) (v : Word) (hk : Keeps s₀ s) : Keeps s₀ (s.timCtlWrite n v) := by
  unfold State.timCtlWrite
  try dsimp only
  repeat' (first | with_reducible assumption | with_reducible rfl | intro _ | with_reducible apply State.storeRw_keeps | with_reducible apply State.timerHold_keeps | with_reducible apply State.timerResume_keeps | with_reducible apply Keeps.foldl | with_reducible apply Keeps.foldr | with_reducible apply Keeps.foldl_snd_snd | with_reducible apply Keeps.foldl_snd | simp only [Keeps.lit_iff] | dsimp only [id_eq] | split)

theorem State.ccCtlWrite_keeps {s₀ s : State} (u : UnitNo) (v : Word) (hk : Keeps s₀ s) : Keeps s₀ (s.ccCtlWrite u v) := by
  unfold State.ccCtlWrite
  try dsimp only
  repeat' (first | with_reducible assumption | with_reducible rfl | intro _ | with_reducible apply State.schedule_keeps | with_reducible apply State.storeRw_keeps | with_reducible apply Keeps.foldl | with_reducible apply Keeps.foldr | with_reducible apply Keeps.foldl_snd_snd | with_reducible apply Keeps.foldl_snd | simp only [Keeps.lit_iff] | dsimp only [id_eq] | split)

theorem State.unitEvent_keeps {s₀ s : State} (u : UnitNo) (hk : Keeps s₀ s) : Keeps s₀ (s.unitEvent u) := by
  unfold State.unitEvent
  try dsimp only
  repeat' (first | with_reducible assumption | with_reducible rfl | intro _ | with_reducible apply State.pulseSoon_keeps | with_reducible apply Keeps.foldl | with_reducible apply Keeps.foldr | with_reducible apply Keeps.foldl_snd_snd | with_reducible apply Keeps.foldl_snd | simp only [Keeps.lit_iff] | dsimp only [id_eq] | split)

theorem State.capture_keeps {s₀ s : State} (u : UnitNo) (rise : Bool) (ft : DWord) (hk : Keeps s₀ s) : Keeps s₀ (s.capture u rise ft) := by
  unfold State.capture
  try dsimp only
  repeat' (first | with_reducible assumption | with_reducible rfl | intro _ | with_reducible apply State.modUnit_keeps | with_reducible apply State.unitEvent_keeps | with_reducible apply Keeps.foldl | with_reducible apply Keeps.foldr | with_reducible apply Keeps.foldl_snd_snd | with_reducible apply Keeps.foldl_snd | simp only [Keeps.lit_iff] | dsimp only [id_eq] | split)

theorem State.capwRead_keeps {s₀ s : State} (u : UnitNo) (hk : Keeps s₀ s) : Keeps s₀ (s.capwRead u) := by
  unfold State.capwRead
  try dsimp only
  repeat' (first | with_reducible assumption | with_reducible rfl | intro _ | with_reducible apply State.modUnit_keeps | with_reducible apply Keeps.foldl | with_reducible apply Keeps.foldr | with_reducible apply Keeps.foldl_snd_snd | with_reducible apply Keeps.foldl_snd | simp only [Keeps.lit_iff] | dsimp only [id_eq] | split)

theorem State.tbaseRead_keeps {s₀ s : State} (a : Agent) (hk : Keeps s₀ s) : Keeps s₀ (s.tbaseRead a) := by
  unfold State.tbaseRead
  try dsimp only
  repeat' (first | with_reducible assumption | with_reducible rfl | intro _ | with_reducible apply State.modThr_keeps | with_reducible apply Keeps.foldl | with_reducible apply Keeps.foldr | with_reducible apply Keeps.foldl_snd_snd | with_reducible apply Keeps.foldl_snd | simp only [Keeps.lit_iff] | dsimp only [id_eq] | split)

theorem State.startSet_keeps {s₀ s : State} (h : Host) (src : BitVec 2) (b : Bell) (hk : Keeps s₀ s) : Keeps s₀ (s.startSet h src b) := by
  unfold State.startSet
  try dsimp only
  repeat' (first | with_reducible assumption | with_reducible rfl | intro _ | with_reducible apply State.setReg_keeps | with_reducible apply Keeps.foldl | with_reducible apply Keeps.foldr | with_reducible apply Keeps.foldl_snd_snd | with_reducible apply Keeps.foldl_snd | simp only [Keeps.lit_iff] | dsimp only [id_eq] | split)

theorem State.startArm_keeps {s₀ s : State} (h : Host) (src : BitVec 2) (b : Bell) (hk : Keeps s₀ s) : Keeps s₀ (s.startArm h src b) := by
  unfold State.startArm
  try dsimp only
  repeat' (first | with_reducible assumption | with_reducible rfl | intro _ | with_reducible apply State.modGstart_keeps | with_reducible apply State.setGstart_keeps | with_reducible apply State.startSet_keeps | with_reducible apply Keeps.foldl | with_reducible apply Keeps.foldr | with_reducible apply Keeps.foldl_snd_snd | with_reducible apply Keeps.foldl_snd | simp only [Keeps.lit_iff] | dsimp only [id_eq] | split)

theorem State.startCancel_keeps {s₀ s : State} (h : Host) (hk : Keeps s₀ s) : Keeps s₀ (s.startCancel h) := by
  unfold State.startCancel
  try dsimp only
  repeat' (first | with_reducible assumption | with_reducible rfl | intro _ | with_reducible apply State.modGstart_keeps | with_reducible apply Keeps.foldl | with_reducible apply Keeps.foldr | with_reducible apply Keeps.foldl_snd_snd | with_reducible apply Keeps.foldl_snd | simp only [Keeps.lit_iff] | dsimp only [id_eq] | split)

theorem State.gstartWrite_keeps {s₀ s : State} (h : Host) (v : Word) (hk : Keeps s₀ s) : Keeps s₀ (s.gstartWrite h v) := by
  unfold State.gstartWrite
  try dsimp only
  repeat' (first | with_reducible assumption | with_reducible rfl | intro _ | with_reducible apply State.modGstart_keeps | with_reducible apply State.startArm_keeps | with_reducible apply State.startCancel_keeps | with_reducible apply State.startSet_keeps | with_reducible apply Keeps.foldl | with_reducible apply Keeps.foldr | with_reducible apply Keeps.foldl_snd_snd | with_reducible apply Keeps.foldl_snd | simp only [Keeps.lit_iff] | dsimp only [id_eq] | split)

theorem State.startTimer_keeps {s₀ s : State} (n : TimerNo) (hk : Keeps s₀ s) : Keeps s₀ (s.startTimer n) := by
  unfold State.startTimer
  try dsimp only
  repeat' (first | with_reducible assumption | with_reducible rfl | intro _ | with_reducible apply State.modTimer_keeps | with_reducible apply State.modUnit_keeps | with_reducible apply State.recount_keeps | with_reducible apply State.unitCopy_keeps | with_reducible apply Keeps.foldl | with_reducible apply Keeps.foldr | with_reducible apply Keeps.foldl_snd_snd | with_reducible apply Keeps.foldl_snd | simp only [Keeps.lit_iff] | dsimp only [id_eq] | split)

theorem State.timerStart_keeps {s₀ s : State} (h : Host) (hk : Keeps s₀ s) : Keeps s₀ (s.timerStart h) := by
  unfold State.timerStart
  try dsimp only
  repeat' (first | with_reducible assumption | with_reducible rfl | intro _ | with_reducible apply State.modGstart_keeps | with_reducible apply State.startTimer_keeps | with_reducible apply Keeps.foldl | with_reducible apply Keeps.foldr | with_reducible apply Keeps.foldl_snd_snd | with_reducible apply Keeps.foldl_snd | simp only [Keeps.lit_iff] | dsimp only [id_eq] | split)

end Sys2Proof.Machine
end

