-- ==== Sys2Proof/Laws/Keep/Pins.lean ====
section
/-! SUPPORT. The definitions of Machine/Pins.lean keep what `Keeps` names. -/

set_option linter.unusedTactic false
set_option linter.unreachableTactic false
set_option linter.unusedSimpArgs false
set_option linter.unnecessarySimpa false

namespace Sys2Proof.Machine

theorem State.pathChange_keeps {s₀ s : State} (c : Chan) (level : Bool) (fine : BitVec 5) (hk : Keeps s₀ s) : Keeps s₀ (s.pathChange c level fine) := by
  unfold State.pathChange
  try dsimp only
  repeat' (first | with_reducible assumption | with_reducible rfl | intro _ | with_reducible apply State.schedule_keeps | with_reducible apply State.setPin_keeps | with_reducible apply Keeps.foldl | with_reducible apply Keeps.foldr | with_reducible apply Keeps.foldl_snd_snd | with_reducible apply Keeps.foldl_snd | simp only [Keeps.lit_iff] | dsimp only [id_eq] | split)

theorem State.padTransition_keeps {s₀ s : State} (c : Chan) (level : Bool) (fine : BitVec 5) (hk : Keeps s₀ s) : Keeps s₀ (s.padTransition c level fine) := by
  unfold State.padTransition
  try dsimp only
  repeat' (first | with_reducible assumption | with_reducible rfl | intro _ | with_reducible apply State.modPin_keeps | with_reducible apply State.pathChange_keeps | with_reducible apply Keeps.foldl | with_reducible apply Keeps.foldr | with_reducible apply Keeps.foldl_snd_snd | with_reducible apply Keeps.foldl_snd | simp only [Keeps.lit_iff] | dsimp only [id_eq] | split)

theorem State.padsRefresh_keeps {s₀ s : State} (hk : Keeps s₀ s) : Keeps s₀ s.padsRefresh := by
  unfold State.padsRefresh
  try dsimp only
  repeat' (first | with_reducible assumption | with_reducible rfl | intro _ | with_reducible apply State.pathChange_keeps | with_reducible apply State.setPin_keeps | with_reducible apply Keeps.foldl | with_reducible apply Keeps.foldr | with_reducible apply Keeps.foldl_snd_snd | with_reducible apply Keeps.foldl_snd | simp only [Keeps.lit_iff] | dsimp only [id_eq] | split)

theorem State.captureFrom_keeps {s₀ s : State} (c : Chan) (before : Bool) (ft : DWord) (hk : Keeps s₀ s) : Keeps s₀ (s.captureFrom c before ft) := by
  unfold State.captureFrom
  try dsimp only
  repeat' (first | with_reducible assumption | with_reducible rfl | intro _ | with_reducible apply State.capture_keeps | with_reducible apply Keeps.foldl | with_reducible apply Keeps.foldr | with_reducible apply Keeps.foldl_snd_snd | with_reducible apply Keeps.foldl_snd | simp only [Keeps.lit_iff] | dsimp only [id_eq] | split)

theorem State.landFilter_keeps {s₀ s : State} (c : Chan) (level : Bool) (time : DWord) (fine : BitVec 5) (hk : Keeps s₀ s) : Keeps s₀ (s.landFilter c level time fine) := by
  unfold State.landFilter
  try dsimp only
  repeat' (first | with_reducible assumption | with_reducible rfl | intro _ | with_reducible apply State.captureFrom_keeps | with_reducible apply State.modPin_keeps | with_reducible apply State.schedule_keeps | with_reducible apply Keeps.foldl | with_reducible apply Keeps.foldr | with_reducible apply Keeps.foldl_snd_snd | with_reducible apply Keeps.foldl_snd | simp only [Keeps.lit_iff] | dsimp only [id_eq] | split)

theorem State.landRecord_keeps {s₀ s : State} (c : Chan) (level : Bool) (time : DWord) (fine : BitVec 5) (hk : Keeps s₀ s) : Keeps s₀ (s.landRecord c level time fine) := by
  unfold State.landRecord
  try dsimp only
  repeat' (first | with_reducible assumption | with_reducible rfl | intro _ | with_reducible apply State.modPin_keeps | with_reducible apply Keeps.foldl | with_reducible apply Keeps.foldr | with_reducible apply Keeps.foldl_snd_snd | with_reducible apply Keeps.foldl_snd | simp only [Keeps.lit_iff] | dsimp only [id_eq] | split)

theorem State.popRecord_keeps {s₀ s : State} (c : Chan) (hk : Keeps s₀ s) : Keeps s₀ (s.popRecord c).2 := by
  unfold State.popRecord
  try dsimp only
  repeat' (first | with_reducible assumption | with_reducible rfl | intro _ | with_reducible apply State.modPin_keeps | with_reducible apply Keeps.foldl | with_reducible apply Keeps.foldr | with_reducible apply Keeps.foldl_snd_snd | with_reducible apply Keeps.foldl_snd | simp only [Keeps.lit_iff] | dsimp only [id_eq] | split)

theorem State.landF1_keeps {s₀ s : State} (c : Chan) (level : Bool) (hk : Keeps s₀ s) : Keeps s₀ (s.landF1 c level) := by
  unfold State.landF1
  try dsimp only
  repeat' (first | with_reducible assumption | with_reducible rfl | intro _ | with_reducible apply State.modPin_keeps | with_reducible apply State.pulseSoon_keeps | with_reducible apply Keeps.foldl | with_reducible apply Keeps.foldr | with_reducible apply Keeps.foldl_snd_snd | with_reducible apply Keeps.foldl_snd | simp only [Keeps.lit_iff] | dsimp only [id_eq] | split)

theorem State.hoistStep_keeps {s₀ s : State} (h : Hoist) (hk : Keeps s₀ s) : Keeps s₀ (s.hoistStep h) := by
  unfold State.hoistStep
  try dsimp only
  repeat' (first | with_reducible assumption | with_reducible rfl | intro _ | with_reducible apply State.pulseSoon_keeps | with_reducible apply State.setHoist_keeps | with_reducible apply Keeps.foldl | with_reducible apply Keeps.foldr | with_reducible apply Keeps.foldl_snd_snd | with_reducible apply Keeps.foldl_snd | simp only [Keeps.lit_iff] | dsimp only [id_eq] | split)

theorem State.hoistsStep_keeps {s₀ s : State} (hk : Keeps s₀ s) : Keeps s₀ s.hoistsStep := by
  unfold State.hoistsStep
  try dsimp only
  repeat' (first | with_reducible assumption | with_reducible rfl | intro _ | with_reducible apply State.hoistStep_keeps | with_reducible apply Keeps.foldl | with_reducible apply Keeps.foldr | with_reducible apply Keeps.foldl_snd_snd | with_reducible apply Keeps.foldl_snd | simp only [Keeps.lit_iff] | dsimp only [id_eq] | split)

theorem State.landEdge_keeps {s₀ s : State} (c : Chan) (time : DWord) (lvl : Byte) (hk : Keeps s₀ s) : Keeps s₀ (s.landEdge c time lvl) := by
  unfold State.landEdge
  try dsimp only
  repeat' (first | with_reducible assumption | with_reducible rfl | intro _ | with_reducible apply State.setPin_keeps | with_reducible apply Keeps.foldl | with_reducible apply Keeps.foldr | with_reducible apply Keeps.foldl_snd_snd | with_reducible apply Keeps.foldl_snd | simp only [Keeps.lit_iff] | dsimp only [id_eq] | split)

theorem State.edgeBy_keeps {s₀ s : State} (t : Tid) (c : Chan) (time : DWord) (lvl : Byte) (hk : Keeps s₀ s) : Keeps s₀ (s.edgeBy t c time lvl) := by
  unfold State.edgeBy
  try dsimp only
  repeat' (first | with_reducible assumption | with_reducible rfl | intro _ | with_reducible apply State.modPin_keeps | with_reducible apply State.schedule_keeps | with_reducible apply State.stage_keeps | with_reducible apply Keeps.foldl | with_reducible apply Keeps.foldr | with_reducible apply Keeps.foldl_snd_snd | with_reducible apply Keeps.foldl_snd | simp only [Keeps.lit_iff] | dsimp only [id_eq] | split)

theorem State.landFlush_keeps {s₀ s : State} (c : Chan) (hk : Keeps s₀ s) : Keeps s₀ (s.landFlush c) := by
  unfold State.landFlush
  try dsimp only
  repeat' (first | with_reducible assumption | with_reducible rfl | intro _ | with_reducible apply State.modPin_keeps | with_reducible apply Keeps.foldl | with_reducible apply Keeps.foldr | with_reducible apply Keeps.foldl_snd_snd | with_reducible apply Keeps.foldl_snd | simp only [Keeps.lit_iff] | dsimp only [id_eq] | split)

theorem State.edgeRuns_keeps {s₀ s : State} (skip : Option Nat) (c : Chan) (hk : Keeps s₀ s) : Keeps s₀ (State.edgeRuns skip s c) := by
  unfold State.edgeRuns
  try dsimp only
  repeat' (first | with_reducible assumption | with_reducible rfl | intro _ | with_reducible apply State.modPin_keeps | with_reducible apply Keeps.foldl | with_reducible apply Keeps.foldr | with_reducible apply Keeps.foldl_snd_snd | with_reducible apply Keeps.foldl_snd | simp only [Keeps.lit_iff] | dsimp only [id_eq] | split)

theorem State.edgeStep_keeps {s₀ s : State} (c : Chan) (hk : Keeps s₀ s) : Keeps s₀ (s.edgeStep c) := by
  unfold State.edgeStep
  try dsimp only
  repeat' (first | with_reducible assumption | with_reducible rfl | intro _ | with_reducible apply State.edgeRuns_keeps | with_reducible apply Keeps.foldl | with_reducible apply Keeps.foldr | with_reducible apply Keeps.foldl_snd_snd | with_reducible apply Keeps.foldl_snd | simp only [Keeps.lit_iff] | dsimp only [id_eq] | split)

theorem State.edgesMoved_keeps {s₀ s : State} (skip : Option Nat) (hk : Keeps s₀ s) : Keeps s₀ (s.edgesMoved skip) := by
  unfold State.edgesMoved
  try dsimp only
  repeat' (first | with_reducible assumption | with_reducible rfl | intro _ | with_reducible apply State.edgeRuns_keeps | with_reducible apply Keeps.foldl | with_reducible apply Keeps.foldr | with_reducible apply Keeps.foldl_snd_snd | with_reducible apply Keeps.foldl_snd | simp only [Keeps.lit_iff] | dsimp only [id_eq] | split)

theorem State.shiftStep_keeps {s₀ s : State} (c : Chan) (hk : Keeps s₀ s) : Keeps s₀ (s.shiftStep c) := by
  unfold State.shiftStep
  try dsimp only
  repeat' (first | with_reducible assumption | with_reducible rfl | intro _ | with_reducible apply State.modPin_keeps | with_reducible apply State.schedule_keeps | with_reducible apply Keeps.foldl | with_reducible apply Keeps.foldr | with_reducible apply Keeps.foldl_snd_snd | with_reducible apply Keeps.foldl_snd | simp only [Keeps.lit_iff] | dsimp only [id_eq] | split)

theorem State.shdWrite_keeps {s₀ s : State} (c : Chan) (v : Byte) (hk : Keeps s₀ s) : Keeps s₀ (s.shdWrite c v) := by
  unfold State.shdWrite
  try dsimp only
  repeat' (first | with_reducible assumption | with_reducible rfl | intro _ | with_reducible apply State.modPin_keeps | with_reducible apply Keeps.foldl | with_reducible apply Keeps.foldr | with_reducible apply Keeps.foldl_snd_snd | with_reducible apply Keeps.foldl_snd | simp only [Keeps.lit_iff] | dsimp only [id_eq] | split)

theorem State.shcfgWrite_keeps {s₀ s : State} (c : Chan) (v : Word) (hk : Keeps s₀ s) : Keeps s₀ (s.shcfgWrite c v) := by
  unfold State.shcfgWrite
  try dsimp only
  repeat' (first | with_reducible assumption | with_reducible rfl | intro _ | with_reducible apply State.modPin_keeps | with_reducible apply State.storeRw_keeps | with_reducible apply Keeps.foldl | with_reducible apply Keeps.foldr | with_reducible apply Keeps.foldl_snd_snd | with_reducible apply Keeps.foldl_snd | simp only [Keeps.lit_iff] | dsimp only [id_eq] | split)

theorem State.latchTo_keeps {s₀ s : State} (c : Chan) (v : Bool) (hk : Keeps s₀ s) : Keeps s₀ (s.latchTo c v) := by
  unfold State.latchTo
  try dsimp only
  repeat' (first | with_reducible assumption | with_reducible rfl | intro _ | with_reducible apply State.modPin_keeps | with_reducible apply State.schedule_keeps | with_reducible apply Keeps.foldl | with_reducible apply Keeps.foldr | with_reducible apply Keeps.foldl_snd_snd | with_reducible apply Keeps.foldl_snd | simp only [Keeps.lit_iff] | dsimp only [id_eq] | split)

theorem State.latchPort_keeps {s₀ s : State} (p : PinPort) (mask : Word) (f : Nat → Bool → Bool) (hk : Keeps s₀ s) : Keeps s₀ (s.latchPort p mask f) := by
  unfold State.latchPort
  try dsimp only
  repeat' (first | with_reducible assumption | with_reducible rfl | intro _ | with_reducible apply State.latchTo_keeps | with_reducible apply Keeps.foldl | with_reducible apply Keeps.foldr | with_reducible apply Keeps.foldl_snd_snd | with_reducible apply Keeps.foldl_snd | simp only [Keeps.lit_iff] | dsimp only [id_eq] | split)

theorem State.latchWrite_keeps {s₀ s : State} (a : Agent) (p : PinPort) (v : Word) (f : Bool → Bool) (hk : Keeps s₀ s) : Keeps s₀ (s.latchWrite a p v f) := by
  unfold State.latchWrite
  try dsimp only
  repeat' (first | with_reducible assumption | with_reducible rfl | intro _ | with_reducible apply State.latchPort_keeps | with_reducible apply Keeps.foldl | with_reducible apply Keeps.foldr | with_reducible apply Keeps.foldl_snd_snd | with_reducible apply Keeps.foldl_snd | simp only [Keeps.lit_iff] | dsimp only [id_eq] | split)

theorem State.pinwr_keeps {s₀ s : State} (t : Tid) (p : PinPort) (mask v : Word) (staged : Bool) (hk : Keeps s₀ s) : Keeps s₀ (s.pinwr t p mask v staged) := by
  unfold State.pinwr
  try dsimp only
  repeat' (first | with_reducible assumption | with_reducible rfl | intro _ | with_reducible apply State.latchTo_keeps | with_reducible apply State.modPin_keeps | with_reducible apply State.stage_keeps | with_reducible apply Keeps.foldl | with_reducible apply Keeps.foldr | with_reducible apply Keeps.foldl_snd_snd | with_reducible apply Keeps.foldl_snd | simp only [Keeps.lit_iff] | dsimp only [id_eq] | split)

theorem State.lockHit_keeps {s₀ s : State} (c : Chan) (hk : Keeps s₀ s) : Keeps s₀ (s.lockHit c) := by
  unfold State.lockHit
  try dsimp only
  repeat' (first | with_reducible assumption | with_reducible rfl | intro _ | with_reducible apply State.modPin_keeps | with_reducible apply Keeps.foldl | with_reducible apply Keeps.foldr | with_reducible apply Keeps.foldl_snd_snd | with_reducible apply Keeps.foldl_snd | simp only [Keeps.lit_iff] | dsimp only [id_eq] | split)

theorem State.fcfgWrite_keeps {s₀ s : State} (c : Chan) (set : Bool) (v : Word) (hk : Keeps s₀ s) : Keeps s₀ (s.fcfgWrite c set v) := by
  unfold State.fcfgWrite
  try dsimp only
  repeat' (first | with_reducible assumption | with_reducible rfl | intro _ | with_reducible apply State.lockHit_keeps | with_reducible apply State.modPin_keeps | with_reducible apply State.schedule_keeps | with_reducible apply State.setPin_keeps | with_reducible apply State.setReg_keeps | with_reducible apply Keeps.foldl | with_reducible apply Keeps.foldr | with_reducible apply Keeps.foldl_snd_snd | with_reducible apply Keeps.foldl_snd | simp only [Keeps.lit_iff] | dsimp only [id_eq] | split)

theorem State.switchTo_keeps {s₀ s : State} (c : Chan) (set : Bool) (hk : Keeps s₀ s) : Keeps s₀ (s.switchTo c set) := by
  unfold State.switchTo
  try dsimp only
  repeat' (first | with_reducible assumption | with_reducible rfl | intro _ | with_reducible apply State.schedule_keeps | with_reducible apply Keeps.foldl | with_reducible apply Keeps.foldr | with_reducible apply Keeps.foldl_snd_snd | with_reducible apply Keeps.foldl_snd | simp only [Keeps.lit_iff] | dsimp only [id_eq] | split)

theorem State.switchGo_keeps {s₀ s : State} (c : Chan) (staged set : Bool) (cls : Bell) (hk : Keeps s₀ s) : Keeps s₀ (s.switchGo c staged set cls) := by
  unfold State.switchGo
  try dsimp only
  repeat' (first | with_reducible assumption | with_reducible rfl | intro _ | with_reducible apply State.lockHit_keeps | with_reducible apply State.setPin_keeps | with_reducible apply State.switchTo_keeps | with_reducible apply Keeps.foldl | with_reducible apply Keeps.foldr | with_reducible apply Keeps.foldl_snd_snd | with_reducible apply Keeps.foldl_snd | simp only [Keeps.lit_iff] | dsimp only [id_eq] | split)

theorem State.switchCancel_keeps {s₀ s : State} (c : Chan) (hk : Keeps s₀ s) : Keeps s₀ (s.switchCancel c) := by
  unfold State.switchCancel
  try dsimp only
  repeat' (first | with_reducible assumption | with_reducible rfl | intro _ | with_reducible apply State.modPin_keeps | with_reducible apply Keeps.foldl | with_reducible apply Keeps.foldr | with_reducible apply Keeps.foldl_snd_snd | with_reducible apply Keeps.foldl_snd | simp only [Keeps.lit_iff] | dsimp only [id_eq] | split)

theorem State.switchWrite_keeps {s₀ s : State} (c : Chan) (v : Word) (hk : Keeps s₀ s) : Keeps s₀ (s.switchWrite c v) := by
  unfold State.switchWrite
  try dsimp only
  repeat' (first | with_reducible assumption | with_reducible rfl | intro _ | with_reducible apply State.switchCancel_keeps | with_reducible apply State.switchGo_keeps | with_reducible apply Keeps.foldl | with_reducible apply Keeps.foldr | with_reducible apply Keeps.foldl_snd_snd | with_reducible apply Keeps.foldl_snd | simp only [Keeps.lit_iff] | dsimp only [id_eq] | split)

theorem State.ownerMoved_keeps {s₀ s : State} (c : Chan) (old : Option Tid) (hk : Keeps s₀ s) : Keeps s₀ (s.ownerMoved c old) := by
  unfold State.ownerMoved
  try dsimp only
  repeat' (first | with_reducible assumption | with_reducible rfl | intro _ | with_reducible apply State.schedule_keeps | with_reducible apply Keeps.foldl | with_reducible apply Keeps.foldr | with_reducible apply Keeps.foldl_snd_snd | with_reducible apply Keeps.foldl_snd | simp only [Keeps.lit_iff] | dsimp only [id_eq] | split)

theorem State.ownerWrite_keeps {s₀ s : State} (c : Chan) (v : Word) (hk : Keeps s₀ s) : Keeps s₀ (s.ownerWrite c v) := by
  unfold State.ownerWrite
  try dsimp only
  repeat' (first | with_reducible assumption | with_reducible rfl | intro _ | with_reducible apply State.lockHit_keeps | with_reducible apply State.ownerMoved_keeps | with_reducible apply State.setPin_keeps | with_reducible apply State.storeRw_keeps | with_reducible apply Keeps.foldl | with_reducible apply Keeps.foldr | with_reducible apply Keeps.foldl_snd_snd | with_reducible apply Keeps.foldl_snd | simp only [Keeps.lit_iff] | dsimp only [id_eq] | split)

theorem State.padWrite_keeps {s₀ s : State} (c : Chan) (v : Word) (hk : Keeps s₀ s) : Keeps s₀ (s.padWrite c v) := by
  unfold State.padWrite
  try dsimp only
  repeat' (first | with_reducible assumption | with_reducible rfl | intro _ | with_reducible apply State.lockHit_keeps | with_reducible apply State.schedule_keeps | with_reducible apply State.setPin_keeps | with_reducible apply State.storeRw_keeps | with_reducible apply Keeps.foldl | with_reducible apply Keeps.foldr | with_reducible apply Keeps.foldl_snd_snd | with_reducible apply Keeps.foldl_snd | simp only [Keeps.lit_iff] | dsimp only [id_eq] | split)

theorem State.policyWrite_keeps {s₀ s : State} (p : PinPort) (v : Word) (hk : Keeps s₀ s) : Keeps s₀ (s.policyWrite p v) := by
  unfold State.policyWrite
  try dsimp only
  repeat' (first | with_reducible assumption | with_reducible rfl | intro _ | with_reducible apply State.lockHit_keeps | with_reducible apply State.schedule_keeps | with_reducible apply State.storeRw_keeps | with_reducible apply Keeps.foldl | with_reducible apply Keeps.foldr | with_reducible apply Keeps.foldl_snd_snd | with_reducible apply Keeps.foldl_snd | simp only [Keeps.lit_iff] | dsimp only [id_eq] | split)

theorem State.lineWrite_keeps {s₀ s : State} (k : LineNo) (v : Word) (hk : Keeps s₀ s) : Keeps s₀ (s.lineWrite k v) := by
  unfold State.lineWrite
  try dsimp only
  repeat' (first | with_reducible assumption | with_reducible rfl | intro _ | with_reducible apply State.storeRw_keeps | with_reducible apply Keeps.foldl | with_reducible apply Keeps.foldr | with_reducible apply Keeps.foldl_snd_snd | with_reducible apply Keeps.foldl_snd | simp only [Keeps.lit_iff] | dsimp only [id_eq] | split)

theorem State.lockPort_keeps {s₀ s : State} (a : Agent) (p : PinPort) (hk : Keeps s₀ s) : Keeps s₀ (s.lockPort a p) := by
  unfold State.lockPort
  try dsimp only
  repeat' (first | with_reducible assumption | with_reducible rfl | intro _ | with_reducible apply State.modPin_keeps | with_reducible apply Keeps.foldl | with_reducible apply Keeps.foldr | with_reducible apply Keeps.foldl_snd_snd | with_reducible apply Keeps.foldl_snd | simp only [Keeps.lit_iff] | dsimp only [id_eq] | split)

theorem State.lockKey_keeps {s₀ s : State} (a : Agent) (h : Host) (key : BitVec 16) (p : PinPort) (hk : Keeps s₀ s) : Keeps s₀ (s.lockKey a h key p) := by
  unfold State.lockKey
  try dsimp only
  repeat' (first | with_reducible assumption | with_reducible rfl | intro _ | with_reducible apply State.lockPort_keeps | with_reducible apply Keeps.foldl | with_reducible apply Keeps.foldr | with_reducible apply Keeps.foldl_snd_snd | with_reducible apply Keeps.foldl_snd | simp only [Keeps.lit_iff] | dsimp only [id_eq] | split)

theorem State.lockWrite_keeps {s₀ s : State} (a : Agent) (key : BitVec 16) (p : PinPort) (hk : Keeps s₀ s) : Keeps s₀ (s.lockWrite a key p) := by
  unfold State.lockWrite
  try dsimp only
  repeat' (first | with_reducible assumption | with_reducible rfl | intro _ | with_reducible apply State.lockKey_keeps | with_reducible apply Keeps.foldl | with_reducible apply Keeps.foldr | with_reducible apply Keeps.foldl_snd_snd | with_reducible apply Keeps.foldl_snd | simp only [Keeps.lit_iff] | dsimp only [id_eq] | split)

theorem State.landUnhold_keeps {s₀ s : State} (classes : List Nat) (hk : Keeps s₀ s) : Keeps s₀ (s.landUnhold classes) := by
  unfold State.landUnhold
  try dsimp only
  repeat' (first | with_reducible assumption | with_reducible rfl | intro _ | with_reducible apply State.modPin_keeps | with_reducible apply Keeps.foldl | with_reducible apply Keeps.foldr | with_reducible apply Keeps.foldl_snd_snd | with_reducible apply Keeps.foldl_snd | simp only [Keeps.lit_iff] | dsimp only [id_eq] | split)

theorem State.passEnd_keeps {s₀ s : State} (g : CalGroup) (hk : Keeps s₀ s) : Keeps s₀ (s.passEnd g) := by
  unfold State.passEnd
  try dsimp only
  repeat' (first | with_reducible assumption | with_reducible rfl | intro _ | with_reducible apply State.modCal_keeps | with_reducible apply Keeps.foldl | with_reducible apply Keeps.foldr | with_reducible apply Keeps.foldl_snd_snd | with_reducible apply Keeps.foldl_snd | simp only [Keeps.lit_iff] | dsimp only [id_eq] | split)

theorem State.calStale_keeps {s₀ s : State} (g : CalGroup) (hk : Keeps s₀ s) : Keeps s₀ (s.calStale g) := by
  unfold State.calStale
  try dsimp only
  repeat' (first | with_reducible assumption | with_reducible rfl | intro _ | with_reducible apply State.modCal_keeps | with_reducible apply Keeps.foldl | with_reducible apply Keeps.foldr | with_reducible apply Keeps.foldl_snd_snd | with_reducible apply Keeps.foldl_snd | simp only [Keeps.lit_iff] | dsimp only [id_eq] | split)

theorem State.landSwap_keeps {s₀ s : State} (g : CalGroup) (hk : Keeps s₀ s) : Keeps s₀ (s.landSwap g) := by
  unfold State.landSwap
  try dsimp only
  repeat' (first | with_reducible assumption | with_reducible rfl | intro _ | with_reducible apply State.modCal_keeps | with_reducible apply State.setCal_keeps | with_reducible apply Keeps.foldl | with_reducible apply Keeps.foldr | with_reducible apply Keeps.foldl_snd_snd | with_reducible apply Keeps.foldl_snd | simp only [Keeps.lit_iff] | dsimp only [id_eq] | split)

theorem State.swapSettle_keeps {s₀ s : State} (g : CalGroup) (hk : Keeps s₀ s) : Keeps s₀ (s.swapSettle g) := by
  unfold State.swapSettle
  try dsimp only
  repeat' (first | with_reducible assumption | with_reducible rfl | intro _ | with_reducible apply State.setCal_keeps | with_reducible apply Keeps.foldl | with_reducible apply Keeps.foldr | with_reducible apply Keeps.foldl_snd_snd | with_reducible apply Keeps.foldl_snd | simp only [Keeps.lit_iff] | dsimp only [id_eq] | split)

theorem State.landLatch_keeps {s₀ s : State} (c : Chan) (v : Bool) (hk : Keeps s₀ s) : Keeps s₀ (s.landLatch c v) := by
  unfold State.landLatch
  try dsimp only
  repeat' (first | with_reducible assumption | with_reducible rfl | intro _ | with_reducible apply State.modPin_keeps | with_reducible apply Keeps.foldl | with_reducible apply Keeps.foldr | with_reducible apply Keeps.foldl_snd_snd | with_reducible apply Keeps.foldl_snd | simp only [Keeps.lit_iff] | dsimp only [id_eq] | split)

theorem State.landShift_keeps {s₀ s : State} (c : Chan) (v : Bool) (hk : Keeps s₀ s) : Keeps s₀ (s.landShift c v) := by
  unfold State.landShift
  try dsimp only
  repeat' (first | with_reducible assumption | with_reducible rfl | intro _ | with_reducible apply State.modPin_keeps | with_reducible apply Keeps.foldl | with_reducible apply Keeps.foldr | with_reducible apply Keeps.foldl_snd_snd | with_reducible apply Keeps.foldl_snd | simp only [Keeps.lit_iff] | dsimp only [id_eq] | split)

theorem State.landLive_keeps {s₀ s : State} (c : Chan) (v : Bool) (hk : Keeps s₀ s) : Keeps s₀ (s.landLive c v) := by
  unfold State.landLive
  try dsimp only
  repeat' (first | with_reducible assumption | with_reducible rfl | intro _ | with_reducible apply State.modPin_keeps | with_reducible apply Keeps.foldl | with_reducible apply Keeps.foldr | with_reducible apply Keeps.foldl_snd_snd | with_reducible apply Keeps.foldl_snd | simp only [Keeps.lit_iff] | dsimp only [id_eq] | split)

theorem State.landGovern_keeps {s₀ s : State} (c : Chan) (w : Word) (hk : Keeps s₀ s) : Keeps s₀ (s.landGovern c w) := by
  unfold State.landGovern
  try dsimp only
  repeat' (first | with_reducible assumption | with_reducible rfl | intro _ | with_reducible apply State.modPin_keeps | with_reducible apply Keeps.foldl | with_reducible apply Keeps.foldr | with_reducible apply Keeps.foldl_snd_snd | with_reducible apply Keeps.foldl_snd | simp only [Keeps.lit_iff] | dsimp only [id_eq] | split)

theorem State.landPadIn_keeps {s₀ s : State} (c : Chan) (w : Word) (hk : Keeps s₀ s) : Keeps s₀ (s.landPadIn c w) := by
  unfold State.landPadIn
  try dsimp only
  repeat' (first | with_reducible assumption | with_reducible rfl | intro _ | with_reducible apply State.modPin_keeps | with_reducible apply Keeps.foldl | with_reducible apply Keeps.foldr | with_reducible apply Keeps.foldl_snd_snd | with_reducible apply Keeps.foldl_snd | simp only [Keeps.lit_iff] | dsimp only [id_eq] | split)

theorem State.landStrict_keeps {s₀ s : State} (p : PinPort) (on : Bool) (hk : Keeps s₀ s) : Keeps s₀ (s.landStrict p on) := by
  unfold State.landStrict
  try dsimp only
  repeat' (first | with_reducible assumption | with_reducible rfl | intro _ | with_reducible apply Keeps.foldl | with_reducible apply Keeps.foldr | with_reducible apply Keeps.foldl_snd_snd | with_reducible apply Keeps.foldl_snd | simp only [Keeps.lit_iff] | dsimp only [id_eq] | split)

theorem State.landLockSafe_keeps {s₀ s : State} (c : Chan) (on : Bool) (hk : Keeps s₀ s) : Keeps s₀ (s.landLockSafe c on) := by
  unfold State.landLockSafe
  try dsimp only
  repeat' (first | with_reducible assumption | with_reducible rfl | intro _ | with_reducible apply State.modPin_keeps | with_reducible apply Keeps.foldl | with_reducible apply Keeps.foldr | with_reducible apply Keeps.foldl_snd_snd | with_reducible apply Keeps.foldl_snd | simp only [Keeps.lit_iff] | dsimp only [id_eq] | split)

theorem State.landStnSafe_keeps {s₀ s : State} (c : Chan) (st : Station) (on : Bool) (hk : Keeps s₀ s) : Keeps s₀ (s.landStnSafe c st on) := by
  unfold State.landStnSafe
  try dsimp only
  repeat' (first | with_reducible assumption | with_reducible rfl | intro _ | with_reducible apply State.modPin_keeps | with_reducible apply Keeps.foldl | with_reducible apply Keeps.foldr | with_reducible apply Keeps.foldl_snd_snd | with_reducible apply Keeps.foldl_snd | simp only [Keeps.lit_iff] | dsimp only [id_eq] | split)

theorem State.landF2_keeps {s₀ s : State} (c : Chan) (v : Bool) (hk : Keeps s₀ s) : Keeps s₀ (s.landF2 c v) := by
  unfold State.landF2
  try dsimp only
  repeat' (first | with_reducible assumption | with_reducible rfl | intro _ | with_reducible apply State.modPin_keeps | with_reducible apply Keeps.foldl | with_reducible apply Keeps.foldr | with_reducible apply Keeps.foldl_snd_snd | with_reducible apply Keeps.foldl_snd | simp only [Keeps.lit_iff] | dsimp only [id_eq] | split)

end Sys2Proof.Machine
end

