-- ==== Sys2Proof/Laws/Keep/Sinc.lean ====
section
/-! SUPPORT. The definitions of Machine/Sinc.lean keep what `Keeps` names. -/

set_option linter.unusedTactic false
set_option linter.unreachableTactic false
set_option linter.unusedSimpArgs false
set_option linter.unnecessarySimpa false

namespace Sys2Proof.Machine

theorem State.sincSample_keeps {s₀ s : State} (n : SincNo) (hk : Keeps s₀ s) : Keeps s₀ (s.sincSample n) := by
  unfold State.sincSample
  try dsimp only
  repeat' (first | with_reducible assumption | with_reducible rfl | intro _ | with_reducible apply State.modSinc_keeps | with_reducible apply Keeps.foldl | with_reducible apply Keeps.foldr | with_reducible apply Keeps.foldl_snd_snd | with_reducible apply Keeps.foldl_snd | simp only [Keeps.lit_iff] | dsimp only [id_eq] | split)

theorem State.sincDecimate_keeps {s₀ s : State} (n : SincNo) (hk : Keeps s₀ s) : Keeps s₀ (s.sincDecimate n) := by
  unfold State.sincDecimate
  try dsimp only
  repeat' (first | with_reducible assumption | with_reducible rfl | intro _ | with_reducible apply State.schedule_keeps | with_reducible apply State.setSinc_keeps | with_reducible apply Keeps.foldl | with_reducible apply Keeps.foldr | with_reducible apply Keeps.foldl_snd_snd | with_reducible apply Keeps.foldl_snd | simp only [Keeps.lit_iff] | dsimp only [id_eq] | split)

theorem State.landSinc_keeps {s₀ s : State} (n : SincNo) (v : Word) (time : DWord) (settle sat_ : Bool) (hk : Keeps s₀ s) : Keeps s₀ (s.landSinc n v time settle sat_) := by
  unfold State.landSinc
  try dsimp only
  repeat' (first | with_reducible assumption | with_reducible rfl | intro _ | with_reducible apply State.modSinc_keeps | with_reducible apply State.pulse_keeps | with_reducible apply Keeps.foldl | with_reducible apply Keeps.foldr | with_reducible apply Keeps.foldl_snd_snd | with_reducible apply Keeps.foldl_snd | simp only [Keeps.lit_iff] | dsimp only [id_eq] | split)

theorem State.sncCfgWrite_keeps {s₀ s : State} (n : SincNo) (v : Word) (hk : Keeps s₀ s) : Keeps s₀ (s.sncCfgWrite n v) := by
  unfold State.sncCfgWrite
  try dsimp only
  repeat' (first | with_reducible assumption | with_reducible rfl | intro _ | with_reducible apply State.modSinc_keeps | with_reducible apply State.storeRw_keeps | with_reducible apply Keeps.foldl | with_reducible apply Keeps.foldr | with_reducible apply Keeps.foldl_snd_snd | with_reducible apply Keeps.foldl_snd | simp only [Keeps.lit_iff] | dsimp only [id_eq] | split)

theorem State.sncClkWrite_keeps {s₀ s : State} (n : SincNo) (v : Word) (hk : Keeps s₀ s) : Keeps s₀ (s.sncClkWrite n v) := by
  unfold State.sncClkWrite
  try dsimp only
  repeat' (first | with_reducible assumption | with_reducible rfl | intro _ | with_reducible apply State.modSinc_keeps | with_reducible apply State.storeRw_keeps | with_reducible apply Keeps.foldl | with_reducible apply Keeps.foldr | with_reducible apply Keeps.foldl_snd_snd | with_reducible apply Keeps.foldl_snd | simp only [Keeps.lit_iff] | dsimp only [id_eq] | split)

end Sys2Proof.Machine
end

