-- ==== Sys2Proof/Laws/Keep/Trips.lean ====
section
/-! SUPPORT. The definitions of Machine/Trips.lean keep what `Keeps` names. -/

set_option linter.unusedTactic false
set_option linter.unreachableTactic false
set_option linter.unusedSimpArgs false
set_option linter.unnecessarySimpa false

namespace Sys2Proof.Machine

theorem State.delayHigher_keeps {s₀ s : State} (b : Barrel) (n : Cvp) (hk : Keeps s₀ s) : Keeps s₀ (s.delayHigher b n) := by
  unfold State.delayHigher
  try dsimp only
  repeat' (first | with_reducible assumption | with_reducible rfl | intro _ | with_reducible apply State.modCvp_keeps | with_reducible apply Keeps.foldl | with_reducible apply Keeps.foldr | with_reducible apply Keeps.foldl_snd_snd | with_reducible apply Keeps.foldl_snd | simp only [Keeps.lit_iff] | dsimp only [id_eq] | split)

theorem State.converterSample_keeps {s₀ s : State} (n : Cvp) (data : BitVec 18) (tag : BitVec 6) (hk : Keeps s₀ s) : Keeps s₀ (s.converterSample n data tag) := by
  unfold State.converterSample
  try dsimp only
  repeat' (first | with_reducible assumption | with_reducible rfl | intro _ | with_reducible apply State.delayHigher_keeps | with_reducible apply State.setCvp_keeps | with_reducible apply Keeps.foldl | with_reducible apply Keeps.foldr | with_reducible apply Keeps.foldl_snd_snd | with_reducible apply Keeps.foldl_snd | simp only [Keeps.lit_iff] | dsimp only [id_eq] | split)

theorem State.writeMailbox_keeps {s₀ s : State} (n : Cvp) (e : Sample) (count : Word) (hk : Keeps s₀ s) : Keeps s₀ (s.writeMailbox n e count) := by
  unfold State.writeMailbox
  try dsimp only
  repeat' (first | with_reducible assumption | with_reducible rfl | intro _ | with_reducible apply State.setDesks_keeps | with_reducible apply Keeps.foldl | with_reducible apply Keeps.foldr | with_reducible apply Keeps.foldl_snd_snd | with_reducible apply Keeps.foldl_snd | simp only [Keeps.lit_iff] | dsimp only [id_eq] | split)

theorem State.mailboxWrite_keeps {s₀ s : State} (n : Cvp) (hk : Keeps s₀ s) : Keeps s₀ (s.mailboxWrite n) := by
  unfold State.mailboxWrite
  try dsimp only
  repeat' (first | with_reducible assumption | with_reducible rfl | intro _ | with_reducible apply State.modCvp_keeps | with_reducible apply State.modTurn_keeps | with_reducible apply State.schedule_keeps | with_reducible apply State.sourceAt_keeps | with_reducible apply Keeps.foldl | with_reducible apply Keeps.foldr | with_reducible apply Keeps.foldl_snd_snd | with_reducible apply Keeps.foldl_snd | simp only [Keeps.lit_iff] | dsimp only [id_eq] | split)

theorem State.cvpCfgWrite_keeps {s₀ s : State} (n : Cvp) (v : Word) (hk : Keeps s₀ s) : Keeps s₀ (s.cvpCfgWrite n v) := by
  unfold State.cvpCfgWrite
  try dsimp only
  repeat' (first | with_reducible assumption | with_reducible rfl | intro _ | with_reducible apply State.modCvp_keeps | with_reducible apply State.storeRw_keeps | with_reducible apply Keeps.foldl | with_reducible apply Keeps.foldr | with_reducible apply Keeps.foldl_snd_snd | with_reducible apply Keeps.foldl_snd | simp only [Keeps.lit_iff] | dsimp only [id_eq] | split)

theorem State.cvpSwtrig_keeps {s₀ s : State} (n : Cvp) (hk : Keeps s₀ s) : Keeps s₀ (s.cvpSwtrig n) := by
  unfold State.cvpSwtrig
  try dsimp only
  repeat' (first | with_reducible assumption | with_reducible rfl | intro _ | with_reducible apply State.schedule_keeps | with_reducible apply Keeps.foldl | with_reducible apply Keeps.foldr | with_reducible apply Keeps.foldl_snd_snd | with_reducible apply Keeps.foldl_snd | simp only [Keeps.lit_iff] | dsimp only [id_eq] | split)

theorem State.stnOnset_keeps {s₀ s : State} (st : Station) (hk : Keeps s₀ s) : Keeps s₀ (s.stnOnset st) := by
  unfold State.stnOnset
  try dsimp only
  repeat' (first | with_reducible assumption | with_reducible rfl | intro _ | with_reducible apply State.modStn_keeps | with_reducible apply State.schedule_keeps | with_reducible apply Keeps.foldl | with_reducible apply Keeps.foldr | with_reducible apply Keeps.foldl_snd_snd | with_reducible apply Keeps.foldl_snd | simp only [Keeps.lit_iff] | dsimp only [id_eq] | split)

theorem State.stnRelease_keeps {s₀ s : State} (st : Station) (due : Nat) (hk : Keeps s₀ s) : Keeps s₀ (s.stnRelease st due) := by
  unfold State.stnRelease
  try dsimp only
  repeat' (first | with_reducible assumption | with_reducible rfl | intro _ | with_reducible apply State.modStn_keeps | with_reducible apply State.schedule_keeps | with_reducible apply Keeps.foldl | with_reducible apply Keeps.foldr | with_reducible apply Keeps.foldl_snd_snd | with_reducible apply Keeps.foldl_snd | simp only [Keeps.lit_iff] | dsimp only [id_eq] | split)

theorem State.stnEnd_keeps {s₀ s : State} (st : Station) (hk : Keeps s₀ s) : Keeps s₀ (s.stnEnd st) := by
  unfold State.stnEnd
  try dsimp only
  repeat' (first | with_reducible assumption | with_reducible rfl | intro _ | with_reducible apply State.stnRelease_keeps | with_reducible apply Keeps.foldl | with_reducible apply Keeps.foldr | with_reducible apply Keeps.foldl_snd_snd | with_reducible apply Keeps.foldl_snd | simp only [Keeps.lit_iff] | dsimp only [id_eq] | split)

theorem State.stnJudge_keeps {s₀ s : State} (st : Station) (hk : Keeps s₀ s) : Keeps s₀ (s.stnJudge st) := by
  unfold State.stnJudge
  try dsimp only
  repeat' (first | with_reducible assumption | with_reducible rfl | intro _ | with_reducible apply State.modStn_keeps | with_reducible apply State.stnEnd_keeps | with_reducible apply State.stnOnset_keeps | with_reducible apply Keeps.foldl | with_reducible apply Keeps.foldr | with_reducible apply Keeps.foldl_snd_snd | with_reducible apply Keeps.foldl_snd | simp only [Keeps.lit_iff] | dsimp only [id_eq] | split)

theorem State.tripOn_keeps {s₀ s : State} (i : TripNo) (hk : Keeps s₀ s) : Keeps s₀ (s.tripOn i) := by
  unfold State.tripOn
  try dsimp only
  repeat' (first | with_reducible assumption | with_reducible rfl | intro _ | with_reducible apply State.schedule_keeps | with_reducible apply Keeps.foldl | with_reducible apply Keeps.foldr | with_reducible apply Keeps.foldl_snd_snd | with_reducible apply Keeps.foldl_snd | simp only [Keeps.lit_iff] | dsimp only [id_eq] | split)

theorem State.tripOff_keeps {s₀ s : State} (i : TripNo) (hk : Keeps s₀ s) : Keeps s₀ (s.tripOff i) := by
  unfold State.tripOff
  try dsimp only
  repeat' (first | with_reducible assumption | with_reducible rfl | intro _ | with_reducible apply State.schedule_keeps | with_reducible apply Keeps.foldl | with_reducible apply Keeps.foldr | with_reducible apply Keeps.foldl_snd_snd | with_reducible apply Keeps.foldl_snd | simp only [Keeps.lit_iff] | dsimp only [id_eq] | split)

theorem State.landTrip_keeps {s₀ s : State} (i : TripNo) (on : Bool) (hk : Keeps s₀ s) : Keeps s₀ (s.landTrip i on) := by
  unfold State.landTrip
  try dsimp only
  repeat' (first | with_reducible assumption | with_reducible rfl | intro _ | with_reducible apply Keeps.foldl | with_reducible apply Keeps.foldr | with_reducible apply Keeps.foldl_snd_snd | with_reducible apply Keeps.foldl_snd | simp only [Keeps.lit_iff] | dsimp only [id_eq] | split)

theorem State.landStation_keeps {s₀ s : State} (st : Station) (hk : Keeps s₀ s) : Keeps s₀ (s.landStation st) := by
  unfold State.landStation
  try dsimp only
  repeat' (first | with_reducible assumption | with_reducible rfl | intro _ | with_reducible apply State.modStn_keeps | with_reducible apply State.pulse_keeps | with_reducible apply Keeps.foldl | with_reducible apply Keeps.foldr | with_reducible apply Keeps.foldl_snd_snd | with_reducible apply Keeps.foldl_snd | simp only [Keeps.lit_iff] | dsimp only [id_eq] | split)

theorem State.blankingEnd_keeps {s₀ s : State} (st : Station) (hk : Keeps s₀ s) : Keeps s₀ (s.blankingEnd st) := by
  unfold State.blankingEnd
  try dsimp only
  repeat' (first | with_reducible assumption | with_reducible rfl | intro _ | with_reducible apply State.modStn_keeps | with_reducible apply Keeps.foldl | with_reducible apply Keeps.foldr | with_reducible apply Keeps.foldl_snd_snd | with_reducible apply Keeps.foldl_snd | simp only [Keeps.lit_iff] | dsimp only [id_eq] | split)

theorem State.stnUnlatch_keeps {s₀ s : State} (st : Station) (hk : Keeps s₀ s) : Keeps s₀ (s.stnUnlatch st) := by
  unfold State.stnUnlatch
  try dsimp only
  repeat' (first | with_reducible assumption | with_reducible rfl | intro _ | with_reducible apply State.setStn_keeps | with_reducible apply State.stnRelease_keeps | with_reducible apply Keeps.foldl | with_reducible apply Keeps.foldr | with_reducible apply Keeps.foldl_snd_snd | with_reducible apply Keeps.foldl_snd | simp only [Keeps.lit_iff] | dsimp only [id_eq] | split)

theorem State.stnStep_keeps {s₀ s : State} (st : Station) (hk : Keeps s₀ s) : Keeps s₀ (s.stnStep st) := by
  unfold State.stnStep
  try dsimp only
  repeat' (first | with_reducible assumption | with_reducible rfl | intro _ | with_reducible apply State.modStn_keeps | with_reducible apply State.stnJudge_keeps | with_reducible apply State.stnUnlatch_keeps | with_reducible apply Keeps.foldl | with_reducible apply Keeps.foldr | with_reducible apply Keeps.foldl_snd_snd | with_reducible apply Keeps.foldl_snd | simp only [Keeps.lit_iff] | dsimp only [id_eq] | split)

theorem State.stationsStep_keeps {s₀ s : State} (hk : Keeps s₀ s) : Keeps s₀ s.stationsStep := by
  unfold State.stationsStep
  try dsimp only
  repeat' (first | with_reducible assumption | with_reducible rfl | intro _ | with_reducible apply State.modUnit_keeps | with_reducible apply State.stnStep_keeps | with_reducible apply Keeps.foldl | with_reducible apply Keeps.foldr | with_reducible apply Keeps.foldl_snd_snd | with_reducible apply Keeps.foldl_snd | simp only [Keeps.lit_iff] | dsimp only [id_eq] | split)

theorem State.latchedClear_keeps {s₀ s : State} (st : Station) (hk : Keeps s₀ s) : Keeps s₀ (s.latchedClear st) := by
  unfold State.latchedClear
  try dsimp only
  repeat' (first | with_reducible assumption | with_reducible rfl | intro _ | with_reducible apply State.modStn_keeps | with_reducible apply Keeps.foldl | with_reducible apply Keeps.foldr | with_reducible apply Keeps.foldl_snd_snd | with_reducible apply Keeps.foldl_snd | simp only [Keeps.lit_iff] | dsimp only [id_eq] | split)

theorem State.stnCtlWrite_keeps {s₀ s : State} (st : Station) (v : Word) (hk : Keeps s₀ s) : Keeps s₀ (s.stnCtlWrite st v) := by
  unfold State.stnCtlWrite
  try dsimp only
  repeat' (first | with_reducible assumption | with_reducible rfl | intro _ | with_reducible apply State.modStn_keeps | with_reducible apply State.storeRw_keeps | with_reducible apply Keeps.foldl | with_reducible apply Keeps.foldr | with_reducible apply Keeps.foldl_snd_snd | with_reducible apply Keeps.foldl_snd | simp only [Keeps.lit_iff] | dsimp only [id_eq] | split)

theorem State.stnPinsWrite_keeps {s₀ s : State} (st : Station) (v : Word) (hk : Keeps s₀ s) : Keeps s₀ (s.stnPinsWrite st v) := by
  unfold State.stnPinsWrite
  try dsimp only
  repeat' (first | with_reducible assumption | with_reducible rfl | intro _ | with_reducible apply State.setReg_keeps | with_reducible apply Keeps.foldl | with_reducible apply Keeps.foldr | with_reducible apply Keeps.foldl_snd_snd | with_reducible apply Keeps.foldl_snd | simp only [Keeps.lit_iff] | dsimp only [id_eq] | split)

theorem State.stnTimWrite_keeps {s₀ s : State} (st : Station) (v : Word) (hk : Keeps s₀ s) : Keeps s₀ (s.stnTimWrite st v) := by
  unfold State.stnTimWrite
  try dsimp only
  repeat' (first | with_reducible assumption | with_reducible rfl | intro _ | with_reducible apply State.setReg_keeps | with_reducible apply Keeps.foldl | with_reducible apply Keeps.foldr | with_reducible apply Keeps.foldl_snd_snd | with_reducible apply Keeps.foldl_snd | simp only [Keeps.lit_iff] | dsimp only [id_eq] | split)

theorem State.stnTmaskWrite_keeps {s₀ s : State} (st : Station) (j : Fin 4) (v : Word) (hk : Keeps s₀ s) : Keeps s₀ (s.stnTmaskWrite st j v) := by
  unfold State.stnTmaskWrite
  try dsimp only
  repeat' (first | with_reducible assumption | with_reducible rfl | intro _ | with_reducible apply State.setReg_keeps | with_reducible apply Keeps.foldl | with_reducible apply Keeps.foldr | with_reducible apply Keeps.foldl_snd_snd | with_reducible apply Keeps.foldl_snd | simp only [Keeps.lit_iff] | dsimp only [id_eq] | split)

end Sys2Proof.Machine
end

