-- ==== Sys2Proof/Laws/Keep/Memory.lean ====
section
/-! SUPPORT. The definitions of Machine/Memory.lean keep what `Keeps` names. -/

set_option linter.unusedTactic false
set_option linter.unreachableTactic false
set_option linter.unusedSimpArgs false
set_option linter.unnecessarySimpa false

namespace Sys2Proof.Machine

theorem State.logError_keeps {s₀ s : State} (uncorr : Bool) (m : MemInst) (path addr agent : Nat) (hk : Keeps s₀ s) : Keeps s₀ (s.logError uncorr m path addr agent) := by
  unfold State.logError
  try dsimp only
  repeat' (first | with_reducible assumption | with_reducible rfl | intro _ | with_reducible apply Keeps.foldl | with_reducible apply Keeps.foldr | with_reducible apply Keeps.foldl_snd_snd | with_reducible apply Keeps.foldl_snd | simp only [Keeps.lit_iff] | dsimp only [id_eq] | split)

theorem State.heal_keeps {s₀ s : State} (m : MemInst) (addr n : Nat) (hk : Keeps s₀ s) : Keeps s₀ (s.heal m addr n) := by
  unfold State.heal
  try dsimp only
  repeat' (first | with_reducible assumption | with_reducible rfl | intro _ | with_reducible apply State.modInst_keeps | with_reducible apply Keeps.foldl | with_reducible apply Keeps.foldr | with_reducible apply Keeps.foldl_snd_snd | with_reducible apply Keeps.foldl_snd | simp only [Keeps.lit_iff] | dsimp only [id_eq] | split)

theorem State.spoil_keeps {s₀ s : State} (m : MemInst) (addr : Nat) (hk : Keeps s₀ s) : Keeps s₀ (s.spoil m addr) := by
  unfold State.spoil
  try dsimp only
  repeat' (first | with_reducible assumption | with_reducible rfl | intro _ | with_reducible apply State.modInst_keeps | with_reducible apply Keeps.foldl | with_reducible apply Keeps.foldr | with_reducible apply Keeps.foldl_snd_snd | with_reducible apply Keeps.foldl_snd | simp only [Keeps.lit_iff] | dsimp only [id_eq] | split)

theorem State.noteRead_keeps {s₀ s : State} (m : MemInst) (path addr n agent : Nat) (hk : Keeps s₀ s) : Keeps s₀ (s.noteRead m path addr n agent) := by
  unfold State.noteRead
  try dsimp only
  repeat' (first | with_reducible assumption | with_reducible rfl | intro _ | with_reducible apply State.logError_keeps | with_reducible apply Keeps.foldl | with_reducible apply Keeps.foldr | with_reducible apply Keeps.foldl_snd_snd | with_reducible apply Keeps.foldl_snd | simp only [Keeps.lit_iff] | dsimp only [id_eq] | split)

theorem State.startWipe_keeps {s₀ s : State} (cause : BitVec 4) (hk : Keeps s₀ s) : Keeps s₀ (s.startWipe cause) := by
  unfold State.startWipe
  split
  · exact hk
  · have h := State.heal_keeps instHall 0x7C0000 0x40000 hk
    have hh : (s.heal instHall 0x7C0000 0x40000).hall = s.hall := by unfold State.heal; split <;> rfl
    refine ⟨h.pending, h.stage, fun m => ?_, h.scrapped⟩
    have := h.mem m
    simp only [State.memOk, Bool.and_eq_true] at this ⊢
    exact ⟨⟨⟨this.1.1.1, this.1.1.2⟩, wipe_wf _ _ _ (hh ▸ this.1.2)⟩, this.2⟩

theorem State.endWipe_keeps {s₀ s : State} (hk : Keeps s₀ s) : Keeps s₀ s.endWipe := by
  unfold State.endWipe
  try dsimp only
  repeat' (first | with_reducible assumption | with_reducible rfl | intro _ | with_reducible apply Keeps.foldl | with_reducible apply Keeps.foldr | with_reducible apply Keeps.foldl_snd_snd | with_reducible apply Keeps.foldl_snd | simp only [Keeps.lit_iff] | dsimp only [id_eq] | split)

theorem State.clearResv_keeps {s₀ s : State} (a n : Nat) (hk : Keeps s₀ s) : Keeps s₀ (s.clearResv a n) := by
  unfold State.clearResv
  try dsimp only
  repeat' (first | with_reducible assumption | with_reducible rfl | intro _ | with_reducible apply State.modAll_keeps | with_reducible apply Keeps.foldl | with_reducible apply Keeps.foldr | with_reducible apply Keeps.foldl_snd_snd | with_reducible apply Keeps.foldl_snd | simp only [Keeps.lit_iff] | dsimp only [id_eq] | split)

theorem State.hallWrite_keeps {s₀ s : State} (a : Nat) (l : List Byte) (hk : Keeps s₀ s) : Keeps s₀ (s.hallWrite a l) := by
  unfold State.hallWrite
  try dsimp only
  repeat' (first | with_reducible assumption | with_reducible rfl | intro _ | with_reducible apply State.clearResv_keeps | with_reducible apply State.heal_keeps | with_reducible apply State.setHalls_keeps | with_reducible apply Keeps.foldl | with_reducible apply Keeps.foldr | with_reducible apply Keeps.foldl_snd_snd | with_reducible apply Keeps.foldl_snd | simp only [Keeps.lit_iff] | dsimp only [id_eq] | split)

theorem State.deskLine_keeps {s₀ s : State} (b : Barrel) (line : Nat) (l : List (Nat × Byte)) (hk : Keeps s₀ s) : Keeps s₀ (s.deskLine b line l) := by
  unfold State.deskLine
  try dsimp only
  repeat' (first | with_reducible assumption | with_reducible rfl | intro _ | with_reducible apply State.setDesk_keeps | with_reducible apply Keeps.foldl | with_reducible apply Keeps.foldr | with_reducible apply Keeps.foldl_snd_snd | with_reducible apply Keeps.foldl_snd | simp only [Keeps.lit_iff] | dsimp only [id_eq] | split)

theorem State.hallGranule_keeps {s₀ s : State} (g : Nat) (l : List (Nat × Byte)) (hk : Keeps s₀ s) : Keeps s₀ (s.hallGranule g l) := by
  unfold State.hallGranule
  try dsimp only
  repeat' (first | with_reducible assumption | with_reducible rfl | intro _ | with_reducible apply State.hallWrite_keeps | with_reducible apply Keeps.foldl | with_reducible apply Keeps.foldr | with_reducible apply Keeps.foldl_snd_snd | with_reducible apply Keeps.foldl_snd | simp only [Keeps.lit_iff] | dsimp only [id_eq] | split)

theorem State.markLine_keeps {s₀ s : State} (m : MemInst) (line : Nat) (hk : Keeps s₀ s) : Keeps s₀ (s.markLine m line) := by
  unfold State.markLine
  try dsimp only
  repeat' (first | with_reducible assumption | with_reducible rfl | intro _ | with_reducible apply State.modInst_keeps | with_reducible apply Keeps.foldl | with_reducible apply Keeps.foldr | with_reducible apply Keeps.foldl_snd_snd | with_reducible apply Keeps.foldl_snd | simp only [Keeps.lit_iff] | dsimp only [id_eq] | split)

theorem State.maintRead_keeps {s₀ s : State} (m : MemInst) (addr n agent : Nat) (hk : Keeps s₀ s) : Keeps s₀ (s.maintRead m addr n agent) := by
  unfold State.maintRead
  try dsimp only
  repeat' (first | with_reducible assumption | with_reducible rfl | intro _ | with_reducible apply State.logError_keeps | with_reducible apply State.markLine_keeps | with_reducible apply Keeps.foldl | with_reducible apply Keeps.foldr | with_reducible apply Keeps.foldl_snd_snd | with_reducible apply Keeps.foldl_snd | simp only [Keeps.lit_iff] | dsimp only [id_eq] | split)

theorem State.portRead_keeps {s₀ s : State} (m : MemInst) (u : PortUser) (addr n : Nat) (hk : Keeps s₀ s) : Keeps s₀ (s.portRead m u addr n) := by
  unfold State.portRead
  try dsimp only
  repeat' (first | with_reducible assumption | with_reducible rfl | intro _ | with_reducible apply State.maintRead_keeps | with_reducible apply State.noteRead_keeps | with_reducible apply Keeps.foldl | with_reducible apply Keeps.foldr | with_reducible apply Keeps.foldl_snd_snd | with_reducible apply Keeps.foldl_snd | simp only [Keeps.lit_iff] | dsimp only [id_eq] | split)

theorem State.deskPortWrite_keeps {s₀ s : State} (b : Barrel) (line : Nat) (data : BitVec 512) (strb : BitVec 64) (hk : Keeps s₀ s) : Keeps s₀ (s.deskPortWrite b line data strb) := by
  unfold State.deskPortWrite
  try dsimp only
  repeat' (first | with_reducible assumption | with_reducible rfl | intro _ | with_reducible apply State.schedule_keeps | with_reducible apply Keeps.foldl | with_reducible apply Keeps.foldr | with_reducible apply Keeps.foldl_snd_snd | with_reducible apply Keeps.foldl_snd | simp only [Keeps.lit_iff] | dsimp only [id_eq] | split)

theorem State.secondPort_keeps {s₀ s : State} (b : Barrel) (u : PortUser) (line : Nat) (acc : LineAccess) (hk : Keeps s₀ s) : Keeps s₀ (s.secondPort b u line acc) := by
  unfold State.secondPort
  try dsimp only
  repeat' (first | with_reducible assumption | with_reducible rfl | intro _ | with_reducible apply State.deskPortWrite_keeps | with_reducible apply State.portRead_keeps | with_reducible apply Keeps.foldl | with_reducible apply Keeps.foldr | with_reducible apply Keeps.foldl_snd_snd | with_reducible apply Keeps.foldl_snd | simp only [Keeps.lit_iff] | dsimp only [id_eq] | split)

theorem State.hallPortWrite_keeps {s₀ s : State} (g : Nat) (data : BitVec 512) (strb : BitVec 64) (hk : Keeps s₀ s) : Keeps s₀ (s.hallPortWrite g data strb) := by
  unfold State.hallPortWrite
  try dsimp only
  repeat' (first | with_reducible assumption | with_reducible rfl | intro _ | with_reducible apply State.hallGranule_keeps | with_reducible apply State.heal_keeps | with_reducible apply Keeps.foldl | with_reducible apply Keeps.foldr | with_reducible apply Keeps.foldl_snd_snd | with_reducible apply Keeps.foldl_snd | simp only [Keeps.lit_iff] | dsimp only [id_eq] | split)

theorem State.hallShared_keeps {s₀ s : State} (u : PortUser) (g : Nat) (acc : LineAccess) (hk : Keeps s₀ s) : Keeps s₀ (s.hallShared u g acc) := by
  unfold State.hallShared
  try dsimp only
  repeat' (first | with_reducible assumption | with_reducible rfl | intro _ | with_reducible apply State.hallPortWrite_keeps | with_reducible apply State.portRead_keeps | with_reducible apply Keeps.foldl | with_reducible apply Keeps.foldr | with_reducible apply Keeps.foldl_snd_snd | with_reducible apply Keeps.foldl_snd | simp only [Keeps.lit_iff] | dsimp only [id_eq] | split)

theorem State.correctable_keeps {s₀ s : State} (m : MemInst) (path addr agent : Nat) (hk : Keeps s₀ s) : Keeps s₀ (s.correctable m path addr agent) := by
  unfold State.correctable
  try dsimp only
  repeat' (first | with_reducible assumption | with_reducible rfl | intro _ | with_reducible apply State.logError_keeps | with_reducible apply State.markLine_keeps | with_reducible apply State.modInst_keeps | with_reducible apply Keeps.foldl | with_reducible apply Keeps.foldr | with_reducible apply Keeps.foldl_snd_snd | with_reducible apply Keeps.foldl_snd | simp only [Keeps.lit_iff] | dsimp only [id_eq] | split)

theorem State.uncorrectable_keeps {s₀ s : State} (m : MemInst) (path addr agent : Nat) (hk : Keeps s₀ s) : Keeps s₀ (s.uncorrectable m path addr agent) := by
  unfold State.uncorrectable
  try dsimp only
  repeat' (first | with_reducible assumption | with_reducible rfl | intro _ | with_reducible apply State.logError_keeps | with_reducible apply State.markLine_keeps | with_reducible apply State.spoil_keeps | with_reducible apply Keeps.foldl | with_reducible apply Keeps.foldr | with_reducible apply Keeps.foldl_snd_snd | with_reducible apply Keeps.foldl_snd | simp only [Keeps.lit_iff] | dsimp only [id_eq] | split)

theorem State.scrubStep_keeps {s₀ s : State} (hk : Keeps s₀ s) : Keeps s₀ s.scrubStep := by
  unfold State.scrubStep
  try dsimp only
  repeat' (first | with_reducible assumption | with_reducible rfl | intro _ | with_reducible apply Keeps.foldl | with_reducible apply Keeps.foldr | with_reducible apply Keeps.foldl_snd_snd | with_reducible apply Keeps.foldl_snd | simp only [Keeps.lit_iff] | dsimp only [id_eq] | split)

theorem State.scrubMove_keeps {s₀ s : State} (hk : Keeps s₀ s) : Keeps s₀ s.scrubMove := by
  unfold State.scrubMove
  try dsimp only
  repeat' (first | with_reducible assumption | with_reducible rfl | intro _ | with_reducible apply State.scrubStep_keeps | with_reducible apply Keeps.foldl | with_reducible apply Keeps.foldr | with_reducible apply Keeps.foldl_snd_snd | with_reducible apply Keeps.foldl_snd | simp only [Keeps.lit_iff] | dsimp only [id_eq] | split)

theorem State.scrubFound_keeps {s₀ s : State} (m : MemInst) (addr : Nat) (e : Ecc) (hk : Keeps s₀ s) : Keeps s₀ (s.scrubFound m addr e) := by
  unfold State.scrubFound
  try dsimp only
  repeat' (first | with_reducible assumption | with_reducible rfl | intro _ | with_reducible apply State.correctable_keeps | with_reducible apply State.uncorrectable_keeps | with_reducible apply Keeps.foldl | with_reducible apply Keeps.foldr | with_reducible apply Keeps.foldl_snd_snd | with_reducible apply Keeps.foldl_snd | simp only [Keeps.lit_iff] | dsimp only [id_eq] | split)

theorem State.scrub_keeps {s₀ s : State} (m : MemInst) (addr : Nat) (e : Ecc) (hk : Keeps s₀ s) : Keeps s₀ (s.scrub m addr e) := by
  unfold State.scrub
  try dsimp only
  repeat' (first | with_reducible assumption | with_reducible rfl | intro _ | with_reducible apply State.scrubFound_keeps | with_reducible apply State.scrubMove_keeps | with_reducible apply Keeps.foldl | with_reducible apply Keeps.foldr | with_reducible apply Keeps.foldl_snd_snd | with_reducible apply Keeps.foldl_snd | simp only [Keeps.lit_iff] | dsimp only [id_eq] | split)

theorem State.drillPart_keeps {s₀ s : State} (hk : Keeps s₀ s) : Keeps s₀ s.drillPart := by
  unfold State.drillPart
  try dsimp only
  repeat' (first | with_reducible assumption | with_reducible rfl | intro _ | with_reducible apply Keeps.foldl | with_reducible apply Keeps.foldr | with_reducible apply Keeps.foldl_snd_snd | with_reducible apply Keeps.foldl_snd | simp only [Keeps.lit_iff] | dsimp only [id_eq] | split)

theorem State.testStart_keeps {s₀ s : State} (m : MemInst) (hk : Keeps s₀ s) : Keeps s₀ (s.testStart m) := by
  unfold State.testStart
  try dsimp only
  repeat' (first | with_reducible assumption | with_reducible rfl | intro _ | with_reducible apply State.drillPart_keeps | with_reducible apply State.modInst_keeps | with_reducible apply Keeps.foldl | with_reducible apply Keeps.foldr | with_reducible apply Keeps.foldl_snd_snd | with_reducible apply Keeps.foldl_snd | simp only [Keeps.lit_iff] | dsimp only [id_eq] | split)

theorem State.testNow_keeps {s₀ s : State} (m : MemInst) (hk : Keeps s₀ s) : Keeps s₀ (s.testNow m) := by
  unfold State.testNow
  try dsimp only
  repeat' (first | with_reducible assumption | with_reducible rfl | intro _ | with_reducible apply State.modInst_keeps | with_reducible apply Keeps.foldl | with_reducible apply Keeps.foldr | with_reducible apply Keeps.foldl_snd_snd | with_reducible apply Keeps.foldl_snd | simp only [Keeps.lit_iff] | dsimp only [id_eq] | split)

theorem State.copyComplete_keeps {s₀ s : State} (m : MemInst) (hk : Keeps s₀ s) : Keeps s₀ (s.copyComplete m) := by
  unfold State.copyComplete
  try dsimp only
  repeat' (first | with_reducible assumption | with_reducible rfl | intro _ | with_reducible apply State.modInst_keeps | with_reducible apply Keeps.foldl | with_reducible apply Keeps.foldr | with_reducible apply Keeps.foldl_snd_snd | with_reducible apply Keeps.foldl_snd | simp only [Keeps.lit_iff] | dsimp only [id_eq] | split)

theorem State.copyMove_keeps {s₀ s : State} (m : MemInst) (k : Nat) (hk : Keeps s₀ s) : Keeps s₀ (s.copyMove m k) := by
  unfold State.copyMove
  try dsimp only
  repeat' (first | with_reducible assumption | with_reducible rfl | intro _ | with_reducible apply State.modInst_keeps | with_reducible apply Keeps.foldl | with_reducible apply Keeps.foldr | with_reducible apply Keeps.foldl_snd_snd | with_reducible apply Keeps.foldl_snd | simp only [Keeps.lit_iff] | dsimp only [id_eq] | split)

theorem State.mramWrite_keeps {s₀ s : State} (hk : Keeps s₀ s) : Keeps s₀ s.mramWrite := by
  unfold State.mramWrite
  try dsimp only
  repeat' (first | with_reducible assumption | with_reducible rfl | intro _ | with_reducible apply Keeps.foldl | with_reducible apply Keeps.foldr | with_reducible apply Keeps.foldl_snd_snd | with_reducible apply Keeps.foldl_snd | simp only [Keeps.lit_iff] | dsimp only [id_eq] | split)

theorem State.marchComplete_keeps {s₀ s : State} (m : MemInst) (failing : BitVec 64) (hk : Keeps s₀ s) : Keeps s₀ (s.marchComplete m failing) := by
  unfold State.marchComplete
  try dsimp only
  repeat' (first | with_reducible assumption | with_reducible rfl | intro _ | with_reducible apply State.mramWrite_keeps | with_reducible apply State.setInst_keeps | with_reducible apply Keeps.foldl | with_reducible apply Keeps.foldr | with_reducible apply Keeps.foldl_snd_snd | with_reducible apply Keeps.foldl_snd | simp only [Keeps.lit_iff] | dsimp only [id_eq] | split)

theorem State.repairEnd_keeps {s₀ s : State} (m : MemInst) (hk : Keeps s₀ s) : Keeps s₀ (s.repairEnd m) := by
  unfold State.repairEnd
  try dsimp only
  repeat' (first | with_reducible assumption | with_reducible rfl | intro _ | with_reducible apply State.modInst_keeps | with_reducible apply Keeps.foldl | with_reducible apply Keeps.foldr | with_reducible apply Keeps.foldl_snd_snd | with_reducible apply Keeps.foldl_snd | simp only [Keeps.lit_iff] | dsimp only [id_eq] | split)

theorem State.testComplete_keeps {s₀ s : State} (m : MemInst) (hk : Keeps s₀ s) : Keeps s₀ (s.testComplete m) := by
  unfold State.testComplete
  try dsimp only
  repeat' (first | with_reducible assumption | with_reducible rfl | intro _ | with_reducible apply State.setInst_keeps | with_reducible apply Keeps.foldl | with_reducible apply Keeps.foldr | with_reducible apply Keeps.foldl_snd_snd | with_reducible apply Keeps.foldl_snd | simp only [Keeps.lit_iff] | dsimp only [id_eq] | split)

theorem State.tctlWrite_keeps {s₀ s : State} (m : MemInst) (v : Word) (hk : Keeps s₀ s) : Keeps s₀ (s.tctlWrite m v) := by
  unfold State.tctlWrite
  try dsimp only
  repeat' (first | with_reducible assumption | with_reducible rfl | intro _ | with_reducible apply State.setReg_keeps | with_reducible apply State.testNow_keeps | with_reducible apply Keeps.foldl | with_reducible apply Keeps.foldr | with_reducible apply Keeps.foldl_snd_snd | with_reducible apply Keeps.foldl_snd | simp only [Keeps.lit_iff] | dsimp only [id_eq] | split)

theorem State.logClear_keeps {s₀ s : State} (hk : Keeps s₀ s) : Keeps s₀ s.logClear := by
  unfold State.logClear
  try dsimp only
  repeat' (first | with_reducible assumption | with_reducible rfl | intro _ | with_reducible apply Keeps.foldl | with_reducible apply Keeps.foldr | with_reducible apply Keeps.foldl_snd_snd | with_reducible apply Keeps.foldl_snd | simp only [Keeps.lit_iff] | dsimp only [id_eq] | split)

theorem State.eccctlWrite_keeps {s₀ s : State} (v : Word) (hk : Keeps s₀ s) : Keeps s₀ (s.eccctlWrite v) := by
  unfold State.eccctlWrite
  try dsimp only
  repeat' (first | with_reducible assumption | with_reducible rfl | intro _ | with_reducible apply State.logClear_keeps | with_reducible apply State.setReg_keeps | with_reducible apply Keeps.foldl | with_reducible apply Keeps.foldr | with_reducible apply Keeps.foldl_snd_snd | with_reducible apply Keeps.foldl_snd | simp only [Keeps.lit_iff] | dsimp only [id_eq] | split)

theorem State.mramFix_keeps {s₀ s : State} (hk : Keeps s₀ s) : Keeps s₀ s.mramFix := by
  unfold State.mramFix
  try dsimp only
  repeat' (first | with_reducible assumption | with_reducible rfl | intro _ | with_reducible apply Keeps.foldl | with_reducible apply Keeps.foldr | with_reducible apply Keeps.foldl_snd_snd | with_reducible apply Keeps.foldl_snd | simp only [Keeps.lit_iff] | dsimp only [id_eq] | split)

theorem State.mramRetire_keeps {s₀ s : State} (block : Nat) (hk : Keeps s₀ s) : Keeps s₀ (s.mramRetire block) := by
  unfold State.mramRetire
  try dsimp only
  repeat' (first | with_reducible assumption | with_reducible rfl | intro _ | with_reducible apply State.mramWrite_keeps | with_reducible apply Keeps.foldl | with_reducible apply Keeps.foldr | with_reducible apply Keeps.foldl_snd_snd | with_reducible apply Keeps.foldl_snd | simp only [Keeps.lit_iff] | dsimp only [id_eq] | split)

theorem State.mramFound_keeps {s₀ s : State} (block : Nat) (y0 : MramFinding) (hk : Keeps s₀ s) : Keeps s₀ (s.mramFound block y0) := by
  unfold State.mramFound
  try dsimp only
  repeat' (first | with_reducible assumption | with_reducible rfl | intro _ | with_reducible apply State.mramFix_keeps | with_reducible apply State.mramRetire_keeps | with_reducible apply State.mramWrite_keeps | with_reducible apply State.uncorrectable_keeps | with_reducible apply Keeps.foldl | with_reducible apply Keeps.foldr | with_reducible apply Keeps.foldl_snd_snd | with_reducible apply Keeps.foldl_snd | simp only [Keeps.lit_iff] | dsimp only [id_eq] | split)

theorem State.mramSpoil_keeps {s₀ s : State} (word : Nat) (hk : Keeps s₀ s) : Keeps s₀ (s.mramSpoil word) := by
  unfold State.mramSpoil
  try dsimp only
  repeat' (first | with_reducible assumption | with_reducible rfl | intro _ | with_reducible apply Keeps.foldl | with_reducible apply Keeps.foldr | with_reducible apply Keeps.foldl_snd_snd | with_reducible apply Keeps.foldl_snd | simp only [Keeps.lit_iff] | dsimp only [id_eq] | split)

theorem State.mramHeal_keeps {s₀ s : State} (a n : Nat) (hk : Keeps s₀ s) : Keeps s₀ (s.mramHeal a n) := by
  unfold State.mramHeal
  try dsimp only
  repeat' (first | with_reducible assumption | with_reducible rfl | intro _ | with_reducible apply Keeps.foldl | with_reducible apply Keeps.foldr | with_reducible apply Keeps.foldl_snd_snd | with_reducible apply Keeps.foldl_snd | simp only [Keeps.lit_iff] | dsimp only [id_eq] | split)

theorem State.mramScrub_keeps {s₀ s : State} (e : MramFinding) (hk : Keeps s₀ s) : Keeps s₀ (s.mramScrub e) := by
  unfold State.mramScrub
  try dsimp only
  repeat' (first | with_reducible assumption | with_reducible rfl | intro _ | with_reducible apply State.mramFound_keeps | with_reducible apply State.mramSpoil_keeps | with_reducible apply State.uncorrectable_keeps | with_reducible apply Keeps.foldl | with_reducible apply Keeps.foldr | with_reducible apply Keeps.foldl_snd_snd | with_reducible apply Keeps.foldl_snd | simp only [Keeps.lit_iff] | dsimp only [id_eq] | split)

end Sys2Proof.Machine
end

