-- ==== Sys2Proof/Laws/Keep/Ports.lean ====
section
/-! SUPPORT. The definitions of Machine/Ports.lean keep what `Keeps` names. -/

set_option linter.unusedTactic false
set_option linter.unreachableTactic false
set_option linter.unusedSimpArgs false
set_option linter.unnecessarySimpa false

namespace Sys2Proof.Machine

theorem State.useDesk_keeps {s₀ s : State} (b : Barrel) (hk : Keeps s₀ s) : Keeps s₀ (s.useDesk b) := by
  unfold State.useDesk
  try dsimp only
  repeat' (first | with_reducible assumption | with_reducible rfl | intro _ | with_reducible apply State.modTurn_keeps | with_reducible apply Keeps.foldl | with_reducible apply Keeps.foldr | with_reducible apply Keeps.foldl_snd_snd | with_reducible apply Keeps.foldl_snd | simp only [Keeps.lit_iff] | dsimp only [id_eq] | split)

theorem State.useBank_keeps {s₀ s : State} (k : Nat) (hk : Keeps s₀ s) : Keeps s₀ (s.useBank k) := by
  unfold State.useBank
  try dsimp only
  repeat' (first | with_reducible assumption | with_reducible rfl | intro _ | with_reducible apply State.modTurn_keeps | with_reducible apply Keeps.foldl | with_reducible apply Keeps.foldr | with_reducible apply Keeps.foldl_snd_snd | with_reducible apply Keeps.foldl_snd | simp only [Keeps.lit_iff] | dsimp only [id_eq] | split)

theorem State.wipeBank_keeps {s₀ s : State} (k : Nat) (hk : Keeps s₀ s) : Keeps s₀ (s.wipeBank k) := by
  unfold State.wipeBank
  try dsimp only
  repeat' (first | with_reducible assumption | with_reducible rfl | intro _ | with_reducible apply State.useBank_keeps | with_reducible apply Keeps.foldl | with_reducible apply Keeps.foldr | with_reducible apply Keeps.foldl_snd_snd | with_reducible apply Keeps.foldl_snd | simp only [Keeps.lit_iff] | dsimp only [id_eq] | split)

theorem State.copyOwn_keeps {s₀ s : State} (m : MemInst) (hk : Keeps s₀ s) : Keeps s₀ (s.copyOwn m) := by
  unfold State.copyOwn
  try dsimp only
  repeat' (first | with_reducible assumption | with_reducible rfl | intro _ | with_reducible apply State.copyMove_keeps | with_reducible apply State.maintRead_keeps | with_reducible apply Keeps.foldl | with_reducible apply Keeps.foldr | with_reducible apply Keeps.foldl_snd_snd | with_reducible apply Keeps.foldl_snd | simp only [Keeps.lit_iff] | dsimp only [id_eq] | split)

end Sys2Proof.Machine
end

