-- ==== Sys2Proof/Laws/Keep/Queues.lean ====
section
/-! SUPPORT. The definitions of Machine/Queues.lean keep what `Keeps` names. -/

set_option linter.unusedTactic false
set_option linter.unreachableTactic false
set_option linter.unusedSimpArgs false
set_option linter.unnecessarySimpa false

namespace Sys2Proof.Machine

theorem State.takeCell_keeps {s₀ s : State} (p : Fin 8) (i : Nat) (hk : Keeps s₀ s) : Keeps s₀ (s.takeCell p i) := by
  unfold State.takeCell
  try dsimp only
  repeat' (first | with_reducible assumption | with_reducible rfl | intro _ | with_reducible apply State.modPool_keeps | with_reducible apply Keeps.foldl | with_reducible apply Keeps.foldr | with_reducible apply Keeps.foldl_snd_snd | with_reducible apply Keeps.foldl_snd | simp only [Keeps.lit_iff] | dsimp only [id_eq] | split)

theorem State.freeCellOf_keeps {s₀ s : State} (p : Fin 8) (i : Nat) (hk : Keeps s₀ s) : Keeps s₀ (s.freeCellOf p i) := by
  unfold State.freeCellOf
  try dsimp only
  repeat' (first | with_reducible assumption | with_reducible rfl | intro _ | with_reducible apply State.modPool_keeps | with_reducible apply Keeps.foldl | with_reducible apply Keeps.foldr | with_reducible apply Keeps.foldl_snd_snd | with_reducible apply Keeps.foldl_snd | simp only [Keeps.lit_iff] | dsimp only [id_eq] | split)

theorem State.setProd_keeps {s₀ s : State} (r : Ring) (prod : Word) (hk : Keeps s₀ s) : Keeps s₀ (s.setProd r prod) := by
  unfold State.setProd
  try dsimp only
  repeat' (first | with_reducible assumption | with_reducible rfl | intro _ | with_reducible apply State.pulse_keeps | with_reducible apply State.setRing_keeps | with_reducible apply Keeps.foldl | with_reducible apply Keeps.foldr | with_reducible apply Keeps.foldl_snd_snd | with_reducible apply Keeps.foldl_snd | simp only [Keeps.lit_iff] | dsimp only [id_eq] | split)

theorem State.showPosts_keeps {s₀ s : State} (r : Ring) (hk : Keeps s₀ s) : Keeps s₀ (s.showPosts r) := by
  unfold State.showPosts
  try dsimp only
  repeat' (first | with_reducible assumption | with_reducible rfl | intro _ | with_reducible apply State.modRing_keeps | with_reducible apply State.setProd_keeps | with_reducible apply Keeps.foldl | with_reducible apply Keeps.foldr | with_reducible apply Keeps.foldl_snd_snd | with_reducible apply Keeps.foldl_snd | simp only [Keeps.lit_iff] | dsimp only [id_eq] | split)

theorem State.addItem_keeps {s₀ s : State} (i : QmItem) (hk : Keeps s₀ s) : Keeps s₀ (s.addItem i) := by
  unfold State.addItem
  try dsimp only
  repeat' (first | with_reducible assumption | with_reducible rfl | intro _ | with_reducible apply Keeps.foldl | with_reducible apply Keeps.foldr | with_reducible apply Keeps.foldl_snd_snd | with_reducible apply Keeps.foldl_snd | simp only [Keeps.lit_iff] | dsimp only [id_eq] | split)

theorem State.cellFor_keeps {s₀ s : State} (r : Ring) (staged : Bool) (data : BitVec 512) (hk : Keeps s₀ s) : Keeps s₀ (s.cellFor r staged data).2 := by
  unfold State.cellFor
  try dsimp only
  repeat' (first | with_reducible assumption | with_reducible rfl | intro _ | with_reducible apply State.hallWrite_keeps | with_reducible apply State.takeCell_keeps | with_reducible apply Keeps.foldl | with_reducible apply Keeps.foldr | with_reducible apply Keeps.foldl_snd_snd | with_reducible apply Keeps.foldl_snd | simp only [Keeps.lit_iff] | dsimp only [id_eq] | split)

theorem State.reserve_keeps {s₀ s : State} (r : Ring) (hk : Keeps s₀ s) : Keeps s₀ (s.reserve r) := by
  unfold State.reserve
  try dsimp only
  repeat' (first | with_reducible assumption | with_reducible rfl | intro _ | with_reducible apply State.modRing_keeps | with_reducible apply Keeps.foldl | with_reducible apply Keeps.foldr | with_reducible apply Keeps.foldl_snd_snd | with_reducible apply Keeps.foldl_snd | simp only [Keeps.lit_iff] | dsimp only [id_eq] | split)

theorem State.postItem_keeps {s₀ s : State} (r : Ring) (data : BitVec 512) (who : PostBy) (hk : Keeps s₀ s) : Keeps s₀ (s.postItem r data who) := by
  unfold State.postItem
  try dsimp only
  repeat' (first | with_reducible assumption | with_reducible rfl | intro _ | with_reducible apply State.addItem_keeps | with_reducible apply State.cellFor_keeps | with_reducible apply State.reserve_keeps | with_reducible apply Keeps.foldl | with_reducible apply Keeps.foldr | with_reducible apply Keeps.foldl_snd_snd | with_reducible apply Keeps.foldl_snd | simp only [Keeps.lit_iff] | dsimp only [id_eq] | split)

theorem State.postDrop_keeps {s₀ s : State} (r : Ring) (hk : Keeps s₀ s) : Keeps s₀ (s.postDrop r) := by
  unfold State.postDrop
  try dsimp only
  repeat' (first | with_reducible assumption | with_reducible rfl | intro _ | with_reducible apply State.modRing_keeps | with_reducible apply Keeps.foldl | with_reducible apply Keeps.foldr | with_reducible apply Keeps.foldl_snd_snd | with_reducible apply Keeps.foldl_snd | simp only [Keeps.lit_iff] | dsimp only [id_eq] | split)

theorem State.qput_keeps {s₀ s : State} (t : Tid) (r : Ring) (data : BitVec 512) (staged : Bool) (hk : Keeps s₀ s) : Keeps s₀ (s.qput t r data staged) := by
  unfold State.qput
  try dsimp only
  repeat' (first | with_reducible assumption | with_reducible rfl | intro _ | with_reducible apply State.cellFor_keeps | with_reducible apply State.postDrop_keeps | with_reducible apply State.postItem_keeps | with_reducible apply State.reserve_keeps | with_reducible apply State.stage_keeps | with_reducible apply Keeps.foldl | with_reducible apply Keeps.foldr | with_reducible apply Keeps.foldl_snd_snd | with_reducible apply Keeps.foldl_snd | simp only [Keeps.lit_iff] | dsimp only [id_eq] | split)

theorem State.commitPost_keeps {s₀ s : State} (r : Ring) (p : BitVec 3) (cell : Nat) (hk : Keeps s₀ s) : Keeps s₀ (s.commitPost r p cell) := by
  unfold State.commitPost
  try dsimp only
  repeat' (first | with_reducible assumption | with_reducible rfl | intro _ | with_reducible apply State.addItem_keeps | with_reducible apply Keeps.foldl | with_reducible apply Keeps.foldr | with_reducible apply Keeps.foldl_snd_snd | with_reducible apply Keeps.foldl_snd | simp only [Keeps.lit_iff] | dsimp only [id_eq] | split)

theorem State.discardPost_keeps {s₀ s : State} (r : Ring) (p : BitVec 3) (cell : Nat) (hk : Keeps s₀ s) : Keeps s₀ (s.discardPost r p cell) := by
  unfold State.discardPost
  try dsimp only
  repeat' (first | with_reducible assumption | with_reducible rfl | intro _ | with_reducible apply State.freeCellOf_keeps | with_reducible apply State.modRing_keeps | with_reducible apply Keeps.foldl | with_reducible apply Keeps.foldr | with_reducible apply Keeps.foldl_snd_snd | with_reducible apply Keeps.foldl_snd | simp only [Keeps.lit_iff] | dsimp only [id_eq] | split)

theorem State.qget_keeps {s₀ s : State} (t : Tid) (r : Ring) (buf : BitVec 19) (hk : Keeps s₀ s) : Keeps s₀ (s.qget t r buf) := by
  unfold State.qget
  try dsimp only
  repeat' (first | with_reducible assumption | with_reducible rfl | intro _ | with_reducible apply State.addItem_keeps | with_reducible apply State.modRing_keeps | with_reducible apply Keeps.foldl | with_reducible apply Keeps.foldr | with_reducible apply Keeps.foldl_snd_snd | with_reducible apply Keeps.foldl_snd | simp only [Keeps.lit_iff] | dsimp only [id_eq] | split)

theorem State.itemStart_keeps {s₀ s : State} (hk : Keeps s₀ s) : Keeps s₀ s.itemStart := by
  unfold State.itemStart
  try dsimp only
  repeat' (first | with_reducible assumption | with_reducible rfl | intro _ | with_reducible apply Keeps.foldl | with_reducible apply Keeps.foldr | with_reducible apply Keeps.foldl_snd_snd | with_reducible apply Keeps.foldl_snd | simp only [Keeps.lit_iff] | dsimp only [id_eq] | split)

theorem State.issueReq_keeps {s₀ s : State} (x : TagUse) (hk : Keeps s₀ s) : Keeps s₀ (s.issueReq x) := by
  unfold State.issueReq
  try dsimp only
  repeat' (first | with_reducible assumption | with_reducible rfl | intro _ | with_reducible apply Keeps.foldl | with_reducible apply Keeps.foldr | with_reducible apply Keeps.foldl_snd_snd | with_reducible apply Keeps.foldl_snd | simp only [Keeps.lit_iff] | dsimp only [id_eq] | split)

theorem State.freeCells_keeps {s₀ s : State} (cell : Option (BitVec 3 × Nat)) (hk : Keeps s₀ s) : Keeps s₀ (s.freeCells cell) := by
  unfold State.freeCells
  try dsimp only
  repeat' (first | with_reducible assumption | with_reducible rfl | intro _ | with_reducible apply State.freeCellOf_keeps | with_reducible apply Keeps.foldl | with_reducible apply Keeps.foldr | with_reducible apply Keeps.foldl_snd_snd | with_reducible apply Keeps.foldl_snd | simp only [Keeps.lit_iff] | dsimp only [id_eq] | split)

theorem State.finishPost_keeps {s₀ s t : State} (r : Ring) (data : BitVec 512) (cell : Option (BitVec 3 × Nat)) (who : PostBy)
    (hk : Keeps s₀ s) (e : s.finishPost r data cell who = some t) : Keeps s₀ t := by
  unfold State.finishPost at e
  dsimp only at e
  split at e
  · cases e
    exact State.showPosts_keeps _ (State.modRing_keeps _ _ (State.hallWrite_keeps _ _ (State.freeCells_keeps _ hk)))
  · split at e
    · cases e
    · cases e
      exact State.issueReq_keeps _ (State.modRing_keeps _ _ hk)

theorem State.entryRead_keeps {s₀ s : State} (a : Nat) (e : Ecc) (hk : Keeps s₀ s) : Keeps s₀ (s.entryRead a e) := by
  unfold State.entryRead
  try dsimp only
  repeat' (first | with_reducible assumption | with_reducible rfl | intro _ | with_reducible apply State.correctable_keeps | with_reducible apply State.noteRead_keeps | with_reducible apply State.spoil_keeps | with_reducible apply State.uncorrectable_keeps | with_reducible apply Keeps.foldl | with_reducible apply Keeps.foldr | with_reducible apply Keeps.foldl_snd_snd | with_reducible apply Keeps.foldl_snd | simp only [Keeps.lit_iff] | dsimp only [id_eq] | split)

theorem State.finishFill_keeps {s₀ s : State} (r : Ring) (n : Word) (t : Tid) (buf : BitVec 19) (live : Bool) (e : Ecc) (hk : Keeps s₀ s) : Keeps s₀ (s.finishFill r n t buf live e) := by
  unfold State.finishFill
  try dsimp only
  repeat' (first | with_reducible assumption | with_reducible rfl | intro _ | with_reducible apply State.entryRead_keeps | with_reducible apply State.modRing_keeps | with_reducible apply State.schedule_keeps | with_reducible apply Keeps.foldl | with_reducible apply Keeps.foldr | with_reducible apply Keeps.foldl_snd_snd | with_reducible apply Keeps.foldl_snd | simp only [Keeps.lit_iff] | dsimp only [id_eq] | split)

theorem State.finishTake_keeps {s₀ s : State} (r : Ring) (n : Word) (ch : DmaCh) (serial : Nat) (e : Ecc) (hk : Keeps s₀ s) : Keeps s₀ (s.finishTake r n ch serial e) := by
  unfold State.finishTake
  try dsimp only
  repeat' (first | with_reducible assumption | with_reducible rfl | intro _ | with_reducible apply State.entryRead_keeps | with_reducible apply State.modEng_keeps | with_reducible apply State.modRing_keeps | with_reducible apply Keeps.foldl | with_reducible apply Keeps.foldr | with_reducible apply Keeps.foldl_snd_snd | with_reducible apply Keeps.foldl_snd | simp only [Keeps.lit_iff] | dsimp only [id_eq] | split)

theorem State.itemComplete_keeps {s₀ s : State} (e : Ecc) (hk : Keeps s₀ s) : Keeps s₀ (s.itemComplete e) := by
  unfold State.itemComplete
  try dsimp only
  repeat' (first | with_reducible assumption | with_reducible rfl | intro _ | with_reducible apply State.finishFill_keeps | with_reducible apply State.finishTake_keeps | (refine State.finishPost_keeps _ _ _ _ ?_ (by assumption)) | with_reducible apply Keeps.foldl | with_reducible apply Keeps.foldr | with_reducible apply Keeps.foldl_snd_snd | with_reducible apply Keeps.foldl_snd | simp only [Keeps.lit_iff] | dsimp only [id_eq] | split)

theorem State.postDone_keeps {s₀ s : State} (r : Ring) (n : Word) (ok : Bool) (cell : Option (BitVec 3 × Nat)) (hk : Keeps s₀ s) : Keeps s₀ (s.postDone r n ok cell) := by
  unfold State.postDone
  try dsimp only
  repeat' (first | with_reducible assumption | with_reducible rfl | intro _ | with_reducible apply State.freeCells_keeps | with_reducible apply State.modRing_keeps | with_reducible apply State.showPosts_keeps | with_reducible apply Keeps.foldl | with_reducible apply Keeps.foldr | with_reducible apply Keeps.foldl_snd_snd | with_reducible apply Keeps.foldl_snd | simp only [Keeps.lit_iff] | dsimp only [id_eq] | split)

theorem State.dropFills_keeps {s₀ s : State} (t : Tid) (hk : Keeps s₀ s) : Keeps s₀ (s.dropFills t) := by
  unfold State.dropFills
  try dsimp only
  repeat' (first | with_reducible assumption | with_reducible rfl | intro _ | with_reducible apply Keeps.foldl | with_reducible apply Keeps.foldr | with_reducible apply Keeps.foldl_snd_snd | with_reducible apply Keeps.foldl_snd | simp only [Keeps.lit_iff] | dsimp only [id_eq] | split)

theorem State.rcmdDone_keeps {s₀ s : State} (h : Host) (r : Ring) (err : Nat) (hk : Keeps s₀ s) : Keeps s₀ (s.rcmdDone h r err) := by
  unfold State.rcmdDone
  try dsimp only
  repeat' (first | with_reducible assumption | with_reducible rfl | intro _ | with_reducible apply Keeps.foldl | with_reducible apply Keeps.foldr | with_reducible apply Keeps.foldl_snd_snd | with_reducible apply Keeps.foldl_snd | simp only [Keeps.lit_iff] | dsimp only [id_eq] | split)

theorem State.ringLoad_keeps {s₀ s : State} (h : Host) (r : Ring) (hk : Keeps s₀ s) : Keeps s₀ (s.ringLoad h r) := by
  unfold State.ringLoad
  try dsimp only
  repeat' (first | with_reducible assumption | with_reducible rfl | intro _ | with_reducible apply State.noteRead_keeps | with_reducible apply State.rcmdDone_keeps | with_reducible apply State.setRing_keeps | with_reducible apply Keeps.foldl | with_reducible apply Keeps.foldr | with_reducible apply Keeps.foldl_snd_snd | with_reducible apply Keeps.foldl_snd | simp only [Keeps.lit_iff] | dsimp only [id_eq] | split)

theorem State.ringUnload_keeps {s₀ s : State} (h : Host) (r : Ring) (hk : Keeps s₀ s) : Keeps s₀ (s.ringUnload h r) := by
  unfold State.ringUnload
  try dsimp only
  repeat' (first | with_reducible assumption | with_reducible rfl | intro _ | with_reducible apply State.modRing_keeps | with_reducible apply State.rcmdDone_keeps | with_reducible apply Keeps.foldl | with_reducible apply Keeps.foldr | with_reducible apply Keeps.foldl_snd_snd | with_reducible apply Keeps.foldl_snd | simp only [Keeps.lit_iff] | dsimp only [id_eq] | split)

theorem State.dropTakes_keeps {s₀ s : State} (r : Ring) (hk : Keeps s₀ s) : Keeps s₀ (s.dropTakes r) := by
  unfold State.dropTakes
  try dsimp only
  repeat' (first | with_reducible assumption | with_reducible rfl | intro _ | with_reducible apply State.modEng_keeps | with_reducible apply Keeps.foldl | with_reducible apply Keeps.foldr | with_reducible apply Keeps.foldl_snd_snd | with_reducible apply Keeps.foldl_snd | simp only [Keeps.lit_iff] | dsimp only [id_eq] | split)

theorem State.dropGets_keeps {s₀ s : State} (r : Ring) (hk : Keeps s₀ s) : Keeps s₀ (s.dropGets r) := by
  unfold State.dropGets
  try dsimp only
  repeat' (first | with_reducible assumption | with_reducible rfl | intro _ | with_reducible apply Keeps.foldl | with_reducible apply Keeps.foldr | with_reducible apply Keeps.foldl_snd_snd | with_reducible apply Keeps.foldl_snd | simp only [Keeps.lit_iff] | dsimp only [id_eq] | split)

theorem State.ringDrain_keeps {s₀ s : State} (h : Host) (r : Ring) (takeover : Bool) (hk : Keeps s₀ s) : Keeps s₀ (s.ringDrain h r takeover) := by
  unfold State.ringDrain
  try dsimp only
  repeat' (first | with_reducible assumption | with_reducible rfl | intro _ | with_reducible apply State.dropGets_keeps | with_reducible apply State.dropTakes_keeps | with_reducible apply State.modRing_keeps | with_reducible apply State.rcmdDone_keeps | with_reducible apply Keeps.foldl | with_reducible apply Keeps.foldr | with_reducible apply Keeps.foldl_snd_snd | with_reducible apply Keeps.foldl_snd | simp only [Keeps.lit_iff] | dsimp only [id_eq] | split)

theorem State.prodDoorbell_keeps {s₀ s : State} (r : Ring) (v : Word) (hk : Keeps s₀ s) : Keeps s₀ (s.prodDoorbell r v) := by
  unfold State.prodDoorbell
  try dsimp only
  repeat' (first | with_reducible assumption | with_reducible rfl | intro _ | with_reducible apply State.modRing_keeps | with_reducible apply State.setProd_keeps | with_reducible apply State.setRing_keeps | with_reducible apply Keeps.foldl | with_reducible apply Keeps.foldr | with_reducible apply Keeps.foldl_snd_snd | with_reducible apply Keeps.foldl_snd | simp only [Keeps.lit_iff] | dsimp only [id_eq] | split)

theorem State.consDoorbell_keeps {s₀ s : State} (r : Ring) (v : Word) (hk : Keeps s₀ s) : Keeps s₀ (s.consDoorbell r v) := by
  unfold State.consDoorbell
  try dsimp only
  repeat' (first | with_reducible assumption | with_reducible rfl | intro _ | with_reducible apply State.setRing_keeps | with_reducible apply Keeps.foldl | with_reducible apply Keeps.foldr | with_reducible apply Keeps.foldl_snd_snd | with_reducible apply Keeps.foldl_snd | simp only [Keeps.lit_iff] | dsimp only [id_eq] | split)

theorem State.rcmdWrite_keeps {s₀ s : State} (h : Host) (v : Word) (hk : Keeps s₀ s) : Keeps s₀ (s.rcmdWrite h v) := by
  unfold State.rcmdWrite
  try dsimp only
  repeat' (first | with_reducible assumption | with_reducible rfl | intro _ | with_reducible apply State.ringDrain_keeps | with_reducible apply State.ringLoad_keeps | with_reducible apply State.ringUnload_keeps | with_reducible apply Keeps.foldl | with_reducible apply Keeps.foldr | with_reducible apply Keeps.foldl_snd_snd | with_reducible apply Keeps.foldl_snd | simp only [Keeps.lit_iff] | dsimp only [id_eq] | split)

theorem State.poolWrite_keeps {s₀ s : State} (p : Fin 8) (r : Reg) (v : Word) (hk : Keeps s₀ s) : Keeps s₀ (s.poolWrite p r v) := by
  cases r <;> first | (show Keeps s₀ s; exact hk) | skip
  all_goals  unfold State.poolWrite
  all_goals  try dsimp only
  all_goals  repeat' (first | with_reducible assumption | with_reducible rfl | intro _ | with_reducible apply State.setReg_keeps | with_reducible apply Keeps.foldl | with_reducible apply Keeps.foldr | with_reducible apply Keeps.foldl_snd_snd | with_reducible apply Keeps.foldl_snd | simp only [Keeps.lit_iff] | dsimp only [id_eq] | split)

end Sys2Proof.Machine
end

