-- ==== Sys2Proof/Laws/Keep/Irq.lean ====
section
/-! SUPPORT. The definitions of Machine/Irq.lean keep what `Keeps` names. -/

set_option linter.unusedTactic false
set_option linter.unreachableTactic false
set_option linter.unusedSimpArgs false
set_option linter.unnecessarySimpa false

namespace Sys2Proof.Machine

theorem State.irqJudge_keeps {s₀ s : State} (l : IrqLine) (hk : Keeps s₀ s) : Keeps s₀ (s.irqJudge l) := by
  unfold State.irqJudge
  try dsimp only
  repeat' (first | with_reducible assumption | with_reducible rfl | intro _ | with_reducible apply State.modIrq_keeps | with_reducible apply Keeps.foldl | with_reducible apply Keeps.foldr | with_reducible apply Keeps.foldl_snd_snd | with_reducible apply Keeps.foldl_snd | simp only [Keeps.lit_iff] | dsimp only [id_eq] | split)

theorem State.irqEvent_keeps {s₀ s : State} (l : IrqLine) (hk : Keeps s₀ s) : Keeps s₀ (s.irqEvent l) := by
  unfold State.irqEvent
  try dsimp only
  repeat' (first | with_reducible assumption | with_reducible rfl | intro _ | with_reducible apply State.irqJudge_keeps | with_reducible apply State.modIrq_keeps | with_reducible apply Keeps.foldl | with_reducible apply Keeps.foldr | with_reducible apply Keeps.foldl_snd_snd | with_reducible apply Keeps.foldl_snd | simp only [Keeps.lit_iff] | dsimp only [id_eq] | split)

theorem State.irqCoalesce_keeps {s₀ s : State} (l : IrqLine) (hk : Keeps s₀ s) : Keeps s₀ (s.irqCoalesce l) := by
  unfold State.irqCoalesce
  try dsimp only
  repeat' (first | with_reducible assumption | with_reducible rfl | intro _ | with_reducible apply State.modIrq_keeps | with_reducible apply Keeps.foldl | with_reducible apply Keeps.foldr | with_reducible apply Keeps.foldl_snd_snd | with_reducible apply Keeps.foldl_snd | simp only [Keeps.lit_iff] | dsimp only [id_eq] | split)

theorem State.irqAck_keeps {s₀ s : State} (l : IrqLine) (hk : Keeps s₀ s) : Keeps s₀ (s.irqAck l) := by
  unfold State.irqAck
  try dsimp only
  repeat' (first | with_reducible assumption | with_reducible rfl | intro _ | with_reducible apply State.irqJudge_keeps | with_reducible apply State.modIrq_keeps | with_reducible apply Keeps.foldl | with_reducible apply Keeps.foldr | with_reducible apply Keeps.foldl_snd_snd | with_reducible apply Keeps.foldl_snd | simp only [Keeps.lit_iff] | dsimp only [id_eq] | split)

theorem State.irqLctlWrite_keeps {s₀ s : State} (l : IrqLine) (v : Word) (hk : Keeps s₀ s) : Keeps s₀ (s.irqLctlWrite l v) := by
  unfold State.irqLctlWrite
  try dsimp only
  repeat' (first | with_reducible assumption | with_reducible rfl | intro _ | with_reducible apply State.irqJudge_keeps | with_reducible apply State.setReg_keeps | with_reducible apply Keeps.foldl | with_reducible apply Keeps.foldr | with_reducible apply Keeps.foldl_snd_snd | with_reducible apply Keeps.foldl_snd | simp only [Keeps.lit_iff] | dsimp only [id_eq] | split)

theorem State.irqTgtWrite_keeps {s₀ s : State} (a : Agent) (src : BitVec 11) (v : Word) (hk : Keeps s₀ s) : Keeps s₀ (s.irqTgtWrite a src v) := by
  unfold State.irqTgtWrite
  try dsimp only
  repeat' (first | with_reducible assumption | with_reducible rfl | intro _ | with_reducible apply State.setReg_keeps | with_reducible apply Keeps.foldl | with_reducible apply Keeps.foldr | with_reducible apply Keeps.foldl_snd_snd | with_reducible apply Keeps.foldl_snd | simp only [Keeps.lit_iff] | dsimp only [id_eq] | split)

theorem State.irqDrive_keeps {s₀ s : State} (hk : Keeps s₀ s) : Keeps s₀ s.irqDrive := by
  unfold State.irqDrive
  try dsimp only
  repeat' (first | with_reducible assumption | with_reducible rfl | intro _ | with_reducible apply State.modIrq_keeps | with_reducible apply Keeps.foldl | with_reducible apply Keeps.foldr | with_reducible apply Keeps.foldl_snd_snd | with_reducible apply Keeps.foldl_snd | simp only [Keeps.lit_iff] | dsimp only [id_eq] | split)

theorem State.assignEntry_keeps {s₀ s : State} (k : Fin 17) (word : Fin 1024) (j : Nat) (v : Word) (hk : Keeps s₀ s) : Keeps s₀ (s.assignEntry k word j v) := by
  unfold State.assignEntry
  try dsimp only
  repeat' (first | with_reducible assumption | with_reducible rfl | intro _ | with_reducible apply State.setReg_keeps | with_reducible apply Keeps.foldl | with_reducible apply Keeps.foldr | with_reducible apply Keeps.foldl_snd_snd | with_reducible apply Keeps.foldl_snd | simp only [Keeps.lit_iff] | dsimp only [id_eq] | split)

theorem State.assignWrite_keeps {s₀ s : State} (k : Fin 17) (word : Fin 1024) (v : Word) (hk : Keeps s₀ s) : Keeps s₀ (s.assignWrite k word v) := by
  unfold State.assignWrite
  try dsimp only
  repeat' (first | with_reducible assumption | with_reducible rfl | intro _ | with_reducible apply State.assignEntry_keeps | with_reducible apply Keeps.foldl | with_reducible apply Keeps.foldr | with_reducible apply Keeps.foldl_snd_snd | with_reducible apply Keeps.foldl_snd | simp only [Keeps.lit_iff] | dsimp only [id_eq] | split)

end Sys2Proof.Machine
end

