-- ==== Sys2Proof/Laws/Keep/Locks.lean ====
section
/-! SUPPORT. The definitions of Machine/Locks.lean keep what `Keeps` names. -/

set_option linter.unusedTactic false
set_option linter.unreachableTactic false
set_option linter.unusedSimpArgs false
set_option linter.unnecessarySimpa false

namespace Sys2Proof.Machine

theorem State.lockStore_keeps {s₀ s : State} (a : Nat) (w : DWord) (hk : Keeps s₀ s) : Keeps s₀ (s.lockStore a w) := by
  unfold State.lockStore
  try dsimp only
  repeat' (first | with_reducible assumption | with_reducible rfl | intro _ | with_reducible apply State.hallWrite_keeps | with_reducible apply Keeps.foldl | with_reducible apply Keeps.foldr | with_reducible apply Keeps.foldl_snd_snd | with_reducible apply Keeps.foldl_snd | simp only [Keeps.lit_iff] | dsimp only [id_eq] | split)

theorem State.wake_keeps {s₀ s : State} (x : Watch) (hk : Keeps s₀ s) : Keeps s₀ (s.wake x) := by
  unfold State.wake
  try dsimp only
  repeat' (first | with_reducible assumption | with_reducible rfl | intro _ | with_reducible apply State.command_keeps | with_reducible apply State.modHps_keeps | with_reducible apply State.wakeInput_keeps | with_reducible apply Keeps.foldl | with_reducible apply Keeps.foldr | with_reducible apply Keeps.foldl_snd_snd | with_reducible apply Keeps.foldl_snd | simp only [Keeps.lit_iff] | dsimp only [id_eq] | split)

theorem State.wakeAll_keeps {s₀ s : State} (a : Nat) (hk : Keeps s₀ s) : Keeps s₀ (s.wakeAll a) := by
  unfold State.wakeAll
  try dsimp only
  repeat' (first | with_reducible assumption | with_reducible rfl | intro _ | with_reducible apply State.wake_keeps | with_reducible apply Keeps.foldl | with_reducible apply Keeps.foldr | with_reducible apply Keeps.foldl_snd_snd | with_reducible apply Keeps.foldl_snd | simp only [Keeps.lit_iff] | dsimp only [id_eq] | split)

theorem State.unwatchAll_keeps {s₀ s : State} (who : Watcher) (hk : Keeps s₀ s) : Keeps s₀ (s.unwatchAll who) := by
  unfold State.unwatchAll
  try dsimp only
  repeat' (first | with_reducible assumption | with_reducible rfl | intro _ | with_reducible apply Keeps.foldl | with_reducible apply Keeps.foldr | with_reducible apply Keeps.foldl_snd_snd | with_reducible apply Keeps.foldl_snd | simp only [Keeps.lit_iff] | dsimp only [id_eq] | split)

theorem State.placeWatch_keeps {s₀ s t : State} (x : Watch) (hk : Keeps s₀ s) (e : s.placeWatch x = some t) : Keeps s₀ t := by
  unfold State.placeWatch at e
  dsimp only at e
  split at e
  · cases e
  · cases e
    exact (Keeps.lit_iff rfl).2 hk

theorem State.setLease_keeps {s₀ s : State} (i : Nat) (l : Option Lease) (hk : Keeps s₀ s) : Keeps s₀ (s.setLease i l) := by
  unfold State.setLease
  try dsimp only
  repeat' (first | with_reducible assumption | with_reducible rfl | intro _ | with_reducible apply Keeps.foldl | with_reducible apply Keeps.foldr | with_reducible apply Keeps.foldl_snd_snd | with_reducible apply Keeps.foldl_snd | simp only [Keeps.lit_iff] | dsimp only [id_eq] | split)

theorem State.endLease_keeps {s₀ s : State} (i : Nat) (expired : Bool) (hk : Keeps s₀ s) : Keeps s₀ (s.endLease i expired) := by
  unfold State.endLease
  try dsimp only
  repeat' (first | with_reducible assumption | with_reducible rfl | intro _ | with_reducible apply State.setLease_keeps | with_reducible apply Keeps.foldl | with_reducible apply Keeps.foldr | with_reducible apply Keeps.foldl_snd_snd | with_reducible apply Keeps.foldl_snd | simp only [Keeps.lit_iff] | dsimp only [id_eq] | split)

theorem State.endLeases_keeps {s₀ s : State} (owner : BitVec 16) (hk : Keeps s₀ s) : Keeps s₀ (s.endLeases owner) := by
  unfold State.endLeases
  try dsimp only
  repeat' (first | with_reducible assumption | with_reducible rfl | intro _ | with_reducible apply State.endLease_keeps | with_reducible apply Keeps.foldl | with_reducible apply Keeps.foldr | with_reducible apply Keeps.foldl_snd_snd | with_reducible apply Keeps.foldl_snd | simp only [Keeps.lit_iff] | dsimp only [id_eq] | split)

theorem State.abandonWrite_keeps {s₀ s : State} (a : Nat) (owner : BitVec 16) (expired : Bool) (hk : Keeps s₀ s) : Keeps s₀ (s.abandonWrite a owner expired) := by
  unfold State.abandonWrite
  try dsimp only
  repeat' (first | with_reducible assumption | with_reducible rfl | intro _ | with_reducible apply State.lockStore_keeps | with_reducible apply State.wakeAll_keeps | with_reducible apply Keeps.foldl | with_reducible apply Keeps.foldr | with_reducible apply Keeps.foldl_snd_snd | with_reducible apply Keeps.foldl_snd | simp only [Keeps.lit_iff] | dsimp only [id_eq] | split)

theorem State.lockSettle_keeps {s₀ s : State} (a : Nat) (hk : Keeps s₀ s) : Keeps s₀ (s.lockSettle a) := by
  unfold State.lockSettle
  try dsimp only
  repeat' (first | with_reducible assumption | with_reducible rfl | intro _ | with_reducible apply State.abandonWrite_keeps | with_reducible apply Keeps.foldl | with_reducible apply Keeps.foldr | with_reducible apply Keeps.foldl_snd_snd | with_reducible apply Keeps.foldl_snd | simp only [Keeps.lit_iff] | dsimp only [id_eq] | split)

theorem State.lockAcquire_keeps {s₀ s : State} (a : BitVec 23) (me : BitVec 16) (us : Word) (hk : Keeps s₀ s) : Keeps s₀ (s.lockAcquire a me us).2.2 := by
  unfold State.lockAcquire
  try dsimp only
  repeat' (first | with_reducible assumption | with_reducible rfl | intro _ | with_reducible apply State.lockSettle_keeps | with_reducible apply State.lockStore_keeps | with_reducible apply State.setLease_keeps | with_reducible apply Keeps.foldl | with_reducible apply Keeps.foldr | with_reducible apply Keeps.foldl_snd_snd | with_reducible apply Keeps.foldl_snd | simp only [Keeps.lit_iff] | dsimp only [id_eq] | split)

theorem State.lockFree_keeps {s₀ s : State} (a : BitVec 23) (me : BitVec 16) (hk : Keeps s₀ s) : Keeps s₀ (s.lockFree a me).2.2 := by
  unfold State.lockFree
  try dsimp only
  repeat' (first | with_reducible assumption | with_reducible rfl | intro _ | with_reducible apply State.lockSettle_keeps | with_reducible apply State.lockStore_keeps | with_reducible apply State.setLease_keeps | with_reducible apply State.wakeAll_keeps | with_reducible apply Keeps.foldl | with_reducible apply Keeps.foldr | with_reducible apply Keeps.foldl_snd_snd | with_reducible apply Keeps.foldl_snd | simp only [Keeps.lit_iff] | dsimp only [id_eq] | split)

theorem State.lockWatch_keeps {s₀ s : State} (x : Watch) (hk : Keeps s₀ s) : Keeps s₀ (s.lockWatch x).2.2 := by
  unfold State.lockWatch
  try dsimp only
  repeat' (first | with_reducible assumption | with_reducible rfl | intro _ | with_reducible apply State.lockSettle_keeps | with_reducible apply State.wake_keeps | (refine State.placeWatch_keeps _ ?_ (by assumption)) | with_reducible apply Keeps.foldl | with_reducible apply Keeps.foldr | with_reducible apply Keeps.foldl_snd_snd | with_reducible apply Keeps.foldl_snd | simp only [Keeps.lit_iff] | dsimp only [id_eq] | split)

theorem State.lockCas_keeps {s₀ s : State} (a : BitVec 23) (cmp swp : DWord) (hk : Keeps s₀ s) : Keeps s₀ (s.lockCas a cmp swp).2.2 := by
  unfold State.lockCas
  try dsimp only
  repeat' (first | with_reducible assumption | with_reducible rfl | intro _ | with_reducible apply State.lockSettle_keeps | with_reducible apply State.lockStore_keeps | with_reducible apply Keeps.foldl | with_reducible apply Keeps.foldr | with_reducible apply Keeps.foldl_snd_snd | with_reducible apply Keeps.foldl_snd | simp only [Keeps.lit_iff] | dsimp only [id_eq] | split)

theorem State.lockUnwatch_keeps {s₀ s : State} (a : BitVec 23) (h : Host) (hk : Keeps s₀ s) : Keeps s₀ (s.lockUnwatch a h).2.2 := by
  unfold State.lockUnwatch
  try dsimp only
  repeat' (first | with_reducible assumption | with_reducible rfl | intro _ | with_reducible apply State.lockSettle_keeps | with_reducible apply Keeps.foldl | with_reducible apply Keeps.foldr | with_reducible apply Keeps.foldl_snd_snd | with_reducible apply Keeps.foldl_snd | simp only [Keeps.lit_iff] | dsimp only [id_eq] | split)

theorem State.hpsGo_keeps {s₀ s : State} (h : Host) (op : BitVec 3) (hk : Keeps s₀ s) : Keeps s₀ (s.hpsGo h op) := by
  unfold State.hpsGo
  try dsimp only
  repeat' (first | with_reducible assumption | with_reducible rfl | intro _ | with_reducible apply State.modHps_keeps | with_reducible apply Keeps.foldl | with_reducible apply Keeps.foldr | with_reducible apply Keeps.foldl_snd_snd | with_reducible apply Keeps.foldl_snd | simp only [Keeps.lit_iff] | dsimp only [id_eq] | split)

theorem State.hpsPerform_keeps {s₀ s : State} (h : Host) (op : BitVec 3) (a : BitVec 23) (dur : Word) (cmp swp : DWord) (hk : Keeps s₀ s) : Keeps s₀ (s.hpsPerform h op a dur cmp swp) := by
  unfold State.hpsPerform
  try dsimp only
  repeat' (first | with_reducible assumption | with_reducible rfl | intro _ | with_reducible apply State.lockAcquire_keeps | with_reducible apply State.lockCas_keeps | with_reducible apply State.lockFree_keeps | with_reducible apply State.lockUnwatch_keeps | with_reducible apply State.lockWatch_keeps | with_reducible apply State.modHps_keeps | with_reducible apply State.noteRead_keeps | with_reducible apply Keeps.foldl | with_reducible apply Keeps.foldr | with_reducible apply Keeps.foldl_snd_snd | with_reducible apply Keeps.foldl_snd | simp only [Keeps.lit_iff] | dsimp only [id_eq] | split)

theorem State.lockMake_keeps {s₀ s : State} (r : LockReq) (hk : Keeps s₀ s) : Keeps s₀ (s.lockMake r) := by
  unfold State.lockMake
  try dsimp only
  repeat' (first | with_reducible assumption | with_reducible rfl | intro _ | with_reducible apply State.abandonWrite_keeps | with_reducible apply State.hpsPerform_keeps | with_reducible apply State.useBank_keeps | with_reducible apply Keeps.foldl | with_reducible apply Keeps.foldr | with_reducible apply Keeps.foldl_snd_snd | with_reducible apply Keeps.foldl_snd | simp only [Keeps.lit_iff] | dsimp only [id_eq] | split)

theorem State.lockAccess_keeps {s₀ s : State} (hk : Keeps s₀ s) : Keeps s₀ s.lockAccess := by
  unfold State.lockAccess
  try dsimp only
  repeat' (first | with_reducible assumption | with_reducible rfl | intro _ | with_reducible apply State.lockMake_keeps | with_reducible apply Keeps.foldl | with_reducible apply Keeps.foldr | with_reducible apply Keeps.foldl_snd_snd | with_reducible apply Keeps.foldl_snd | simp only [Keeps.lit_iff] | dsimp only [id_eq] | split)

theorem State.abandonNext_keeps {s₀ s : State} (hk : Keeps s₀ s) : Keeps s₀ s.abandonNext := by
  unfold State.abandonNext
  try dsimp only
  repeat' (first | with_reducible assumption | with_reducible rfl | intro _ | with_reducible apply State.lockMake_keeps | with_reducible apply Keeps.foldl | with_reducible apply Keeps.foldr | with_reducible apply Keeps.foldl_snd_snd | with_reducible apply Keeps.foldl_snd | simp only [Keeps.lit_iff] | dsimp only [id_eq] | split)

theorem State.hpsForce_keeps {s₀ s : State} (a : BitVec 23) (hk : Keeps s₀ s) : Keeps s₀ (s.hpsForce a) := by
  unfold State.hpsForce
  try dsimp only
  repeat' (first | with_reducible assumption | with_reducible rfl | intro _ | with_reducible apply State.endLease_keeps | with_reducible apply Keeps.foldl | with_reducible apply Keeps.foldr | with_reducible apply Keeps.foldl_snd_snd | with_reducible apply Keeps.foldl_snd | simp only [Keeps.lit_iff] | dsimp only [id_eq] | split)

theorem State.leaseExpire_keeps {s₀ s : State} (i : Nat) (hk : Keeps s₀ s) : Keeps s₀ (s.leaseExpire i) := by
  unfold State.leaseExpire
  try dsimp only
  repeat' (first | with_reducible assumption | with_reducible rfl | intro _ | with_reducible apply State.endLease_keeps | with_reducible apply Keeps.foldl | with_reducible apply Keeps.foldr | with_reducible apply Keeps.foldl_snd_snd | with_reducible apply Keeps.foldl_snd | simp only [Keeps.lit_iff] | dsimp only [id_eq] | split)

theorem State.lockHostReset_keeps {s₀ s : State} (h : Host) (hk : Keeps s₀ s) : Keeps s₀ (s.lockHostReset h) := by
  unfold State.lockHostReset
  try dsimp only
  repeat' (first | with_reducible assumption | with_reducible rfl | intro _ | with_reducible apply State.modHps_keeps | with_reducible apply State.unwatchAll_keeps | with_reducible apply Keeps.foldl | with_reducible apply Keeps.foldr | with_reducible apply Keeps.foldl_snd_snd | with_reducible apply Keeps.foldl_snd | simp only [Keeps.lit_iff] | dsimp only [id_eq] | split)

theorem State.hcmdWrite_keeps {s₀ s : State} (h : Host) (v : Word) (hk : Keeps s₀ s) : Keeps s₀ (s.hcmdWrite h v) := by
  unfold State.hcmdWrite
  try dsimp only
  repeat' (first | with_reducible assumption | with_reducible rfl | intro _ | with_reducible apply State.hpsGo_keeps | with_reducible apply State.modHps_keeps | with_reducible apply Keeps.foldl | with_reducible apply Keeps.foldr | with_reducible apply Keeps.foldl_snd_snd | with_reducible apply Keeps.foldl_snd | simp only [Keeps.lit_iff] | dsimp only [id_eq] | split)

end Sys2Proof.Machine
end

