-- ==== Sys2Proof/Laws/Keep/Halyard.lean ====
section
/-! SUPPORT. The definitions of Machine/Halyard.lean keep what `Keeps` names. -/

set_option linter.unusedTactic false
set_option linter.unreachableTactic false
set_option linter.unusedSimpArgs false
set_option linter.unnecessarySimpa false

namespace Sys2Proof.Machine

theorem State.modHly_keeps {s₀ s : State} (f : HlyS → HlyS) (hk : Keeps s₀ s) : Keeps s₀ (s.modHly f) := by
  unfold State.modHly
  try dsimp only
  repeat' (first | with_reducible assumption | with_reducible rfl | intro _ | with_reducible apply Keeps.foldl | with_reducible apply Keeps.foldr | with_reducible apply Keeps.foldl_snd_snd | with_reducible apply Keeps.foldl_snd | simp only [Keeps.lit_iff] | dsimp only [id_eq] | split)

theorem State.setLink_keeps {s₀ s : State} (down : Bool) (x : LinkSt) (hk : Keeps s₀ s) : Keeps s₀ (s.setLink down x) := by
  unfold State.setLink
  try dsimp only
  repeat' (first | with_reducible assumption | with_reducible rfl | intro _ | with_reducible apply State.modHly_keeps | with_reducible apply State.pulse_keeps | with_reducible apply Keeps.foldl | with_reducible apply Keeps.foldr | with_reducible apply Keeps.foldl_snd_snd | with_reducible apply Keeps.foldl_snd | simp only [Keeps.lit_iff] | dsimp only [id_eq] | split)

theorem State.setLane_keeps {s₀ s : State} (down : Bool) (x : Lane) (hk : Keeps s₀ s) : Keeps s₀ (s.setLane down x) := by
  unfold State.setLane
  try dsimp only
  repeat' (first | with_reducible assumption | with_reducible rfl | intro _ | with_reducible apply State.modHly_keeps | with_reducible apply Keeps.foldl | with_reducible apply Keeps.foldr | with_reducible apply Keeps.foldl_snd_snd | with_reducible apply Keeps.foldl_snd | simp only [Keeps.lit_iff] | dsimp only [id_eq] | split)

theorem State.sendOwn_keeps {s₀ s : State} (down : Bool) (typ : BitVec 4) (bc : Bool) (dst : BitVec 14) (p : List Byte) (hk : Keeps s₀ s) : Keeps s₀ (s.sendOwn down typ bc dst p) := by
  unfold State.sendOwn
  try dsimp only
  repeat' (first | with_reducible assumption | with_reducible rfl | intro _ | with_reducible apply State.modHly_keeps | with_reducible apply State.setLane_keeps | with_reducible apply Keeps.foldl | with_reducible apply Keeps.foldr | with_reducible apply Keeps.foldl_snd_snd | with_reducible apply Keeps.foldl_snd | simp only [Keeps.lit_iff] | dsimp only [id_eq] | split)

theorem State.frameSend_keeps {s₀ s : State} (down : Bool) (stamp : DWord) (hk : Keeps s₀ s) : Keeps s₀ (s.frameSend down stamp) := by
  unfold State.frameSend
  try dsimp only
  repeat' (first | with_reducible assumption | with_reducible rfl | intro _ | with_reducible apply State.modHly_keeps | with_reducible apply State.setLane_keeps | with_reducible apply Keeps.foldl | with_reducible apply Keeps.foldr | with_reducible apply Keeps.foldl_snd_snd | with_reducible apply Keeps.foldl_snd | simp only [Keeps.lit_iff] | dsimp only [id_eq] | split)

theorem State.yieldLane_keeps {s₀ s : State} (down : Bool) (hk : Keeps s₀ s) : Keeps s₀ (s.yieldLane down) := by
  unfold State.yieldLane
  try dsimp only
  repeat' (first | with_reducible assumption | with_reducible rfl | intro _ | with_reducible apply State.modHly_keeps | with_reducible apply State.setLane_keeps | with_reducible apply Keeps.foldl | with_reducible apply Keeps.foldr | with_reducible apply Keeps.foldl_snd_snd | with_reducible apply Keeps.foldl_snd | simp only [Keeps.lit_iff] | dsimp only [id_eq] | split)

theorem State.forward_keeps {s₀ s : State} (fromDown : Bool) (f : Frame) (crcOk : Bool) (hk : Keeps s₀ s) : Keeps s₀ (s.forward fromDown f crcOk) := by
  unfold State.forward
  try dsimp only
  repeat' (first | with_reducible assumption | with_reducible rfl | intro _ | with_reducible apply State.setLane_keeps | with_reducible apply State.yieldLane_keeps | with_reducible apply Keeps.foldl | with_reducible apply Keeps.foldr | with_reducible apply Keeps.foldl_snd_snd | with_reducible apply Keeps.foldl_snd | simp only [Keeps.lit_iff] | dsimp only [id_eq] | split)

theorem State.arrive_keeps {s₀ s : State} (typ : BitVec 4) (f : Frame) (act : State → State) (hk : Keeps s₀ s) (hk_act : ∀ x0, Keeps s₀ x0 → Keeps s₀ (act x0)) : Keeps s₀ (s.arrive typ f act) := by
  unfold State.arrive
  try dsimp only
  repeat' (first | with_reducible assumption | with_reducible rfl | intro _ | with_reducible apply State.forward_keeps | with_reducible apply hk_act | with_reducible apply Keeps.foldl | with_reducible apply Keeps.foldr | with_reducible apply Keeps.foldl_snd_snd | with_reducible apply Keeps.foldl_snd | simp only [Keeps.lit_iff] | dsimp only [id_eq] | split)

theorem State.passOn_keeps {s₀ s : State} (fromDown : Bool) (f : Frame) (crcOk : Bool) (hk : Keeps s₀ s) : Keeps s₀ (s.passOn fromDown f crcOk) := by
  unfold State.passOn
  try dsimp only
  repeat' (first | with_reducible assumption | with_reducible rfl | intro _ | with_reducible apply State.forward_keeps | with_reducible apply State.modHly_keeps | with_reducible apply Keeps.foldl | with_reducible apply Keeps.foldr | with_reducible apply Keeps.foldl_snd_snd | with_reducible apply Keeps.foldl_snd | simp only [Keeps.lit_iff] | dsimp only [id_eq] | split)

theorem State.badFrame_keeps {s₀ s : State} (x : BadFrame) (hk : Keeps s₀ s) : Keeps s₀ (s.badFrame x) := by
  unfold State.badFrame
  try dsimp only
  repeat' (first | with_reducible assumption | with_reducible rfl | intro _ | with_reducible apply State.modHly_keeps | with_reducible apply Keeps.foldl | with_reducible apply Keeps.foldr | with_reducible apply Keeps.foldl_snd_snd | with_reducible apply Keeps.foldl_snd | simp only [Keeps.lit_iff] | dsimp only [id_eq] | split)

theorem State.setAlign_keeps {s₀ s : State} (x : AlignSt) (hk : Keeps s₀ s) : Keeps s₀ (s.setAlign x) := by
  unfold State.setAlign
  try dsimp only
  repeat' (first | with_reducible assumption | with_reducible rfl | intro _ | with_reducible apply State.modHly_keeps | with_reducible apply State.pulse_keeps | with_reducible apply Keeps.foldl | with_reducible apply Keeps.foldr | with_reducible apply Keeps.foldl_snd_snd | with_reducible apply Keeps.foldl_snd | simp only [Keeps.lit_iff] | dsimp only [id_eq] | split)

theorem State.moveTbase_keeps {s₀ s : State} (d : Int) (skip : Option Nat) (hk : Keeps s₀ s) : Keeps s₀ (s.moveTbase d skip) := by
  unfold State.moveTbase
  try dsimp only
  repeat' (first | with_reducible assumption | with_reducible rfl | intro _ | with_reducible apply State.addTbase_keeps | with_reducible apply State.edgesMoved_keeps | with_reducible apply Keeps.foldl | with_reducible apply Keeps.foldr | with_reducible apply Keeps.foldl_snd_snd | with_reducible apply Keeps.foldl_snd | simp only [Keeps.lit_iff] | dsimp only [id_eq] | split)

theorem State.beacon_keeps {s₀ s : State} (f : Frame) (stamp : DWord) (hk : Keeps s₀ s) : Keeps s₀ (s.beacon f stamp) := by
  unfold State.beacon
  try dsimp only
  repeat' (first | with_reducible assumption | with_reducible rfl | intro _ | with_reducible apply State.modHly_keeps | with_reducible apply State.moveTbase_keeps | with_reducible apply State.setAlign_keeps | with_reducible apply Keeps.foldl | with_reducible apply Keeps.foldr | with_reducible apply Keeps.foldl_snd_snd | with_reducible apply Keeps.foldl_snd | simp only [Keeps.lit_iff] | dsimp only [id_eq] | split)

theorem State.beaconSend_keeps {s₀ s : State} (hk : Keeps s₀ s) : Keeps s₀ s.beaconSend := by
  unfold State.beaconSend
  try dsimp only
  repeat' (first | with_reducible assumption | with_reducible rfl | intro _ | with_reducible apply State.modHly_keeps | with_reducible apply State.sendOwn_keeps | with_reducible apply Keeps.foldl | with_reducible apply Keeps.foldr | with_reducible apply Keeps.foldl_snd_snd | with_reducible apply Keeps.foldl_snd | simp only [Keeps.lit_iff] | dsimp only [id_eq] | split)

theorem State.beaconLoss_keeps {s₀ s : State} (hk : Keeps s₀ s) : Keeps s₀ s.beaconLoss := by
  unfold State.beaconLoss
  try dsimp only
  repeat' (first | with_reducible assumption | with_reducible rfl | intro _ | with_reducible apply State.setAlign_keeps | with_reducible apply Keeps.foldl | with_reducible apply Keeps.foldr | with_reducible apply Keeps.foldl_snd_snd | with_reducible apply Keeps.foldl_snd | simp only [Keeps.lit_iff] | dsimp only [id_eq] | split)

theorem State.slew_keeps {s₀ s : State} (forward : Bool) (hk : Keeps s₀ s) : Keeps s₀ (s.slew forward) := by
  unfold State.slew
  try dsimp only
  repeat' (first | with_reducible assumption | with_reducible rfl | intro _ | with_reducible apply State.modHly_keeps | with_reducible apply State.moveTbase_keeps | with_reducible apply Keeps.foldl | with_reducible apply Keeps.foldr | with_reducible apply Keeps.foldl_snd_snd | with_reducible apply Keeps.foldl_snd | simp only [Keeps.lit_iff] | dsimp only [id_eq] | split)

theorem State.measure_keeps {s₀ s : State} (hk : Keeps s₀ s) : Keeps s₀ s.measure := by
  unfold State.measure
  try dsimp only
  repeat' (first | with_reducible assumption | with_reducible rfl | intro _ | with_reducible apply State.modHly_keeps | with_reducible apply State.sendOwn_keeps | with_reducible apply Keeps.foldl | with_reducible apply Keeps.foldr | with_reducible apply Keeps.foldl_snd_snd | with_reducible apply Keeps.foldl_snd | simp only [Keeps.lit_iff] | dsimp only [id_eq] | split)

theorem State.dlyreq_keeps {s₀ s : State} (f : Frame) (stamp : DWord) (hk : Keeps s₀ s) : Keeps s₀ (s.dlyreq f stamp) := by
  unfold State.dlyreq
  try dsimp only
  repeat' (first | with_reducible assumption | with_reducible rfl | intro _ | with_reducible apply State.sendOwn_keeps | with_reducible apply Keeps.foldl | with_reducible apply Keeps.foldr | with_reducible apply Keeps.foldl_snd_snd | with_reducible apply Keeps.foldl_snd | simp only [Keeps.lit_iff] | dsimp only [id_eq] | split)

theorem State.dlyrsp_keeps {s₀ s : State} (f : Frame) (stamp : DWord) (hk : Keeps s₀ s) : Keeps s₀ (s.dlyrsp f stamp) := by
  unfold State.dlyrsp
  try dsimp only
  repeat' (first | with_reducible assumption | with_reducible rfl | intro _ | with_reducible apply State.modHly_keeps | with_reducible apply Keeps.foldl | with_reducible apply Keeps.foldr | with_reducible apply Keeps.foldl_snd_snd | with_reducible apply Keeps.foldl_snd | simp only [Keeps.lit_iff] | dsimp only [id_eq] | split)

theorem State.reacq_keeps {s₀ s : State} (hk : Keeps s₀ s) : Keeps s₀ s.reacq := by
  unfold State.reacq
  try dsimp only
  repeat' (first | with_reducible assumption | with_reducible rfl | intro _ | with_reducible apply State.setAlign_keeps | with_reducible apply Keeps.foldl | with_reducible apply Keeps.foldr | with_reducible apply Keeps.foldl_snd_snd | with_reducible apply Keeps.foldl_snd | simp only [Keeps.lit_iff] | dsimp only [id_eq] | split)

theorem State.alignLink_keeps {s₀ s : State} (hk : Keeps s₀ s) : Keeps s₀ s.alignLink := by
  unfold State.alignLink
  try dsimp only
  repeat' (first | with_reducible assumption | with_reducible rfl | intro _ | with_reducible apply State.setAlign_keeps | with_reducible apply Keeps.foldl | with_reducible apply Keeps.foldr | with_reducible apply Keeps.foldl_snd_snd | with_reducible apply Keeps.foldl_snd | simp only [Keeps.lit_iff] | dsimp only [id_eq] | split)

theorem State.linkTrain_keeps {s₀ s : State} (down : Bool) (hk : Keeps s₀ s) : Keeps s₀ (s.linkTrain down) := by
  unfold State.linkTrain
  try dsimp only
  repeat' (first | with_reducible assumption | with_reducible rfl | intro _ | with_reducible apply State.setLink_keeps | with_reducible apply Keeps.foldl | with_reducible apply Keeps.foldr | with_reducible apply Keeps.foldl_snd_snd | with_reducible apply Keeps.foldl_snd | simp only [Keeps.lit_iff] | dsimp only [id_eq] | split)

theorem State.linkUp_keeps {s₀ s : State} (down : Bool) (hk : Keeps s₀ s) : Keeps s₀ (s.linkUp down) := by
  unfold State.linkUp
  try dsimp only
  repeat' (first | with_reducible assumption | with_reducible rfl | intro _ | with_reducible apply State.alignLink_keeps | with_reducible apply State.setLink_keeps | with_reducible apply Keeps.foldl | with_reducible apply Keeps.foldr | with_reducible apply Keeps.foldl_snd_snd | with_reducible apply Keeps.foldl_snd | simp only [Keeps.lit_iff] | dsimp only [id_eq] | split)

theorem State.linkDown_keeps {s₀ s : State} (down : Bool) (errs : BitVec 8) (hk : Keeps s₀ s) : Keeps s₀ (s.linkDown down errs) := by
  unfold State.linkDown
  try dsimp only
  repeat' (first | with_reducible assumption | with_reducible rfl | intro _ | with_reducible apply State.alignLink_keeps | with_reducible apply State.modHly_keeps | with_reducible apply State.setLink_keeps | with_reducible apply Keeps.foldl | with_reducible apply Keeps.foldr | with_reducible apply Keeps.foldl_snd_snd | with_reducible apply Keeps.foldl_snd | simp only [Keeps.lit_iff] | dsimp only [id_eq] | split)

theorem State.setNodes_keeps {s₀ s : State} (n : Nat) (hk : Keeps s₀ s) : Keeps s₀ (s.setNodes n) := by
  unfold State.setNodes
  try dsimp only
  repeat' (first | with_reducible assumption | with_reducible rfl | intro _ | with_reducible apply State.modHly_keeps | with_reducible apply State.pulse_keeps | with_reducible apply Keeps.foldl | with_reducible apply Keeps.foldr | with_reducible apply Keeps.foldl_snd_snd | with_reducible apply Keeps.foldl_snd | simp only [Keeps.lit_iff] | dsimp only [id_eq] | split)

theorem State.rollcall_keeps {s₀ s : State} (f : Frame) (hk : Keeps s₀ s) : Keeps s₀ (s.rollcall f) := by
  unfold State.rollcall
  try dsimp only
  repeat' (first | with_reducible assumption | with_reducible rfl | intro _ | with_reducible apply State.modHly_keeps | with_reducible apply State.sendOwn_keeps | with_reducible apply State.setNodes_keeps | with_reducible apply Keeps.foldl | with_reducible apply Keeps.foldr | with_reducible apply Keeps.foldl_snd_snd | with_reducible apply Keeps.foldl_snd | simp only [Keeps.lit_iff] | dsimp only [id_eq] | split)

theorem State.rollend_keeps {s₀ s : State} (f : Frame) (hk : Keeps s₀ s) : Keeps s₀ (s.rollend f) := by
  unfold State.rollend
  try dsimp only
  repeat' (first | with_reducible assumption | with_reducible rfl | intro _ | with_reducible apply State.setNodes_keeps | with_reducible apply Keeps.foldl | with_reducible apply Keeps.foldr | with_reducible apply Keeps.foldl_snd_snd | with_reducible apply Keeps.foldl_snd | simp only [Keeps.lit_iff] | dsimp only [id_eq] | split)

theorem State.cmdRollcall_keeps {s₀ s : State} (hk : Keeps s₀ s) : Keeps s₀ s.cmdRollcall := by
  unfold State.cmdRollcall
  try dsimp only
  repeat' (first | with_reducible assumption | with_reducible rfl | intro _ | with_reducible apply State.sendOwn_keeps | with_reducible apply State.setNodes_keeps | with_reducible apply Keeps.foldl | with_reducible apply Keeps.foldr | with_reducible apply Keeps.foldl_snd_snd | with_reducible apply Keeps.foldl_snd | simp only [Keeps.lit_iff] | dsimp only [id_eq] | split)

theorem State.receive_keeps {s₀ s : State} (status : Bool) (f : Frame) (hk : Keeps s₀ s) : Keeps s₀ (s.receive status f) := by
  unfold State.receive
  try dsimp only
  repeat' (first | with_reducible assumption | with_reducible rfl | intro _ | with_reducible apply State.modHly_keeps | with_reducible apply State.pulse_keeps | with_reducible apply Keeps.foldl | with_reducible apply Keeps.foldr | with_reducible apply Keeps.foldl_snd_snd | with_reducible apply Keeps.foldl_snd | simp only [Keeps.lit_iff] | dsimp only [id_eq] | split)

theorem State.tunnel_keeps {s₀ s : State} (f : Frame) (hk : Keeps s₀ s) : Keeps s₀ (s.tunnel f) := by
  unfold State.tunnel
  try dsimp only
  repeat' (first | with_reducible assumption | with_reducible rfl | intro _ | with_reducible apply State.arrive_keeps | with_reducible apply State.receive_keeps | with_reducible apply Keeps.foldl | with_reducible apply Keeps.foldr | with_reducible apply Keeps.foldl_snd_snd | with_reducible apply Keeps.foldl_snd | simp only [Keeps.lit_iff] | dsimp only [id_eq] | split)

theorem State.txmsg_keeps {s₀ s : State} (hk : Keeps s₀ s) : Keeps s₀ s.txmsg := by
  unfold State.txmsg
  try dsimp only
  repeat' (first | with_reducible assumption | with_reducible rfl | intro _ | with_reducible apply State.sendOwn_keeps | with_reducible apply Keeps.foldl | with_reducible apply Keeps.foldr | with_reducible apply Keeps.foldl_snd_snd | with_reducible apply Keeps.foldl_snd | simp only [Keeps.lit_iff] | dsimp only [id_eq] | split)

theorem State.rxPop_keeps {s₀ s : State} (hk : Keeps s₀ s) : Keeps s₀ s.rxPop := by
  unfold State.rxPop
  try dsimp only
  repeat' (first | with_reducible assumption | with_reducible rfl | intro _ | with_reducible apply State.modHly_keeps | with_reducible apply Keeps.foldl | with_reducible apply Keeps.foldr | with_reducible apply Keeps.foldl_snd_snd | with_reducible apply Keeps.foldl_snd | simp only [Keeps.lit_iff] | dsimp only [id_eq] | split)

theorem State.rxctlWrite_keeps {s₀ s : State} (v : Word) (hk : Keeps s₀ s) : Keeps s₀ (s.rxctlWrite v) := by
  unfold State.rxctlWrite
  try dsimp only
  repeat' (first | with_reducible assumption | with_reducible rfl | intro _ | with_reducible apply State.modHly_keeps | with_reducible apply State.rxPop_keeps | with_reducible apply Keeps.foldl | with_reducible apply Keeps.foldr | with_reducible apply Keeps.foldl_snd_snd | with_reducible apply Keeps.foldl_snd | simp only [Keeps.lit_iff] | dsimp only [id_eq] | split)

theorem State.query_keeps {s₀ s : State} (f : Frame) (hk : Keeps s₀ s) : Keeps s₀ (s.query f) := by
  unfold State.query
  try dsimp only
  repeat' (first | with_reducible assumption | with_reducible rfl | intro _ | with_reducible apply State.modHly_keeps | with_reducible apply Keeps.foldl | with_reducible apply Keeps.foldr | with_reducible apply Keeps.foldl_snd_snd | with_reducible apply Keeps.foldl_snd | simp only [Keeps.lit_iff] | dsimp only [id_eq] | split)

theorem State.hlyCtlWrite_keeps {s₀ s : State} (v : Word) (hk : Keeps s₀ s) : Keeps s₀ (s.hlyCtlWrite v) := by
  unfold State.hlyCtlWrite
  try dsimp only
  repeat' (first | with_reducible assumption | with_reducible rfl | intro _ | with_reducible apply State.alignLink_keeps | with_reducible apply State.modHly_keeps | with_reducible apply State.setAlign_keeps | with_reducible apply State.storeRw_keeps | with_reducible apply Keeps.foldl | with_reducible apply Keeps.foldr | with_reducible apply Keeps.foldl_snd_snd | with_reducible apply Keeps.foldl_snd | simp only [Keeps.lit_iff] | dsimp only [id_eq] | split)

theorem State.tctlHlyWrite_keeps {s₀ s : State} (v : Word) (hk : Keeps s₀ s) : Keeps s₀ (s.tctlHlyWrite v) := by
  unfold State.tctlHlyWrite
  try dsimp only
  repeat' (first | with_reducible assumption | with_reducible rfl | intro _ | with_reducible apply State.storeRw_keeps | with_reducible apply Keeps.foldl | with_reducible apply Keeps.foldr | with_reducible apply Keeps.foldl_snd_snd | with_reducible apply Keeps.foldl_snd | simp only [Keeps.lit_iff] | dsimp only [id_eq] | split)

theorem State.loopFrame_keeps {s₀ s : State} (f : Frame) (hk : Keeps s₀ s) : Keeps s₀ (s.loopFrame f) := by
  unfold State.loopFrame
  try dsimp only
  repeat' (first | with_reducible assumption | with_reducible rfl | intro _ | with_reducible apply State.modHly_keeps | with_reducible apply Keeps.foldl | with_reducible apply Keeps.foldr | with_reducible apply Keeps.foldl_snd_snd | with_reducible apply Keeps.foldl_snd | simp only [Keeps.lit_iff] | dsimp only [id_eq] | split)

end Sys2Proof.Machine
end

