-- ==== Sys2Proof/Laws/Keep/Update.lean ====
section
/-! SUPPORT. The definitions of Machine/Update.lean keep what `Keeps` names. -/

set_option linter.unusedTactic false
set_option linter.unreachableTactic false
set_option linter.unusedSimpArgs false
set_option linter.unnecessarySimpa false

namespace Sys2Proof.Machine

theorem State.modUpd_keeps {s₀ s : State} (f : UpdS → UpdS) (hk : Keeps s₀ s) (hf : ∀ u, (f u).lc = u.lc) :
    Keeps s₀ (s.modUpd f) := hk.like rfl rfl rfl rfl rfl rfl (hf s.upd)

theorem State.placeWords_keeps {s₀ s : State} (m : Mem) (b : Barrel) (bankY : Bool) (off dest n : Nat) (hk : Keeps s₀ s) :
    Keeps s₀ (s.placeWords m b bankY off dest n) := by
  induction n with
  | zero => exact hk
  | succ n ih => exact State.setIns_keeps _ _ _ _ ih

theorem State.placeCode_keeps {s₀ s : State} (m : Mem) (bankY : Barrel → Bool) (hk : Keeps s₀ s) : Keeps s₀ (s.placeCode m bankY) := by
  unfold State.placeCode
  try dsimp only
  repeat' (first | with_reducible assumption | with_reducible rfl | intro _ | with_reducible apply State.heal_keeps | with_reducible apply State.placeWords_keeps | with_reducible apply Keeps.foldl | with_reducible apply Keeps.foldr | with_reducible apply Keeps.foldl_snd_snd | with_reducible apply Keeps.foldl_snd | simp only [Keeps.lit_iff] | dsimp only [id_eq] | split)

theorem UpdS.write_keeps (u : UpdS) (n : Nat) (r : JRec) : (u.write n r).lc = u.lc := by
  induction n generalizing u r with
  | zero => rfl
  | succ n ih =>
    unfold UpdS.write
    dsimp only
    split
    · rfl
    · split
      · split
        · rw [ih]
        · rfl
      · rfl

theorem State.journal_keeps {s₀ s : State} (r : JRec) (hk : Keeps s₀ s) : Keeps s₀ (s.journal r) :=
  State.mramWrite_keeps (State.modUpd_keeps _ hk (fun _ => UpdS.write_keeps _ _ _))

theorem State.record_keeps {s₀ s : State} (typ : Nat) (cls : BitVec 4) (bell : DWord) (hk : Keeps s₀ s) : Keeps s₀ (s.record typ cls bell) := by
  unfold State.record
  try dsimp only
  repeat' (first | with_reducible assumption | with_reducible rfl | intro _ | with_reducible apply State.journal_keeps | with_reducible apply Keeps.foldl | with_reducible apply Keeps.foldr | with_reducible apply Keeps.foldl_snd_snd | with_reducible apply Keeps.foldl_snd | simp only [Keeps.lit_iff] | dsimp only [id_eq] | split)

theorem State.outcome_keeps {s₀ s : State} (out : BitVec 3) (cause : BitVec 8) (hk : Keeps s₀ s) : Keeps s₀ (s.outcome out cause) := by
  unfold State.outcome
  try dsimp only
  repeat' (first | with_reducible assumption | with_reducible rfl | intro _ | with_reducible apply State.modUpd_keeps | with_reducible apply State.pulse_keeps | with_reducible apply Keeps.foldl | with_reducible apply Keeps.foldr | with_reducible apply Keeps.foldl_snd_snd | with_reducible apply Keeps.foldl_snd | simp only [Keeps.lit_iff] | dsimp only [id_eq] | split)

theorem State.updErr_keeps {s₀ s : State} (e : BitVec 4) (hk : Keeps s₀ s) : Keeps s₀ (s.updErr e) := by
  unfold State.updErr
  try dsimp only
  repeat' (first | with_reducible assumption | with_reducible rfl | intro _ | with_reducible apply State.modUpd_keeps | with_reducible apply Keeps.foldl | with_reducible apply Keeps.foldr | with_reducible apply Keeps.foldl_snd_snd | with_reducible apply Keeps.foldl_snd | simp only [Keeps.lit_iff] | dsimp only [id_eq] | split)

theorem State.voidOrder_keeps {s₀ s : State} (cause : BitVec 8) (hk : Keeps s₀ s) : Keeps s₀ (s.voidOrder cause) := by
  unfold State.voidOrder
  try dsimp only
  repeat' (first | with_reducible assumption | with_reducible rfl | intro _ | with_reducible apply State.modUpd_keeps | with_reducible apply State.outcome_keeps | with_reducible apply State.record_keeps | with_reducible apply Keeps.foldl | with_reducible apply Keeps.foldr | with_reducible apply Keeps.foldl_snd_snd | with_reducible apply Keeps.foldl_snd | simp only [Keeps.lit_iff] | dsimp only [id_eq] | split)

theorem State.startDownload_keeps {s₀ s : State} (id : DWord) (len : Word) (hk : Keeps s₀ s) : Keeps s₀ (s.startDownload id len) := by
  unfold State.startDownload
  try dsimp only
  repeat' (first | with_reducible assumption | with_reducible rfl | intro _ | with_reducible apply State.modUpd_keeps | with_reducible apply State.record_keeps | with_reducible apply Keeps.foldl | with_reducible apply Keeps.foldr | with_reducible apply Keeps.foldl_snd_snd | with_reducible apply Keeps.foldl_snd | simp only [Keeps.lit_iff] | dsimp only [id_eq] | split)

theorem State.askFallback_keeps {s₀ s : State} (n : DWord) (hk : Keeps s₀ s) : Keeps s₀ (s.askFallback n) := by
  unfold State.askFallback
  try dsimp only
  repeat' (first | with_reducible assumption | with_reducible rfl | intro _ | with_reducible apply State.modUpd_keeps | with_reducible apply State.stage_keeps | with_reducible apply Keeps.foldl | with_reducible apply Keeps.foldr | with_reducible apply Keeps.foldl_snd_snd | with_reducible apply Keeps.foldl_snd | simp only [Keeps.lit_iff] | dsimp only [id_eq] | split)

theorem State.updBegin_keeps {s₀ s : State} (id : DWord) (len : Word) (hk : Keeps s₀ s) : Keeps s₀ (s.updBegin id len) := by
  unfold State.updBegin
  try dsimp only
  repeat' (first | with_reducible assumption | with_reducible rfl | intro _ | with_reducible apply State.askFallback_keeps | with_reducible apply State.modUpd_keeps | with_reducible apply State.stage_keeps | with_reducible apply State.startDownload_keeps | with_reducible apply State.updErr_keeps | with_reducible apply State.voidOrder_keeps | with_reducible apply Keeps.foldl | with_reducible apply Keeps.foldr | with_reducible apply Keeps.foldl_snd_snd | with_reducible apply Keeps.foldl_snd | simp only [Keeps.lit_iff] | dsimp only [id_eq] | split)

theorem State.storeImage_keeps {s₀ s : State} (off : Nat) (l : List Byte) (hk : Keeps s₀ s) : Keeps s₀ (s.storeImage off l) := by
  unfold State.storeImage
  try dsimp only
  repeat' (first | with_reducible assumption | with_reducible rfl | intro _ | with_reducible apply State.modUpd_keeps | with_reducible apply State.mramHeal_keeps | with_reducible apply State.mramWrite_keeps | with_reducible apply Keeps.foldl | with_reducible apply Keeps.foldr | with_reducible apply Keeps.foldl_snd_snd | with_reducible apply Keeps.foldl_snd | simp only [Keeps.lit_iff] | dsimp only [id_eq] | split)

theorem State.chunkDone_keeps {s₀ s : State} (seq : Option (Nat × Nat)) (hk : Keeps s₀ s) : Keeps s₀ (s.chunkDone seq) := by
  unfold State.chunkDone
  try dsimp only
  repeat' (first | with_reducible assumption | with_reducible rfl | intro _ | with_reducible apply State.modUpd_keeps | with_reducible apply State.pulse_keeps | with_reducible apply Keeps.foldl | with_reducible apply Keeps.foldr | with_reducible apply Keeps.foldl_snd_snd | with_reducible apply Keeps.foldl_snd | simp only [Keeps.lit_iff] | dsimp only [id_eq] | split)

theorem State.iwinWrite_keeps {s₀ s : State} (off : Nat) (data : List Byte) (hk : Keeps s₀ s) : Keeps s₀ (s.iwinWrite off data) := by
  unfold State.iwinWrite
  try dsimp only
  repeat' (first | with_reducible assumption | with_reducible rfl | intro _ | with_reducible apply State.chunkDone_keeps | with_reducible apply State.modUpd_keeps | with_reducible apply State.stage_keeps | with_reducible apply State.storeImage_keeps | with_reducible apply Keeps.foldl | with_reducible apply Keeps.foldr | with_reducible apply Keeps.foldl_snd_snd | with_reducible apply Keeps.foldl_snd | simp only [Keeps.lit_iff] | dsimp only [id_eq] | split)

theorem State.imageFrame_keeps {s₀ s : State} (f : Frame) (hk : Keeps s₀ s) : Keeps s₀ (s.imageFrame f) := by
  unfold State.imageFrame
  try dsimp only
  repeat' (first | with_reducible assumption | with_reducible rfl | intro _ | with_reducible apply State.chunkDone_keeps | with_reducible apply State.modUpd_keeps | with_reducible apply State.stage_keeps | with_reducible apply State.storeImage_keeps | with_reducible apply Keeps.foldl | with_reducible apply Keeps.foldr | with_reducible apply Keeps.foldl_snd_snd | with_reducible apply Keeps.foldl_snd | simp only [Keeps.lit_iff] | dsimp only [id_eq] | split)

theorem State.updSend_keeps {s₀ s : State} (hk : Keeps s₀ s) : Keeps s₀ s.updSend := by
  unfold State.updSend
  try dsimp only
  repeat' (first | with_reducible assumption | with_reducible rfl | intro _ | with_reducible apply State.sendOwn_keeps | with_reducible apply State.stage_keeps | with_reducible apply State.updErr_keeps | with_reducible apply Keeps.foldl | with_reducible apply Keeps.foldr | with_reducible apply Keeps.foldl_snd_snd | with_reducible apply Keeps.foldl_snd | simp only [Keeps.lit_iff] | dsimp only [id_eq] | split)

theorem State.beginVerify_keeps {s₀ s : State} (hk : Keeps s₀ s) : Keeps s₀ s.beginVerify := by
  unfold State.beginVerify
  try dsimp only
  repeat' (first | with_reducible assumption | with_reducible rfl | intro _ | with_reducible apply State.modUpd_keeps | with_reducible apply Keeps.foldl | with_reducible apply Keeps.foldr | with_reducible apply Keeps.foldl_snd_snd | with_reducible apply Keeps.foldl_snd | simp only [Keeps.lit_iff] | dsimp only [id_eq] | split)

theorem State.updVerify_keeps {s₀ s : State} (hk : Keeps s₀ s) : Keeps s₀ s.updVerify := by
  unfold State.updVerify
  try dsimp only
  repeat' (first | with_reducible assumption | with_reducible rfl | intro _ | with_reducible apply State.beginVerify_keeps | with_reducible apply State.stage_keeps | with_reducible apply State.updErr_keeps | with_reducible apply Keeps.foldl | with_reducible apply Keeps.foldr | with_reducible apply Keeps.foldl_snd_snd | with_reducible apply Keeps.foldl_snd | simp only [Keeps.lit_iff] | dsimp only [id_eq] | split)

theorem State.verifyEnd_keeps {s₀ s : State} (e : Ecc) (hk : Keeps s₀ s) : Keeps s₀ (s.verifyEnd e) := by
  unfold State.verifyEnd
  try dsimp only
  repeat' (first | with_reducible assumption | with_reducible rfl | intro _ | with_reducible apply State.modUpd_keeps | with_reducible apply State.pulse_keeps | with_reducible apply State.record_keeps | with_reducible apply State.stage_keeps | with_reducible apply Keeps.foldl | with_reducible apply Keeps.foldr | with_reducible apply Keeps.foldl_snd_snd | with_reducible apply Keeps.foldl_snd | simp only [Keeps.lit_iff] | dsimp only [id_eq] | split)

theorem State.updActivate_keeps {s₀ s : State} (id : DWord) (b : Bell) (n : DWord) (hk : Keeps s₀ s) : Keeps s₀ (s.updActivate id b n) := by
  unfold State.updActivate
  try dsimp only
  repeat' (first | with_reducible assumption | with_reducible rfl | intro _ | with_reducible apply State.modUpd_keeps | with_reducible apply State.outcome_keeps | with_reducible apply State.record_keeps | with_reducible apply State.stage_keeps | with_reducible apply State.updErr_keeps | with_reducible apply Keeps.foldl | with_reducible apply Keeps.foldr | with_reducible apply Keeps.foldl_snd_snd | with_reducible apply Keeps.foldl_snd | simp only [Keeps.lit_iff] | dsimp only [id_eq] | split)

theorem State.copyNote_keeps {s₀ s : State} (e : Ecc) (hk : Keeps s₀ s) : Keeps s₀ (s.copyNote e) := by
  unfold State.copyNote
  try dsimp only
  repeat' (first | with_reducible assumption | with_reducible rfl | intro _ | with_reducible apply State.logError_keeps | with_reducible apply State.mramFix_keeps | with_reducible apply State.uncorrectable_keeps | with_reducible apply Keeps.foldl | with_reducible apply Keeps.foldr | with_reducible apply Keeps.foldl_snd_snd | with_reducible apply Keeps.foldl_snd | simp only [Keeps.lit_iff] | dsimp only [id_eq] | split)

theorem State.codeCopied_keeps {s₀ s : State} (e : Ecc) (hk : Keeps s₀ s) : Keeps s₀ (s.codeCopied e) := by
  unfold State.codeCopied
  try dsimp only
  repeat' (first | with_reducible assumption | with_reducible rfl | intro _ | with_reducible apply State.copyNote_keeps | with_reducible apply State.modUpd_keeps | with_reducible apply State.placeCode_keeps | with_reducible apply State.stage_keeps | with_reducible apply State.uncorrectable_keeps | with_reducible apply Keeps.foldl | with_reducible apply Keeps.foldr | with_reducible apply Keeps.foldl_snd_snd | with_reducible apply Keeps.foldl_snd | simp only [Keeps.lit_iff] | dsimp only [id_eq] | split)

theorem State.updCancel_keeps {s₀ s : State} (hk : Keeps s₀ s) : Keeps s₀ s.updCancel := by
  unfold State.updCancel
  try dsimp only
  repeat' (first | with_reducible assumption | with_reducible rfl | intro _ | with_reducible apply State.stage_keeps | with_reducible apply State.updErr_keeps | with_reducible apply State.voidOrder_keeps | with_reducible apply Keeps.foldl | with_reducible apply Keeps.foldr | with_reducible apply Keeps.foldl_snd_snd | with_reducible apply Keeps.foldl_snd | simp only [Keeps.lit_iff] | dsimp only [id_eq] | split)

theorem State.updConfirm_keeps {s₀ s : State} (hk : Keeps s₀ s) : Keeps s₀ s.updConfirm := by
  unfold State.updConfirm
  try dsimp only
  repeat' (first | with_reducible assumption | with_reducible rfl | intro _ | with_reducible apply State.modUpd_keeps | with_reducible apply State.pulse_keeps | with_reducible apply State.record_keeps | with_reducible apply State.stage_keeps | with_reducible apply State.updErr_keeps | with_reducible apply Keeps.foldl | with_reducible apply Keeps.foldr | with_reducible apply Keeps.foldl_snd_snd | with_reducible apply Keeps.foldl_snd | simp only [Keeps.lit_iff] | dsimp only [id_eq] | split)

theorem State.updFallback_keeps {s₀ s : State} (n : DWord) (hk : Keeps s₀ s) : Keeps s₀ (s.updFallback n) := by
  unfold State.updFallback
  try dsimp only
  repeat' (first | with_reducible assumption | with_reducible rfl | intro _ | with_reducible apply State.askFallback_keeps | with_reducible apply State.stage_keeps | with_reducible apply State.updErr_keeps | with_reducible apply Keeps.foldl | with_reducible apply Keeps.foldr | with_reducible apply Keeps.foldl_snd_snd | with_reducible apply Keeps.foldl_snd | simp only [Keeps.lit_iff] | dsimp only [id_eq] | split)

theorem State.confirmTimeout_keeps {s₀ s : State} (hk : Keeps s₀ s) : Keeps s₀ s.confirmTimeout := by
  unfold State.confirmTimeout
  try dsimp only
  repeat' (first | with_reducible assumption | with_reducible rfl | intro _ | with_reducible apply State.askFallback_keeps | with_reducible apply State.modUpd_keeps | with_reducible apply Keeps.foldl | with_reducible apply Keeps.foldr | with_reducible apply Keeps.foldl_snd_snd | with_reducible apply Keeps.foldl_snd | simp only [Keeps.lit_iff] | dsimp only [id_eq] | split)

theorem State.moveEnd_keeps {s₀ s : State} (c : Bell) (hk : Keeps s₀ s) : Keeps s₀ (s.moveEnd c) := by
  unfold State.moveEnd
  try dsimp only
  repeat' (first | with_reducible assumption | with_reducible rfl | intro _ | with_reducible apply State.modUpd_keeps | with_reducible apply Keeps.foldl | with_reducible apply Keeps.foldr | with_reducible apply Keeps.foldl_snd_snd | with_reducible apply Keeps.foldl_snd | simp only [Keeps.lit_iff] | dsimp only [id_eq] | split)

theorem State.updOp_keeps {s₀ s : State} (op : Nat) (b : Bell) (len : Word) (id n : DWord) (hk : Keeps s₀ s) : Keeps s₀ (s.updOp op b len id n) := by
  unfold State.updOp
  try dsimp only
  repeat' (first | with_reducible assumption | with_reducible rfl | intro _ | with_reducible apply State.updActivate_keeps | with_reducible apply State.updBegin_keeps | with_reducible apply State.updCancel_keeps | with_reducible apply State.updConfirm_keeps | with_reducible apply State.updFallback_keeps | with_reducible apply State.updVerify_keeps | with_reducible apply Keeps.foldl | with_reducible apply Keeps.foldr | with_reducible apply Keeps.foldl_snd_snd | with_reducible apply Keeps.foldl_snd | simp only [Keeps.lit_iff] | dsimp only [id_eq] | split)

theorem State.orderFrame_keeps {s₀ s : State} (f : Frame) (hk : Keeps s₀ s) : Keeps s₀ (s.orderFrame f) := by
  unfold State.orderFrame
  try dsimp only
  repeat' (first | with_reducible assumption | with_reducible rfl | intro _ | with_reducible apply State.updOp_keeps | with_reducible apply Keeps.foldl | with_reducible apply Keeps.foldr | with_reducible apply Keeps.foldl_snd_snd | with_reducible apply Keeps.foldl_snd | simp only [Keeps.lit_iff] | dsimp only [id_eq] | split)

theorem State.updCommand_keeps {s₀ s : State} (op : Nat) (chain : Bool) (hk : Keeps s₀ s) : Keeps s₀ (s.updCommand op chain) := by
  unfold State.updCommand
  try dsimp only
  repeat' (first | with_reducible assumption | with_reducible rfl | intro _ | with_reducible apply State.sendOwn_keeps | with_reducible apply State.updOp_keeps | with_reducible apply Keeps.foldl | with_reducible apply Keeps.foldr | with_reducible apply Keeps.foldl_snd_snd | with_reducible apply Keeps.foldl_snd | simp only [Keeps.lit_iff] | dsimp only [id_eq] | split)

theorem State.statusReply_keeps {s₀ s : State} (hk : Keeps s₀ s) : Keeps s₀ s.statusReply := by
  unfold State.statusReply
  try dsimp only
  repeat' (first | with_reducible assumption | with_reducible rfl | intro _ | with_reducible apply State.modHly_keeps | with_reducible apply State.outcome_keeps | with_reducible apply State.sendOwn_keeps | with_reducible apply State.stage_keeps | with_reducible apply Keeps.foldl | with_reducible apply Keeps.foldr | with_reducible apply Keeps.foldl_snd_snd | with_reducible apply Keeps.foldl_snd | simp only [Keeps.lit_iff] | dsimp only [id_eq] | split)

theorem State.setBegin_keeps {s₀ s : State} (hk : Keeps s₀ s) : Keeps s₀ s.setBegin := by
  unfold State.setBegin
  try dsimp only
  repeat' (first | with_reducible assumption | with_reducible rfl | intro _ | with_reducible apply State.modUpd_keeps | with_reducible apply State.stage_keeps | with_reducible apply State.updErr_keeps | with_reducible apply Keeps.foldl | with_reducible apply Keeps.foldr | with_reducible apply Keeps.foldl_snd_snd | with_reducible apply Keeps.foldl_snd | simp only [Keeps.lit_iff] | dsimp only [id_eq] | split)

theorem State.swinWrite_keeps {s₀ s : State} (off : Nat) (data : List Byte) (hk : Keeps s₀ s) : Keeps s₀ (s.swinWrite off data) := by
  unfold State.swinWrite
  try dsimp only
  repeat' (first | with_reducible assumption | with_reducible rfl | intro _ | with_reducible apply State.modUpd_keeps | with_reducible apply State.mramWrite_keeps | with_reducible apply Keeps.foldl | with_reducible apply Keeps.foldr | with_reducible apply Keeps.foldl_snd_snd | with_reducible apply Keeps.foldl_snd | simp only [Keeps.lit_iff] | dsimp only [id_eq] | split)

theorem State.setCommit_keeps {s₀ s : State} (hk : Keeps s₀ s) : Keeps s₀ s.setCommit := by
  unfold State.setCommit
  try dsimp only
  repeat' (first | with_reducible assumption | with_reducible rfl | intro _ | with_reducible apply State.journal_keeps | with_reducible apply State.modUpd_keeps | with_reducible apply State.updErr_keeps | with_reducible apply Keeps.foldl | with_reducible apply Keeps.foldr | with_reducible apply Keeps.foldl_snd_snd | with_reducible apply Keeps.foldl_snd | simp only [Keeps.lit_iff] | dsimp only [id_eq] | split)

theorem State.lcResult_keeps {s₀ s : State} (e : BitVec 3) (hk : Keeps s₀ s) : Keeps s₀ (s.lcResult e) := by
  unfold State.lcResult
  try dsimp only
  repeat' (first | with_reducible assumption | with_reducible rfl | intro _ | with_reducible apply State.modUpd_keeps | with_reducible apply Keeps.foldl | with_reducible apply Keeps.foldr | with_reducible apply Keeps.foldl_snd_snd | with_reducible apply Keeps.foldl_snd | simp only [Keeps.lit_iff] | dsimp only [id_eq] | split)

theorem State.withPresence_keeps {s₀ s : State} (err : BitVec 3) (act : State → State) (hk : Keeps s₀ s) (hk_act : ∀ x0, Keeps s₀ x0 → Keeps s₀ (act x0)) : Keeps s₀ (s.withPresence err act) := by
  unfold State.withPresence
  try dsimp only
  repeat' (first | with_reducible assumption | with_reducible rfl | intro _ | with_reducible apply State.lcResult_keeps | with_reducible apply hk_act | with_reducible apply Keeps.foldl | with_reducible apply Keeps.foldr | with_reducible apply Keeps.foldl_snd_snd | with_reducible apply Keeps.foldl_snd | simp only [Keeps.lit_iff] | dsimp only [id_eq] | split)

theorem State.lcEnter_keeps {s₀ s : State} (goal : LcState) (hk : Keeps s₀ s) (hn : s₀.isScrapped = true → goal = .scrapped) :
    Keeps s₀ (s.lcEnter goal) := by
  have h1 : Keeps s₀ (s.startWipe 2) := State.startWipe_keeps _ hk
  have h2 : Keeps s₀ ((s.startWipe 2).modUpd (fun u => { u with lc := goal })) :=
    ⟨h1.pending, h1.stage, h1.mem, fun m => by simp [State.isScrapped, State.modUpd, hn m]⟩
  have h3 := State.pulse_keeps 0x7EF (State.mramWrite_keeps h2)
  unfold State.lcEnter
  dsimp only
  split
  · exact State.modUpd_keeps _ h3 (fun _ => rfl)
  · exact State.modUpd_keeps _ (State.mramHeal_keeps _ _ h3) (fun _ => rfl)
  · exact State.modUpd_keeps _ (State.mramHeal_keeps _ _ h3) (fun _ => rfl)
  · exact h3

end Sys2Proof.Machine
end

