-- ==== Sys2Proof/Laws/Keep/RegRead.lean ====
section
/-! SUPPORT. The definitions of Machine/RegRead.lean keep what `Keeps` names. -/

set_option linter.unusedTactic false
set_option linter.unreachableTactic false
set_option linter.unusedSimpArgs false
set_option linter.unnecessarySimpa false

namespace Sys2Proof.Machine

theorem State.readEffect_keeps {s₀ s : State} (a : Agent) (y0 : Reg) (hk : Keeps s₀ s) : Keeps s₀ (s.readEffect a y0) := by
  cases y0 <;> first | (show Keeps s₀ s; exact hk) | skip
  all_goals unfold State.readEffect
  all_goals try dsimp only
  all_goals repeat' (first | with_reducible assumption | with_reducible rfl | intro _ | with_reducible apply State.capwRead_keeps | with_reducible apply State.modAll_keeps | with_reducible apply State.modBar_keeps | with_reducible apply State.modBell_keeps | with_reducible apply State.modHly_keeps | with_reducible apply State.modHost_keeps | with_reducible apply State.modHps_keeps | with_reducible apply State.modPin_keeps | with_reducible apply State.modSinc_keeps | with_reducible apply State.tbaseRead_keeps | with_reducible apply Keeps.foldl | with_reducible apply Keeps.foldr | with_reducible apply Keeps.foldl_snd_snd | with_reducible apply Keeps.foldl_snd | simp only [Keeps.lit_iff] | dsimp only [id_eq] | split)

theorem State.readReg_keeps {s₀ s : State} (a : Agent) (r : Reg) (hk : Keeps s₀ s) : Keeps s₀ (s.readReg a r).2 := by
  unfold State.readReg
  try dsimp only
  repeat' (first | with_reducible assumption | with_reducible rfl | intro _ | with_reducible apply State.readEffect_keeps | with_reducible apply Keeps.foldl | with_reducible apply Keeps.foldr | with_reducible apply Keeps.foldl_snd_snd | with_reducible apply Keeps.foldl_snd | simp only [Keeps.lit_iff] | dsimp only [id_eq] | split)

theorem State.takeCard_keeps {s₀ s : State} (hk : Keeps s₀ s) : Keeps s₀ s.takeCard := by
  unfold State.takeCard
  try dsimp only
  repeat' (first | with_reducible assumption | with_reducible rfl | intro _ | with_reducible apply Keeps.foldl | with_reducible apply Keeps.foldr | with_reducible apply Keeps.foldl_snd_snd | with_reducible apply Keeps.foldl_snd | simp only [Keeps.lit_iff] | dsimp only [id_eq] | split)

theorem State.cardSoon_keeps {s₀ s : State} (hk : Keeps s₀ s) : Keeps s₀ s.cardSoon := by
  unfold State.cardSoon
  try dsimp only
  repeat' (first | with_reducible assumption | with_reducible rfl | intro _ | with_reducible apply Keeps.foldl | with_reducible apply Keeps.foldr | with_reducible apply Keeps.foldl_snd_snd | with_reducible apply Keeps.foldl_snd | simp only [Keeps.lit_iff] | dsimp only [id_eq] | split)

end Sys2Proof.Machine
end

