-- ==== Sys2Proof/Laws/Keep/Ops.lean ====
section
/-! SUPPORT. The definitions of Machine/Ops.lean keep what `Keeps` names. -/

set_option linter.unusedTactic false
set_option linter.unreachableTactic false
set_option linter.unusedSimpArgs false
set_option linter.unnecessarySimpa false

namespace Sys2Proof.Machine

theorem State.setSlates_keeps {s₀ s : State} (t : Tid) (copy : Bool) (line off : Nat) (l : List Byte) (hk : Keeps s₀ s) :
    Keeps s₀ (s.setSlates t copy line off l) := by
  induction l generalizing s off with
  | nil => exact hk
  | cons v rest ih => exact ih _ (State.setSlate_keeps _ _ _ _ _ hk)

theorem State.slateWrite_keeps {s₀ s : State} (t : Tid) (line off : Nat) (l : List Byte) (hk : Keeps s₀ s) : Keeps s₀ (s.slateWrite t line off l) := by
  unfold State.slateWrite
  try dsimp only
  repeat' (first | with_reducible assumption | with_reducible rfl | intro _ | with_reducible apply State.modThr_keeps | with_reducible apply State.setSlates_keeps | with_reducible apply Keeps.foldl | with_reducible apply Keeps.foldr | with_reducible apply Keeps.foldl_snd_snd | with_reducible apply Keeps.foldl_snd | simp only [Keeps.lit_iff] | dsimp only [id_eq] | split)

theorem State.slateFill_keeps {s₀ s : State} (t : Tid) (line : Nat) (hk : Keeps s₀ s) : Keeps s₀ (s.slateFill t line) := by
  unfold State.slateFill
  try dsimp only
  repeat' (first | with_reducible assumption | with_reducible rfl | intro _ | with_reducible apply State.heal_keeps | with_reducible apply State.noteRead_keeps | with_reducible apply Keeps.foldl | with_reducible apply Keeps.foldr | with_reducible apply Keeps.foldl_snd_snd | with_reducible apply Keeps.foldl_snd | simp only [Keeps.lit_iff] | dsimp only [id_eq] | split)

theorem State.storeAt_keeps {s₀ s : State} (k : Nat) (d : Dest) (v : DWord) (hk : Keeps s₀ s) : Keeps s₀ (s.storeAt k d v) := by
  unfold State.storeAt
  try dsimp only
  repeat' (first | with_reducible assumption | with_reducible rfl | intro _ | with_reducible apply State.heal_keeps | with_reducible apply State.modFrom_keeps | with_reducible apply State.setDesks_keeps | with_reducible apply State.slateFill_keeps | with_reducible apply State.slateWrite_keeps | with_reducible apply Keeps.foldl | with_reducible apply Keeps.foldr | with_reducible apply Keeps.foldl_snd_snd | with_reducible apply Keeps.foldl_snd | simp only [Keeps.lit_iff] | dsimp only [id_eq] | split)

theorem State.pointerAt_keeps {s₀ s : State} (b : Barrel) (a p : BitVec 19) (hk : Keeps s₀ s) : Keeps s₀ (s.pointerAt b a p) := by
  unfold State.pointerAt
  try dsimp only
  repeat' (first | with_reducible assumption | with_reducible rfl | intro _ | with_reducible apply State.setDesks_keeps | with_reducible apply Keeps.foldl | with_reducible apply Keeps.foldr | with_reducible apply Keeps.foldl_snd_snd | with_reducible apply Keeps.foldl_snd | simp only [Keeps.lit_iff] | dsimp only [id_eq] | split)

theorem State.landLater_keeps {s₀ s : State} (t : Tid) (k due : Nat) (e : Eff) (hk : Keeps s₀ s) : Keeps s₀ (s.landLater t k due e) := by
  unfold State.landLater
  try dsimp only
  repeat' (first | with_reducible assumption | with_reducible rfl | intro _ | with_reducible apply Keeps.foldl | with_reducible apply Keeps.foldr | with_reducible apply Keeps.foldl_snd_snd | with_reducible apply Keeps.foldl_snd | simp only [Keeps.lit_iff] | dsimp only [id_eq] | split)

theorem State.tasAt_keeps {s₀ s : State} (t : Tid) (k : Nat) (l : Loc) (old : Option Dest) (hk : Keeps s₀ s) : Keeps s₀ (s.tasAt t k l old) := by
  unfold State.tasAt
  try dsimp only
  repeat' (first | with_reducible assumption | with_reducible rfl | intro _ | with_reducible apply State.landLater_keeps | with_reducible apply State.modFrom_keeps | with_reducible apply Keeps.foldl | with_reducible apply Keeps.foldr | with_reducible apply Keeps.foldl_snd_snd | with_reducible apply Keeps.foldl_snd | simp only [Keeps.lit_iff] | dsimp only [id_eq] | split)

theorem State.frameStore_keeps {s₀ s : State} (t : Tid) (k : Nat) (a : BitVec 19) (v : Word) (hk : Keeps s₀ s) : Keeps s₀ (s.frameStore t k a v) := by
  unfold State.frameStore
  try dsimp only
  repeat' (first | with_reducible assumption | with_reducible rfl | intro _ | with_reducible apply State.storeAt_keeps | with_reducible apply Keeps.foldl | with_reducible apply Keeps.foldr | with_reducible apply Keeps.foldl_snd_snd | with_reducible apply Keeps.foldl_snd | simp only [Keeps.lit_iff] | dsimp only [id_eq] | split)

theorem State.landPipe_keeps {s₀ s : State} (k : Nat) (y0 : Eff) (hk : Keeps s₀ s) : Keeps s₀ (s.landPipe k y0) := by
  unfold State.landPipe
  try dsimp only
  repeat' (first | with_reducible assumption | with_reducible rfl | intro _ | with_reducible apply State.frameStore_keeps | with_reducible apply State.heal_keeps | with_reducible apply State.modAll_keeps | with_reducible apply State.modFrom_keeps | with_reducible apply State.pointerAt_keeps | with_reducible apply State.setDesks_keeps | with_reducible apply State.setIns_keeps | with_reducible apply State.storeAt_keeps | with_reducible apply State.tasAt_keeps | with_reducible apply State.writeMailbox_keeps | with_reducible apply Keeps.foldl | with_reducible apply Keeps.foldr | with_reducible apply Keeps.foldl_snd_snd | with_reducible apply Keeps.foldl_snd | simp only [Keeps.lit_iff] | dsimp only [id_eq] | split)

theorem State.nextView_keeps {s₀ s : State} (hk : Keeps s₀ s) : Keeps s₀ s.nextView := by
  unfold State.nextView
  try dsimp only
  repeat' (first | with_reducible assumption | with_reducible rfl | intro _ | with_reducible apply State.landPipe_keeps | with_reducible apply Keeps.foldl | with_reducible apply Keeps.foldr | with_reducible apply Keeps.foldl_snd_snd | with_reducible apply Keeps.foldl_snd | simp only [Keeps.lit_iff] | dsimp only [id_eq] | split)

theorem State.readView_keeps {s₀ s : State} (t : Tid) (hk : Keeps s₀ s) : Keeps s₀ (s.readView t) := by
  unfold State.readView
  try dsimp only
  repeat' (first | with_reducible assumption | with_reducible rfl | intro _ | with_reducible apply State.modThr_keeps | with_reducible apply Keeps.foldl | with_reducible apply Keeps.foldr | with_reducible apply Keeps.foldl_snd_snd | with_reducible apply Keeps.foldl_snd | simp only [Keeps.lit_iff] | dsimp only [id_eq] | split)

theorem State.takeOff_keeps {s₀ s : State} (t : Tid) (insn : Option Instr) (fetch : Option (BitVec 16)) (hk : Keeps s₀ s) : Keeps s₀ (s.takeOff t insn fetch) := by
  unfold State.takeOff
  try dsimp only
  repeat' (first | with_reducible assumption | with_reducible rfl | intro _ | with_reducible apply State.modThr_keeps | with_reducible apply Keeps.foldl | with_reducible apply Keeps.foldr | with_reducible apply Keeps.foldl_snd_snd | with_reducible apply Keeps.foldl_snd | simp only [Keeps.lit_iff] | dsimp only [id_eq] | split)

theorem State.raiseAt_keeps {s₀ s : State} (t : Tid) (k : Nat) (f : IssueFault) (hk : Keeps s₀ s) : Keeps s₀ (s.raiseAt t k f) := by
  unfold State.raiseAt
  try dsimp only
  repeat' (first | with_reducible assumption | with_reducible rfl | intro _ | with_reducible apply State.modThr_keeps | with_reducible apply Keeps.foldl | with_reducible apply Keeps.foldr | with_reducible apply Keeps.foldl_snd_snd | with_reducible apply Keeps.foldl_snd | simp only [Keeps.lit_iff] | dsimp only [id_eq] | split)

theorem State.raise_keeps {s₀ s : State} (t : Tid) (cause : FCause) (space : BitVec 3) (faddr : Word) (hk : Keeps s₀ s) : Keeps s₀ (s.raise t cause space faddr) := by
  unfold State.raise
  try dsimp only
  repeat' (first | with_reducible assumption | with_reducible rfl | intro _ | with_reducible apply State.raiseAt_keeps | with_reducible apply Keeps.foldl | with_reducible apply Keeps.foldr | with_reducible apply Keeps.foldl_snd_snd | with_reducible apply Keeps.foldl_snd | simp only [Keeps.lit_iff] | dsimp only [id_eq] | split)

theorem State.cancelFrom_keeps {s₀ s : State} (t : Tid) (g : Flight) (hk : Keeps s₀ s) : Keeps s₀ (s.cancelFrom t g) := by
  unfold State.cancelFrom
  try dsimp only
  repeat' (first | with_reducible assumption | with_reducible rfl | intro _ | with_reducible apply State.dropFrom_keeps | with_reducible apply State.modThr_keeps | with_reducible apply State.setReg_keeps | with_reducible apply Keeps.foldl | with_reducible apply Keeps.foldr | with_reducible apply Keeps.foldl_snd_snd | with_reducible apply Keeps.foldl_snd | simp only [Keeps.lit_iff] | dsimp only [id_eq] | split)

theorem State.cancelAll_keeps {s₀ s : State} (t : Tid) (hk : Keeps s₀ s) : Keeps s₀ (s.cancelAll t) := by
  unfold State.cancelAll
  try dsimp only
  repeat' (first | with_reducible assumption | with_reducible rfl | intro _ | with_reducible apply State.cancelFrom_keeps | with_reducible apply Keeps.foldl | with_reducible apply Keeps.foldr | with_reducible apply Keeps.foldl_snd_snd | with_reducible apply Keeps.foldl_snd | simp only [Keeps.lit_iff] | dsimp only [id_eq] | split)

theorem State.pruneFlights_keeps {s₀ s : State} (t : Tid) (hk : Keeps s₀ s) : Keeps s₀ (s.pruneFlights t) := by
  unfold State.pruneFlights
  try dsimp only
  repeat' (first | with_reducible assumption | with_reducible rfl | intro _ | with_reducible apply State.modThr_keeps | with_reducible apply Keeps.foldl | with_reducible apply Keeps.foldr | with_reducible apply Keeps.foldl_snd_snd | with_reducible apply Keeps.foldl_snd | simp only [Keeps.lit_iff] | dsimp only [id_eq] | split)

theorem State.issueOf_keeps {s₀ s : State} (c : Instr) (t : Tid) (len : Nat) (hk : Keeps s₀ s) : Keeps s₀ (s.issueOf c t len) := by
  unfold State.issueOf
  try dsimp only
  repeat' (first | with_reducible assumption | with_reducible rfl | intro _ | with_reducible apply State.modThr_keeps | with_reducible apply State.takeOff_keeps | with_reducible apply Keeps.foldl | with_reducible apply Keeps.foldr | with_reducible apply Keeps.foldl_snd_snd | with_reducible apply Keeps.foldl_snd | simp only [Keeps.lit_iff] | dsimp only [id_eq] | split)

theorem State.useSlot_keeps {s₀ s : State} (t : Tid) (hk : Keeps s₀ s) : Keeps s₀ (s.useSlot t) := by
  unfold State.useSlot
  try dsimp only
  repeat' (first | with_reducible assumption | with_reducible rfl | intro _ | with_reducible apply State.modThr_keeps | with_reducible apply Keeps.foldl | with_reducible apply Keeps.foldr | with_reducible apply Keeps.foldl_snd_snd | with_reducible apply Keeps.foldl_snd | simp only [Keeps.lit_iff] | dsimp only [id_eq] | split)

theorem State.readPoint_keeps {s₀ s : State} (t : Tid) (g : Flight) (f : State → State) (hk : Keeps s₀ s) (hk_f : ∀ x0, Keeps s₀ x0 → Keeps s₀ (f x0)) : Keeps s₀ (s.readPoint t g f) := by
  unfold State.readPoint
  try dsimp only
  repeat' (first | with_reducible assumption | with_reducible rfl | intro _ | with_reducible apply State.modThr_keeps | with_reducible apply State.raise_keeps | with_reducible apply hk_f | with_reducible apply Keeps.foldl | with_reducible apply Keeps.foldr | with_reducible apply Keeps.foldl_snd_snd | with_reducible apply Keeps.foldl_snd | simp only [Keeps.lit_iff] | dsimp only [id_eq] | split)

theorem State.insn_keeps {s₀ s : State} (c : Instr) (t : Tid) (len : Nat) (refused : Bool) (issue read : State → State) (hk : Keeps s₀ s) (hk_issue : ∀ x0, Keeps s₀ x0 → Keeps s₀ (issue x0)) (hk_read : ∀ x0, Keeps s₀ x0 → Keeps s₀ (read x0)) : Keeps s₀ (s.insn c t len refused issue read) := by
  unfold State.insn
  try dsimp only
  repeat' (first | with_reducible assumption | with_reducible rfl | intro _ | with_reducible apply State.issueOf_keeps | with_reducible apply State.readPoint_keeps | with_reducible apply State.useSlot_keeps | with_reducible apply hk_issue | with_reducible apply hk_read | with_reducible apply Keeps.foldl | with_reducible apply Keeps.foldr | with_reducible apply Keeps.foldl_snd_snd | with_reducible apply Keeps.foldl_snd | simp only [Keeps.lit_iff] | dsimp only [id_eq] | split)

theorem State.noteVec_keeps {s₀ s : State} (t : Tid) (i : Nat) (hk : Keeps s₀ s) : Keeps s₀ (s.noteVec t i) := by
  unfold State.noteVec
  try dsimp only
  repeat' (first | with_reducible assumption | with_reducible rfl | intro _ | with_reducible apply State.noteRead_keeps | with_reducible apply Keeps.foldl | with_reducible apply Keeps.foldr | with_reducible apply Keeps.foldl_snd_snd | with_reducible apply Keeps.foldl_snd | simp only [Keeps.lit_iff] | dsimp only [id_eq] | split)

theorem State.setFaulted_keeps {s₀ s : State} (t : Tid) (hk : Keeps s₀ s) : Keeps s₀ (s.setFaulted t) := by
  unfold State.setFaulted
  try dsimp only
  repeat' (first | with_reducible assumption | with_reducible rfl | intro _ | with_reducible apply State.modPer_keeps | with_reducible apply Keeps.foldl | with_reducible apply Keeps.foldr | with_reducible apply Keeps.foldl_snd_snd | with_reducible apply Keeps.foldl_snd | simp only [Keeps.lit_iff] | dsimp only [id_eq] | split)

theorem State.undoReloads_keeps {s₀ s : State} (t : Tid) (hk : Keeps s₀ s) : Keeps s₀ (s.undoReloads t) := by
  unfold State.undoReloads
  try dsimp only
  repeat' (first | with_reducible assumption | with_reducible rfl | intro _ | with_reducible apply State.setReg_keeps | with_reducible apply State.setTimer_keeps | with_reducible apply Keeps.foldl | with_reducible apply Keeps.foldr | with_reducible apply Keeps.foldl_snd_snd | with_reducible apply Keeps.foldl_snd | simp only [Keeps.lit_iff] | dsimp only [id_eq] | split)

theorem State.dropStaged_keeps {s₀ s : State} (t : Tid) (hk : Keeps s₀ s) : Keeps s₀ (s.dropStaged t) := by
  unfold State.dropStaged
  try dsimp only
  repeat' (first | with_reducible assumption | with_reducible rfl | intro _ | with_reducible apply State.discardPost_keeps | with_reducible apply State.undoReloads_keeps | with_reducible apply State.unstage_keeps | with_reducible apply Keeps.foldl | with_reducible apply Keeps.foldr | with_reducible apply Keeps.foldl_snd_snd | with_reducible apply Keeps.foldl_snd | simp only [Keeps.lit_iff] | dsimp only [id_eq] | split)

theorem State.discard_keeps {s₀ s : State} (t : Tid) (cause : BitVec 4) (hk : Keeps s₀ s) : Keeps s₀ (s.discard t cause) := by
  unfold State.discard
  try dsimp only
  repeat' (first | with_reducible assumption | with_reducible rfl | intro _ | with_reducible apply State.dropStaged_keeps | with_reducible apply State.modThr_keeps | with_reducible apply Keeps.foldl | with_reducible apply Keeps.foldr | with_reducible apply Keeps.foldl_snd_snd | with_reducible apply Keeps.foldl_snd | simp only [Keeps.lit_iff] | dsimp only [id_eq] | split)

theorem State.lockup_keeps {s₀ s : State} (t : Tid) (cause : FCause) (hk : Keeps s₀ s) : Keeps s₀ (s.lockup t cause) := by
  unfold State.lockup
  try dsimp only
  repeat' (first | with_reducible assumption | with_reducible rfl | intro _ | with_reducible apply State.askFallback_keeps | with_reducible apply State.discard_keeps | with_reducible apply State.dropFills_keeps | with_reducible apply State.dropStaged_keeps | with_reducible apply State.endLeases_keeps | with_reducible apply State.modThr_keeps | with_reducible apply State.pulse_keeps | with_reducible apply State.schedule_keeps | with_reducible apply State.unwatchAll_keeps | with_reducible apply Keeps.foldl | with_reducible apply Keeps.foldr | with_reducible apply Keeps.foldl_snd_snd | with_reducible apply Keeps.foldl_snd | simp only [Keeps.lit_iff] | dsimp only [id_eq] | split)

theorem State.recogniseFault_keeps {s₀ s : State} (t : Tid) (hk : Keeps s₀ s) : Keeps s₀ (s.recogniseFault t) := by
  unfold State.recogniseFault
  try dsimp only
  repeat' (first | with_reducible assumption | with_reducible rfl | intro _ | with_reducible apply State.cancelFrom_keeps | with_reducible apply State.lockup_keeps | with_reducible apply State.modEv_keeps | with_reducible apply State.modThr_keeps | with_reducible apply State.noteVec_keeps | with_reducible apply State.setFaulted_keeps | with_reducible apply Keeps.foldl | with_reducible apply Keeps.foldr | with_reducible apply Keeps.foldl_snd_snd | with_reducible apply Keeps.foldl_snd | simp only [Keeps.lit_iff] | dsimp only [id_eq] | split)

theorem State.recognise_keeps {s₀ s : State} (t : Tid) (hk : Keeps s₀ s) : Keeps s₀ (s.recognise t) := by
  unfold State.recognise
  try dsimp only
  repeat' (first | with_reducible assumption | with_reducible rfl | intro _ | with_reducible apply State.modEv_keeps | with_reducible apply State.noteVec_keeps | with_reducible apply Keeps.foldl | with_reducible apply Keeps.foldr | with_reducible apply Keeps.foldl_snd_snd | with_reducible apply Keeps.foldl_snd | simp only [Keeps.lit_iff] | dsimp only [id_eq] | split)

theorem State.enterFirst_keeps {s₀ s : State} (t : Tid) (kind : EntryKind) (input : BitVec 5) (lvl : BitVec 2) (vec : BitVec 16) (hk : Keeps s₀ s) : Keeps s₀ (s.enterFirst t kind input lvl vec) := by
  unfold State.enterFirst
  try dsimp only
  repeat' (first | with_reducible assumption | with_reducible rfl | intro _ | with_reducible apply State.modThr_keeps | with_reducible apply State.raiseAt_keeps | with_reducible apply State.scheduleFor_keeps | with_reducible apply State.takeOff_keeps | with_reducible apply Keeps.foldl | with_reducible apply Keeps.foldr | with_reducible apply Keeps.foldl_snd_snd | with_reducible apply Keeps.foldl_snd | simp only [Keeps.lit_iff] | dsimp only [id_eq] | split)

theorem State.enterSecond_keeps {s₀ s : State} (t : Tid) (hk : Keeps s₀ s) : Keeps s₀ (s.enterSecond t) := by
  unfold State.enterSecond
  try dsimp only
  repeat' (first | with_reducible assumption | with_reducible rfl | intro _ | with_reducible apply State.scheduleFor_keeps | with_reducible apply Keeps.foldl | with_reducible apply Keeps.foldr | with_reducible apply Keeps.foldl_snd_snd | with_reducible apply Keeps.foldl_snd | simp only [Keeps.lit_iff] | dsimp only [id_eq] | split)

theorem State.claim_keeps {s₀ s : State} (t : Tid) (e : Entering) (hk : Keeps s₀ s) : Keeps s₀ (s.claim t e) := by
  unfold State.claim
  try dsimp only
  repeat' (first | with_reducible assumption | with_reducible rfl | intro _ | with_reducible apply State.modEv_keeps | with_reducible apply State.pulse_keeps | with_reducible apply Keeps.foldl | with_reducible apply Keeps.foldr | with_reducible apply Keeps.foldl_snd_snd | with_reducible apply Keeps.foldl_snd | simp only [Keeps.lit_iff] | dsimp only [id_eq] | split)

theorem State.toHandler_keeps {s₀ s : State} (t : Tid) (vec : BitVec 16) (hk : Keeps s₀ s) : Keeps s₀ (s.toHandler t vec) := by
  unfold State.toHandler
  try dsimp only
  repeat' (first | with_reducible assumption | with_reducible rfl | intro _ | with_reducible apply State.modThr_keeps | with_reducible apply Keeps.foldl | with_reducible apply Keeps.foldr | with_reducible apply Keeps.foldl_snd_snd | with_reducible apply Keeps.foldl_snd | simp only [Keeps.lit_iff] | dsimp only [id_eq] | split)

theorem State.claimIssue_keeps {s₀ s : State} (t : Tid) (e : Entering) (hk : Keeps s₀ s) : Keeps s₀ (s.claimIssue t e) := by
  unfold State.claimIssue
  try dsimp only
  repeat' (first | with_reducible assumption | with_reducible rfl | intro _ | with_reducible apply State.claim_keeps | with_reducible apply State.enterSecond_keeps | with_reducible apply State.modEv_keeps | with_reducible apply State.takeOff_keeps | with_reducible apply State.toHandler_keeps | with_reducible apply State.useSlot_keeps | with_reducible apply Keeps.foldl | with_reducible apply Keeps.foldr | with_reducible apply Keeps.foldl_snd_snd | with_reducible apply Keeps.foldl_snd | simp only [Keeps.lit_iff] | dsimp only [id_eq] | split)

theorem State.eventIssue_keeps {s₀ s : State} (t : Tid) (hk : Keeps s₀ s) : Keeps s₀ (s.eventIssue t) := by
  unfold State.eventIssue
  try dsimp only
  repeat' (first | with_reducible assumption | with_reducible rfl | intro _ | with_reducible apply State.claimIssue_keeps | with_reducible apply State.enterFirst_keeps | with_reducible apply State.modThr_keeps | with_reducible apply Keeps.foldl | with_reducible apply Keeps.foldr | with_reducible apply Keeps.foldl_snd_snd | with_reducible apply Keeps.foldl_snd | simp only [Keeps.lit_iff] | dsimp only [id_eq] | split)

theorem State.faultFirst_keeps {s₀ s : State} (t : Tid) (f : PendFault) (hk : Keeps s₀ s) : Keeps s₀ (s.faultFirst t f) := by
  unfold State.faultFirst
  try dsimp only
  repeat' (first | with_reducible assumption | with_reducible rfl | intro _ | with_reducible apply State.enterFirst_keeps | with_reducible apply State.modEv_keeps | with_reducible apply Keeps.foldl | with_reducible apply Keeps.foldr | with_reducible apply Keeps.foldl_snd_snd | with_reducible apply Keeps.foldl_snd | simp only [Keeps.lit_iff] | dsimp only [id_eq] | split)

theorem State.faultSecond_keeps {s₀ s : State} (t : Tid) (e : Entering) (hk : Keeps s₀ s) : Keeps s₀ (s.faultSecond t e) := by
  unfold State.faultSecond
  try dsimp only
  repeat' (first | with_reducible assumption | with_reducible rfl | intro _ | with_reducible apply State.enterSecond_keeps | with_reducible apply State.modEv_keeps | with_reducible apply State.takeOff_keeps | with_reducible apply State.toHandler_keeps | with_reducible apply State.useSlot_keeps | with_reducible apply Keeps.foldl | with_reducible apply Keeps.foldr | with_reducible apply Keeps.foldl_snd_snd | with_reducible apply Keeps.foldl_snd | simp only [Keeps.lit_iff] | dsimp only [id_eq] | split)

theorem State.raiseAsync_keeps {s₀ s : State} (t : Tid) (f : IssueFault) (hk : Keeps s₀ s) : Keeps s₀ (s.raiseAsync t f) := by
  unfold State.raiseAsync
  try dsimp only
  repeat' (first | with_reducible assumption | with_reducible rfl | intro _ | with_reducible apply State.faultFirst_keeps | with_reducible apply State.lockup_keeps | with_reducible apply State.noteVec_keeps | with_reducible apply State.setFaulted_keeps | with_reducible apply Keeps.foldl | with_reducible apply Keeps.foldr | with_reducible apply Keeps.foldl_snd_snd | with_reducible apply Keeps.foldl_snd | simp only [Keeps.lit_iff] | dsimp only [id_eq] | split)

theorem State.faultIssue_keeps {s₀ s : State} (t : Tid) (hk : Keeps s₀ s) : Keeps s₀ (s.faultIssue t) := by
  unfold State.faultIssue
  try dsimp only
  repeat' (first | with_reducible assumption | with_reducible rfl | intro _ | with_reducible apply State.faultFirst_keeps | with_reducible apply State.faultSecond_keeps | with_reducible apply State.modThr_keeps | with_reducible apply State.raiseAsync_keeps | with_reducible apply Keeps.foldl | with_reducible apply Keeps.foldr | with_reducible apply Keeps.foldl_snd_snd | with_reducible apply Keeps.foldl_snd | simp only [Keeps.lit_iff] | dsimp only [id_eq] | split)

theorem State.overrunIssue_keeps {s₀ s : State} (t : Tid) (hk : Keeps s₀ s) : Keeps s₀ (s.overrunIssue t) := by
  unfold State.overrunIssue
  try dsimp only
  repeat' (first | with_reducible assumption | with_reducible rfl | intro _ | with_reducible apply State.modThr_keeps | with_reducible apply State.raiseAsync_keeps | with_reducible apply Keeps.foldl | with_reducible apply Keeps.foldr | with_reducible apply Keeps.foldl_snd_snd | with_reducible apply Keeps.foldl_snd | simp only [Keeps.lit_iff] | dsimp only [id_eq] | split)

theorem State.switchEnd_keeps {s₀ s : State} (hk : Keeps s₀ s) : Keeps s₀ s.switchEnd := by
  unfold State.switchEnd
  try dsimp only
  repeat' (first | with_reducible assumption | with_reducible rfl | intro _ | with_reducible apply State.modUpd_keeps | with_reducible apply State.pulse_keeps | with_reducible apply State.stage_keeps | with_reducible apply Keeps.foldl | with_reducible apply Keeps.foldr | with_reducible apply Keeps.foldl_snd_snd | with_reducible apply Keeps.foldl_snd | simp only [Keeps.lit_iff] | dsimp only [id_eq] | split)

theorem State.switchBank_keeps {s₀ s : State} (t : Tid) (hk : Keeps s₀ s) : Keeps s₀ (s.switchBank t) := by
  unfold State.switchBank
  try dsimp only
  repeat' (first | with_reducible assumption | with_reducible rfl | intro _ | with_reducible apply State.modThr_keeps | with_reducible apply State.setReg_keeps | with_reducible apply State.switchEnd_keeps | with_reducible apply Keeps.foldl | with_reducible apply Keeps.foldr | with_reducible apply Keeps.foldl_snd_snd | with_reducible apply Keeps.foldl_snd | simp only [Keeps.lit_iff] | dsimp only [id_eq] | split)

theorem State.periodEntry_keeps {s₀ s : State} (t : Tid) (hk : Keeps s₀ s) : Keeps s₀ (s.periodEntry t) := by
  unfold State.periodEntry
  try dsimp only
  repeat' (first | with_reducible assumption | with_reducible rfl | intro _ | with_reducible apply State.schedule_keeps | with_reducible apply State.setThr_keeps | with_reducible apply State.switchBank_keeps | with_reducible apply Keeps.foldl | with_reducible apply Keeps.foldr | with_reducible apply Keeps.foldl_snd_snd | with_reducible apply Keeps.foldl_snd | simp only [Keeps.lit_iff] | dsimp only [id_eq] | split)

theorem State.startThread_keeps {s₀ s : State} (t : Tid) (from_ : Nat) (hk : Keeps s₀ s) : Keeps s₀ (s.startThread t from_) := by
  unfold State.startThread
  try dsimp only
  repeat' (first | with_reducible assumption | with_reducible rfl | intro _ | with_reducible apply State.modThr_keeps | with_reducible apply Keeps.foldl | with_reducible apply Keeps.foldr | with_reducible apply Keeps.foldl_snd_snd | with_reducible apply Keeps.foldl_snd | simp only [Keeps.lit_iff] | dsimp only [id_eq] | split)

theorem State.startSlot_keeps {s₀ s : State} (t : Tid) (hk : Keeps s₀ s) : Keeps s₀ (s.startSlot t) := by
  unfold State.startSlot
  try dsimp only
  repeat' (first | with_reducible assumption | with_reducible rfl | intro _ | with_reducible apply State.periodEntry_keeps | with_reducible apply Keeps.foldl | with_reducible apply Keeps.foldr | with_reducible apply Keeps.foldl_snd_snd | with_reducible apply Keeps.foldl_snd | simp only [Keeps.lit_iff] | dsimp only [id_eq] | split)

end Sys2Proof.Machine
end

