-- ==== Sys2Proof/Laws/Keep/Operands.lean ====
section
/-! SUPPORT. The definitions of Machine/Operands.lean keep what `Keeps` names. -/

set_option linter.unusedTactic false
set_option linter.unreachableTactic false
set_option linter.unusedSimpArgs false
set_option linter.unnecessarySimpa false

namespace Sys2Proof.Machine

theorem State.bump_keeps {s₀ s : State} (t : Tid) (p : Place) (hk : Keeps s₀ s) : Keeps s₀ (s.bump t p) := by
  unfold State.bump
  try dsimp only
  repeat' (first | with_reducible assumption | with_reducible rfl | intro _ | with_reducible apply State.enter_keeps | with_reducible apply Keeps.foldl | with_reducible apply Keeps.foldr | with_reducible apply Keeps.foldl_snd_snd | with_reducible apply Keeps.foldl_snd | simp only [Keeps.lit_iff] | dsimp only [id_eq] | split)

theorem State.putResult_keeps {s₀ s : State} (t : Tid) (p : Place) (ty : OpTy) (v : DWord) (hk : Keeps s₀ s) : Keeps s₀ (s.putResult t p ty v) := by
  unfold State.putResult
  try dsimp only
  repeat' (first | with_reducible assumption | with_reducible rfl | intro _ | with_reducible apply State.enter_keeps | with_reducible apply Keeps.foldl | with_reducible apply Keeps.foldr | with_reducible apply Keeps.foldl_snd_snd | with_reducible apply Keeps.foldl_snd | simp only [Keeps.lit_iff] | dsimp only [id_eq] | split)

theorem State.putFlags_keeps {s₀ s : State} (t : Tid) (m v : BitVec 5) (hk : Keeps s₀ s) : Keeps s₀ (s.putFlags t m v) := by
  unfold State.putFlags
  try dsimp only
  repeat' (first | with_reducible assumption | with_reducible rfl | intro _ | with_reducible apply State.enter_keeps | with_reducible apply Keeps.foldl | with_reducible apply Keeps.foldr | with_reducible apply Keeps.foldl_snd_snd | with_reducible apply Keeps.foldl_snd | simp only [Keeps.lit_iff] | dsimp only [id_eq] | split)

theorem State.noteLoc_keeps {s₀ s : State} (l : Loc) (n : Nat) (t : Tid) (hk : Keeps s₀ s) : Keeps s₀ (s.noteLoc l n t) := by
  unfold State.noteLoc
  try dsimp only
  repeat' (first | with_reducible assumption | with_reducible rfl | intro _ | with_reducible apply State.noteRead_keeps | with_reducible apply Keeps.foldl | with_reducible apply Keeps.foldr | with_reducible apply Keeps.foldl_snd_snd | with_reducible apply Keeps.foldl_snd | simp only [Keeps.lit_iff] | dsimp only [id_eq] | split)

theorem State.noteOperand_keeps {s₀ s : State} (p : Place) (x : OpSpec) (t : Tid) (hk : Keeps s₀ s) : Keeps s₀ (s.noteOperand p x t) := by
  unfold State.noteOperand
  try dsimp only
  repeat' (first | with_reducible assumption | with_reducible rfl | intro _ | with_reducible apply State.noteLoc_keeps | with_reducible apply Keeps.foldl | with_reducible apply Keeps.foldr | with_reducible apply Keeps.foldl_snd_snd | with_reducible apply Keeps.foldl_snd | simp only [Keeps.lit_iff] | dsimp only [id_eq] | split)

theorem State.notePointers_keeps {s₀ s : State} (t : Tid) (long : Bool) (o : Opnd) (x : OpSpec) (hk : Keeps s₀ s) : Keeps s₀ (s.notePointers t long o x) := by
  unfold State.notePointers
  try dsimp only
  repeat' (first | with_reducible assumption | with_reducible rfl | intro _ | with_reducible apply State.noteLoc_keeps | with_reducible apply Keeps.foldl | with_reducible apply Keeps.foldr | with_reducible apply Keeps.foldl_snd_snd | with_reducible apply Keeps.foldl_snd | simp only [Keeps.lit_iff] | dsimp only [id_eq] | split)

theorem State.startRead_keeps {s₀ s : State} (i : Issue) (p : Places) (a b c : OpSpec) (hk : Keeps s₀ s) : Keeps s₀ (s.startRead i p a b c) := by
  unfold State.startRead
  try dsimp only
  repeat' (first | with_reducible assumption | with_reducible rfl | intro _ | with_reducible apply State.bump_keeps | with_reducible apply State.noteOperand_keeps | with_reducible apply State.notePointers_keeps | with_reducible apply Keeps.foldl | with_reducible apply Keeps.foldr | with_reducible apply Keeps.foldl_snd_snd | with_reducible apply Keeps.foldl_snd | simp only [Keeps.lit_iff] | dsimp only [id_eq] | split)

theorem State.instruct_keeps {s₀ s : State} (i : Issue) (a b c : OpSpec) (f : State → Places → Vals → State) (hk : Keeps s₀ s) (hk_f : ∀ x0 x1 x2, Keeps s₀ x0 → Keeps s₀ (f x0 x1 x2)) : Keeps s₀ (s.instruct i a b c f) := by
  unfold State.instruct
  try dsimp only
  repeat' (first | with_reducible assumption | with_reducible rfl | intro _ | with_reducible apply State.raise_keeps | with_reducible apply State.readView_keeps | with_reducible apply hk_f | with_reducible apply Keeps.foldl | with_reducible apply Keeps.foldr | with_reducible apply Keeps.foldl_snd_snd | with_reducible apply Keeps.foldl_snd | simp only [Keeps.lit_iff] | dsimp only [id_eq] | split)

theorem State.plainly_keeps {s₀ s : State} (c : Instr) (i : Issue) (read : State → State) (hk : Keeps s₀ s) (hk_read : ∀ x0, Keeps s₀ x0 → Keeps s₀ (read x0)) : Keeps s₀ (s.plainly c i read) := by
  unfold State.plainly
  try dsimp only
  repeat' (first | with_reducible assumption | with_reducible rfl | intro _ | with_reducible apply State.insn_keeps | with_reducible apply hk_read | with_reducible apply Keeps.foldl | with_reducible apply Keeps.foldr | with_reducible apply Keeps.foldl_snd_snd | with_reducible apply Keeps.foldl_snd | simp only [Keeps.lit_iff] | dsimp only [id_eq] | split)

theorem State.operate_keeps {s₀ s : State} (i : Issue) (a b c : OpSpec) (f : Vals → Out) (hk : Keeps s₀ s) : Keeps s₀ (s.operate i a b c f) := by
  unfold State.operate
  try dsimp only
  repeat' (first | with_reducible assumption | with_reducible rfl | intro _ | with_reducible apply State.instruct_keeps | with_reducible apply State.putFlags_keeps | with_reducible apply State.putResult_keeps | with_reducible apply State.startRead_keeps | with_reducible apply Keeps.foldl | with_reducible apply Keeps.foldr | with_reducible apply Keeps.foldl_snd_snd | with_reducible apply Keeps.foldl_snd | simp only [Keeps.lit_iff] | dsimp only [id_eq] | split)

theorem State.testOnly_keeps {s₀ s : State} (i : Issue) (a b c : OpSpec) (f : Vals → Out) (hk : Keeps s₀ s) : Keeps s₀ (s.testOnly i a b c f) := by
  unfold State.testOnly
  try dsimp only
  repeat' (first | with_reducible assumption | with_reducible rfl | intro _ | with_reducible apply State.instruct_keeps | with_reducible apply State.putFlags_keeps | with_reducible apply State.startRead_keeps | with_reducible apply Keeps.foldl | with_reducible apply Keeps.foldr | with_reducible apply Keeps.foldl_snd_snd | with_reducible apply Keeps.foldl_snd | simp only [Keeps.lit_iff] | dsimp only [id_eq] | split)

end Sys2Proof.Machine
end

