-- ==== Sys2Proof/Laws/Keep/Integer.lean ====
section
/-! SUPPORT. The definitions of Machine/Integer.lean keep what `Keeps` names. -/

set_option linter.unusedTactic false
set_option linter.unreachableTactic false
set_option linter.unusedSimpArgs false
set_option linter.unnecessarySimpa false

namespace Sys2Proof.Machine

theorem State.binary_keeps {s₀ s : State} (i : Issue) (ty tc : OpTy) (f : Nat → Nat → Nat → Out) (hk : Keeps s₀ s) : Keeps s₀ (s.binary i ty tc f) := by
  unfold State.binary
  try dsimp only
  repeat' (first | with_reducible assumption | with_reducible rfl | intro _ | with_reducible apply State.operate_keeps | with_reducible apply Keeps.foldl | with_reducible apply Keeps.foldr | with_reducible apply Keeps.foldl_snd_snd | with_reducible apply Keeps.foldl_snd | simp only [Keeps.lit_iff] | dsimp only [id_eq] | split)

theorem State.unary_keeps {s₀ s : State} (i : Issue) (ta tb_ : OpTy) (f : Nat → Out) (hk : Keeps s₀ s) : Keeps s₀ (s.unary i ta tb_ f) := by
  unfold State.unary
  try dsimp only
  repeat' (first | with_reducible assumption | with_reducible rfl | intro _ | with_reducible apply State.operate_keeps | with_reducible apply Keeps.foldl | with_reducible apply Keeps.foldr | with_reducible apply Keeps.foldl_snd_snd | with_reducible apply Keeps.foldl_snd | simp only [Keeps.lit_iff] | dsimp only [id_eq] | split)

end Sys2Proof.Machine
end

