-- ==== Sys2Proof/Laws/Keep/Fixed.lean ====
section
/-! SUPPORT. The definitions of Machine/Fixed.lean keep what `Keeps` names. -/

set_option linter.unusedTactic false
set_option linter.unreachableTactic false
set_option linter.unusedSimpArgs false
set_option linter.unnecessarySimpa false

namespace Sys2Proof.Machine

theorem State.fixed2_keeps {s₀ s : State} (i : Issue) (half : Bool) (f : Nat → Int → Int → Int) (hk : Keeps s₀ s) : Keeps s₀ (s.fixed2 i half f) := by
  unfold State.fixed2
  try dsimp only
  repeat' (first | with_reducible assumption | with_reducible rfl | intro _ | with_reducible apply State.operate_keeps | with_reducible apply Keeps.foldl | with_reducible apply Keeps.foldr | with_reducible apply Keeps.foldl_snd_snd | with_reducible apply Keeps.foldl_snd | simp only [Keeps.lit_iff] | dsimp only [id_eq] | split)

theorem State.fixed1_keeps {s₀ s : State} (i : Issue) (half : Bool) (f : Int → Int) (hk : Keeps s₀ s) : Keeps s₀ (s.fixed1 i half f) := by
  unfold State.fixed1
  try dsimp only
  repeat' (first | with_reducible assumption | with_reducible rfl | intro _ | with_reducible apply State.operate_keeps | with_reducible apply Keeps.foldl | with_reducible apply Keeps.foldr | with_reducible apply Keeps.foldl_snd_snd | with_reducible apply Keeps.foldl_snd | simp only [Keeps.lit_iff] | dsimp only [id_eq] | split)

theorem State.packed_keeps {s₀ s : State} (i : Issue) (half q : Bool) (f : Nat → Int → Int → Int × Bool) (hk : Keeps s₀ s) : Keeps s₀ (s.packed i half q f) := by
  unfold State.packed
  try dsimp only
  repeat' (first | with_reducible assumption | with_reducible rfl | intro _ | with_reducible apply State.operate_keeps | with_reducible apply Keeps.foldl | with_reducible apply Keeps.foldr | with_reducible apply Keeps.foldl_snd_snd | with_reducible apply Keeps.foldl_snd | simp only [Keeps.lit_iff] | dsimp only [id_eq] | split)

end Sys2Proof.Machine
end

