-- ==== Sys2Proof/Laws/Keep/Floating.lean ====
section
/-! SUPPORT. The definitions of Machine/Floating.lean keep what `Keeps` names. -/

set_option linter.unusedTactic false
set_option linter.unreachableTactic false
set_option linter.unusedSimpArgs false
set_option linter.unnecessarySimpa false

namespace Sys2Proof.Machine

theorem State.float2_keeps {s₀ s : State} (i : Issue) (f : Flt → Flt → Flt) (hk : Keeps s₀ s) : Keeps s₀ (s.float2 i f) := by
  unfold State.float2
  try dsimp only
  repeat' (first | with_reducible assumption | with_reducible rfl | intro _ | with_reducible apply State.operate_keeps | with_reducible apply Keeps.foldl | with_reducible apply Keeps.foldr | with_reducible apply Keeps.foldl_snd_snd | with_reducible apply Keeps.foldl_snd | simp only [Keeps.lit_iff] | dsimp only [id_eq] | split)

end Sys2Proof.Machine
end

