-- ==== Sys2Proof/Laws/Keep/Product.lean ====
section
/-! SUPPORT. The definitions of Machine/Product.lean keep what `Keeps` names. -/

set_option linter.unusedTactic false
set_option linter.unreachableTactic false
set_option linter.unusedSimpArgs false
set_option linter.unnecessarySimpa false

namespace Sys2Proof.Machine

theorem State.toProduct_keeps {s₀ s : State} (i : Issue) (b c : OpSpec) (l : Nat) (f : Vals → DWord × Bool) (hk : Keeps s₀ s) : Keeps s₀ (s.toProduct i b c l f) := by
  unfold State.toProduct
  try dsimp only
  repeat' (first | with_reducible assumption | with_reducible rfl | intro _ | with_reducible apply State.enter_keeps | with_reducible apply State.instruct_keeps | with_reducible apply State.putFlags_keeps | with_reducible apply State.startRead_keeps | with_reducible apply Keeps.foldl | with_reducible apply Keeps.foldr | with_reducible apply Keeps.foldl_snd_snd | with_reducible apply Keeps.foldl_snd | simp only [Keeps.lit_iff] | dsimp only [id_eq] | split)

theorem State.product2_keeps {s₀ s : State} (i : Issue) (f : DWord → Nat → Nat → DWord) (hk : Keeps s₀ s) : Keeps s₀ (s.product2 i f) := by
  unfold State.product2
  try dsimp only
  repeat' (first | with_reducible assumption | with_reducible rfl | intro _ | with_reducible apply State.toProduct_keeps | with_reducible apply Keeps.foldl | with_reducible apply Keeps.foldr | with_reducible apply Keeps.foldl_snd_snd | with_reducible apply Keeps.foldl_snd | simp only [Keeps.lit_iff] | dsimp only [id_eq] | split)

end Sys2Proof.Machine
end

