-- ==== Sys2Proof/Laws/Keep/ControlMath.lean ====
section
/-! SUPPORT. The definitions of Machine/ControlMath.lean keep what `Keeps` names. -/

set_option linter.unusedTactic false
set_option linter.unreachableTactic false
set_option linter.unusedSimpArgs false
set_option linter.unnecessarySimpa false

namespace Sys2Proof.Machine

theorem State.operateFree_keeps {s₀ s : State} (i : Issue) (a b c : OpSpec) (n : Nat) (f : Nat → Vals → Out) (hk : Keeps s₀ s) : Keeps s₀ (s.operateFree i a b c n f) := by
  unfold State.operateFree
  try dsimp only
  repeat' (first | with_reducible assumption | with_reducible rfl | intro _ | with_reducible apply State.instruct_keeps | with_reducible apply State.putFlags_keeps | with_reducible apply State.putResult_keeps | with_reducible apply State.startRead_keeps | with_reducible apply Keeps.foldl | with_reducible apply Keeps.foldr | with_reducible apply Keeps.foldl_snd_snd | with_reducible apply Keeps.foldl_snd | simp only [Keeps.lit_iff] | dsimp only [id_eq] | split)

end Sys2Proof.Machine
end

