-- ==== Sys2Proof/Laws/Keep/Flow.lean ====
section
/-! SUPPORT. The definitions of Machine/Flow.lean keep what `Keeps` names. -/

set_option linter.unusedTactic false
set_option linter.unreachableTactic false
set_option linter.unusedSimpArgs false
set_option linter.unnecessarySimpa false

namespace Sys2Proof.Machine

theorem State.once_keeps {s₀ s : State} (c : Instr) (t : Tid) (len : Nat) (issue read : State → State) (hk : Keeps s₀ s) (hk_issue : ∀ x0, Keeps s₀ x0 → Keeps s₀ (issue x0)) (hk_read : ∀ x0, Keeps s₀ x0 → Keeps s₀ (read x0)) : Keeps s₀ (s.once c t len issue read) := by
  unfold State.once
  try dsimp only
  repeat' (first | with_reducible assumption | with_reducible rfl | intro _ | with_reducible apply State.insn_keeps | with_reducible apply State.raiseAt_keeps | with_reducible apply hk_issue | with_reducible apply hk_read | with_reducible apply Keeps.foldl | with_reducible apply Keeps.foldr | with_reducible apply Keeps.foldl_snd_snd | with_reducible apply Keeps.foldl_snd | simp only [Keeps.lit_iff] | dsimp only [id_eq] | split)

theorem State.atIssue_keeps {s₀ s : State} (t : Tid) (f : Flight → Flight) (hk : Keeps s₀ s) : Keeps s₀ (s.atIssue t f) := by
  unfold State.atIssue
  try dsimp only
  repeat' (first | with_reducible assumption | with_reducible rfl | intro _ | with_reducible apply State.modThr_keeps | with_reducible apply Keeps.foldl | with_reducible apply Keeps.foldr | with_reducible apply Keeps.foldl_snd_snd | with_reducible apply Keeps.foldl_snd | simp only [Keeps.lit_iff] | dsimp only [id_eq] | split)

theorem State.jumpTo_keeps {s₀ s : State} (t : Tid) (pc : BitVec 16) (hk : Keeps s₀ s) : Keeps s₀ (s.jumpTo t pc) := by
  unfold State.jumpTo
  try dsimp only
  repeat' (first | with_reducible assumption | with_reducible rfl | intro _ | with_reducible apply State.modThr_keeps | with_reducible apply Keeps.foldl | with_reducible apply Keeps.foldr | with_reducible apply Keeps.foldl_snd_snd | with_reducible apply Keeps.foldl_snd | simp only [Keeps.lit_iff] | dsimp only [id_eq] | split)

theorem State.leave_keeps {s₀ s : State} (t : Tid) (hk : Keeps s₀ s) : Keeps s₀ (s.leave t) := by
  unfold State.leave
  try dsimp only
  repeat' (first | with_reducible assumption | with_reducible rfl | intro _ | with_reducible apply State.modThr_keeps | with_reducible apply Keeps.foldl | with_reducible apply Keeps.foldr | with_reducible apply Keeps.foldl_snd_snd | with_reducible apply Keeps.foldl_snd | simp only [Keeps.lit_iff] | dsimp only [id_eq] | split)

theorem State.arriveAt_keeps {s₀ s : State} (t : Tid) (pc : BitVec 16) (hk : Keeps s₀ s) : Keeps s₀ (s.arriveAt t pc) := by
  unfold State.arriveAt
  try dsimp only
  repeat' (first | with_reducible assumption | with_reducible rfl | intro _ | with_reducible apply State.modThr_keeps | with_reducible apply Keeps.foldl | with_reducible apply Keeps.foldr | with_reducible apply Keeps.foldl_snd_snd | with_reducible apply Keeps.foldl_snd | simp only [Keeps.lit_iff] | dsimp only [id_eq] | split)

theorem State.useTarget_keeps {s₀ s : State} (t : Tid) (tg : Target) (p : Place) (hk : Keeps s₀ s) : Keeps s₀ (s.useTarget t tg p) := by
  unfold State.useTarget
  try dsimp only
  repeat' (first | with_reducible assumption | with_reducible rfl | intro _ | with_reducible apply State.bump_keeps | with_reducible apply State.noteLoc_keeps | with_reducible apply State.notePointers_keeps | with_reducible apply Keeps.foldl | with_reducible apply Keeps.foldr | with_reducible apply Keeps.foldl_snd_snd | with_reducible apply Keeps.foldl_snd | simp only [Keeps.lit_iff] | dsimp only [id_eq] | split)

theorem State.go_keeps {s₀ s : State} (j : Jump) (hk : Keeps s₀ s) : Keeps s₀ (s.go j) := by
  unfold State.go
  try dsimp only
  repeat' (first | with_reducible assumption | with_reducible rfl | intro _ | with_reducible apply State.atIssue_keeps | with_reducible apply State.jumpTo_keeps | with_reducible apply State.leave_keeps | with_reducible apply Keeps.foldl | with_reducible apply Keeps.foldr | with_reducible apply Keeps.foldl_snd_snd | with_reducible apply Keeps.foldl_snd | simp only [Keeps.lit_iff] | dsimp only [id_eq] | split)

theorem State.arrive16_keeps {s₀ s : State} (j : Jump) (hk : Keeps s₀ s) : Keeps s₀ (s.arrive16 j) := by
  unfold State.arrive16
  try dsimp only
  repeat' (first | with_reducible assumption | with_reducible rfl | intro _ | with_reducible apply State.arriveAt_keeps | with_reducible apply State.raise_keeps | with_reducible apply State.readView_keeps | with_reducible apply State.useTarget_keeps | with_reducible apply Keeps.foldl | with_reducible apply Keeps.foldr | with_reducible apply Keeps.foldl_snd_snd | with_reducible apply Keeps.foldl_snd | simp only [Keeps.lit_iff] | dsimp only [id_eq] | split)

theorem State.branch_keeps {s₀ s : State} (c : Instr) (j : Jump) (taken : State → Bool) (hk : Keeps s₀ s) : Keeps s₀ (s.branch c j taken) := by
  unfold State.branch
  try dsimp only
  repeat' (first | with_reducible assumption | with_reducible rfl | intro _ | with_reducible apply State.arrive16_keeps | with_reducible apply State.go_keeps | with_reducible apply State.once_keeps | with_reducible apply Keeps.foldl | with_reducible apply Keeps.foldr | with_reducible apply Keeps.foldl_snd_snd | with_reducible apply Keeps.foldl_snd | simp only [Keeps.lit_iff] | dsimp only [id_eq] | split)

theorem State.callIssue_keeps {s₀ s : State} (j : Jump) (hk : Keeps s₀ s) : Keeps s₀ (s.callIssue j) := by
  unfold State.callIssue
  try dsimp only
  repeat' (first | with_reducible assumption | with_reducible rfl | intro _ | with_reducible apply State.atIssue_keeps | with_reducible apply State.go_keeps | with_reducible apply State.scheduleFor_keeps | with_reducible apply Keeps.foldl | with_reducible apply Keeps.foldr | with_reducible apply Keeps.foldl_snd_snd | with_reducible apply Keeps.foldl_snd | simp only [Keeps.lit_iff] | dsimp only [id_eq] | split)

theorem State.callRead_keeps {s₀ s : State} (j : Jump) (hk : Keeps s₀ s) : Keeps s₀ (s.callRead j) := by
  unfold State.callRead
  try dsimp only
  repeat' (first | with_reducible assumption | with_reducible rfl | intro _ | with_reducible apply State.arrive16_keeps | with_reducible apply State.raise_keeps | with_reducible apply State.readView_keeps | with_reducible apply Keeps.foldl | with_reducible apply Keeps.foldr | with_reducible apply Keeps.foldl_snd_snd | with_reducible apply Keeps.foldl_snd | simp only [Keeps.lit_iff] | dsimp only [id_eq] | split)

theorem State.retIssue_keeps {s₀ s : State} (t : Tid) (hk : Keeps s₀ s) : Keeps s₀ (s.retIssue t) := by
  unfold State.retIssue
  try dsimp only
  repeat' (first | with_reducible assumption | with_reducible rfl | intro _ | with_reducible apply State.atIssue_keeps | with_reducible apply State.leave_keeps | with_reducible apply State.scheduleFor_keeps | with_reducible apply Keeps.foldl | with_reducible apply Keeps.foldr | with_reducible apply Keeps.foldl_snd_snd | with_reducible apply Keeps.foldl_snd | simp only [Keeps.lit_iff] | dsimp only [id_eq] | split)

theorem State.retRead_keeps {s₀ s : State} (t : Tid) (hk : Keeps s₀ s) : Keeps s₀ (s.retRead t) := by
  unfold State.retRead
  try dsimp only
  repeat' (first | with_reducible assumption | with_reducible rfl | intro _ | with_reducible apply State.arriveAt_keeps | with_reducible apply State.noteLoc_keeps | with_reducible apply State.raise_keeps | with_reducible apply State.readView_keeps | with_reducible apply Keeps.foldl | with_reducible apply Keeps.foldr | with_reducible apply Keeps.foldl_snd_snd | with_reducible apply Keeps.foldl_snd | simp only [Keeps.lit_iff] | dsimp only [id_eq] | split)

theorem State.repeatNext_keeps {s₀ s : State} (t : Tid) (pc : BitVec 16) (n : Nat) (interruptible : Bool) (hk : Keeps s₀ s) : Keeps s₀ (s.repeatNext t pc n interruptible) := by
  unfold State.repeatNext
  try dsimp only
  repeat' (first | with_reducible assumption | with_reducible rfl | intro _ | with_reducible apply State.modFrom_keeps | with_reducible apply State.modThr_keeps | with_reducible apply Keeps.foldl | with_reducible apply Keeps.foldr | with_reducible apply Keeps.foldl_snd_snd | with_reducible apply Keeps.foldl_snd | simp only [Keeps.lit_iff] | dsimp only [id_eq] | split)

theorem State.repeatRead_keeps {s₀ s : State} (i : Issue) (interruptible : Bool) (hk : Keeps s₀ s) : Keeps s₀ (s.repeatRead i interruptible) := by
  unfold State.repeatRead
  try dsimp only
  repeat' (first | with_reducible assumption | with_reducible rfl | intro _ | with_reducible apply State.instruct_keeps | with_reducible apply State.readView_keeps | with_reducible apply State.repeatNext_keeps | with_reducible apply State.startRead_keeps | with_reducible apply Keeps.foldl | with_reducible apply Keeps.foldr | with_reducible apply Keeps.foldl_snd_snd | with_reducible apply Keeps.foldl_snd | simp only [Keeps.lit_iff] | dsimp only [id_eq] | split)

theorem State.repeatPrefix_keeps {s₀ s : State} (c : Instr) (i : Issue) (interruptible : Bool) (hk : Keeps s₀ s) : Keeps s₀ (s.repeatPrefix c i interruptible) := by
  unfold State.repeatPrefix
  try dsimp only
  repeat' (first | with_reducible assumption | with_reducible rfl | intro _ | with_reducible apply State.modThr_keeps | with_reducible apply State.once_keeps | with_reducible apply State.repeatRead_keeps | with_reducible apply Keeps.foldl | with_reducible apply Keeps.foldr | with_reducible apply Keeps.foldl_snd_snd | with_reducible apply Keeps.foldl_snd | simp only [Keeps.lit_iff] | dsimp only [id_eq] | split)

theorem State.issueOnly_keeps {s₀ s : State} (c : Instr) (i : Issue) (issue : State → State) (hk : Keeps s₀ s) (hk_issue : ∀ x0, Keeps s₀ x0 → Keeps s₀ (issue x0)) : Keeps s₀ (s.issueOnly c i issue) := by
  unfold State.issueOnly
  try dsimp only
  repeat' (first | with_reducible assumption | with_reducible rfl | intro _ | with_reducible apply State.once_keeps | with_reducible apply hk_issue | with_reducible apply Keeps.foldl | with_reducible apply Keeps.foldr | with_reducible apply Keeps.foldl_snd_snd | with_reducible apply Keeps.foldl_snd | simp only [Keeps.lit_iff] | dsimp only [id_eq] | split)

theorem State.chainTo_keeps {s₀ s : State} (t : Tid) (i : BitVec 5) (l : BitVec 2) (hk : Keeps s₀ s) : Keeps s₀ (s.chainTo t i l) := by
  unfold State.chainTo
  try dsimp only
  repeat' (first | with_reducible assumption | with_reducible rfl | intro _ | with_reducible apply State.atIssue_keeps | with_reducible apply State.modThr_keeps | with_reducible apply State.noteVec_keeps | with_reducible apply State.scheduleFor_keeps | with_reducible apply Keeps.foldl | with_reducible apply Keeps.foldr | with_reducible apply Keeps.foldl_snd_snd | with_reducible apply Keeps.foldl_snd | simp only [Keeps.lit_iff] | dsimp only [id_eq] | split)

theorem State.exitGo_keeps {s₀ s : State} (t : Tid) (sp : BitVec 19) (wait : Option (BitVec 16)) (hk : Keeps s₀ s) : Keeps s₀ (s.exitGo t sp wait) := by
  unfold State.exitGo
  try dsimp only
  repeat' (first | with_reducible assumption | with_reducible rfl | intro _ | with_reducible apply State.leave_keeps | with_reducible apply State.modThr_keeps | with_reducible apply State.scheduleFor_keeps | with_reducible apply Keeps.foldl | with_reducible apply Keeps.foldr | with_reducible apply Keeps.foldl_snd_snd | with_reducible apply Keeps.foldl_snd | simp only [Keeps.lit_iff] | dsimp only [id_eq] | split)

theorem State.exitDecide_keeps {s₀ s : State} (t : Tid) (hk : Keeps s₀ s) : Keeps s₀ (s.exitDecide t) := by
  unfold State.exitDecide
  try dsimp only
  repeat' (first | with_reducible assumption | with_reducible rfl | intro _ | with_reducible apply State.chainTo_keeps | with_reducible apply State.exitGo_keeps | with_reducible apply State.insn_keeps | with_reducible apply Keeps.foldl | with_reducible apply Keeps.foldr | with_reducible apply Keeps.foldl_snd_snd | with_reducible apply Keeps.foldl_snd | simp only [Keeps.lit_iff] | dsimp only [id_eq] | split)

theorem State.missWait_keeps {s₀ s : State} (t : Tid) (k : Nat) (pc : BitVec 16) (hk : Keeps s₀ s) : Keeps s₀ (s.missWait t k pc) := by
  unfold State.missWait
  try dsimp only
  repeat' (first | with_reducible assumption | with_reducible rfl | intro _ | with_reducible apply State.cancelFrom_keeps | with_reducible apply State.modThr_keeps | with_reducible apply Keeps.foldl | with_reducible apply Keeps.foldr | with_reducible apply Keeps.foldl_snd_snd | with_reducible apply Keeps.foldl_snd | simp only [Keeps.lit_iff] | dsimp only [id_eq] | split)

theorem State.exitIssue_keeps {s₀ s : State} (t : Tid) (hk : Keeps s₀ s) : Keeps s₀ (s.exitIssue t) := by
  unfold State.exitIssue
  try dsimp only
  repeat' (first | with_reducible assumption | with_reducible rfl | intro _ | with_reducible apply State.atIssue_keeps | with_reducible apply Keeps.foldl | with_reducible apply Keeps.foldr | with_reducible apply Keeps.foldl_snd_snd | with_reducible apply Keeps.foldl_snd | simp only [Keeps.lit_iff] | dsimp only [id_eq] | split)

theorem State.exitRead_keeps {s₀ s : State} (i : Issue) (n : Option (BitVec 2)) (start : State → State) (hk : Keeps s₀ s) (hk_start : ∀ x0, Keeps s₀ x0 → Keeps s₀ (start x0)) : Keeps s₀ (s.exitRead i n start) := by
  unfold State.exitRead
  try dsimp only
  repeat' (first | with_reducible assumption | with_reducible rfl | intro _ | with_reducible apply State.arriveAt_keeps | with_reducible apply State.enter_keeps | with_reducible apply State.missWait_keeps | with_reducible apply State.noteLoc_keeps | with_reducible apply State.raise_keeps | with_reducible apply State.readView_keeps | with_reducible apply hk_start | with_reducible apply Keeps.foldl | with_reducible apply Keeps.foldr | with_reducible apply Keeps.foldl_snd_snd | with_reducible apply Keeps.foldl_snd | simp only [Keeps.lit_iff] | dsimp only [id_eq] | split)

theorem State.setLevel_keeps {s₀ s : State} (c : Instr) (i : Issue) (e : DWord → Eff) (hk : Keeps s₀ s) : Keeps s₀ (s.setLevel c i e) := by
  unfold State.setLevel
  try dsimp only
  repeat' (first | with_reducible assumption | with_reducible rfl | intro _ | with_reducible apply State.enter_keeps | with_reducible apply State.instruct_keeps | with_reducible apply State.modThr_keeps | with_reducible apply State.once_keeps | with_reducible apply State.raise_keeps | with_reducible apply State.readView_keeps | with_reducible apply State.startRead_keeps | with_reducible apply Keeps.foldl | with_reducible apply Keeps.foldr | with_reducible apply Keeps.foldl_snd_snd | with_reducible apply Keeps.foldl_snd | simp only [Keeps.lit_iff] | dsimp only [id_eq] | split)

theorem State.setPointer_keeps {s₀ s : State} (c : Instr) (i : Issue) (e : BitVec 19 → Eff) (hk : Keeps s₀ s) : Keeps s₀ (s.setPointer c i e) := by
  unfold State.setPointer
  try dsimp only
  repeat' (first | with_reducible assumption | with_reducible rfl | intro _ | with_reducible apply State.enter_keeps | with_reducible apply State.instruct_keeps | with_reducible apply State.once_keeps | with_reducible apply State.startRead_keeps | with_reducible apply Keeps.foldl | with_reducible apply Keeps.foldr | with_reducible apply Keeps.foldl_snd_snd | with_reducible apply Keeps.foldl_snd | simp only [Keeps.lit_iff] | dsimp only [id_eq] | split)

theorem State.tasRead_keeps {s₀ s : State} (i : Issue) (p : Places) (b : DWord) (hk : Keeps s₀ s) : Keeps s₀ (s.tasRead i p b) := by
  unfold State.tasRead
  try dsimp only
  repeat' (first | with_reducible assumption | with_reducible rfl | intro _ | with_reducible apply State.enter_keeps | with_reducible apply State.putFlags_keeps | with_reducible apply State.putResult_keeps | with_reducible apply State.startRead_keeps | with_reducible apply Keeps.foldl | with_reducible apply Keeps.foldr | with_reducible apply Keeps.foldl_snd_snd | with_reducible apply Keeps.foldl_snd | simp only [Keeps.lit_iff] | dsimp only [id_eq] | split)

end Sys2Proof.Machine
end

