-- ==== Sys2Proof/Laws/Keep/IoInsn.lean ====
section
/-! SUPPORT. The definitions of Machine/IoInsn.lean keep what `Keeps` names. -/

set_option linter.unusedTactic false
set_option linter.unreachableTactic false
set_option linter.unusedSimpArgs false
set_option linter.unnecessarySimpa false

namespace Sys2Proof.Machine

theorem State.judged_keeps {s₀ s : State} (i : Issue) (a b c : OpSpec) (bad : Vals → Bool) (align : Vals → Option (BitVec 3 × Word)) (f : State → Places → Vals → State) (at_ : Vals → BitVec 3 × Word := fun _ => (0, 0)) (hk : Keeps s₀ s) (hk_f : ∀ x0 x1 x2, Keeps s₀ x0 → Keeps s₀ (f x0 x1 x2)) : Keeps s₀ (s.judged i a b c bad align f at_) := by
  unfold State.judged
  try dsimp only
  repeat' (first | with_reducible assumption | with_reducible rfl | intro _ | with_reducible apply State.instruct_keeps | with_reducible apply State.raise_keeps | with_reducible apply State.readView_keeps | with_reducible apply hk_f | with_reducible apply Keeps.foldl | with_reducible apply Keeps.foldr | with_reducible apply Keeps.foldl_snd_snd | with_reducible apply Keeps.foldl_snd | simp only [Keeps.lit_iff] | dsimp only [id_eq] | split)

theorem State.access_keeps {s₀ s : State} (t : Tid) (x : IoAcc) (hk : Keeps s₀ s) : Keeps s₀ (s.access t x) := by
  unfold State.access
  try dsimp only
  repeat' (first | with_reducible assumption | with_reducible rfl | intro _ | with_reducible apply State.enter_keeps | with_reducible apply Keeps.foldl | with_reducible apply Keeps.foldr | with_reducible apply Keeps.foldl_snd_snd | with_reducible apply Keeps.foldl_snd | simp only [Keeps.lit_iff] | dsimp only [id_eq] | split)

theorem State.pinWrite_keeps {s₀ s : State} (i : Issue) (staged : Bool) (hk : Keeps s₀ s) : Keeps s₀ (s.pinWrite i staged) := by
  unfold State.pinWrite
  try dsimp only
  repeat' (first | with_reducible assumption | with_reducible rfl | intro _ | with_reducible apply State.access_keeps | with_reducible apply State.judged_keeps | with_reducible apply State.pinwr_keeps | with_reducible apply State.startRead_keeps | with_reducible apply Keeps.foldl | with_reducible apply Keeps.foldr | with_reducible apply Keeps.foldl_snd_snd | with_reducible apply Keeps.foldl_snd | simp only [Keeps.lit_iff] | dsimp only [id_eq] | split)

theorem State.ringInsn_keeps {s₀ s : State} (c : Instr) (i : Issue) (read : State → State) (hk : Keeps s₀ s) (hk_read : ∀ x0, Keeps s₀ x0 → Keeps s₀ (read x0)) : Keeps s₀ (s.ringInsn c i read) := by
  unfold State.ringInsn
  try dsimp only
  repeat' (first | with_reducible assumption | with_reducible rfl | intro _ | with_reducible apply State.insn_keeps | with_reducible apply hk_read | with_reducible apply Keeps.foldl | with_reducible apply Keeps.foldr | with_reducible apply Keeps.foldl_snd_snd | with_reducible apply Keeps.foldl_snd | simp only [Keeps.lit_iff] | dsimp only [id_eq] | split)

theorem State.post_keeps {s₀ s : State} (i : Issue) (staged : Bool) (hk : Keeps s₀ s) : Keeps s₀ (s.post i staged) := by
  unfold State.post
  try dsimp only
  repeat' (first | with_reducible assumption | with_reducible rfl | intro _ | with_reducible apply State.access_keeps | with_reducible apply State.judged_keeps | with_reducible apply State.noteRead_keeps | with_reducible apply State.qput_keeps | with_reducible apply State.startRead_keeps | with_reducible apply Keeps.foldl | with_reducible apply Keeps.foldr | with_reducible apply Keeps.foldl_snd_snd | with_reducible apply Keeps.foldl_snd | simp only [Keeps.lit_iff] | dsimp only [id_eq] | split)

end Sys2Proof.Machine
end

