-- ==== Sys2Proof/Laws/Keep/HallInsn.lean ====
section
/-! SUPPORT. The definitions of Machine/HallInsn.lean keep what `Keeps` names. -/

set_option linter.unusedTactic false
set_option linter.unreachableTactic false
set_option linter.unusedSimpArgs false
set_option linter.unnecessarySimpa false

namespace Sys2Proof.Machine

theorem State.hallInsn_keeps {s₀ s : State} (op : Instr) (i : Issue) (kind : HqKind) (n : Nat) (a b c : OpSpec) (f : Places → Vals → HallArgs) (hk : Keeps s₀ s) : Keeps s₀ (s.hallInsn op i kind n a b c f) := by
  unfold State.hallInsn
  try dsimp only
  repeat' (first | with_reducible assumption | with_reducible rfl | intro _ | with_reducible apply State.enter_keeps | with_reducible apply State.insn_keeps | with_reducible apply State.instruct_keeps | with_reducible apply State.raise_keeps | with_reducible apply State.startRead_keeps | with_reducible apply Keeps.foldl | with_reducible apply Keeps.foldr | with_reducible apply Keeps.foldl_snd_snd | with_reducible apply Keeps.foldl_snd | simp only [Keeps.lit_iff] | dsimp only [id_eq] | split)

theorem State.ildRead_keeps {s₀ s : State} (i : Issue) (hk : Keeps s₀ s) : Keeps s₀ (s.ildRead i) := by
  unfold State.ildRead
  try dsimp only
  repeat' (first | with_reducible assumption | with_reducible rfl | intro _ | with_reducible apply State.judged_keeps | with_reducible apply State.noteRead_keeps | with_reducible apply State.putResult_keeps | with_reducible apply State.raise_keeps | with_reducible apply State.readView_keeps | with_reducible apply State.startRead_keeps | with_reducible apply Keeps.foldl | with_reducible apply Keeps.foldr | with_reducible apply Keeps.foldl_snd_snd | with_reducible apply Keeps.foldl_snd | simp only [Keeps.lit_iff] | dsimp only [id_eq] | split)

end Sys2Proof.Machine
end

