-- ==== Sys2Proof/Laws/Keep/HallQueue.lean ====
section
/-! SUPPORT. The definitions of Machine/HallQueue.lean keep what `Keeps` names. -/

set_option linter.unusedTactic false
set_option linter.unreachableTactic false
set_option linter.unusedSimpArgs false
set_option linter.unnecessarySimpa false

namespace Sys2Proof.Machine

theorem State.hqWrite_keeps {s₀ s : State} (b : Barrel) (e : HqEntry) (hk : Keeps s₀ s) : Keeps s₀ (s.hqWrite b e) := by
  unfold State.hqWrite
  try dsimp only
  repeat' (first | with_reducible assumption | with_reducible rfl | intro _ | with_reducible apply State.modBar_keeps | with_reducible apply Keeps.foldl | with_reducible apply Keeps.foldr | with_reducible apply Keeps.foldl_snd_snd | with_reducible apply Keeps.foldl_snd | simp only [Keeps.lit_iff] | dsimp only [id_eq] | split)

theorem State.hqEnter_keeps {s₀ s : State} (b : Barrel) (k : Nat) (e : HqEntry) (hk : Keeps s₀ s) : Keeps s₀ (s.hqEnter b k e) := by
  unfold State.hqEnter
  try dsimp only
  repeat' (first | with_reducible assumption | with_reducible rfl | intro _ | with_reducible apply State.hqWrite_keeps | with_reducible apply State.raiseAt_keeps | with_reducible apply Keeps.foldl | with_reducible apply Keeps.foldr | with_reducible apply Keeps.foldl_snd_snd | with_reducible apply Keeps.foldl_snd | simp only [Keeps.lit_iff] | dsimp only [id_eq] | split)

theorem State.hqPerform_keeps {s₀ s : State} (e : HqEntry) (hk : Keeps s₀ s) : Keeps s₀ (s.hqPerform e).2 := by
  unfold State.hqPerform
  try dsimp only
  repeat' (first | with_reducible assumption | with_reducible rfl | intro _ | with_reducible apply State.hallWrite_keeps | with_reducible apply State.lockAcquire_keeps | with_reducible apply State.lockCas_keeps | with_reducible apply State.lockFree_keeps | with_reducible apply State.lockWatch_keeps | with_reducible apply State.modAll_keeps | with_reducible apply State.modLockStat_keeps | with_reducible apply Keeps.foldl | with_reducible apply Keeps.foldr | with_reducible apply Keeps.foldl_snd_snd | with_reducible apply Keeps.foldl_snd | simp only [Keeps.lit_iff] | dsimp only [id_eq] | split)

theorem State.hqNote_keeps {s₀ s : State} (e : HqEntry) (f : Ecc) (hk : Keeps s₀ s) : Keeps s₀ (s.hqNote e f) := by
  unfold State.hqNote
  try dsimp only
  repeat' (first | with_reducible assumption | with_reducible rfl | intro _ | with_reducible apply State.correctable_keeps | with_reducible apply State.logError_keeps | with_reducible apply State.spoil_keeps | with_reducible apply Keeps.foldl | with_reducible apply Keeps.foldr | with_reducible apply Keeps.foldl_snd_snd | with_reducible apply Keeps.foldl_snd | simp only [Keeps.lit_iff] | dsimp only [id_eq] | split)

theorem State.hqSpoilt_keeps {s₀ s : State} (e : HqEntry) (hk : Keeps s₀ s) : Keeps s₀ (s.hqSpoilt e) := by
  unfold State.hqSpoilt
  try dsimp only
  repeat' (first | with_reducible assumption | with_reducible rfl | intro _ | with_reducible apply State.modAll_keeps | with_reducible apply Keeps.foldl | with_reducible apply Keeps.foldr | with_reducible apply Keeps.foldl_snd_snd | with_reducible apply Keeps.foldl_snd | simp only [Keeps.lit_iff] | dsimp only [id_eq] | split)

theorem State.hqAccept_keeps {s₀ s : State} (b : Barrel) (f : Ecc) (hk : Keeps s₀ s) : Keeps s₀ (s.hqAccept b f) := by
  unfold State.hqAccept
  try dsimp only
  repeat' (first | with_reducible assumption | with_reducible rfl | intro _ | with_reducible apply State.hqNote_keeps | with_reducible apply State.hqPerform_keeps | with_reducible apply State.hqSpoilt_keeps | with_reducible apply State.modBar_keeps | with_reducible apply State.useBank_keeps | with_reducible apply Keeps.foldl | with_reducible apply Keeps.foldr | with_reducible apply Keeps.foldl_snd_snd | with_reducible apply Keeps.foldl_snd | simp only [Keeps.lit_iff] | dsimp only [id_eq] | split)

theorem State.endHwait_keeps {s₀ s : State} (t : Tid) (hk : Keeps s₀ s) : Keeps s₀ (s.endHwait t) := by
  unfold State.endHwait
  try dsimp only
  repeat' (first | with_reducible assumption | with_reducible rfl | intro _ | with_reducible apply State.modAll_keeps | with_reducible apply Keeps.foldl | with_reducible apply Keeps.foldr | with_reducible apply Keeps.foldl_snd_snd | with_reducible apply Keeps.foldl_snd | simp only [Keeps.lit_iff] | dsimp only [id_eq] | split)

theorem State.hqError_keeps {s₀ s : State} (b : Barrel) (e : HqEntry) (hk : Keeps s₀ s) : Keeps s₀ (s.hqError b e) := by
  unfold State.hqError
  try dsimp only
  repeat' (first | with_reducible assumption | with_reducible rfl | intro _ | with_reducible apply State.modAll_keeps | with_reducible apply State.modBar_keeps | with_reducible apply State.setFaulted_keeps | with_reducible apply Keeps.foldl | with_reducible apply Keeps.foldr | with_reducible apply Keeps.foldl_snd_snd | with_reducible apply Keeps.foldl_snd | simp only [Keeps.lit_iff] | dsimp only [id_eq] | split)

theorem State.hallResult_keeps {s₀ s : State} (e : HqEntry) (d : Dest) (hk : Keeps s₀ s) : Keeps s₀ (s.hallResult e d) := by
  unfold State.hallResult
  try dsimp only
  repeat' (first | with_reducible assumption | with_reducible rfl | intro _ | with_reducible apply Keeps.foldl | with_reducible apply Keeps.foldr | with_reducible apply Keeps.foldl_snd_snd | with_reducible apply Keeps.foldl_snd | simp only [Keeps.lit_iff] | dsimp only [id_eq] | split)

theorem State.hqRetire_keeps {s₀ s : State} (b : Barrel) (hk : Keeps s₀ s) : Keeps s₀ (s.hqRetire b) := by
  unfold State.hqRetire
  try dsimp only
  repeat' (first | with_reducible assumption | with_reducible rfl | intro _ | with_reducible apply State.endHwait_keeps | with_reducible apply State.hallResult_keeps | with_reducible apply State.hqError_keeps | with_reducible apply State.modBar_keeps | with_reducible apply Keeps.foldl | with_reducible apply Keeps.foldr | with_reducible apply Keeps.foldl_snd_snd | with_reducible apply Keeps.foldl_snd | simp only [Keeps.lit_iff] | dsimp only [id_eq] | split)

end Sys2Proof.Machine
end

