-- ==== Sys2Proof/Laws/Keep/Events.lean ====
section
/-! SUPPORT. The definitions of Machine/Events.lean keep what `Keeps` names. -/

set_option linter.unusedTactic false
set_option linter.unreachableTactic false
set_option linter.unusedSimpArgs false
set_option linter.unnecessarySimpa false

namespace Sys2Proof.Machine

theorem State.swset_keeps {s₀ s : State} (a : Agent) (v : Word) (hk : Keeps s₀ s) : Keeps s₀ (s.swset a v) := by
  unfold State.swset
  try dsimp only
  repeat' (first | with_reducible assumption | with_reducible rfl | intro _ | with_reducible apply State.pulse_keeps | with_reducible apply Keeps.foldl | with_reducible apply Keeps.foldr | with_reducible apply Keeps.foldl_snd_snd | with_reducible apply Keeps.foldl_snd | simp only [Keeps.lit_iff] | dsimp only [id_eq] | split)

theorem State.clearEvents_keeps {s₀ s : State} (t : Tid) (pend lost : Word) (hk : Keeps s₀ s) : Keeps s₀ (s.clearEvents t pend lost) := by
  unfold State.clearEvents
  try dsimp only
  repeat' (first | with_reducible assumption | with_reducible rfl | intro _ | with_reducible apply State.modEvAll_keeps | with_reducible apply State.pulse_keeps | with_reducible apply Keeps.foldl | with_reducible apply Keeps.foldr | with_reducible apply Keeps.foldl_snd_snd | with_reducible apply Keeps.foldl_snd | simp only [Keeps.lit_iff] | dsimp only [id_eq] | split)

theorem State.mapWrite_keeps {s₀ s : State} (a : Agent) (t : Tid) (i : Fin 32) (v : Word) (hk : Keeps s₀ s) : Keeps s₀ (s.mapWrite a t i v) := by
  unfold State.mapWrite
  try dsimp only
  repeat' (first | with_reducible assumption | with_reducible rfl | intro _ | with_reducible apply State.modEvAll_keeps | with_reducible apply Keeps.foldl | with_reducible apply Keeps.foldr | with_reducible apply Keeps.foldl_snd_snd | with_reducible apply Keeps.foldl_snd | simp only [Keeps.lit_iff] | dsimp only [id_eq] | split)

end Sys2Proof.Machine
end

