-- ==== Sys2Proof/Laws/Keep/Bells.lean ====
section
/-! SUPPORT. The definitions of Machine/Bells.lean keep what `Keeps` names. -/

set_option linter.unusedTactic false
set_option linter.unreachableTactic false
set_option linter.unusedSimpArgs false
set_option linter.unnecessarySimpa false

namespace Sys2Proof.Machine

theorem State.setNext_keeps {s₀ s : State} (b : Bell) (n : DWord) (time : Nat) (hk : Keeps s₀ s) : Keeps s₀ (s.setNext b n time) := by
  unfold State.setNext
  try dsimp only
  repeat' (first | with_reducible assumption | with_reducible rfl | intro _ | with_reducible apply State.modBell_keeps | with_reducible apply Keeps.foldl | with_reducible apply Keeps.foldr | with_reducible apply Keeps.foldl_snd_snd | with_reducible apply Keeps.foldl_snd | simp only [Keeps.lit_iff] | dsimp only [id_eq] | split)

theorem State.aimBell_keeps {s₀ s : State} (b : Bell) (from_ : Nat) (hk : Keeps s₀ s) : Keeps s₀ (s.aimBell b from_) := by
  unfold State.aimBell
  try dsimp only
  repeat' (first | with_reducible assumption | with_reducible rfl | intro _ | with_reducible apply State.setNext_keeps | with_reducible apply Keeps.foldl | with_reducible apply Keeps.foldr | with_reducible apply Keeps.foldl_snd_snd | with_reducible apply Keeps.foldl_snd | simp only [Keeps.lit_iff] | dsimp only [id_eq] | split)

theorem State.startBell_keeps {s₀ s : State} (b : Bell) (hk : Keeps s₀ s) : Keeps s₀ (s.startBell b) := by
  unfold State.startBell
  try dsimp only
  repeat' (first | with_reducible assumption | with_reducible rfl | intro _ | with_reducible apply State.aimBell_keeps | with_reducible apply State.setBell_keeps | with_reducible apply Keeps.foldl | with_reducible apply Keeps.foldr | with_reducible apply Keeps.foldl_snd_snd | with_reducible apply Keeps.foldl_snd | simp only [Keeps.lit_iff] | dsimp only [id_eq] | split)

theorem State.stopBell_keeps {s₀ s : State} (b : Bell) (hk : Keeps s₀ s) : Keeps s₀ (s.stopBell b) := by
  unfold State.stopBell
  try dsimp only
  repeat' (first | with_reducible assumption | with_reducible rfl | intro _ | with_reducible apply State.modBell_keeps | with_reducible apply Keeps.foldl | with_reducible apply Keeps.foldr | with_reducible apply Keeps.foldl_snd_snd | with_reducible apply Keeps.foldl_snd | simp only [Keeps.lit_iff] | dsimp only [id_eq] | split)

theorem State.applyBell_keeps {s₀ s : State} (b : Bell) (hk : Keeps s₀ s) : Keeps s₀ (s.applyBell b) := by
  unfold State.applyBell
  try dsimp only
  repeat' (first | with_reducible assumption | with_reducible rfl | intro _ | with_reducible apply State.setBell_keeps | with_reducible apply Keeps.foldl | with_reducible apply Keeps.foldr | with_reducible apply Keeps.foldl_snd_snd | with_reducible apply Keeps.foldl_snd | simp only [Keeps.lit_iff] | dsimp only [id_eq] | split)

theorem State.belCtlWrite_keeps {s₀ s : State} (b : Bell) (en apply : Bool) (hk : Keeps s₀ s) : Keeps s₀ (s.belCtlWrite b en apply) := by
  unfold State.belCtlWrite
  try dsimp only
  repeat' (first | with_reducible assumption | with_reducible rfl | intro _ | with_reducible apply State.applyBell_keeps | with_reducible apply State.startBell_keeps | with_reducible apply State.stopBell_keeps | with_reducible apply Keeps.foldl | with_reducible apply Keeps.foldr | with_reducible apply Keeps.foldl_snd_snd | with_reducible apply Keeps.foldl_snd | simp only [Keeps.lit_iff] | dsimp only [id_eq] | split)

theorem State.scheduleWrite_keeps {s₀ s : State} (b : Bell) (r : Reg) (v : Word) (hk : Keeps s₀ s) : Keeps s₀ (s.scheduleWrite b r v) := by
  unfold State.scheduleWrite
  try dsimp only
  repeat' (first | with_reducible assumption | with_reducible rfl | intro _ | with_reducible apply State.modBell_keeps | with_reducible apply State.storeRw_keeps | with_reducible apply Keeps.foldl | with_reducible apply Keeps.foldr | with_reducible apply Keeps.foldl_snd_snd | with_reducible apply Keeps.foldl_snd | simp only [Keeps.lit_iff] | dsimp only [id_eq] | split)

theorem State.commitItem_keeps {s₀ s : State} (y0 : Staged) (hk : Keeps s₀ s) : Keeps s₀ (s.commitItem y0) := by
  unfold State.commitItem
  try dsimp only
  repeat' (first | with_reducible assumption | with_reducible rfl | intro _ | with_reducible apply State.commitPost_keeps | with_reducible apply State.landReload_keeps | with_reducible apply State.latchTo_keeps | with_reducible apply State.post_keeps | with_reducible apply State.schedule_keeps | with_reducible apply Keeps.foldl | with_reducible apply Keeps.foldr | with_reducible apply Keeps.foldl_snd_snd | with_reducible apply Keeps.foldl_snd | simp only [Keeps.lit_iff] | dsimp only [id_eq] | split)

theorem State.reloadLast_keeps {s₀ s : State} (t : Tid) (hk : Keeps s₀ s) : Keeps s₀ (s.reloadLast t) := by
  unfold State.reloadLast
  try dsimp only
  repeat' (first | with_reducible assumption | with_reducible rfl | intro _ | with_reducible apply Keeps.foldl | with_reducible apply Keeps.foldr | with_reducible apply Keeps.foldl_snd_snd | with_reducible apply Keeps.foldl_snd | simp only [Keeps.lit_iff] | dsimp only [id_eq] | split)

theorem State.commit_keeps {s₀ s : State} (t : Tid) (n : Word) (hk : Keeps s₀ s) : Keeps s₀ (s.commit t n) := by
  unfold State.commit
  try dsimp only
  repeat' (first | with_reducible assumption | with_reducible rfl | intro _ | with_reducible apply State.commitItem_keeps | with_reducible apply State.modThr_keeps | with_reducible apply State.reloadLast_keeps | with_reducible apply State.unstage_keeps | with_reducible apply Keeps.foldl | with_reducible apply Keeps.foldr | with_reducible apply Keeps.foldl_snd_snd | with_reducible apply Keeps.foldl_snd | simp only [Keeps.lit_iff] | dsimp only [id_eq] | split)

theorem State.bellDiscard_keeps {s₀ s : State} (b : Bell) (t : Tid) (n : Word) (hk : Keeps s₀ s) : Keeps s₀ (s.bellDiscard b t n) := by
  unfold State.bellDiscard
  try dsimp only
  repeat' (first | with_reducible assumption | with_reducible rfl | intro _ | with_reducible apply State.cancelAll_keeps | with_reducible apply State.discard_keeps | with_reducible apply State.modBell_keeps | with_reducible apply State.modPer_keeps | with_reducible apply State.pulse_keeps | with_reducible apply Keeps.foldl | with_reducible apply Keeps.foldr | with_reducible apply Keeps.foldl_snd_snd | with_reducible apply Keeps.foldl_snd | simp only [Keeps.lit_iff] | dsimp only [id_eq] | split)

theorem State.outcomeAt_keeps {s₀ s : State} (b : Bell) (t : Tid) (n : Word) (hk : Keeps s₀ s) : Keeps s₀ (s.outcomeAt b t n) := by
  unfold State.outcomeAt
  try dsimp only
  repeat' (first | with_reducible assumption | with_reducible rfl | intro _ | with_reducible apply State.bellDiscard_keeps | with_reducible apply State.commit_keeps | with_reducible apply State.lockup_keeps | with_reducible apply State.modBell_keeps | with_reducible apply Keeps.foldl | with_reducible apply Keeps.foldr | with_reducible apply Keeps.foldl_snd_snd | with_reducible apply Keeps.foldl_snd | simp only [Keeps.lit_iff] | dsimp only [id_eq] | split)

theorem State.holdThread_keeps {s₀ s : State} (t : Tid) (hk : Keeps s₀ s) : Keeps s₀ (s.holdThread t) := by
  unfold State.holdThread
  try dsimp only
  repeat' (first | with_reducible assumption | with_reducible rfl | intro _ | with_reducible apply State.modThr_keeps | with_reducible apply Keeps.foldl | with_reducible apply Keeps.foldr | with_reducible apply Keeps.foldl_snd_snd | with_reducible apply Keeps.foldl_snd | simp only [Keeps.lit_iff] | dsimp only [id_eq] | split)

theorem State.release_keeps {s₀ s : State} (t : Tid) (stopping : Bool) (hk : Keeps s₀ s) : Keeps s₀ (s.release t stopping) := by
  unfold State.release
  try dsimp only
  repeat' (first | with_reducible assumption | with_reducible rfl | intro _ | with_reducible apply State.holdThread_keeps | with_reducible apply State.modThr_keeps | with_reducible apply State.periodEntry_keeps | with_reducible apply State.toMaint_keeps | with_reducible apply Keeps.foldl | with_reducible apply Keeps.foldr | with_reducible apply Keeps.foldl_snd_snd | with_reducible apply Keeps.foldl_snd | simp only [Keeps.lit_iff] | dsimp only [id_eq] | split)

theorem State.nextBell_keeps {s₀ s : State} (b : Bell) (skips : Nat) (n : DWord) (hk : Keeps s₀ s) : Keeps s₀ (s.nextBell b skips n) := by
  unfold State.nextBell
  try dsimp only
  repeat' (first | with_reducible assumption | with_reducible rfl | intro _ | with_reducible apply State.modBell_keeps | with_reducible apply Keeps.foldl | with_reducible apply Keeps.foldr | with_reducible apply Keeps.foldl_snd_snd | with_reducible apply Keeps.foldl_snd | simp only [Keeps.lit_iff] | dsimp only [id_eq] | split)

theorem State.switchAll_keeps {s₀ s : State} (todo : Thread → SwitchTodo) (hk : Keeps s₀ s) : Keeps s₀ (s.switchAll todo) := by
  unfold State.switchAll
  try dsimp only
  repeat' (first | with_reducible assumption | with_reducible rfl | intro _ | with_reducible apply State.lockup_keeps | with_reducible apply State.modThr_keeps | with_reducible apply State.resetThread_keeps | with_reducible apply State.settleBank_keeps | with_reducible apply Keeps.foldl | with_reducible apply Keeps.foldr | with_reducible apply Keeps.foldl_snd_snd | with_reducible apply Keeps.foldl_snd | simp only [Keeps.lit_iff] | dsimp only [id_eq] | split)

theorem State.activate_keeps {s₀ s : State} (o : Order) (hk : Keeps s₀ s) : Keeps s₀ (s.activate o) := by
  unfold State.activate
  try dsimp only
  repeat' (first | with_reducible assumption | with_reducible rfl | intro _ | with_reducible apply State.modUpd_keeps | with_reducible apply State.outcome_keeps | with_reducible apply State.record_keeps | with_reducible apply State.switchAll_keeps | with_reducible apply Keeps.foldl | with_reducible apply Keeps.foldr | with_reducible apply Keeps.foldl_snd_snd | with_reducible apply Keeps.foldl_snd | simp only [Keeps.lit_iff] | dsimp only [id_eq] | split)

theorem State.fallBack_keeps {s₀ s : State} (o : Order) (n : DWord) (hk : Keeps s₀ s) : Keeps s₀ (s.fallBack o n) := by
  unfold State.fallBack
  try dsimp only
  repeat' (first | with_reducible assumption | with_reducible rfl | intro _ | with_reducible apply State.modUpd_keeps | with_reducible apply State.pulse_keeps | with_reducible apply State.record_keeps | with_reducible apply State.startDownload_keeps | with_reducible apply State.switchAll_keeps | with_reducible apply Keeps.foldl | with_reducible apply Keeps.foldr | with_reducible apply Keeps.foldl_snd_snd | with_reducible apply Keeps.foldl_snd | simp only [Keeps.lit_iff] | dsimp only [id_eq] | split)

theorem State.updInstant_keeps {s₀ s : State} (hk : Keeps s₀ s) : Keeps s₀ s.updInstant := by
  unfold State.updInstant
  try dsimp only
  repeat' (first | with_reducible assumption | with_reducible rfl | intro _ | with_reducible apply State.activate_keeps | with_reducible apply State.fallBack_keeps | with_reducible apply State.stage_keeps | with_reducible apply State.voidOrder_keeps | with_reducible apply Keeps.foldl | with_reducible apply Keeps.foldr | with_reducible apply Keeps.foldl_snd_snd | with_reducible apply Keeps.foldl_snd | simp only [Keeps.lit_iff] | dsimp only [id_eq] | split)

theorem State.blockUp_keeps {s₀ s : State} (hk : Keeps s₀ s) : Keeps s₀ s.blockUp := by
  unfold State.blockUp
  try dsimp only
  repeat' (first | with_reducible assumption | with_reducible rfl | intro _ | with_reducible apply State.beginVerify_keeps | with_reducible apply State.cardSoon_keeps | with_reducible apply State.modUpd_keeps | with_reducible apply State.schedule_keeps | with_reducible apply Keeps.foldl | with_reducible apply Keeps.foldr | with_reducible apply Keeps.foldl_snd_snd | with_reducible apply Keeps.foldl_snd | simp only [Keeps.lit_iff] | dsimp only [id_eq] | split)

theorem State.bellSwitches_keeps {s₀ s : State} (b : Bell) (hk : Keeps s₀ s) : Keeps s₀ (s.bellSwitches b) := by
  unfold State.bellSwitches
  try dsimp only
  repeat' (first | with_reducible assumption | with_reducible rfl | intro _ | with_reducible apply State.modPin_keeps | with_reducible apply State.switchTo_keeps | with_reducible apply Keeps.foldl | with_reducible apply Keeps.foldr | with_reducible apply Keeps.foldl_snd_snd | with_reducible apply Keeps.foldl_snd | simp only [Keeps.lit_iff] | dsimp only [id_eq] | split)

theorem State.bellMaps_keeps {s₀ s : State} (b : Bell) (stopping : Bool) (hk : Keeps s₀ s) : Keeps s₀ (s.bellMaps b stopping) := by
  unfold State.bellMaps
  try dsimp only
  repeat' (first | with_reducible assumption | with_reducible rfl | intro _ | with_reducible apply State.gateNow_keeps | with_reducible apply State.modBar_keeps | with_reducible apply State.slotCopy_keeps | with_reducible apply Keeps.foldl | with_reducible apply Keeps.foldr | with_reducible apply Keeps.foldl_snd_snd | with_reducible apply Keeps.foldl_snd | simp only [Keeps.lit_iff] | dsimp only [id_eq] | split)

theorem State.bellPads_keeps {s₀ s : State} (b : Bell) (hk : Keeps s₀ s) : Keeps s₀ (s.bellPads b) := by
  unfold State.bellPads
  try dsimp only
  repeat' (first | with_reducible assumption | with_reducible rfl | intro _ | with_reducible apply State.schedule_keeps | with_reducible apply Keeps.foldl | with_reducible apply Keeps.foldr | with_reducible apply Keeps.foldl_snd_snd | with_reducible apply Keeps.foldl_snd | simp only [Keeps.lit_iff] | dsimp only [id_eq] | split)

theorem State.bellNext_keeps {s₀ s : State} (b : Bell) (skips : Nat) (n : DWord) (hk : Keeps s₀ s) : Keeps s₀ (s.bellNext b skips n) := by
  unfold State.bellNext
  try dsimp only
  repeat' (first | with_reducible assumption | with_reducible rfl | intro _ | with_reducible apply State.aimBell_keeps | with_reducible apply State.nextBell_keeps | with_reducible apply State.setBell_keeps | with_reducible apply State.setReg_keeps | with_reducible apply Keeps.foldl | with_reducible apply Keeps.foldr | with_reducible apply Keeps.foldl_snd_snd | with_reducible apply Keeps.foldl_snd | simp only [Keeps.lit_iff] | dsimp only [id_eq] | split)

theorem State.bellFire_keeps {s₀ s : State} (b : Bell) (hk : Keeps s₀ s) : Keeps s₀ (s.bellFire b) := by
  unfold State.bellFire
  try dsimp only
  repeat' (first | with_reducible assumption | with_reducible rfl | intro _ | with_reducible apply State.bellMaps_keeps | with_reducible apply State.bellNext_keeps | with_reducible apply State.bellPads_keeps | with_reducible apply State.bellSwitches_keeps | with_reducible apply State.blockUp_keeps | with_reducible apply State.modBell_keeps | with_reducible apply State.outcomeAt_keeps | with_reducible apply State.pulse_keeps | with_reducible apply State.release_keeps | with_reducible apply State.updInstant_keeps | with_reducible apply Keeps.foldl | with_reducible apply Keeps.foldr | with_reducible apply Keeps.foldl_snd_snd | with_reducible apply Keeps.foldl_snd | simp only [Keeps.lit_iff] | dsimp only [id_eq] | split)

end Sys2Proof.Machine
end

