-- ==== Sys2Proof/Laws/Keep/Dma.lean ====
section
/-! SUPPORT. The definitions of Machine/Dma.lean keep what `Keeps` names. -/

set_option linter.unusedTactic false
set_option linter.unreachableTactic false
set_option linter.unusedSimpArgs false
set_option linter.unnecessarySimpa false

namespace Sys2Proof.Machine

theorem State.chPulse_keeps {s₀ s : State} (ch : DmaCh) (hk : Keeps s₀ s) : Keeps s₀ (s.chPulse ch) := by
  unfold State.chPulse
  try dsimp only
  repeat' (first | with_reducible assumption | with_reducible rfl | intro _ | with_reducible apply State.pulse_keeps | with_reducible apply Keeps.foldl | with_reducible apply Keeps.foldr | with_reducible apply Keeps.foldl_snd_snd | with_reducible apply Keeps.foldl_snd | simp only [Keeps.lit_iff] | dsimp only [id_eq] | split)

theorem State.chEnter_keeps {s₀ s : State} (ch : DmaCh) (st : ChState) (hk : Keeps s₀ s) : Keeps s₀ (s.chEnter ch st) := by
  unfold State.chEnter
  try dsimp only
  repeat' (first | with_reducible assumption | with_reducible rfl | intro _ | with_reducible apply State.chPulse_keeps | with_reducible apply State.modCh_keeps | with_reducible apply Keeps.foldl | with_reducible apply Keeps.foldr | with_reducible apply Keeps.foldl_snd_snd | with_reducible apply Keeps.foldl_snd | simp only [Keeps.lit_iff] | dsimp only [id_eq] | split)

theorem State.engFree_keeps {s₀ s : State} (e : Engine) (hk : Keeps s₀ s) : Keeps s₀ (s.engFree e) := by
  unfold State.engFree
  try dsimp only
  repeat' (first | with_reducible assumption | with_reducible rfl | intro _ | with_reducible apply State.modEng_keeps | with_reducible apply Keeps.foldl | with_reducible apply Keeps.foldr | with_reducible apply Keeps.foldl_snd_snd | with_reducible apply Keeps.foldl_snd | simp only [Keeps.lit_iff] | dsimp only [id_eq] | split)

theorem State.unreserve_keeps {s₀ s : State} (e : Engine) (hk : Keeps s₀ s) : Keeps s₀ (s.unreserve e) := by
  unfold State.unreserve
  try dsimp only
  repeat' (first | with_reducible assumption | with_reducible rfl | intro _ | with_reducible apply State.freeCellOf_keeps | with_reducible apply State.modRing_keeps | with_reducible apply Keeps.foldl | with_reducible apply Keeps.foldr | with_reducible apply Keeps.foldl_snd_snd | with_reducible apply Keeps.foldl_snd | simp only [Keeps.lit_iff] | dsimp only [id_eq] | split)

theorem State.busError_keeps {s₀ s : State} (e : Engine) (err : BusErr) (ch : BitVec 4) (hk : Keeps s₀ s) : Keeps s₀ (s.busError e err ch) := by
  unfold State.busError
  try dsimp only
  repeat' (first | with_reducible assumption | with_reducible rfl | intro _ | with_reducible apply State.modEng_keeps | with_reducible apply State.unreserve_keeps | with_reducible apply Keeps.foldl | with_reducible apply Keeps.foldr | with_reducible apply Keeps.foldl_snd_snd | with_reducible apply Keeps.foldl_snd | simp only [Keeps.lit_iff] | dsimp only [id_eq] | split)

theorem State.ownError_keeps {s₀ s : State} (e : Engine) (phase kind : BitVec 3) (addr : Nat) (hk : Keeps s₀ s) : Keeps s₀ (s.ownError e phase kind addr) := by
  unfold State.ownError
  try dsimp only
  repeat' (first | with_reducible assumption | with_reducible rfl | intro _ | with_reducible apply State.busError_keeps | with_reducible apply Keeps.foldl | with_reducible apply Keeps.foldr | with_reducible apply Keeps.foldl_snd_snd | with_reducible apply Keeps.foldl_snd | simp only [Keeps.lit_iff] | dsimp only [id_eq] | split)

theorem State.dmaRegs_keeps {s₀ s t : State} {l : List Byte} (ch : DmaCh) (off : Nat) (hk : Keeps s₀ s)
    (e : s.dmaRegs ch off = some (l, t)) : Keeps s₀ t := by
  suffices h : ∀ (is : List Nat) (acc : Option (List Byte × State)), (∀ x, acc = some x → Keeps s₀ x.2) →
      ∀ x, is.foldl (fun acc i =>
        match acc with
        | none => none
        | some (l, s) =>
          let o := off + 4 * i
          if reservedOff o then none
          else match decodeReg (s.bankOf (.dma ch)) o with
            | none => some (l ++ [0, 0, 0, 0], s)
            | some r => if s.readable (.dma ch) r then some (l ++ leBytes (s.view (.dma ch) r).toNat 4, s.readEffect (.dma ch) r) else none) acc
        = some x → Keeps s₀ x.2 from
    h (List.range 8) (some ([], s)) (fun x hx => by cases hx; exact hk) (l, t) e
  intro is
  induction is with
  | nil => intro acc ha x hx; exact ha x hx
  | cons i rest ih =>
    intro acc ha x hx
    refine ih _ (fun y hy => ?_) x hx
    dsimp only at hy
    split at hy
    · cases hy
    · next l s =>
      have hs : Keeps s₀ s := ha (l, s) rfl
      split at hy
      · cases hy
      · split at hy
        · cases hy; exact hs
        · split at hy
          · cases hy; exact State.readEffect_keeps _ _ hs
          · cases hy

theorem State.readRegs_keeps {s₀ s : State} (e : Engine) (q : BitVec 48 × Nat) (off : Nat) (hk : Keeps s₀ s) : Keeps s₀ (s.readRegs e q off) := by
  unfold State.readRegs
  try dsimp only
  repeat' (first | with_reducible assumption | with_reducible rfl | intro _ | with_reducible apply State.modEng_keeps | with_reducible apply State.ownError_keeps | (refine State.dmaRegs_keeps _ _ ?_ (by assumption)) | with_reducible apply Keeps.foldl | with_reducible apply Keeps.foldr | with_reducible apply Keeps.foldl_snd_snd | with_reducible apply Keeps.foldl_snd | simp only [Keeps.lit_iff] | dsimp only [id_eq] | split)

theorem State.readReq_keeps {s₀ s : State} (e : Engine) (q : BitVec 48 × Nat) (hk : Keeps s₀ s) : Keeps s₀ (s.readReq e q) := by
  unfold State.readReq
  try dsimp only
  repeat' (first | with_reducible assumption | with_reducible rfl | intro _ | with_reducible apply State.modEng_keeps | with_reducible apply State.ownError_keeps | with_reducible apply State.readRegs_keeps | with_reducible apply Keeps.foldl | with_reducible apply Keeps.foldr | with_reducible apply Keeps.foldl_snd_snd | with_reducible apply Keeps.foldl_snd | simp only [Keeps.lit_iff] | dsimp only [id_eq] | split)

theorem State.beginReads_keeps {s₀ s : State} (e : Engine) (l : List (Nat × Nat)) (hk : Keeps s₀ s) : Keeps s₀ (s.beginReads e l) := by
  unfold State.beginReads
  try dsimp only
  repeat' (first | with_reducible assumption | with_reducible rfl | intro _ | with_reducible apply State.modEng_keeps | with_reducible apply State.readReq_keeps | with_reducible apply Keeps.foldl | with_reducible apply Keeps.foldr | with_reducible apply Keeps.foldl_snd_snd | with_reducible apply Keeps.foldl_snd | simp only [Keeps.lit_iff] | dsimp only [id_eq] | split)

theorem State.issueRead_keeps {s₀ s : State} (e : Engine) (hk : Keeps s₀ s) : Keeps s₀ (s.issueRead e) := by
  unfold State.issueRead
  try dsimp only
  repeat' (first | with_reducible assumption | with_reducible rfl | intro _ | with_reducible apply State.issueReq_keeps | with_reducible apply State.modEng_keeps | with_reducible apply Keeps.foldl | with_reducible apply Keeps.foldr | with_reducible apply Keeps.foldl_snd_snd | with_reducible apply Keeps.foldl_snd | simp only [Keeps.lit_iff] | dsimp only [id_eq] | split)

theorem State.descStart_keeps {s₀ s : State} (e : Engine) (hk : Keeps s₀ s) : Keeps s₀ (s.descStart e) := by
  unfold State.descStart
  try dsimp only
  repeat' (first | with_reducible assumption | with_reducible rfl | intro _ | with_reducible apply State.chEnter_keeps | with_reducible apply State.engFree_keeps | with_reducible apply State.modCh_keeps | with_reducible apply State.modEng_keeps | with_reducible apply Keeps.foldl | with_reducible apply Keeps.foldr | with_reducible apply Keeps.foldl_snd_snd | with_reducible apply Keeps.foldl_snd | simp only [Keeps.lit_iff] | dsimp only [id_eq] | split)

theorem State.dropAhead_keeps {s₀ s : State} (e : Engine) (hk : Keeps s₀ s) : Keeps s₀ (s.dropAhead e) := by
  unfold State.dropAhead
  try dsimp only
  repeat' (first | with_reducible assumption | with_reducible rfl | intro _ | with_reducible apply State.modEng_keeps | with_reducible apply Keeps.foldl | with_reducible apply Keeps.foldr | with_reducible apply Keeps.foldl_snd_snd | with_reducible apply Keeps.foldl_snd | simp only [Keeps.lit_iff] | dsimp only [id_eq] | split)

theorem State.beginFetch_keeps {s₀ s : State} (e : Engine) (hk : Keeps s₀ s) : Keeps s₀ (s.beginFetch e) := by
  unfold State.beginFetch
  try dsimp only
  repeat' (first | with_reducible assumption | with_reducible rfl | intro _ | with_reducible apply State.beginReads_keeps | with_reducible apply State.dropAhead_keeps | with_reducible apply State.modEng_keeps | with_reducible apply Keeps.foldl | with_reducible apply Keeps.foldr | with_reducible apply Keeps.foldl_snd_snd | with_reducible apply Keeps.foldl_snd | simp only [Keeps.lit_iff] | dsimp only [id_eq] | split)

theorem State.aheadError_keeps {s₀ s : State} (e : Engine) (kind : BitVec 3) (addr : Nat) (hk : Keeps s₀ s) : Keeps s₀ (s.aheadError e kind addr) := by
  unfold State.aheadError
  try dsimp only
  repeat' (first | with_reducible assumption | with_reducible rfl | intro _ | with_reducible apply State.busError_keeps | with_reducible apply Keeps.foldl | with_reducible apply Keeps.foldr | with_reducible apply Keeps.foldl_snd_snd | with_reducible apply Keeps.foldl_snd | simp only [Keeps.lit_iff] | dsimp only [id_eq] | split)

theorem State.fetchAhead_keeps {s₀ s : State} (e : Engine) (hk : Keeps s₀ s) : Keeps s₀ (s.fetchAhead e) := by
  unfold State.fetchAhead
  try dsimp only
  repeat' (first | with_reducible assumption | with_reducible rfl | intro _ | with_reducible apply State.aheadError_keeps | with_reducible apply State.issueReq_keeps | with_reducible apply State.modEng_keeps | with_reducible apply Keeps.foldl | with_reducible apply Keeps.foldr | with_reducible apply Keeps.foldl_snd_snd | with_reducible apply Keeps.foldl_snd | simp only [Keeps.lit_iff] | dsimp only [id_eq] | split)

theorem State.fetchDesc_keeps {s₀ s : State} (e : Engine) (hk : Keeps s₀ s) : Keeps s₀ (s.fetchDesc e) := by
  unfold State.fetchDesc
  try dsimp only
  repeat' (first | with_reducible assumption | with_reducible rfl | intro _ | with_reducible apply State.beginFetch_keeps | with_reducible apply State.descStart_keeps | with_reducible apply State.fetchAhead_keeps | with_reducible apply State.issueRead_keeps | with_reducible apply Keeps.foldl | with_reducible apply Keeps.foldr | with_reducible apply Keeps.foldl_snd_snd | with_reducible apply Keeps.foldl_snd | simp only [Keeps.lit_iff] | dsimp only [id_eq] | split)

theorem State.descComplete_keeps {s₀ s : State} (e : Engine) (hk : Keeps s₀ s) : Keeps s₀ (s.descComplete e) := by
  unfold State.descComplete
  try dsimp only
  repeat' (first | with_reducible assumption | with_reducible rfl | intro _ | with_reducible apply State.chPulse_keeps | with_reducible apply State.modCh_keeps | with_reducible apply State.modEng_keeps | with_reducible apply Keeps.foldl | with_reducible apply Keeps.foldr | with_reducible apply Keeps.foldl_snd_snd | with_reducible apply Keeps.foldl_snd | simp only [Keeps.lit_iff] | dsimp only [id_eq] | split)

theorem State.recheck_keeps {s₀ s : State} (e : Engine) (hk : Keeps s₀ s) : Keeps s₀ (s.recheck e) := by
  unfold State.recheck
  try dsimp only
  repeat' (first | with_reducible assumption | with_reducible rfl | intro _ | with_reducible apply State.beginReads_keeps | with_reducible apply State.issueRead_keeps | with_reducible apply State.modEng_keeps | with_reducible apply Keeps.foldl | with_reducible apply Keeps.foldr | with_reducible apply Keeps.foldl_snd_snd | with_reducible apply Keeps.foldl_snd | simp only [Keeps.lit_iff] | dsimp only [id_eq] | split)

theorem State.recheckDecide_keeps {s₀ s : State} (e : Engine) (hk : Keeps s₀ s) : Keeps s₀ (s.recheckDecide e) := by
  unfold State.recheckDecide
  try dsimp only
  repeat' (first | with_reducible assumption | with_reducible rfl | intro _ | with_reducible apply State.chEnter_keeps | with_reducible apply State.engFree_keeps | with_reducible apply State.modCh_keeps | with_reducible apply State.modEng_keeps | with_reducible apply Keeps.foldl | with_reducible apply Keeps.foldr | with_reducible apply Keeps.foldl_snd_snd | with_reducible apply Keeps.foldl_snd | simp only [Keeps.lit_iff] | dsimp only [id_eq] | split)

theorem State.chIgnored_keeps {s₀ s : State} (ch : DmaCh) (hk : Keeps s₀ s) : Keeps s₀ (s.chIgnored ch) := by
  unfold State.chIgnored
  try dsimp only
  repeat' (first | with_reducible assumption | with_reducible rfl | intro _ | with_reducible apply State.modCh_keeps | with_reducible apply Keeps.foldl | with_reducible apply Keeps.foldr | with_reducible apply Keeps.foldl_snd_snd | with_reducible apply Keeps.foldl_snd | simp only [Keeps.lit_iff] | dsimp only [id_eq] | split)

theorem State.chQueue_keeps {s₀ s : State} (ch : DmaCh) (f : DmaChS → DmaChS) (hk : Keeps s₀ s) : Keeps s₀ (s.chQueue ch f) := by
  unfold State.chQueue
  try dsimp only
  repeat' (first | with_reducible assumption | with_reducible rfl | intro _ | with_reducible apply State.modCh_keeps | with_reducible apply State.modEng_keeps | with_reducible apply Keeps.foldl | with_reducible apply Keeps.foldr | with_reducible apply Keeps.foldl_snd_snd | with_reducible apply Keeps.foldl_snd | simp only [Keeps.lit_iff] | dsimp only [id_eq] | split)

theorem State.dmaGo_keeps {s₀ s : State} (ch : DmaCh) (hk : Keeps s₀ s) : Keeps s₀ (s.dmaGo ch) := by
  unfold State.dmaGo
  try dsimp only
  repeat' (first | with_reducible assumption | with_reducible rfl | intro _ | with_reducible apply State.chIgnored_keeps | with_reducible apply State.chQueue_keeps | with_reducible apply Keeps.foldl | with_reducible apply Keeps.foldr | with_reducible apply Keeps.foldl_snd_snd | with_reducible apply Keeps.foldl_snd | simp only [Keeps.lit_iff] | dsimp only [id_eq] | split)

theorem State.dmaResume_keeps {s₀ s : State} (ch : DmaCh) (hk : Keeps s₀ s) : Keeps s₀ (s.dmaResume ch) := by
  unfold State.dmaResume
  try dsimp only
  repeat' (first | with_reducible assumption | with_reducible rfl | intro _ | with_reducible apply State.chIgnored_keeps | with_reducible apply State.chQueue_keeps | with_reducible apply Keeps.foldl | with_reducible apply Keeps.foldr | with_reducible apply Keeps.foldl_snd_snd | with_reducible apply Keeps.foldl_snd | simp only [Keeps.lit_iff] | dsimp only [id_eq] | split)

theorem State.dmaKick_keeps {s₀ s : State} (ch : DmaCh) (hk : Keeps s₀ s) : Keeps s₀ (s.dmaKick ch) := by
  unfold State.dmaKick
  try dsimp only
  repeat' (first | with_reducible assumption | with_reducible rfl | intro _ | with_reducible apply State.chIgnored_keeps | with_reducible apply State.chQueue_keeps | with_reducible apply State.modCh_keeps | with_reducible apply Keeps.foldl | with_reducible apply Keeps.foldr | with_reducible apply Keeps.foldl_snd_snd | with_reducible apply Keeps.foldl_snd | simp only [Keeps.lit_iff] | dsimp only [id_eq] | split)

theorem State.abortComplete_keeps {s₀ s : State} (ch : DmaCh) (hk : Keeps s₀ s) : Keeps s₀ (s.abortComplete ch) := by
  unfold State.abortComplete
  try dsimp only
  repeat' (first | with_reducible assumption | with_reducible rfl | intro _ | with_reducible apply State.chEnter_keeps | with_reducible apply State.engFree_keeps | with_reducible apply Keeps.foldl | with_reducible apply Keeps.foldr | with_reducible apply Keeps.foldl_snd_snd | with_reducible apply Keeps.foldl_snd | simp only [Keeps.lit_iff] | dsimp only [id_eq] | split)

theorem State.dmaAbort_keeps {s₀ s : State} (ch : DmaCh) (hk : Keeps s₀ s) : Keeps s₀ (s.dmaAbort ch) := by
  unfold State.dmaAbort
  try dsimp only
  repeat' (first | with_reducible assumption | with_reducible rfl | intro _ | with_reducible apply State.abortComplete_keeps | with_reducible apply State.chEnter_keeps | with_reducible apply State.chIgnored_keeps | with_reducible apply State.dropAhead_keeps | with_reducible apply State.engFree_keeps | with_reducible apply State.modCh_keeps | with_reducible apply Keeps.foldl | with_reducible apply Keeps.foldr | with_reducible apply Keeps.foldl_snd_snd | with_reducible apply Keeps.foldl_snd | simp only [Keeps.lit_iff] | dsimp only [id_eq] | split)

theorem State.serve_keeps {s₀ s : State} (e : Engine) (hk : Keeps s₀ s) : Keeps s₀ (s.serve e) := by
  unfold State.serve
  try dsimp only
  repeat' (first | with_reducible assumption | with_reducible rfl | intro _ | with_reducible apply State.modCh_keeps | with_reducible apply State.modEng_keeps | with_reducible apply Keeps.foldl | with_reducible apply Keeps.foldr | with_reducible apply Keeps.foldl_snd_snd | with_reducible apply Keeps.foldl_snd | simp only [Keeps.lit_iff] | dsimp only [id_eq] | split)

theorem State.engineStopped_keeps {s₀ s : State} (e : Engine) (hk : Keeps s₀ s) : Keeps s₀ (s.engineStopped e) := by
  unfold State.engineStopped
  try dsimp only
  repeat' (first | with_reducible assumption | with_reducible rfl | intro _ | with_reducible apply State.chEnter_keeps | with_reducible apply State.modEng_keeps | with_reducible apply State.pulse_keeps | with_reducible apply Keeps.foldl | with_reducible apply Keeps.foldr | with_reducible apply Keeps.foldl_snd_snd | with_reducible apply Keeps.foldl_snd | simp only [Keeps.lit_iff] | dsimp only [id_eq] | split)

theorem State.engineClear_keeps {s₀ s : State} (e : Engine) (hk : Keeps s₀ s) : Keeps s₀ (s.engineClear e) := by
  unfold State.engineClear
  try dsimp only
  repeat' (first | with_reducible assumption | with_reducible rfl | intro _ | with_reducible apply State.modEng_keeps | with_reducible apply Keeps.foldl | with_reducible apply Keeps.foldr | with_reducible apply Keeps.foldl_snd_snd | with_reducible apply Keeps.foldl_snd | simp only [Keeps.lit_iff] | dsimp only [id_eq] | split)

theorem State.retireTag_keeps {s₀ s : State} (tag : BitVec 12) (hk : Keeps s₀ s) : Keeps s₀ (s.retireTag tag) := by
  unfold State.retireTag
  try dsimp only
  repeat' (first | with_reducible assumption | with_reducible rfl | intro _ | with_reducible apply Keeps.foldl | with_reducible apply Keeps.foldr | with_reducible apply Keeps.foldl_snd_snd | with_reducible apply Keeps.foldl_snd | simp only [Keeps.lit_iff] | dsimp only [id_eq] | split)

theorem State.stray_keeps {s₀ s : State} (k : InitPort) (hk : Keeps s₀ s) : Keeps s₀ (s.stray k) := by
  unfold State.stray
  try dsimp only
  repeat' (first | with_reducible assumption | with_reducible rfl | intro _ | with_reducible apply Keeps.foldl | with_reducible apply Keeps.foldr | with_reducible apply Keeps.foldl_snd_snd | with_reducible apply Keeps.foldl_snd | simp only [Keeps.lit_iff] | dsimp only [id_eq] | split)

theorem State.answerError_keeps {s₀ s : State} (x : TagUse) (st : BitVec 2) (hk : Keeps s₀ s) : Keeps s₀ (s.answerError x st) := by
  unfold State.answerError
  try dsimp only
  repeat' (first | with_reducible assumption | with_reducible rfl | intro _ | with_reducible apply State.busError_keeps | with_reducible apply Keeps.foldl | with_reducible apply Keeps.foldr | with_reducible apply Keeps.foldl_snd_snd | with_reducible apply Keeps.foldl_snd | simp only [Keeps.lit_iff] | dsimp only [id_eq] | split)

theorem State.aheadBeat_keeps {s₀ s : State} (e : Engine) (tag : BitVec 12) (addr : Nat) (l : List Byte) (hk : Keeps s₀ s) : Keeps s₀ (s.aheadBeat e tag addr l) := by
  unfold State.aheadBeat
  try dsimp only
  repeat' (first | with_reducible assumption | with_reducible rfl | intro _ | with_reducible apply State.modEng_keeps | with_reducible apply Keeps.foldl | with_reducible apply Keeps.foldr | with_reducible apply Keeps.foldl_snd_snd | with_reducible apply Keeps.foldl_snd | simp only [Keeps.lit_iff] | dsimp only [id_eq] | split)

theorem State.modDrill_keeps {s₀ s : State} (f : DrillRun → DrillRun) (hk : Keeps s₀ s) : Keeps s₀ (s.modDrill f) := by
  unfold State.modDrill
  try dsimp only
  repeat' (first | with_reducible assumption | with_reducible rfl | intro _ | with_reducible apply Keeps.foldl | with_reducible apply Keeps.foldr | with_reducible apply Keeps.foldl_snd_snd | with_reducible apply Keeps.foldl_snd | simp only [Keeps.lit_iff] | dsimp only [id_eq] | split)

theorem State.drillBeat_keeps {s₀ s : State} (half : Nat) (data : BitVec 256) (st : BitVec 2) (last : Bool) (hk : Keeps s₀ s) : Keeps s₀ (s.drillBeat half data st last) := by
  unfold State.drillBeat
  try dsimp only
  repeat' (first | with_reducible assumption | with_reducible rfl | intro _ | with_reducible apply State.modDrill_keeps | with_reducible apply Keeps.foldl | with_reducible apply Keeps.foldr | with_reducible apply Keeps.foldl_snd_snd | with_reducible apply Keeps.foldl_snd | simp only [Keeps.lit_iff] | dsimp only [id_eq] | split)

theorem State.readBeat_keeps {s₀ s : State} (k : InitPort) (tag : BitVec 12) (data : BitVec 256) (st : BitVec 2) (last : Bool) (hk : Keeps s₀ s) : Keeps s₀ (s.readBeat k tag data st last) := by
  unfold State.readBeat
  try dsimp only
  repeat' (first | with_reducible assumption | with_reducible rfl | intro _ | with_reducible apply State.aheadBeat_keeps | with_reducible apply State.answerError_keeps | with_reducible apply State.drillBeat_keeps | with_reducible apply State.modEng_keeps | with_reducible apply State.retireTag_keeps | with_reducible apply State.stray_keeps | with_reducible apply Keeps.foldl | with_reducible apply Keeps.foldr | with_reducible apply Keeps.foldl_snd_snd | with_reducible apply Keeps.foldl_snd | simp only [Keeps.lit_iff] | dsimp only [id_eq] | split)

theorem State.writeDone_keeps {s₀ s : State} (k : InitPort) (tag : BitVec 12) (st : BitVec 2) (hk : Keeps s₀ s) : Keeps s₀ (s.writeDone k tag st) := by
  unfold State.writeDone
  try dsimp only
  repeat' (first | with_reducible assumption | with_reducible rfl | intro _ | with_reducible apply State.answerError_keeps | with_reducible apply State.modDrill_keeps | with_reducible apply State.postDone_keeps | with_reducible apply State.post_keeps | with_reducible apply State.retireTag_keeps | with_reducible apply State.stray_keeps | with_reducible apply Keeps.foldl | with_reducible apply Keeps.foldr | with_reducible apply Keeps.foldl_snd_snd | with_reducible apply Keeps.foldl_snd | simp only [Keeps.lit_iff] | dsimp only [id_eq] | split)

theorem State.chWrite_keeps {s₀ s : State} (a : Agent) (ch : DmaCh) (eff : State → State) (hk : Keeps s₀ s) (hk_eff : ∀ x0, Keeps s₀ x0 → Keeps s₀ (eff x0)) : Keeps s₀ (s.chWrite a ch eff) := by
  unfold State.chWrite
  try dsimp only
  repeat' (first | with_reducible assumption | with_reducible rfl | intro _ | with_reducible apply State.regWrite_keeps | with_reducible apply hk_eff | with_reducible apply Keeps.foldl | with_reducible apply Keeps.foldr | with_reducible apply Keeps.foldl_snd_snd | with_reducible apply Keeps.foldl_snd | simp only [Keeps.lit_iff] | dsimp only [id_eq] | split)

end Sys2Proof.Machine
end

