-- ==== Sys2Proof/Laws/Keep/Drills.lean ====
section
/-! SUPPORT. The definitions of Machine/Drills.lean keep what `Keeps` names. -/

set_option linter.unusedTactic false
set_option linter.unreachableTactic false
set_option linter.unusedSimpArgs false
set_option linter.unnecessarySimpa false

namespace Sys2Proof.Machine

theorem State.drillResult_keeps {s₀ s : State} (code : Byte) (res : BitVec 3) (data : Word) (hk : Keeps s₀ s) : Keeps s₀ (s.drillResult code res data) := by
  unfold State.drillResult
  try dsimp only
  repeat' (first | with_reducible assumption | with_reducible rfl | intro _ | with_reducible apply State.cardSoon_keeps | with_reducible apply State.pulse_keeps | with_reducible apply Keeps.foldl | with_reducible apply Keeps.foldr | with_reducible apply Keeps.foldl_snd_snd | with_reducible apply Keeps.foldl_snd | simp only [Keeps.lit_iff] | dsimp only [id_eq] | split)

theorem State.drillBegin_keeps {s₀ s : State} (code : Byte) (left : Nat) (saved : SMap Word) (hk : Keeps s₀ s) : Keeps s₀ (s.drillBegin code left saved) := by
  unfold State.drillBegin
  try dsimp only
  repeat' (first | with_reducible assumption | with_reducible rfl | intro _ | with_reducible apply Keeps.foldl | with_reducible apply Keeps.foldr | with_reducible apply Keeps.foldl_snd_snd | with_reducible apply Keeps.foldl_snd | simp only [Keeps.lit_iff] | dsimp only [id_eq] | split)

theorem State.drillGo_keeps {s₀ s : State} (code : Byte) (argsOk parked : Bool) (begin_ : State → State) (hk : Keeps s₀ s) (hk_begin_ : ∀ x0, Keeps s₀ x0 → Keeps s₀ (begin_ x0)) : Keeps s₀ (s.drillGo code argsOk parked begin_) := by
  unfold State.drillGo
  try dsimp only
  repeat' (first | with_reducible assumption | with_reducible rfl | intro _ | with_reducible apply State.drillResult_keeps | with_reducible apply hk_begin_ | with_reducible apply Keeps.foldl | with_reducible apply Keeps.foldr | with_reducible apply Keeps.foldl_snd_snd | with_reducible apply Keeps.foldl_snd | simp only [Keeps.lit_iff] | dsimp only [id_eq] | split)

theorem State.drillRegions_keeps {s₀ s : State} (code : Byte) (parts : MemInst → Nat) (hk : Keeps s₀ s) : Keeps s₀ (s.drillRegions code parts) := by
  unfold State.drillRegions
  try dsimp only
  repeat' (first | with_reducible assumption | with_reducible rfl | intro _ | with_reducible apply State.drillBegin_keeps | with_reducible apply State.drillGo_keeps | with_reducible apply Keeps.foldl | with_reducible apply Keeps.foldr | with_reducible apply Keeps.foldl_snd_snd | with_reducible apply Keeps.foldl_snd | simp only [Keeps.lit_iff] | dsimp only [id_eq] | split)

theorem State.drillVerify_keeps {s₀ s : State} (hk : Keeps s₀ s) : Keeps s₀ s.drillVerify := by
  unfold State.drillVerify
  try dsimp only
  repeat' (first | with_reducible assumption | with_reducible rfl | intro _ | with_reducible apply State.drillBegin_keeps | with_reducible apply State.drillGo_keeps | with_reducible apply Keeps.foldl | with_reducible apply Keeps.foldr | with_reducible apply Keeps.foldl_snd_snd | with_reducible apply Keeps.foldl_snd | simp only [Keeps.lit_iff] | dsimp only [id_eq] | split)

theorem State.setLoop_keeps {s₀ s : State} (c : Chan) (depth : Nat) (drill : Option (BitVec 2)) (hk : Keeps s₀ s) : Keeps s₀ (s.setLoop c depth drill) := by
  unfold State.setLoop
  try dsimp only
  repeat' (first | with_reducible assumption | with_reducible rfl | intro _ | with_reducible apply State.modPin_keeps | with_reducible apply State.schedule_keeps | with_reducible apply State.setReg_keeps | with_reducible apply Keeps.foldl | with_reducible apply Keeps.foldr | with_reducible apply Keeps.foldl_snd_snd | with_reducible apply Keeps.foldl_snd | simp only [Keeps.lit_iff] | dsimp only [id_eq] | split)

theorem State.drillPinLoop_keeps {s₀ s : State} (hk : Keeps s₀ s) : Keeps s₀ s.drillPinLoop := by
  unfold State.drillPinLoop
  try dsimp only
  repeat' (first | with_reducible assumption | with_reducible rfl | intro _ | with_reducible apply State.drillBegin_keeps | with_reducible apply State.drillGo_keeps | with_reducible apply State.setLoop_keeps | with_reducible apply Keeps.foldl | with_reducible apply Keeps.foldr | with_reducible apply Keeps.foldl_snd_snd | with_reducible apply Keeps.foldl_snd | simp only [Keeps.lit_iff] | dsimp only [id_eq] | split)

theorem State.drillPinsBack_keeps {s₀ s : State} (d : DrillRun) (hk : Keeps s₀ s) : Keeps s₀ (s.drillPinsBack d) := by
  unfold State.drillPinsBack
  try dsimp only
  repeat' (first | with_reducible assumption | with_reducible rfl | intro _ | with_reducible apply State.setLoop_keeps | with_reducible apply Keeps.foldl | with_reducible apply Keeps.foldr | with_reducible apply Keeps.foldl_snd_snd | with_reducible apply Keeps.foldl_snd | simp only [Keeps.lit_iff] | dsimp only [id_eq] | split)

theorem State.drillConv_keeps {s₀ s : State} (hk : Keeps s₀ s) : Keeps s₀ s.drillConv := by
  unfold State.drillConv
  try dsimp only
  repeat' (first | with_reducible assumption | with_reducible rfl | intro _ | with_reducible apply State.drillBegin_keeps | with_reducible apply State.drillGo_keeps | with_reducible apply Keeps.foldl | with_reducible apply Keeps.foldr | with_reducible apply Keeps.foldl_snd_snd | with_reducible apply Keeps.foldl_snd | simp only [Keeps.lit_iff] | dsimp only [id_eq] | split)

theorem State.drillSamples_keeps {s₀ s : State} (d : DrillRun) (hk : Keeps s₀ s) : Keeps s₀ (s.drillSamples d) := by
  unfold State.drillSamples
  try dsimp only
  repeat' (first | with_reducible assumption | with_reducible rfl | intro _ | with_reducible apply State.writeMailbox_keeps | with_reducible apply Keeps.foldl | with_reducible apply Keeps.foldr | with_reducible apply Keeps.foldl_snd_snd | with_reducible apply Keeps.foldl_snd | simp only [Keeps.lit_iff] | dsimp only [id_eq] | split)

theorem State.drillLink_keeps {s₀ s : State} (code : Byte) (hk : Keeps s₀ s) : Keeps s₀ (s.drillLink code) := by
  unfold State.drillLink
  try dsimp only
  repeat' (first | with_reducible assumption | with_reducible rfl | intro _ | with_reducible apply State.drillBegin_keeps | with_reducible apply State.drillGo_keeps | with_reducible apply State.sendOwn_keeps | with_reducible apply Keeps.foldl | with_reducible apply Keeps.foldr | with_reducible apply Keeps.foldl_snd_snd | with_reducible apply Keeps.foldl_snd | simp only [Keeps.lit_iff] | dsimp only [id_eq] | split)

theorem State.drillEcho_keeps {s₀ s : State} (hk : Keeps s₀ s) : Keeps s₀ s.drillEcho := by
  unfold State.drillEcho
  try dsimp only
  repeat' (first | with_reducible assumption | with_reducible rfl | intro _ | with_reducible apply State.drillBegin_keeps | with_reducible apply State.drillGo_keeps | with_reducible apply Keeps.foldl | with_reducible apply Keeps.foldr | with_reducible apply Keeps.foldl_snd_snd | with_reducible apply Keeps.foldl_snd | simp only [Keeps.lit_iff] | dsimp only [id_eq] | split)

theorem State.echoIssue_keeps {s₀ s : State} (hk : Keeps s₀ s) : Keeps s₀ s.echoIssue := by
  unfold State.echoIssue
  try dsimp only
  repeat' (first | with_reducible assumption | with_reducible rfl | intro _ | with_reducible apply State.issueReq_keeps | with_reducible apply Keeps.foldl | with_reducible apply Keeps.foldr | with_reducible apply Keeps.foldl_snd_snd | with_reducible apply Keeps.foldl_snd | simp only [Keeps.lit_iff] | dsimp only [id_eq] | split)

theorem State.drillEnd_keeps {s₀ s : State} (pass : Bool) (data : Word) (hk : Keeps s₀ s) : Keeps s₀ (s.drillEnd pass data) := by
  unfold State.drillEnd
  try dsimp only
  repeat' (first | with_reducible assumption | with_reducible rfl | intro _ | with_reducible apply State.drillPinsBack_keeps | with_reducible apply State.drillResult_keeps | with_reducible apply State.drillSamples_keeps | with_reducible apply State.sendOwn_keeps | with_reducible apply State.uncorrectable_keeps | with_reducible apply Keeps.foldl | with_reducible apply Keeps.foldr | with_reducible apply Keeps.foldl_snd_snd | with_reducible apply Keeps.foldl_snd | simp only [Keeps.lit_iff] | dsimp only [id_eq] | split)

theorem State.farTimeout_keeps {s₀ s : State} (hk : Keeps s₀ s) : Keeps s₀ s.farTimeout := by
  unfold State.farTimeout
  try dsimp only
  repeat' (first | with_reducible assumption | with_reducible rfl | intro _ | with_reducible apply State.drillResult_keeps | with_reducible apply Keeps.foldl | with_reducible apply Keeps.foldr | with_reducible apply Keeps.foldl_snd_snd | with_reducible apply Keeps.foldl_snd | simp only [Keeps.lit_iff] | dsimp only [id_eq] | split)

theorem State.askWarm_keeps {s₀ s : State} (begins : Nat) (hk : Keeps s₀ s) : Keeps s₀ (s.askWarm begins) := by
  unfold State.askWarm
  try dsimp only
  repeat' (first | with_reducible assumption | with_reducible rfl | intro _ | with_reducible apply State.schedule_keeps | with_reducible apply Keeps.foldl | with_reducible apply Keeps.foldr | with_reducible apply Keeps.foldl_snd_snd | with_reducible apply Keeps.foldl_snd | simp only [Keeps.lit_iff] | dsimp only [id_eq] | split)

theorem State.drillMode_keeps {s₀ s : State} (key : BitVec 16) (hk : Keeps s₀ s) : Keeps s₀ (s.drillMode key) := by
  unfold State.drillMode
  try dsimp only
  repeat' (first | with_reducible assumption | with_reducible rfl | intro _ | with_reducible apply State.askWarm_keeps | with_reducible apply State.drillGo_keeps | with_reducible apply Keeps.foldl | with_reducible apply Keeps.foldr | with_reducible apply Keeps.foldl_snd_snd | with_reducible apply Keeps.foldl_snd | simp only [Keeps.lit_iff] | dsimp only [id_eq] | split)

theorem State.drillCode_keeps {s₀ s : State} (code : Byte) (key : BitVec 16) (hk : Keeps s₀ s) : Keeps s₀ (s.drillCode code key) := by
  unfold State.drillCode
  try dsimp only
  repeat' (first | with_reducible assumption | with_reducible rfl | intro _ | with_reducible apply State.drillBegin_keeps | with_reducible apply State.drillConv_keeps | with_reducible apply State.drillEcho_keeps | with_reducible apply State.drillGo_keeps | with_reducible apply State.drillLink_keeps | with_reducible apply State.drillMode_keeps | with_reducible apply State.drillPinLoop_keeps | with_reducible apply State.drillRegions_keeps | with_reducible apply State.drillVerify_keeps | with_reducible apply Keeps.foldl | with_reducible apply Keeps.foldr | with_reducible apply Keeps.foldl_snd_snd | with_reducible apply Keeps.foldl_snd | simp only [Keeps.lit_iff] | dsimp only [id_eq] | split)

theorem State.drlCmdWrite_keeps {s₀ s : State} (v : Word) (hk : Keeps s₀ s) : Keeps s₀ (s.drlCmdWrite v) := by
  unfold State.drlCmdWrite
  try dsimp only
  repeat' (first | with_reducible assumption | with_reducible rfl | intro _ | with_reducible apply State.cardSoon_keeps | with_reducible apply State.drillCode_keeps | with_reducible apply Keeps.foldl | with_reducible apply Keeps.foldr | with_reducible apply Keeps.foldl_snd_snd | with_reducible apply Keeps.foldl_snd | simp only [Keeps.lit_iff] | dsimp only [id_eq] | split)

theorem State.drillWrite_keeps {s₀ s : State} (a : Agent) (eff : State → State) (hk : Keeps s₀ s) (hk_eff : ∀ x0, Keeps s₀ x0 → Keeps s₀ (eff x0)) : Keeps s₀ (s.drillWrite a eff) := by
  unfold State.drillWrite
  try dsimp only
  repeat' (first | with_reducible assumption | with_reducible rfl | intro _ | with_reducible apply State.regWrite_keeps | with_reducible apply hk_eff | with_reducible apply Keeps.foldl | with_reducible apply Keeps.foldr | with_reducible apply Keeps.foldl_snd_snd | with_reducible apply Keeps.foldl_snd | simp only [Keeps.lit_iff] | dsimp only [id_eq] | split)

end Sys2Proof.Machine
end

