-- ==== Sys2Proof/Laws/Keep/Life.lean ====
section
/-! SUPPORT. The definitions of Machine/Life.lean keep what `Keeps` names. -/

set_option linter.unusedTactic false
set_option linter.unreachableTactic false
set_option linter.unusedSimpArgs false
set_option linter.unnecessarySimpa false

namespace Sys2Proof.Machine

theorem State.coldAssert_keeps {s₀ s : State} (hk : Keeps s₀ s) : Keeps s₀ s.coldAssert := by
  refine ⟨hk.pending, hk.stage, fun m => ?_, hk.scrapped⟩
  have := hk.mem m
  simp only [State.memOk, Bool.and_eq_true] at this
  simp only [State.memOk, State.coldAssert, Bool.and_eq_true]
  exact ⟨⟨⟨this.1.1.1, this.1.1.2⟩, wipe_wf _ _ _ this.1.2⟩, this.2⟩

theorem State.keepLocked_keeps {s₀ s : State} (old : State) (c : Chan) (hk : Keeps s₀ s) : Keeps s₀ (s.keepLocked old c) := by
  unfold State.keepLocked
  dsimp only
  split
  · exact State.modPin_keeps _ _ (State.setReg_keeps _ _ (State.setReg_keeps _ _ (State.setReg_keeps _ _ (State.setReg_keeps _ _
      (State.setReg_keeps _ _ (State.setReg_keeps _ _ hk))))))
  · exact hk

theorem State.addCause_keeps {s₀ s : State} (m : Word) (hk : Keeps s₀ s) : Keeps s₀ (s.addCause m) := by
  unfold State.addCause
  try dsimp only
  repeat' (first | with_reducible assumption | with_reducible rfl | intro _ | with_reducible apply Keeps.foldl | with_reducible apply Keeps.foldr | with_reducible apply Keeps.foldl_snd_snd | with_reducible apply Keeps.foldl_snd | simp only [Keeps.lit_iff] | dsimp only [id_eq] | split)

theorem State.warmBegin_keeps {s₀ s : State} (byReg : Bool) (hk : Keeps s₀ s) : Keeps s₀ (s.warmBegin byReg) := by
  unfold State.warmBegin
  dsimp only
  refine State.startWipe_keeps _ (State.addCause_keeps _ (Keeps.foldl ?_ _ (fun t x ht => State.keepLocked_keeps _ _ ht)))
  exact ⟨hk.pending, hk.stage, hk.mem, hk.scrapped⟩

theorem State.warmReset_keeps {s₀ s : State} (hk : Keeps s₀ s) : Keeps s₀ s.warmReset := by
  unfold State.warmReset
  try dsimp only
  repeat' (first | with_reducible assumption | with_reducible rfl | intro _ | with_reducible apply State.schedule_keeps | with_reducible apply Keeps.foldl | with_reducible apply Keeps.foldr | with_reducible apply Keeps.foldl_snd_snd | with_reducible apply Keeps.foldl_snd | simp only [Keeps.lit_iff] | dsimp only [id_eq] | split)

theorem State.warmFall_keeps {s₀ s : State} (byReg : Bool) (hk : Keeps s₀ s) : Keeps s₀ (s.warmFall byReg) := by
  unfold State.warmFall
  try dsimp only
  repeat' (first | with_reducible assumption | with_reducible rfl | intro _ | with_reducible apply State.warmBegin_keeps | with_reducible apply Keeps.foldl | with_reducible apply Keeps.foldr | with_reducible apply Keeps.foldl_snd_snd | with_reducible apply Keeps.foldl_snd | simp only [Keeps.lit_iff] | dsimp only [id_eq] | split)

theorem State.ctlWarm_keeps {s₀ s : State} (a : Agent) (hk : Keeps s₀ s) : Keeps s₀ (s.ctlWarm a) := by
  unfold State.ctlWarm
  try dsimp only
  repeat' (first | with_reducible assumption | with_reducible rfl | intro _ | with_reducible apply State.askWarm_keeps | with_reducible apply Keeps.foldl | with_reducible apply Keeps.foldr | with_reducible apply Keeps.foldl_snd_snd | with_reducible apply Keeps.foldl_snd | simp only [Keeps.lit_iff] | dsimp only [id_eq] | split)

theorem State.hostReset_keeps {s₀ s : State} (h : Host) (hk : Keeps s₀ s) : Keeps s₀ (s.hostReset h) := by
  unfold State.hostReset
  try dsimp only
  repeat' (first | with_reducible assumption | with_reducible rfl | intro _ | with_reducible apply State.addCause_keeps | with_reducible apply State.endLeases_keeps | with_reducible apply State.modHost_keeps | with_reducible apply State.schedule_keeps | with_reducible apply Keeps.foldl | with_reducible apply Keeps.foldr | with_reducible apply Keeps.foldl_snd_snd | with_reducible apply Keeps.foldl_snd | simp only [Keeps.lit_iff] | dsimp only [id_eq] | split)

theorem State.hostFall_keeps {s₀ s : State} (h : Host) (hk : Keeps s₀ s) : Keeps s₀ (s.hostFall h) := by
  unfold State.hostFall
  try dsimp only
  repeat' (first | with_reducible assumption | with_reducible rfl | intro _ | with_reducible apply State.lockHostReset_keeps | with_reducible apply State.modHost_keeps | with_reducible apply State.setIrq_keeps | with_reducible apply Keeps.foldl | with_reducible apply Keeps.foldr | with_reducible apply Keeps.foldl_snd_snd | with_reducible apply Keeps.foldl_snd | simp only [Keeps.lit_iff] | dsimp only [id_eq] | split)

theorem State.stopAll_keeps {s₀ s : State} (hk : Keeps s₀ s) : Keeps s₀ s.stopAll := by
  unfold State.stopAll
  try dsimp only
  repeat' (first | with_reducible assumption | with_reducible rfl | intro _ | with_reducible apply State.disableThread_keeps | with_reducible apply Keeps.foldl | with_reducible apply Keeps.foldr | with_reducible apply Keeps.foldl_snd_snd | with_reducible apply Keeps.foldl_snd | simp only [Keeps.lit_iff] | dsimp only [id_eq] | split)

theorem State.lcMove_keeps {s₀ s : State} (goal : LcState) (hk : Keeps s₀ s) (hn : s₀.isScrapped = true → goal = .scrapped) :
    Keeps s₀ (s.lcMove goal) := by
  have h1 := State.lcEnter_keeps goal hk hn
  unfold State.lcMove
  dsimp only
  split
  · exact State.stopAll_keeps h1
  · exact (Keeps.lit_iff rfl).2 (State.stopAll_keeps h1)
  · exact h1

theorem State.lcGo_keeps {s₀ s : State} (goal : LcState) (hk : Keeps s₀ s) : Keeps s₀ (s.lcGo goal) := by
  unfold State.lcGo State.withPresence
  split
  · exact State.lcResult_keeps _ hk
  · split
    · exact State.lcResult_keeps _ hk
    · next h =>
      refine State.lcResult_keeps _ (State.lcMove_keeps goal ((Keeps.lit_iff rfl).2 hk) (fun m => ?_))
      have hs : s.upd.lc = .scrapped := by simpa [State.isScrapped] using hk.scrapped m
      cases goal <;> first | rfl | exact absurd (by simp [State.lcErrOf, hs, lcAllows]) h

theorem State.lcRecover_keeps {s₀ s : State} (hk : Keeps s₀ s) : Keeps s₀ s.lcRecover := by
  unfold State.lcRecover
  try dsimp only
  repeat' (first | with_reducible assumption | with_reducible rfl | intro _ | with_reducible apply State.askWarm_keeps | with_reducible apply State.modUpd_keeps | with_reducible apply State.withPresence_keeps | with_reducible apply Keeps.foldl | with_reducible apply Keeps.foldr | with_reducible apply Keeps.foldl_snd_snd | with_reducible apply Keeps.foldl_snd | simp only [Keeps.lit_iff] | dsimp only [id_eq] | split)

theorem State.recovBoot_keeps {s₀ s : State} (hk : Keeps s₀ s) : Keeps s₀ s.recovBoot := by
  unfold State.recovBoot
  try dsimp only
  repeat' (first | with_reducible assumption | with_reducible rfl | intro _ | with_reducible apply State.askWarm_keeps | with_reducible apply State.modThr_keeps | with_reducible apply State.modUpd_keeps | with_reducible apply State.placeCode_keeps | with_reducible apply State.record_keeps | with_reducible apply State.stage_keeps | with_reducible apply State.updErr_keeps | with_reducible apply Keeps.foldl | with_reducible apply Keeps.foldr | with_reducible apply Keeps.foldl_snd_snd | with_reducible apply Keeps.foldl_snd | simp only [Keeps.lit_iff] | dsimp only [id_eq] | split)

theorem State.tamper_keeps {s₀ s : State} (hk : Keeps s₀ s) : Keeps s₀ s.tamper := by
  unfold State.tamper
  try dsimp only
  repeat' (first | with_reducible assumption | with_reducible rfl | intro _ | with_reducible apply State.modUpd_keeps | with_reducible apply State.pulse_keeps | with_reducible apply State.startWipe_keeps | with_reducible apply Keeps.foldl | with_reducible apply Keeps.foldr | with_reducible apply Keeps.foldl_snd_snd | with_reducible apply Keeps.foldl_snd | simp only [Keeps.lit_iff] | dsimp only [id_eq] | split)

theorem State.presenceN_keeps {s₀ s : State} (level : Bool) (hk : Keeps s₀ s) : Keeps s₀ (s.presenceN level) := by
  unfold State.presenceN
  try dsimp only
  repeat' (first | with_reducible assumption | with_reducible rfl | intro _ | with_reducible apply Keeps.foldl | with_reducible apply Keeps.foldr | with_reducible apply Keeps.foldl_snd_snd | with_reducible apply Keeps.foldl_snd | simp only [Keeps.lit_iff] | dsimp only [id_eq] | split)

end Sys2Proof.Machine
end

