-- ==== Sys2Proof/Laws/Keep/RegWrite.lean ====
section
/-! SUPPORT. The definitions of Machine/RegWrite.lean keep what `Keeps` names. -/

set_option linter.unusedTactic false
set_option linter.unreachableTactic false
set_option linter.unusedSimpArgs false
set_option linter.unnecessarySimpa false

namespace Sys2Proof.Machine

theorem State.writeCore_keeps {s₀ s : State} (a : Agent) (v : Word) (y0 : Reg) (hk : Keeps s₀ s) : Keeps s₀ (s.writeCore a v y0) := by
  cases y0
  all_goals unfold State.writeCore
  all_goals try dsimp only
  all_goals repeat' (first | with_reducible assumption | with_reducible rfl | intro _ | with_reducible apply State.assignWrite_keeps | with_reducible apply State.ceilWrite_keeps | with_reducible apply State.cfgWrite_keeps | with_reducible apply State.ctlWarm_keeps | with_reducible apply State.ctxWrite_keeps | with_reducible apply State.gateNow_keeps | with_reducible apply State.modBar_keeps | with_reducible apply State.modThr_keeps | with_reducible apply State.setReg_keeps | with_reducible apply State.smapCtlWrite_keeps | with_reducible apply State.smapWrite_keeps | with_reducible apply State.storeRw_keeps | with_reducible apply State.thrCtlWrite_keeps | with_reducible apply Keeps.foldl | with_reducible apply Keeps.foldr | with_reducible apply Keeps.foldl_snd_snd | with_reducible apply Keeps.foldl_snd | simp only [Keeps.lit_iff] | dsimp only [id_eq] | split)

theorem State.writeEvents_keeps {s₀ s : State} (a : Agent) (v : Word) (y0 : Reg) (hk : Keeps s₀ s) : Keeps s₀ (s.writeEvents a v y0) := by
  cases y0
  all_goals unfold State.writeEvents
  all_goals try dsimp only
  all_goals repeat' (first | with_reducible assumption | with_reducible rfl | intro _ | with_reducible apply State.belCtlWrite_keeps | with_reducible apply State.clearEvents_keeps | with_reducible apply State.irqAck_keeps | with_reducible apply State.irqLctlWrite_keeps | with_reducible apply State.irqTgtWrite_keeps | with_reducible apply State.mapWrite_keeps | with_reducible apply State.modEvAll_keeps | with_reducible apply State.scheduleWrite_keeps | with_reducible apply State.storeRw_keeps | with_reducible apply State.swset_keeps | with_reducible apply Keeps.foldl | with_reducible apply Keeps.foldr | with_reducible apply Keeps.foldl_snd_snd | with_reducible apply Keeps.foldl_snd | simp only [Keeps.lit_iff] | dsimp only [id_eq] | split)

theorem State.portClear_keeps {s₀ s : State} (a : Agent) (p : PinPort) (v : Word) (f : PinS → PinS) (hk : Keeps s₀ s) : Keeps s₀ (s.portClear a p v f) := by
  unfold State.portClear
  try dsimp only
  repeat' (first | with_reducible assumption | with_reducible rfl | intro _ | with_reducible apply State.modPin_keeps | with_reducible apply Keeps.foldl | with_reducible apply Keeps.foldr | with_reducible apply Keeps.foldl_snd_snd | with_reducible apply Keeps.foldl_snd | simp only [Keeps.lit_iff] | dsimp only [id_eq] | split)

theorem State.writePins_keeps {s₀ s : State} (a : Agent) (v : Word) (y0 : Reg) (hk : Keeps s₀ s) : Keeps s₀ (s.writePins a v y0) := by
  cases y0
  all_goals unfold State.writePins
  all_goals try dsimp only
  all_goals repeat' (first | with_reducible assumption | with_reducible rfl | intro _ | with_reducible apply State.fcfgWrite_keeps | with_reducible apply State.latchWrite_keeps | with_reducible apply State.lineWrite_keeps | with_reducible apply State.lockWrite_keeps | with_reducible apply State.modPin_keeps | with_reducible apply State.modSinc_keeps | with_reducible apply State.ownerWrite_keeps | with_reducible apply State.padWrite_keeps | with_reducible apply State.policyWrite_keeps | with_reducible apply State.portClear_keeps | with_reducible apply State.schedule_keeps | with_reducible apply State.setReg_keeps | with_reducible apply State.shcfgWrite_keeps | with_reducible apply State.shdWrite_keeps | with_reducible apply State.sncCfgWrite_keeps | with_reducible apply State.sncClkWrite_keeps | with_reducible apply State.storeRw_keeps | with_reducible apply State.switchWrite_keeps | with_reducible apply Keeps.foldl | with_reducible apply Keeps.foldr | with_reducible apply Keeps.foldl_snd_snd | with_reducible apply Keeps.foldl_snd | simp only [Keeps.lit_iff] | dsimp only [id_eq] | split)

theorem State.writeTimers_keeps {s₀ s : State} (a : Agent) (v : Word) (y0 : Reg) (hk : Keeps s₀ s) : Keeps s₀ (s.writeTimers a v y0) := by
  cases y0
  all_goals unfold State.writeTimers
  all_goals try dsimp only
  all_goals repeat' (first | with_reducible assumption | with_reducible rfl | intro _ | with_reducible apply State.ccCtlWrite_keeps | with_reducible apply State.compareBy_keeps | with_reducible apply State.cvpCfgWrite_keeps | with_reducible apply State.cvpSwtrig_keeps | with_reducible apply State.gstartWrite_keeps | with_reducible apply State.latchedClear_keeps | with_reducible apply State.modCvp_keeps | with_reducible apply State.modStn_keeps | with_reducible apply State.modTimer_keeps | with_reducible apply State.modUnit_keeps | with_reducible apply State.reloadBy_keeps | with_reducible apply State.setReg_keeps | with_reducible apply State.stnCtlWrite_keeps | with_reducible apply State.stnPinsWrite_keeps | with_reducible apply State.stnTimWrite_keeps | with_reducible apply State.stnTmaskWrite_keeps | with_reducible apply State.storeRw_keeps | with_reducible apply State.timCtlWrite_keeps | with_reducible apply Keeps.foldl | with_reducible apply Keeps.foldr | with_reducible apply Keeps.foldl_snd_snd | with_reducible apply Keeps.foldl_snd | simp only [Keeps.lit_iff] | dsimp only [id_eq] | split)

theorem State.chCommand_keeps {s₀ s : State} (ch : DmaCh) (go kick abort resume : Bool) (hk : Keeps s₀ s) : Keeps s₀ (s.chCommand ch go kick abort resume) := by
  unfold State.chCommand
  try dsimp only
  repeat' (first | with_reducible assumption | with_reducible rfl | intro _ | with_reducible apply State.dmaAbort_keeps | with_reducible apply State.dmaGo_keeps | with_reducible apply State.dmaKick_keeps | with_reducible apply State.dmaResume_keeps | with_reducible apply Keeps.foldl | with_reducible apply Keeps.foldr | with_reducible apply Keeps.foldl_snd_snd | with_reducible apply Keeps.foldl_snd | simp only [Keeps.lit_iff] | dsimp only [id_eq] | split)

theorem State.writeQueues_keeps {s₀ s : State} (v : Word) (y0 : Reg) (hk : Keeps s₀ s) : Keeps s₀ (s.writeQueues v y0) := by
  cases y0
  all_goals unfold State.writeQueues
  all_goals try dsimp only
  all_goals repeat' (first | with_reducible assumption | with_reducible rfl | intro _ | with_reducible apply State.chCommand_keeps | with_reducible apply State.consDoorbell_keeps | with_reducible apply State.dmaKick_keeps | with_reducible apply State.engineClear_keeps | with_reducible apply State.hcmdWrite_keeps | with_reducible apply State.hpsForce_keeps | with_reducible apply State.modCh_keeps | with_reducible apply State.modLockStat_keeps | with_reducible apply State.modRing_keeps | with_reducible apply State.poolWrite_keeps | with_reducible apply State.prodDoorbell_keeps | with_reducible apply State.rcmdWrite_keeps | with_reducible apply State.setReg_keeps | with_reducible apply State.storeRw_keeps | with_reducible apply Keeps.foldl | with_reducible apply Keeps.foldr | with_reducible apply Keeps.foldl_snd_snd | with_reducible apply Keeps.foldl_snd | simp only [Keeps.lit_iff] | dsimp only [id_eq] | split)

theorem State.updCmdWrite_keeps {s₀ s : State} (v : Word) (hk : Keeps s₀ s) : Keeps s₀ (s.updCmdWrite v) := by
  unfold State.updCmdWrite
  try dsimp only
  repeat' (first | with_reducible assumption | with_reducible rfl | intro _ | with_reducible apply State.recovBoot_keeps | with_reducible apply State.setBegin_keeps | with_reducible apply State.setCommit_keeps | with_reducible apply State.updCommand_keeps | with_reducible apply State.updSend_keeps | with_reducible apply Keeps.foldl | with_reducible apply Keeps.foldr | with_reducible apply Keeps.foldl_snd_snd | with_reducible apply Keeps.foldl_snd | simp only [Keeps.lit_iff] | dsimp only [id_eq] | split)

theorem State.lcsCmdWrite_keeps {s₀ s : State} (v : Word) (hk : Keeps s₀ s) : Keeps s₀ (s.lcsCmdWrite v) := by
  unfold State.lcsCmdWrite
  try dsimp only
  repeat' (first | with_reducible assumption | with_reducible rfl | intro _ | with_reducible apply State.lcGo_keeps | with_reducible apply State.lcRecover_keeps | with_reducible apply State.lcResult_keeps | with_reducible apply State.modUpd_keeps | with_reducible apply State.startWipe_keeps | with_reducible apply State.withPresence_keeps | with_reducible apply Keeps.foldl | with_reducible apply Keeps.foldr | with_reducible apply Keeps.foldl_snd_snd | with_reducible apply Keeps.foldl_snd | simp only [Keeps.lit_iff] | dsimp only [id_eq] | split)

theorem State.hlyCmdWrite_keeps {s₀ s : State} (v : Word) (hk : Keeps s₀ s) : Keeps s₀ (s.hlyCmdWrite v) := by
  unfold State.hlyCmdWrite
  try dsimp only
  repeat' (first | with_reducible assumption | with_reducible rfl | intro _ | with_reducible apply State.cmdRollcall_keeps | with_reducible apply State.measure_keeps | with_reducible apply State.reacq_keeps | with_reducible apply State.txmsg_keeps | with_reducible apply Keeps.foldl | with_reducible apply Keeps.foldr | with_reducible apply Keeps.foldl_snd_snd | with_reducible apply Keeps.foldl_snd | simp only [Keeps.lit_iff] | dsimp only [id_eq] | split)

theorem State.writeSystem_keeps {s₀ s : State} (v : Word) (y0 : Reg) (hk : Keeps s₀ s) : Keeps s₀ (s.writeSystem v y0) := by
  cases y0
  all_goals unfold State.writeSystem
  all_goals try dsimp only
  all_goals repeat' (first | with_reducible assumption | with_reducible rfl | intro _ | with_reducible apply State.drlCmdWrite_keeps | with_reducible apply State.eccctlWrite_keeps | with_reducible apply State.hlyCmdWrite_keeps | with_reducible apply State.hlyCtlWrite_keeps | with_reducible apply State.iwinWrite_keeps | with_reducible apply State.lcsCmdWrite_keeps | with_reducible apply State.modInst_keeps | with_reducible apply State.rxctlWrite_keeps | with_reducible apply State.setReg_keeps | with_reducible apply State.storeRw_keeps | with_reducible apply State.swinWrite_keeps | with_reducible apply State.tctlHlyWrite_keeps | with_reducible apply State.tctlWrite_keeps | with_reducible apply State.updCmdWrite_keeps | with_reducible apply Keeps.foldl | with_reducible apply Keeps.foldr | with_reducible apply Keeps.foldl_snd_snd | with_reducible apply Keeps.foldl_snd | simp only [Keeps.lit_iff] | dsimp only [id_eq] | split)

theorem State.writeReg_keeps {s₀ s : State} (a : Agent) (r : Reg) (v : Word) (hk : Keeps s₀ s) : Keeps s₀ (s.writeReg a r v) := by
  unfold State.writeReg
  try dsimp only
  repeat' (first | with_reducible assumption | with_reducible rfl | intro _ | with_reducible apply State.writeCore_keeps | with_reducible apply State.writeEvents_keeps | with_reducible apply State.writePins_keeps | with_reducible apply State.writeQueues_keeps | with_reducible apply State.writeSystem_keeps | with_reducible apply State.writeTimers_keeps | with_reducible apply Keeps.foldl | with_reducible apply Keeps.foldr | with_reducible apply Keeps.foldl_snd_snd | with_reducible apply Keeps.foldl_snd | simp only [Keeps.lit_iff] | dsimp only [id_eq] | split)

end Sys2Proof.Machine
end

