-- ==== Sys2Proof/Laws/Keep/Start.lean ====
section
/-! SUPPORT. The definitions of Machine/Start.lean keep what `Keeps` names. -/

set_option linter.unusedTactic false
set_option linter.unreachableTactic false
set_option linter.unusedSimpArgs false
set_option linter.unnecessarySimpa false

namespace Sys2Proof.Machine

theorem State.useConfirmed_keeps {s₀ s : State} (r : Option JRec) (hk : Keeps s₀ s) : Keeps s₀ (s.useConfirmed r) := by
  unfold State.useConfirmed
  try dsimp only
  repeat' (first | with_reducible assumption | with_reducible rfl | intro _ | with_reducible apply State.modUpd_keeps | with_reducible apply Keeps.foldl | with_reducible apply Keeps.foldr | with_reducible apply Keeps.foldl_snd_snd | with_reducible apply Keeps.foldl_snd | simp only [Keeps.lit_iff] | dsimp only [id_eq] | split)

theorem State.replay_keeps {s₀ s : State} (hk : Keeps s₀ s) : Keeps s₀ s.replay := by
  unfold State.replay
  try dsimp only
  repeat' (first | with_reducible assumption | with_reducible rfl | intro _ | with_reducible apply State.modUpd_keeps | with_reducible apply State.record_keeps | with_reducible apply State.stage_keeps | with_reducible apply State.useConfirmed_keeps | with_reducible apply Keeps.foldl | with_reducible apply Keeps.foldr | with_reducible apply Keeps.foldl_snd_snd | with_reducible apply Keeps.foldl_snd | simp only [Keeps.lit_iff] | dsimp only [id_eq] | split)

theorem State.clearMemories_keeps {s₀ s : State} (hk : Keeps s₀ s) : Keeps s₀ s.clearMemories := by
  unfold State.clearMemories
  try dsimp only
  repeat' (first | with_reducible assumption | with_reducible rfl | intro _ | with_reducible apply Keeps.foldl | with_reducible apply Keeps.foldr | with_reducible apply Keeps.foldl_snd_snd | with_reducible apply Keeps.foldl_snd | simp only [Keeps.lit_iff] | dsimp only [id_eq] | split | exact ⟨hk.pending, hk.stage, fun m => by have := hk.mem m; simp_all [State.memOk, Memory.wf, mwf, mwfFrom], hk.scrapped⟩)

theorem State.placeSlate_keeps {s₀ s : State} (t : Tid) (l : List Byte) (hk : Keeps s₀ s) : Keeps s₀ (s.placeSlate t l) := by
  unfold State.placeSlate
  try dsimp only
  repeat' (first | with_reducible assumption | with_reducible rfl | intro _ | with_reducible apply State.setSlate_keeps | with_reducible apply Keeps.foldl | with_reducible apply Keeps.foldr | with_reducible apply Keeps.foldl_snd_snd | with_reducible apply Keeps.foldl_snd | simp only [Keeps.lit_iff] | dsimp only [id_eq] | split)

theorem State.placeInit_keeps {s₀ s : State} (m : Mem) (hk : Keeps s₀ s) : Keeps s₀ (s.placeInit m) := by
  unfold State.placeInit
  try dsimp only
  repeat' (first | with_reducible assumption | with_reducible rfl | intro _ | with_reducible apply State.placeSlate_keeps | with_reducible apply State.setDesks_keeps | with_reducible apply State.setHalls_keeps | with_reducible apply Keeps.foldl | with_reducible apply Keeps.foldr | with_reducible apply Keeps.foldl_snd_snd | with_reducible apply Keeps.foldl_snd | simp only [Keeps.lit_iff] | dsimp only [id_eq] | split)

theorem State.placePayload_keeps {s₀ s : State} (m : Mem) (l : List Byte) (hk : Keeps s₀ s) : Keeps s₀ (s.placePayload m l) := by
  unfold State.placePayload
  try dsimp only
  repeat' (first | with_reducible assumption | with_reducible rfl | intro _ | with_reducible apply State.setDesks_keeps | with_reducible apply State.setHalls_keeps | with_reducible apply Keeps.foldl | with_reducible apply Keeps.foldr | with_reducible apply Keeps.foldl_snd_snd | with_reducible apply Keeps.foldl_snd | simp only [Keeps.lit_iff] | dsimp only [id_eq] | split)

theorem State.placeSettings_keeps {s₀ s : State} (m : Mem) (hk : Keeps s₀ s) : Keeps s₀ (s.placeSettings m) := by
  unfold State.placeSettings
  try dsimp only
  repeat' (first | with_reducible assumption | with_reducible rfl | intro _ | with_reducible apply State.modUpd_keeps | with_reducible apply State.placePayload_keeps | with_reducible apply Keeps.foldl | with_reducible apply Keeps.foldr | with_reducible apply Keeps.foldl_snd_snd | with_reducible apply Keeps.foldl_snd | simp only [Keeps.lit_iff] | dsimp only [id_eq] | split)

theorem State.hold_keeps {s₀ s : State} (r : Reg) (v : Word) (hk : Keeps s₀ s) : Keeps s₀ (s.hold r v) := by
  cases r <;> first | (show Keeps s₀ s; exact hk) | skip
  all_goals  unfold State.hold
  all_goals  try dsimp only
  all_goals  repeat' (first | with_reducible assumption | with_reducible rfl | intro _ | with_reducible apply Keeps.foldl | with_reducible apply Keeps.foldr | with_reducible apply Keeps.foldl_snd_snd | with_reducible apply Keeps.foldl_snd | simp only [Keeps.lit_iff] | dsimp only [id_eq] | split)

theorem State.tableEntry_keeps {s₀ s : State} (e : Nat × Word) (hk : Keeps s₀ s) : Keeps s₀ (s.tableEntry e) := by
  unfold State.tableEntry
  try dsimp only
  repeat' (first | with_reducible assumption | with_reducible rfl | intro _ | with_reducible apply State.hold_keeps | with_reducible apply State.writeReg_keeps | with_reducible apply Keeps.foldl | with_reducible apply Keeps.foldr | with_reducible apply Keeps.foldl_snd_snd | with_reducible apply Keeps.foldl_snd | simp only [Keeps.lit_iff] | dsimp only [id_eq] | split)

theorem State.applyHeld_keeps {s₀ s : State} (hk : Keeps s₀ s) : Keeps s₀ s.applyHeld := by
  unfold State.applyHeld
  try dsimp only
  repeat' (first | with_reducible assumption | with_reducible rfl | intro _ | with_reducible apply State.belCtlWrite_keeps | with_reducible apply State.thrCtlWrite_keeps | with_reducible apply Keeps.foldl | with_reducible apply Keeps.foldr | with_reducible apply Keeps.foldl_snd_snd | with_reducible apply Keeps.foldl_snd | simp only [Keeps.lit_iff] | dsimp only [id_eq] | split)

theorem State.runImage_keeps {s₀ s : State} (m : Mem) (hk : Keeps s₀ s) : Keeps s₀ (s.runImage m) := by
  unfold State.runImage
  try dsimp only
  repeat' (first | with_reducible assumption | with_reducible rfl | intro _ | with_reducible apply State.applyHeld_keeps | with_reducible apply State.clearMemories_keeps | with_reducible apply State.placeInit_keeps | with_reducible apply State.placeSettings_keeps | with_reducible apply State.tableEntry_keeps | with_reducible apply Keeps.foldl | with_reducible apply Keeps.foldr | with_reducible apply Keeps.foldl_snd_snd | with_reducible apply Keeps.foldl_snd | simp only [Keeps.lit_iff] | dsimp only [id_eq] | split)

theorem State.enterRom_keeps {s₀ s : State} (hk : Keeps s₀ s) : Keeps s₀ s.enterRom := by
  unfold State.enterRom
  try dsimp only
  repeat' (first | with_reducible assumption | with_reducible rfl | intro _ | with_reducible apply Keeps.foldl | with_reducible apply Keeps.foldr | with_reducible apply Keeps.foldl_snd_snd | with_reducible apply Keeps.foldl_snd | simp only [Keeps.lit_iff] | dsimp only [id_eq] | split)

theorem State.loadCode_keeps {s₀ s : State} (m : Mem) (hk : Keeps s₀ s) : Keeps s₀ (s.loadCode m) := by
  unfold State.loadCode
  try dsimp only
  repeat' (first | with_reducible assumption | with_reducible rfl | intro _ | with_reducible apply State.placeCode_keeps | with_reducible apply Keeps.foldl | with_reducible apply Keeps.foldr | with_reducible apply Keeps.foldl_snd_snd | with_reducible apply Keeps.foldl_snd | simp only [Keeps.lit_iff] | dsimp only [id_eq] | split)

theorem State.coldImages_keeps {s₀ s : State} (hk : Keeps s₀ s) : Keeps s₀ s.coldImages := by
  unfold State.coldImages
  try dsimp only
  repeat' (first | with_reducible assumption | with_reducible rfl | intro _ | with_reducible apply State.enterRom_keeps | with_reducible apply State.loadCode_keeps | with_reducible apply State.replay_keeps | with_reducible apply State.runImage_keeps | with_reducible apply State.useConfirmed_keeps | with_reducible apply Keeps.foldl | with_reducible apply Keeps.foldr | with_reducible apply Keeps.foldl_snd_snd | with_reducible apply Keeps.foldl_snd | simp only [Keeps.lit_iff] | dsimp only [id_eq] | split)

theorem State.coldStart_keeps {s₀ s : State} (hk : Keeps s₀ s) : Keeps s₀ s.coldStart := by
  unfold State.coldStart
  try dsimp only
  repeat' (first | with_reducible assumption | with_reducible rfl | intro _ | with_reducible apply State.coldImages_keeps | with_reducible apply State.enterRom_keeps | with_reducible apply Keeps.foldl | with_reducible apply Keeps.foldr | with_reducible apply Keeps.foldl_snd_snd | with_reducible apply Keeps.foldl_snd | simp only [Keeps.lit_iff] | dsimp only [id_eq] | split | exact ⟨hk.pending, hk.stage, fun m => by have := hk.mem m; simp_all [State.memOk, Memory.wf, mwf, mwfFrom], hk.scrapped⟩)

theorem State.coldRelease_keeps {s₀ s : State} (st : Straps) (hk : Keeps s₀ s) : Keeps s₀ (s.coldRelease st) := by
  unfold State.coldRelease
  try dsimp only
  repeat' (first | with_reducible assumption | with_reducible rfl | intro _ | with_reducible apply State.coldStart_keeps | with_reducible apply Keeps.foldl | with_reducible apply Keeps.foldr | with_reducible apply Keeps.foldl_snd_snd | with_reducible apply Keeps.foldl_snd | simp only [Keeps.lit_iff] | dsimp only [id_eq] | split)

theorem State.windowOpen_keeps {s₀ s : State} (hk : Keeps s₀ s) : Keeps s₀ s.windowOpen := by
  unfold State.windowOpen
  try dsimp only
  repeat' (first | with_reducible assumption | with_reducible rfl | intro _ | with_reducible apply State.coldStart_keeps | with_reducible apply State.pulse_keeps | with_reducible apply Keeps.foldl | with_reducible apply Keeps.foldr | with_reducible apply Keeps.foldl_snd_snd | with_reducible apply Keeps.foldl_snd | simp only [Keeps.lit_iff] | dsimp only [id_eq] | split)

theorem State.setBanks_keeps {s₀ s : State} (hk : Keeps s₀ s) : Keeps s₀ s.setBanks := by
  unfold State.setBanks
  try dsimp only
  repeat' (first | with_reducible assumption | with_reducible rfl | intro _ | with_reducible apply State.modThr_keeps | with_reducible apply Keeps.foldl | with_reducible apply Keeps.foldr | with_reducible apply Keeps.foldl_snd_snd | with_reducible apply Keeps.foldl_snd | simp only [Keeps.lit_iff] | dsimp only [id_eq] | split)

theorem State.warmStart_keeps {s₀ s : State} (hk : Keeps s₀ s) : Keeps s₀ s.warmStart := by
  unfold State.warmStart
  try dsimp only
  repeat' (first | with_reducible assumption | with_reducible rfl | intro _ | with_reducible apply State.enterRom_keeps | with_reducible apply State.replay_keeps | with_reducible apply State.runImage_keeps | with_reducible apply State.setBanks_keeps | with_reducible apply Keeps.foldl | with_reducible apply Keeps.foldr | with_reducible apply Keeps.foldl_snd_snd | with_reducible apply Keeps.foldl_snd | simp only [Keeps.lit_iff] | dsimp only [id_eq] | split)

theorem State.warmEnd_keeps {s₀ s : State} (hk : Keeps s₀ s) : Keeps s₀ s.warmEnd := by
  unfold State.warmEnd
  try dsimp only
  repeat' (first | with_reducible assumption | with_reducible rfl | intro _ | with_reducible apply State.warmStart_keeps | with_reducible apply Keeps.foldl | with_reducible apply Keeps.foldr | with_reducible apply Keeps.foldl_snd_snd | with_reducible apply Keeps.foldl_snd | simp only [Keeps.lit_iff] | dsimp only [id_eq] | split)

end Sys2Proof.Machine
end

