-- ==== Sys2Proof/Laws/Keep/DmaMove.lean ====
section
/-! SUPPORT. The definitions of Machine/DmaMove.lean keep what `Keeps` names. -/

set_option linter.unusedTactic false
set_option linter.unreachableTactic false
set_option linter.unusedSimpArgs false
set_option linter.unnecessarySimpa false

namespace Sys2Proof.Machine

theorem State.dmaRegWrite_keeps {s₀ s t : State} (ch : DmaCh) (off : Nat) (v : Word) (enabled : Nat) (hk : Keeps s₀ s)
    (e : s.dmaRegWrite ch off v enabled = .ok t) : Keeps s₀ t := by
  unfold State.dmaRegWrite at e
  repeat' split at e
  all_goals first | (cases e; done) | (cases e; exact hk) | (cases e; exact State.writeReg_keeps _ _ _ hk)

theorem State.dmaRegWrites_keeps {s₀ s : State} (e : Engine) (addr beats off : Nat) (l : Bytes) (hk : Keeps s₀ s) : Keeps s₀ (s.dmaRegWrites e addr beats off l) := by
  unfold State.dmaRegWrites
  try dsimp only
  repeat' (first | with_reducible assumption | with_reducible rfl | intro _ | with_reducible apply State.ownError_keeps | (refine State.dmaRegWrite_keeps _ _ _ _ ?_ (by assumption)) | with_reducible apply Keeps.foldl | with_reducible apply Keeps.foldr | with_reducible apply Keeps.foldl_snd_snd | with_reducible apply Keeps.foldl_snd | simp only [Keeps.lit_iff] | dsimp only [id_eq] | split)

theorem State.writeOut_keeps {s₀ s : State} (e : Engine) (q : BitVec 48 × Nat × Bytes) (hk : Keeps s₀ s) : Keeps s₀ (s.writeOut e q) := by
  unfold State.writeOut
  try dsimp only
  repeat' (first | with_reducible assumption | with_reducible rfl | intro _ | with_reducible apply State.dmaRegWrites_keeps | with_reducible apply State.modEng_keeps | with_reducible apply State.ownError_keeps | with_reducible apply Keeps.foldl | with_reducible apply Keeps.foldr | with_reducible apply Keeps.foldl_snd_snd | with_reducible apply Keeps.foldl_snd | simp only [Keeps.lit_iff] | dsimp only [id_eq] | split)

theorem State.reserveBurst_keeps {s₀ s : State} (e : Engine) (hk : Keeps s₀ s) : Keeps s₀ (s.reserveBurst e) := by
  unfold State.reserveBurst
  try dsimp only
  repeat' (first | with_reducible assumption | with_reducible rfl | intro _ | with_reducible apply State.modEng_keeps | with_reducible apply State.reserve_keeps | with_reducible apply State.takeCell_keeps | with_reducible apply Keeps.foldl | with_reducible apply Keeps.foldr | with_reducible apply Keeps.foldl_snd_snd | with_reducible apply Keeps.foldl_snd | simp only [Keeps.lit_iff] | dsimp only [id_eq] | split)

theorem State.takeEntry_keeps {s₀ s : State} (e : Engine) (hk : Keeps s₀ s) : Keeps s₀ (s.takeEntry e) := by
  unfold State.takeEntry
  try dsimp only
  repeat' (first | with_reducible assumption | with_reducible rfl | intro _ | with_reducible apply State.addItem_keeps | with_reducible apply State.beginReads_keeps | with_reducible apply State.modEng_keeps | with_reducible apply State.modRing_keeps | with_reducible apply Keeps.foldl | with_reducible apply Keeps.foldr | with_reducible apply Keeps.foldl_snd_snd | with_reducible apply Keeps.foldl_snd | simp only [Keeps.lit_iff] | dsimp only [id_eq] | split)

theorem State.beginBurst_keeps {s₀ s : State} (e : Engine) (hk : Keeps s₀ s) : Keeps s₀ (s.beginBurst e) := by
  unfold State.beginBurst
  try dsimp only
  repeat' (first | with_reducible assumption | with_reducible rfl | intro _ | with_reducible apply State.beginReads_keeps | with_reducible apply State.go_keeps | with_reducible apply State.hold_keeps | with_reducible apply State.modCh_keeps | with_reducible apply State.ownError_keeps | with_reducible apply State.reserveBurst_keeps | with_reducible apply State.takeEntry_keeps | with_reducible apply Keeps.foldl | with_reducible apply Keeps.foldr | with_reducible apply Keeps.foldl_snd_snd | with_reducible apply Keeps.foldl_snd | simp only [Keeps.lit_iff] | dsimp only [id_eq] | split)

theorem State.burstPost_keeps {s₀ s : State} (e : Engine) (hk : Keeps s₀ s) : Keeps s₀ (s.burstPost e) := by
  unfold State.burstPost
  try dsimp only
  repeat' (first | with_reducible assumption | with_reducible rfl | intro _ | with_reducible apply State.addItem_keeps | with_reducible apply State.hallWrite_keeps | with_reducible apply State.modEng_keeps | with_reducible apply State.post_keeps | with_reducible apply Keeps.foldl | with_reducible apply Keeps.foldr | with_reducible apply Keeps.foldl_snd_snd | with_reducible apply Keeps.foldl_snd | simp only [Keeps.lit_iff] | dsimp only [id_eq] | split)

theorem State.placeBurst_keeps {s₀ s : State} (e : Engine) (hk : Keeps s₀ s) : Keeps s₀ (s.placeBurst e) := by
  unfold State.placeBurst
  try dsimp only
  repeat' (first | with_reducible assumption | with_reducible rfl | intro _ | with_reducible apply State.burstPost_keeps | with_reducible apply State.modEng_keeps | with_reducible apply State.modRing_keeps | with_reducible apply State.writeOut_keeps | with_reducible apply Keeps.foldl | with_reducible apply Keeps.foldr | with_reducible apply Keeps.foldl_snd_snd | with_reducible apply Keeps.foldl_snd | simp only [Keeps.lit_iff] | dsimp only [id_eq] | split)

theorem State.issueWrite_keeps {s₀ s : State} (e : Engine) (hk : Keeps s₀ s) : Keeps s₀ (s.issueWrite e) := by
  unfold State.issueWrite
  try dsimp only
  repeat' (first | with_reducible assumption | with_reducible rfl | intro _ | with_reducible apply State.issueReq_keeps | with_reducible apply State.modEng_keeps | with_reducible apply Keeps.foldl | with_reducible apply Keeps.foldr | with_reducible apply Keeps.foldl_snd_snd | with_reducible apply Keeps.foldl_snd | simp only [Keeps.lit_iff] | dsimp only [id_eq] | split)

theorem State.endBurst_keeps {s₀ s : State} (e : Engine) (hk : Keeps s₀ s) : Keeps s₀ (s.endBurst e) := by
  unfold State.endBurst
  try dsimp only
  repeat' (first | with_reducible assumption | with_reducible rfl | intro _ | with_reducible apply State.chPulse_keeps | with_reducible apply State.modCh_keeps | with_reducible apply State.modEng_keeps | with_reducible apply Keeps.foldl | with_reducible apply Keeps.foldr | with_reducible apply Keeps.foldl_snd_snd | with_reducible apply Keeps.foldl_snd | simp only [Keeps.lit_iff] | dsimp only [id_eq] | split)

theorem State.burst_keeps {s₀ s : State} (e : Engine) (hk : Keeps s₀ s) : Keeps s₀ (s.burst e) := by
  unfold State.burst
  try dsimp only
  repeat' (first | with_reducible assumption | with_reducible rfl | intro _ | with_reducible apply State.beginBurst_keeps | with_reducible apply State.endBurst_keeps | with_reducible apply State.issueRead_keeps | with_reducible apply State.issueWrite_keeps | with_reducible apply State.placeBurst_keeps | with_reducible apply Keeps.foldl | with_reducible apply Keeps.foldr | with_reducible apply Keeps.foldl_snd_snd | with_reducible apply Keeps.foldl_snd | simp only [Keeps.lit_iff] | dsimp only [id_eq] | split)

end Sys2Proof.Machine
end

