-- ==== Sys2Proof/Laws/Keep/Landing.lean ====
section
/-! SUPPORT. The definitions of Machine/Landing.lean keep what `Keeps` names. -/

set_option linter.unusedTactic false
set_option linter.unreachableTactic false
set_option linter.unusedSimpArgs false
set_option linter.unnecessarySimpa false

namespace Sys2Proof.Machine

theorem State.ioResult_keeps {s₀ s : State} (t : Tid) (k : Nat) (d : Dest) (v : DWord) (hk : Keeps s₀ s) : Keeps s₀ (s.ioResult t k d v) := by
  unfold State.ioResult
  try dsimp only
  repeat' (first | with_reducible assumption | with_reducible rfl | intro _ | with_reducible apply State.landLater_keeps | with_reducible apply Keeps.foldl | with_reducible apply Keeps.foldr | with_reducible apply Keeps.foldl_snd_snd | with_reducible apply Keeps.foldl_snd | simp only [Keeps.lit_iff] | dsimp only [id_eq] | split)

theorem State.ioEffect_keeps {s₀ s : State} (t : Tid) (io : BitVec 16) (hk : Keeps s₀ s) : Keeps s₀ (s.ioEffect t io) := by
  unfold State.ioEffect
  try dsimp only
  repeat' (first | with_reducible assumption | with_reducible rfl | intro _ | with_reducible apply State.readEffect_keeps | with_reducible apply Keeps.foldl | with_reducible apply Keeps.foldr | with_reducible apply Keeps.foldl_snd_snd | with_reducible apply Keeps.foldl_snd | simp only [Keeps.lit_iff] | dsimp only [id_eq] | split)

theorem State.ioWrite_keeps {s₀ s : State} (t : Tid) (inC6 : Bool) (io : BitVec 16) (v : Word) (superv : Bool) (hk : Keeps s₀ s) : Keeps s₀ (s.ioWrite t inC6 io v superv) := by
  unfold State.ioWrite
  try dsimp only
  repeat' (first | with_reducible assumption | with_reducible rfl | intro _ | with_reducible apply State.schedule_keeps | with_reducible apply State.writeReg_keeps | with_reducible apply Keeps.foldl | with_reducible apply Keeps.foldr | with_reducible apply Keeps.foldl_snd_snd | with_reducible apply Keeps.foldl_snd | simp only [Keeps.lit_iff] | dsimp only [id_eq] | split)

theorem State.ioDo_keeps {s₀ s : State} (was : State) (t : Tid) (k : Nat) (inC6 : Bool) (y0 : IoAcc) (hk : Keeps s₀ s) : Keeps s₀ (s.ioDo was t k inC6 y0) := by
  unfold State.ioDo
  try dsimp only
  repeat' (first | with_reducible assumption | with_reducible rfl | intro _ | with_reducible apply State.capwRead_keeps | with_reducible apply State.clearEvents_keeps | with_reducible apply State.compareBy_keeps | with_reducible apply State.edgeBy_keeps | with_reducible apply State.ioEffect_keeps | with_reducible apply State.ioResult_keeps | with_reducible apply State.ioWrite_keeps | with_reducible apply State.pinwr_keeps | with_reducible apply State.popRecord_keeps | with_reducible apply State.pulse_keeps | with_reducible apply State.qget_keeps | with_reducible apply State.qput_keeps | with_reducible apply Keeps.foldl | with_reducible apply Keeps.foldr | with_reducible apply Keeps.foldl_snd_snd | with_reducible apply Keeps.foldl_snd | simp only [Keeps.lit_iff] | dsimp only [id_eq] | split)

theorem State.landIo_keeps {s₀ s : State} (was : State) (t : Tid) (k : Nat) (inC6 : Bool) (acc : IoAcc) (hk : Keeps s₀ s) : Keeps s₀ (s.landIo was t k inC6 acc) := by
  unfold State.landIo
  try dsimp only
  repeat' (first | with_reducible assumption | with_reducible rfl | intro _ | with_reducible apply State.ioDo_keeps | with_reducible apply State.raiseAt_keeps | with_reducible apply Keeps.foldl | with_reducible apply Keeps.foldr | with_reducible apply Keeps.foldl_snd_snd | with_reducible apply Keeps.foldl_snd | simp only [Keeps.lit_iff] | dsimp only [id_eq] | split)

theorem State.landHandin_keeps {s₀ s : State} (t : Tid) (hk : Keeps s₀ s) : Keeps s₀ (s.landHandin t) := by
  unfold State.landHandin
  try dsimp only
  repeat' (first | with_reducible assumption | with_reducible rfl | intro _ | with_reducible apply State.modPer_keeps | with_reducible apply Keeps.foldl | with_reducible apply Keeps.foldr | with_reducible apply Keeps.foldl_snd_snd | with_reducible apply Keeps.foldl_snd | simp only [Keeps.lit_iff] | dsimp only [id_eq] | split)

theorem State.landUnit_keeps {s₀ s : State} (x : Landing) (hk : Keeps s₀ s) : Keeps s₀ (s.landUnit x) := by
  unfold State.landUnit
  try dsimp only
  repeat' (first | with_reducible assumption | with_reducible rfl | intro _ | with_reducible apply State.cvTrigger_keeps | with_reducible apply State.enterMaint_keeps | with_reducible apply State.hostFall_keeps | with_reducible apply State.hqEnter_keeps | with_reducible apply State.landActive_keeps | with_reducible apply State.landEdge_keeps | with_reducible apply State.landF1_keeps | with_reducible apply State.landF2_keeps | with_reducible apply State.landFilter_keeps | with_reducible apply State.landFlush_keeps | with_reducible apply State.landForce_keeps | with_reducible apply State.landGovern_keeps | with_reducible apply State.landHandin_keeps | with_reducible apply State.landInit_keeps | with_reducible apply State.landIo_keeps | with_reducible apply State.landJump_keeps | with_reducible apply State.landLatch_keeps | with_reducible apply State.landLive_keeps | with_reducible apply State.landLockSafe_keeps | with_reducible apply State.landPadIn_keeps | with_reducible apply State.landPipe_keeps | with_reducible apply State.landPreload_keeps | with_reducible apply State.landRecord_keeps | with_reducible apply State.landReload_keeps | with_reducible apply State.landShift_keeps | with_reducible apply State.landSinc_keeps | with_reducible apply State.landStation_keeps | with_reducible apply State.landStnSafe_keeps | with_reducible apply State.landStrict_keeps | with_reducible apply State.landSwap_keeps | with_reducible apply State.landTrip_keeps | with_reducible apply State.landUnhold_keeps | with_reducible apply State.leaveMaint_keeps | with_reducible apply State.pulse_keeps | with_reducible apply State.swapSettle_keeps | with_reducible apply State.warmFall_keeps | with_reducible apply Keeps.foldl | with_reducible apply Keeps.foldr | with_reducible apply Keeps.foldl_snd_snd | with_reducible apply Keeps.foldl_snd | simp only [Keeps.lit_iff] | dsimp only [id_eq] | split)

theorem State.landOne_keeps {s₀ s : State} (x : Landing) (hk : Keeps s₀ s) : Keeps s₀ (s.landOne x) := by
  unfold State.landOne
  try dsimp only
  repeat' (first | with_reducible assumption | with_reducible rfl | intro _ | with_reducible apply State.landUnit_keeps | with_reducible apply Keeps.foldl | with_reducible apply Keeps.foldr | with_reducible apply Keeps.foldl_snd_snd | with_reducible apply Keeps.foldl_snd | simp only [Keeps.lit_iff] | dsimp only [id_eq] | split)

theorem State.landAll_keeps {s₀ s : State} (n d : Nat) (hk : Keeps s₀ s) : Keeps s₀ (State.landAll n d s) := by
  induction n generalizing s with
  | zero => exact hk
  | succ n ih =>
    unfold State.landAll
    split
    · exact ih (State.landOne_keeps _ hk)
    · exact hk

theorem State.accessAll_keeps {s₀ s : State} (p : Eff → Bool) (n : Nat) (hk : Keeps s₀ s) : Keeps s₀ (State.accessAll p n s) := by
  induction n generalizing s with
  | zero => exact hk
  | succ n ih =>
    unfold State.accessAll
    split
    · exact ih (State.landOne_keeps _ hk)
    · exact hk

theorem State.accessBy_keeps {s₀ s : State} (was : State) (atEnd : Bool) (t : Tid) (hk : Keeps s₀ s) : Keeps s₀ (State.accessBy was atEnd s t) := by
  unfold State.accessBy
  try dsimp only
  repeat' (first | with_reducible assumption | with_reducible rfl | intro _ | with_reducible apply State.landIo_keeps | with_reducible apply State.landUnit_keeps | with_reducible apply Keeps.foldl | with_reducible apply Keeps.foldr | with_reducible apply Keeps.foldl_snd_snd | with_reducible apply Keeps.foldl_snd | simp only [Keeps.lit_iff] | dsimp only [id_eq] | split)

theorem State.accessThreads_keeps {s₀ s : State} (atEnd : Bool) (hk : Keeps s₀ s) : Keeps s₀ (s.accessThreads atEnd) := by
  unfold State.accessThreads
  try dsimp only
  repeat' (first | with_reducible assumption | with_reducible rfl | intro _ | with_reducible apply State.accessBy_keeps | with_reducible apply Keeps.foldl | with_reducible apply Keeps.foldr | with_reducible apply Keeps.foldl_snd_snd | with_reducible apply Keeps.foldl_snd | simp only [Keeps.lit_iff] | dsimp only [id_eq] | split)

end Sys2Proof.Machine
end

