-- ==== Sys2Proof/Laws/Keep/HostPort.lean ====
section
/-! SUPPORT. The definitions of Machine/HostPort.lean keep what `Keeps` names. -/

set_option linter.unusedTactic false
set_option linter.unreachableTactic false
set_option linter.unusedSimpArgs false
set_option linter.unnecessarySimpa false

namespace Sys2Proof.Machine

theorem State.regStore_keeps {s₀ s : State} (a : Agent) (off : Nat) (strb : BitVec 4) (v : Word) (hk : Keeps s₀ s) : Keeps s₀ (s.regStore a off strb v).2 := by
  unfold State.regStore
  try dsimp only
  repeat' (first | with_reducible assumption | with_reducible rfl | intro _ | with_reducible apply State.writeReg_keeps | with_reducible apply Keeps.foldl | with_reducible apply Keeps.foldr | with_reducible apply Keeps.foldl_snd_snd | with_reducible apply Keeps.foldl_snd | simp only [Keeps.lit_iff] | dsimp only [id_eq] | split)

theorem State.beatWrite_keeps {s₀ s : State} (a : Agent) (off : Nat) (b : BitVec 128 × BitVec 16) (hk : Keeps s₀ s) : Keeps s₀ (s.beatWrite a off b).2 := by
  unfold State.beatWrite
  try dsimp only
  repeat' (first | with_reducible assumption | with_reducible rfl | intro _ | with_reducible apply State.regStore_keeps | with_reducible apply Keeps.foldl | with_reducible apply Keeps.foldr | with_reducible apply Keeps.foldl_snd_snd | with_reducible apply Keeps.foldl_snd | simp only [Keeps.lit_iff] | dsimp only [id_eq] | split)

theorem State.beatsWrite_keeps {s₀ s : State} (a : Agent) (off : Nat) (l : List (BitVec 128 × BitVec 16)) (hk : Keeps s₀ s) :
    Keeps s₀ (s.beatsWrite a off l).2 := by
  induction l generalizing s off with
  | nil => exact hk
  | cons b rest ih => exact ih _ (State.beatWrite_keeps a off b hk)

theorem State.regLoad_keeps {s₀ s : State} (a : Agent) (off : Nat) (hk : Keeps s₀ s) : Keeps s₀ (s.regLoad a off).2.2 := by
  unfold State.regLoad
  try dsimp only
  repeat' (first | with_reducible assumption | with_reducible rfl | intro _ | with_reducible apply State.readEffect_keeps | with_reducible apply Keeps.foldl | with_reducible apply Keeps.foldr | with_reducible apply Keeps.foldl_snd_snd | with_reducible apply Keeps.foldl_snd | simp only [Keeps.lit_iff] | dsimp only [id_eq] | split)

theorem State.beatRead_keeps {s₀ s : State} (a : Agent) (off : Nat) (hk : Keeps s₀ s) : Keeps s₀ (s.beatRead a off).2.2 := by
  unfold State.beatRead
  try dsimp only
  repeat' (first | with_reducible assumption | with_reducible rfl | intro _ | with_reducible apply State.regLoad_keeps | with_reducible apply Keeps.foldl | with_reducible apply Keeps.foldr | with_reducible apply Keeps.foldl_snd_snd | with_reducible apply Keeps.foldl_snd | simp only [Keeps.lit_iff] | dsimp only [id_eq] | split)

theorem State.beatsRead_keeps {s₀ s : State} (a : Agent) (off n : Nat) (hk : Keeps s₀ s) : Keeps s₀ (s.beatsRead a off n).2.2 := by
  induction n generalizing s off with
  | zero => exact hk
  | succ n ih => exact ih _ (State.beatRead_keeps a off hk)

theorem State.take_keeps {s₀ s : State} (h : Host) (r : Req) (hk : Keeps s₀ s) : Keeps s₀ (s.take h r) := by
  unfold State.take
  try dsimp only
  repeat' (first | with_reducible assumption | with_reducible rfl | intro _ | with_reducible apply State.modHost_keeps | with_reducible apply Keeps.foldl | with_reducible apply Keeps.foldr | with_reducible apply Keeps.foldl_snd_snd | with_reducible apply Keeps.foldl_snd | simp only [Keeps.lit_iff] | dsimp only [id_eq] | split)

theorem State.answerBad_keeps {s₀ s : State} (h : Host) (tag : BitVec 5) (write : Bool) (n : Nat) (hk : Keeps s₀ s) : Keeps s₀ (s.answerBad h tag write n) := by
  unfold State.answerBad
  try dsimp only
  repeat' (first | with_reducible assumption | with_reducible rfl | intro _ | with_reducible apply State.take_keeps | with_reducible apply Keeps.foldl | with_reducible apply Keeps.foldr | with_reducible apply Keeps.foldl_snd_snd | with_reducible apply Keeps.foldl_snd | simp only [Keeps.lit_iff] | dsimp only [id_eq] | split)

theorem State.hostRead_keeps {s₀ s : State} (h : Host) (tag : BitVec 5) (off n : Nat) (hk : Keeps s₀ s) : Keeps s₀ (s.hostRead h tag off n) := by
  unfold State.hostRead
  try dsimp only
  repeat' (first | with_reducible assumption | with_reducible rfl | intro _ | with_reducible apply State.answerBad_keeps | with_reducible apply State.take_keeps | with_reducible apply Keeps.foldl | with_reducible apply Keeps.foldr | with_reducible apply Keeps.foldl_snd_snd | with_reducible apply Keeps.foldl_snd | simp only [Keeps.lit_iff] | dsimp only [id_eq] | split)

theorem State.hostWrite_keeps {s₀ s : State} (h : Host) (tag : BitVec 5) (off : Nat) (l : List (BitVec 128 × BitVec 16)) (hk : Keeps s₀ s) : Keeps s₀ (s.hostWrite h tag off l) := by
  unfold State.hostWrite
  try dsimp only
  repeat' (first | with_reducible assumption | with_reducible rfl | intro _ | with_reducible apply State.answerBad_keeps | with_reducible apply State.take_keeps | with_reducible apply Keeps.foldl | with_reducible apply Keeps.foldr | with_reducible apply Keeps.foldl_snd_snd | with_reducible apply Keeps.foldl_snd | simp only [Keeps.lit_iff] | dsimp only [id_eq] | split)

theorem State.modReq_keeps {s₀ s : State} (h : Host) (tag : BitVec 5) (f : Req → Req) (hk : Keeps s₀ s) : Keeps s₀ (s.modReq h tag f) := by
  unfold State.modReq
  try dsimp only
  repeat' (first | with_reducible assumption | with_reducible rfl | intro _ | with_reducible apply State.modHost_keeps | with_reducible apply Keeps.foldl | with_reducible apply Keeps.foldr | with_reducible apply Keeps.foldl_snd_snd | with_reducible apply Keeps.foldl_snd | simp only [Keeps.lit_iff] | dsimp only [id_eq] | split)

theorem State.regsWrite_keeps {s₀ s : State} (a : Agent) (r : Req) (hk : Keeps s₀ s) : Keeps s₀ (s.regsWrite a r).2 := by
  unfold State.regsWrite
  try dsimp only
  repeat' (first | with_reducible assumption | with_reducible rfl | intro _ | with_reducible apply State.beatsWrite_keeps | with_reducible apply State.iwinWrite_keeps | with_reducible apply Keeps.foldl | with_reducible apply Keeps.foldr | with_reducible apply Keeps.foldl_snd_snd | with_reducible apply Keeps.foldl_snd | simp only [Keeps.lit_iff] | dsimp only [id_eq] | split)

theorem State.performRegs_keeps {s₀ s : State} (h : Host) (r : Req) (hk : Keeps s₀ s) : Keeps s₀ (s.performRegs h r) := by
  unfold State.performRegs
  try dsimp only
  repeat' (first | with_reducible assumption | with_reducible rfl | intro _ | with_reducible apply State.beatsRead_keeps | with_reducible apply State.modReq_keeps | with_reducible apply State.regsWrite_keeps | with_reducible apply Keeps.foldl | with_reducible apply Keeps.foldr | with_reducible apply Keeps.foldl_snd_snd | with_reducible apply Keeps.foldl_snd | simp only [Keeps.lit_iff] | dsimp only [id_eq] | split)

theorem State.present_keeps {s₀ s : State} (h : Host) (r : Req) (hk : Keeps s₀ s) : Keeps s₀ (s.present h r) := by
  unfold State.present
  try dsimp only
  repeat' (first | with_reducible assumption | with_reducible rfl | intro _ | with_reducible apply State.modReq_keeps | with_reducible apply Keeps.foldl | with_reducible apply Keeps.foldr | with_reducible apply Keeps.foldl_snd_snd | with_reducible apply Keeps.foldl_snd | simp only [Keeps.lit_iff] | dsimp only [id_eq] | split)

theorem State.reqStep_keeps {s₀ s : State} (h : Host) (r : Req) (hk : Keeps s₀ s) : Keeps s₀ (s.reqStep h r) := by
  unfold State.reqStep
  try dsimp only
  repeat' (first | with_reducible assumption | with_reducible rfl | intro _ | with_reducible apply State.performRegs_keeps | with_reducible apply State.present_keeps | with_reducible apply Keeps.foldl | with_reducible apply Keeps.foldr | with_reducible apply Keeps.foldl_snd_snd | with_reducible apply Keeps.foldl_snd | simp only [Keeps.lit_iff] | dsimp only [id_eq] | split)

theorem State.hostStep_keeps {s₀ s : State} (hk : Keeps s₀ s) : Keeps s₀ s.hostStep := by
  unfold State.hostStep
  try dsimp only
  repeat' (first | with_reducible assumption | with_reducible rfl | intro _ | with_reducible apply State.reqStep_keeps | with_reducible apply Keeps.foldl | with_reducible apply Keeps.foldr | with_reducible apply Keeps.foldl_snd_snd | with_reducible apply Keeps.foldl_snd | simp only [Keeps.lit_iff] | dsimp only [id_eq] | split)

theorem State.hostDesk_keeps {s₀ s : State} (h : Host) (r : Req) (b : Barrel) (p : PortReq) (hk : Keeps s₀ s) : Keeps s₀ (s.hostDesk h r b p) := by
  unfold State.hostDesk
  try dsimp only
  repeat' (first | with_reducible assumption | with_reducible rfl | intro _ | with_reducible apply State.deskPortWrite_keeps | with_reducible apply State.modReq_keeps | with_reducible apply State.noteRead_keeps | with_reducible apply Keeps.foldl | with_reducible apply Keeps.foldr | with_reducible apply Keeps.foldl_snd_snd | with_reducible apply Keeps.foldl_snd | simp only [Keeps.lit_iff] | dsimp only [id_eq] | split)

theorem State.hostGranule_keeps {s₀ s : State} (h : Host) (r : Req) (p : PortReq) (hk : Keeps s₀ s) : Keeps s₀ (s.hostGranule h r p) := by
  unfold State.hostGranule
  try dsimp only
  repeat' (first | with_reducible assumption | with_reducible rfl | intro _ | with_reducible apply State.hallPortWrite_keeps | with_reducible apply State.modReq_keeps | with_reducible apply State.noteRead_keeps | with_reducible apply Keeps.foldl | with_reducible apply Keeps.foldr | with_reducible apply Keeps.foldl_snd_snd | with_reducible apply Keeps.foldl_snd | simp only [Keeps.lit_iff] | dsimp only [id_eq] | split)

theorem State.hostServed_keeps {s₀ s : State} (h : Host) (p : PortReq) (hk : Keeps s₀ s) : Keeps s₀ (s.hostServed h p) := by
  unfold State.hostServed
  try dsimp only
  repeat' (first | with_reducible assumption | with_reducible rfl | intro _ | with_reducible apply State.hostDesk_keeps | with_reducible apply State.hostGranule_keeps | with_reducible apply Keeps.foldl | with_reducible apply Keeps.foldr | with_reducible apply Keeps.foldl_snd_snd | with_reducible apply Keeps.foldl_snd | simp only [Keeps.lit_iff] | dsimp only [id_eq] | split)

theorem State.registerWrite_keeps {s₀ s : State} (a : Agent) (off : Nat) (strb : BitVec 4) (v : Word) (hk : Keeps s₀ s) : Keeps s₀ (s.registerWrite a off strb v) := by
  unfold State.registerWrite
  try dsimp only
  repeat' (first | with_reducible assumption | with_reducible rfl | intro _ | with_reducible apply State.answerBad_keeps | with_reducible apply State.answer_keeps | with_reducible apply State.regStore_keeps | with_reducible apply Keeps.foldl | with_reducible apply Keeps.foldr | with_reducible apply Keeps.foldl_snd_snd | with_reducible apply Keeps.foldl_snd | simp only [Keeps.lit_iff] | dsimp only [id_eq] | split)

theorem State.readNow_keeps {s₀ s : State} (h : Host) (tag : BitVec 5) (off : Nat) (hk : Keeps s₀ s) : Keeps s₀ (s.readNow h tag off) := by
  unfold State.readNow
  try dsimp only
  repeat' (first | with_reducible assumption | with_reducible rfl | intro _ | with_reducible apply State.answerBad_keeps | with_reducible apply State.beatsRead_keeps | with_reducible apply State.take_keeps | with_reducible apply Keeps.foldl | with_reducible apply Keeps.foldr | with_reducible apply Keeps.foldl_snd_snd | with_reducible apply Keeps.foldl_snd | simp only [Keeps.lit_iff] | dsimp only [id_eq] | split)

theorem State.registerRead_keeps {s₀ s : State} (a : Agent) (off : Nat) (hk : Keeps s₀ s) : Keeps s₀ (s.registerRead a off) := by
  unfold State.registerRead
  try dsimp only
  repeat' (first | with_reducible assumption | with_reducible rfl | intro _ | with_reducible apply State.readNow_keeps | with_reducible apply State.regLoad_keeps | with_reducible apply Keeps.foldl | with_reducible apply Keeps.foldr | with_reducible apply Keeps.foldl_snd_snd | with_reducible apply Keeps.foldl_snd | simp only [Keeps.lit_iff] | dsimp only [id_eq] | split)

theorem State.hostResponse_keeps {s₀ s : State} (h : Host) (tag : BitVec 5) (hk : Keeps s₀ s) : Keeps s₀ (s.hostResponse h tag) := by
  unfold State.hostResponse
  try dsimp only
  repeat' (first | with_reducible assumption | with_reducible rfl | intro _ | with_reducible apply State.askWarm_keeps | with_reducible apply State.modHost_keeps | with_reducible apply Keeps.foldl | with_reducible apply Keeps.foldr | with_reducible apply Keeps.foldl_snd_snd | with_reducible apply Keeps.foldl_snd | simp only [Keeps.lit_iff] | dsimp only [id_eq] | split)

end Sys2Proof.Machine
end

