-- ==== Sys2Proof/Laws/Keep/Grants.lean ====
section
/-! SUPPORT. The definitions of Machine/Grants.lean keep what `Keeps` names. -/

set_option linter.unusedTactic false
set_option linter.unreachableTactic false
set_option linter.unusedSimpArgs false
set_option linter.unnecessarySimpa false

namespace Sys2Proof.Machine

theorem State.dmaReturn_keeps {s₀ s : State} (e : Engine) (p : PortReq) (bad : List Nat) (a : Nat) (l : List Byte) (hk : Keeps s₀ s) : Keeps s₀ (s.dmaReturn e p bad a l) := by
  unfold State.dmaReturn
  try dsimp only
  repeat' (first | with_reducible assumption | with_reducible rfl | intro _ | with_reducible apply State.aheadError_keeps | with_reducible apply State.modEng_keeps | with_reducible apply State.ownError_keeps | with_reducible apply Keeps.foldl | with_reducible apply Keeps.foldr | with_reducible apply Keeps.foldl_snd_snd | with_reducible apply Keeps.foldl_snd | simp only [Keeps.lit_iff] | dsimp only [id_eq] | split)

theorem State.dmaServed_keeps {s₀ s : State} (ch : DmaCh) (p : PortReq) (hk : Keeps s₀ s) : Keeps s₀ (s.dmaServed ch p) := by
  unfold State.dmaServed
  try dsimp only
  repeat' (first | with_reducible assumption | with_reducible rfl | intro _ | with_reducible apply State.deskPortWrite_keeps | with_reducible apply State.dmaReturn_keeps | with_reducible apply State.hallPortWrite_keeps | with_reducible apply State.noteRead_keeps | with_reducible apply Keeps.foldl | with_reducible apply Keeps.foldr | with_reducible apply Keeps.foldl_snd_snd | with_reducible apply Keeps.foldl_snd | simp only [Keeps.lit_iff] | dsimp only [id_eq] | split)

theorem State.served_keeps {s₀ s : State} (p : PortReq) (hk : Keeps s₀ s) : Keeps s₀ (s.served p) := by
  unfold State.served
  try dsimp only
  repeat' (first | with_reducible assumption | with_reducible rfl | intro _ | with_reducible apply State.dmaServed_keeps | with_reducible apply State.hostServed_keeps | with_reducible apply Keeps.foldl | with_reducible apply Keeps.foldr | with_reducible apply Keeps.foldl_snd_snd | with_reducible apply Keeps.foldl_snd | simp only [Keeps.lit_iff] | dsimp only [id_eq] | split)

theorem State.deskAccess_keeps {s₀ s : State} (b : Barrel) (u : PortUser) (line : Nat) (acc : LineAccess) (hk : Keeps s₀ s) : Keeps s₀ (s.deskAccess b u line acc) := by
  unfold State.deskAccess
  try dsimp only
  repeat' (first | with_reducible assumption | with_reducible rfl | intro _ | with_reducible apply State.copyMove_keeps | with_reducible apply State.modTurn_keeps | with_reducible apply State.secondPort_keeps | with_reducible apply State.served_keeps | with_reducible apply State.useDesk_keeps | with_reducible apply Keeps.foldl | with_reducible apply Keeps.foldr | with_reducible apply Keeps.foldl_snd_snd | with_reducible apply Keeps.foldl_snd | simp only [Keeps.lit_iff] | dsimp only [id_eq] | split)

theorem State.hallAccess_keeps {s₀ s : State} (u : PortUser) (g : Nat) (acc : LineAccess) (hk : Keeps s₀ s) : Keeps s₀ (s.hallAccess u g acc) := by
  unfold State.hallAccess
  try dsimp only
  repeat' (first | with_reducible assumption | with_reducible rfl | intro _ | with_reducible apply State.copyMove_keeps | with_reducible apply State.hallShared_keeps | with_reducible apply State.modTurn_keeps | with_reducible apply State.served_keeps | with_reducible apply State.useBank_keeps | with_reducible apply Keeps.foldl | with_reducible apply Keeps.foldr | with_reducible apply Keeps.foldl_snd_snd | with_reducible apply Keeps.foldl_snd | simp only [Keeps.lit_iff] | dsimp only [id_eq] | split)

theorem State.scrubPort_keeps {s₀ s : State} (m : MemInst) (addr : Nat) (hk : Keeps s₀ s) : Keeps s₀ (s.scrubPort m addr) := by
  unfold State.scrubPort
  try dsimp only
  repeat' (first | with_reducible assumption | with_reducible rfl | intro _ | with_reducible apply State.useBank_keeps | with_reducible apply State.useDesk_keeps | with_reducible apply Keeps.foldl | with_reducible apply Keeps.foldr | with_reducible apply Keeps.foldl_snd_snd | with_reducible apply Keeps.foldl_snd | simp only [Keeps.lit_iff] | dsimp only [id_eq] | split)

theorem State.portsStep_keeps {s₀ s : State} (hk : Keeps s₀ s) : Keeps s₀ s.portsStep := by
  unfold State.portsStep
  try dsimp only
  repeat' (first | with_reducible assumption | with_reducible rfl | intro _ | with_reducible apply State.copyOwn_keeps | with_reducible apply State.repairEnd_keeps | with_reducible apply State.wipeBank_keeps | with_reducible apply Keeps.foldl | with_reducible apply Keeps.foldr | with_reducible apply Keeps.foldl_snd_snd | with_reducible apply Keeps.foldl_snd | simp only [Keeps.lit_iff] | dsimp only [id_eq] | split)

end Sys2Proof.Machine
end

