-- ==== Sys2Proof/Laws/Keep/Tick.lean ====
section
/-! SUPPORT. The definitions of Machine/Tick.lean keep what `Keeps` names. -/

set_option linter.unusedTactic false
set_option linter.unreachableTactic false
set_option linter.unusedSimpArgs false
set_option linter.unnecessarySimpa false

namespace Sys2Proof.Machine

theorem State.dropCommands_keeps {s₀ s : State} (hk : Keeps s₀ s) : Keeps s₀ s.dropCommands := by
  unfold State.dropCommands
  try dsimp only
  repeat' (first | with_reducible assumption | with_reducible rfl | intro _ | with_reducible apply State.command_keeps | with_reducible apply Keeps.foldl | with_reducible apply Keeps.foldr | with_reducible apply Keeps.foldl_snd_snd | with_reducible apply Keeps.foldl_snd | simp only [Keeps.lit_iff] | dsimp only [id_eq] | split)

theorem State.fetchFault_keeps {s₀ s : State} (b : Barrel) (hk : Keeps s₀ s) : Keeps s₀ (s.fetchFault b) := by
  unfold State.fetchFault
  try dsimp only
  repeat' (first | with_reducible assumption | with_reducible rfl | intro _ | with_reducible apply State.modThr_keeps | with_reducible apply State.raiseAt_keeps | with_reducible apply State.takeOff_keeps | with_reducible apply Keeps.foldl | with_reducible apply Keeps.foldr | with_reducible apply Keeps.foldl_snd_snd | with_reducible apply Keeps.foldl_snd | simp only [Keeps.lit_iff] | dsimp only [id_eq] | split)

theorem State.slotStarts_keeps {s₀ s : State} (hk : Keeps s₀ s) : Keeps s₀ s.slotStarts := by
  unfold State.slotStarts
  try dsimp only
  repeat' (first | with_reducible assumption | with_reducible rfl | intro _ | with_reducible apply State.startSlot_keeps | with_reducible apply Keeps.foldl | with_reducible apply Keeps.foldr | with_reducible apply Keeps.foldl_snd_snd | with_reducible apply Keeps.foldl_snd | simp only [Keeps.lit_iff] | dsimp only [id_eq] | split)

theorem State.slotEnd_keeps {s₀ s : State} (t : Tid) (hk : Keeps s₀ s) : Keeps s₀ (s.slotEnd t) := by
  unfold State.slotEnd
  try dsimp only
  repeat' (first | with_reducible assumption | with_reducible rfl | intro _ | with_reducible apply State.modThr_keeps | with_reducible apply Keeps.foldl | with_reducible apply Keeps.foldr | with_reducible apply Keeps.foldl_snd_snd | with_reducible apply Keeps.foldl_snd | simp only [Keeps.lit_iff] | dsimp only [id_eq] | split)

theorem State.refill_keeps {s₀ s : State} (t : Tid) (hk : Keeps s₀ s) : Keeps s₀ (s.refill t) := by
  unfold State.refill
  try dsimp only
  repeat' (first | with_reducible assumption | with_reducible rfl | intro _ | with_reducible apply State.modThr_keeps | with_reducible apply State.noteRead_keeps | with_reducible apply Keeps.foldl | with_reducible apply Keeps.foldr | with_reducible apply Keeps.foldl_snd_snd | with_reducible apply Keeps.foldl_snd | simp only [Keeps.lit_iff] | dsimp only [id_eq] | split)

theorem State.slotsEnd_keeps {s₀ s : State} (hk : Keeps s₀ s) : Keeps s₀ s.slotsEnd := by
  unfold State.slotsEnd
  try dsimp only
  repeat' (first | with_reducible assumption | with_reducible rfl | intro _ | with_reducible apply State.refill_keeps | with_reducible apply State.slotEnd_keeps | with_reducible apply Keeps.foldl | with_reducible apply Keeps.foldr | with_reducible apply Keeps.foldl_snd_snd | with_reducible apply Keeps.foldl_snd | simp only [Keeps.lit_iff] | dsimp only [id_eq] | split)

theorem State.pendLevels_keeps {s₀ s : State} (hk : Keeps s₀ s) : Keeps s₀ s.pendLevels := by
  unfold State.pendLevels
  try dsimp only
  repeat' (first | with_reducible assumption | with_reducible rfl | intro _ | with_reducible apply State.claim_keeps | with_reducible apply State.pendLevel_keeps | with_reducible apply Keeps.foldl | with_reducible apply Keeps.foldr | with_reducible apply Keeps.foldl_snd_snd | with_reducible apply Keeps.foldl_snd | simp only [Keeps.lit_iff] | dsimp only [id_eq] | split)

theorem State.levelRises_keeps {s₀ s : State} (hk : Keeps s₀ s) : Keeps s₀ s.levelRises := by
  unfold State.levelRises
  try dsimp only
  repeat' (first | with_reducible assumption | with_reducible rfl | intro _ | with_reducible apply State.countSource_keeps | with_reducible apply Keeps.foldl | with_reducible apply Keeps.foldr | with_reducible apply Keeps.foldl_snd_snd | with_reducible apply Keeps.foldl_snd | simp only [Keeps.lit_iff] | dsimp only [id_eq] | split)

theorem State.cycleEnd_keeps {s₀ s : State} (hk : Keeps s₀ s) : Keeps s₀ s.cycleEnd := by
  unfold State.cycleEnd
  try dsimp only
  repeat' (first | with_reducible assumption | with_reducible rfl | intro _ | with_reducible apply State.accessThreads_keeps | with_reducible apply State.exitDecide_keeps | with_reducible apply State.levelRises_keeps | with_reducible apply State.padsRefresh_keeps | with_reducible apply State.pendLevels_keeps | with_reducible apply State.recognise_keeps | with_reducible apply State.stationsStep_keeps | with_reducible apply Keeps.foldl | with_reducible apply Keeps.foldr | with_reducible apply Keeps.foldl_snd_snd | with_reducible apply Keeps.foldl_snd | simp only [Keeps.lit_iff] | dsimp only [id_eq] | split)

theorem State.preReloads_keeps {s₀ s : State} (t : Tid) (hk : Keeps s₀ s) : Keeps s₀ (s.preReloads t) := by
  unfold State.preReloads
  try dsimp only
  repeat' (first | with_reducible assumption | with_reducible rfl | intro _ | with_reducible apply State.landJump_keeps | with_reducible apply State.landReload_keeps | with_reducible apply State.supersede_keeps | with_reducible apply Keeps.foldl | with_reducible apply Keeps.foldr | with_reducible apply Keeps.foldl_snd_snd | with_reducible apply Keeps.foldl_snd | simp only [Keeps.lit_iff] | dsimp only [id_eq] | split)

theorem State.preBell_keeps {s₀ s : State} (t : Tid) (hk : Keeps s₀ s) : Keeps s₀ (s.preBell t) := by
  unfold State.preBell
  try dsimp only
  repeat' (first | with_reducible assumption | with_reducible rfl | intro _ | with_reducible apply State.cancelAll_keeps | with_reducible apply State.modThr_keeps | with_reducible apply State.preReloads_keeps | with_reducible apply Keeps.foldl | with_reducible apply Keeps.foldr | with_reducible apply Keeps.foldl_snd_snd | with_reducible apply Keeps.foldl_snd | simp only [Keeps.lit_iff] | dsimp only [id_eq] | split)

theorem State.lockupStep_keeps {s₀ s : State} (hk : Keeps s₀ s) : Keeps s₀ s.lockupStep := by
  unfold State.lockupStep
  try dsimp only
  repeat' (first | with_reducible assumption | with_reducible rfl | intro _ | with_reducible apply Keeps.foldl | with_reducible apply Keeps.foldr | with_reducible apply Keeps.foldl_snd_snd | with_reducible apply Keeps.foldl_snd | simp only [Keeps.lit_iff] | dsimp only [id_eq] | split)

theorem State.cardStep_keeps {s₀ s : State} (hk : Keeps s₀ s) : Keeps s₀ s.cardStep := by
  unfold State.cardStep
  try dsimp only
  repeat' (first | with_reducible assumption | with_reducible rfl | intro _ | with_reducible apply State.takeCard_keeps | with_reducible apply Keeps.foldl | with_reducible apply Keeps.foldr | with_reducible apply Keeps.foldl_snd_snd | with_reducible apply Keeps.foldl_snd | simp only [Keeps.lit_iff] | dsimp only [id_eq] | split)

theorem State.cycleStart_keeps {s₀ s : State} (hk : Keeps s₀ s) : Keeps s₀ s.cycleStart := by
  unfold State.cycleStart
  try dsimp only
  repeat' (first | with_reducible assumption | with_reducible rfl | intro _ | with_reducible apply State.addTbase_keeps | with_reducible apply State.cardStep_keeps | with_reducible apply State.haltStep_keeps | with_reducible apply State.hoistsStep_keeps | with_reducible apply State.irqDrive_keeps | with_reducible apply State.landAll_keeps | with_reducible apply State.lockupStep_keeps | with_reducible apply State.maintStep_keeps | with_reducible apply State.modCvp_keeps | with_reducible apply State.pruneFlights_keeps | with_reducible apply State.timersAdvance_keeps | with_reducible apply Keeps.foldl | with_reducible apply Keeps.foldr | with_reducible apply Keeps.foldl_snd_snd | with_reducible apply Keeps.foldl_snd | simp only [Keeps.lit_iff] | dsimp only [id_eq] | split)

theorem State.threadsStep_keeps {s₀ s : State} (hk : Keeps s₀ s) : Keeps s₀ s.threadsStep := by
  unfold State.threadsStep
  try dsimp only
  repeat' (first | with_reducible assumption | with_reducible rfl | intro _ | with_reducible apply State.accessAll_keeps | with_reducible apply State.accessThreads_keeps | with_reducible apply State.preBell_keeps | with_reducible apply Keeps.foldl | with_reducible apply Keeps.foldr | with_reducible apply Keeps.foldl_snd_snd | with_reducible apply Keeps.foldl_snd | simp only [Keeps.lit_iff] | dsimp only [id_eq] | split)

theorem State.faultsStep_keeps {s₀ s : State} (hk : Keeps s₀ s) : Keeps s₀ s.faultsStep := by
  unfold State.faultsStep
  try dsimp only
  repeat' (first | with_reducible assumption | with_reducible rfl | intro _ | with_reducible apply State.recogniseFault_keeps | with_reducible apply Keeps.foldl | with_reducible apply Keeps.foldr | with_reducible apply Keeps.foldl_snd_snd | with_reducible apply Keeps.foldl_snd | simp only [Keeps.lit_iff] | dsimp only [id_eq] | split)

end Sys2Proof.Machine
end

