-- ==== Sys2Proof/Laws/PerInstr.lean ====
section
/-! SUPPORT. Statements over all commands, one lemma per constructor. -/

namespace Sys2Proof.Laws.Fits

/-- The operand fields of a well-formed command fit the form of its encoding (R87, R102). -/
def Statement (c : Instr) : Prop := ∀ i, c.issue? = some i → c.wf = true → i.wf = true

theorem coldResetAssert : Statement (.coldResetAssert) := by intro x hx; cases hx
theorem coldResetRelease (st : Straps) : Statement (.coldResetRelease st) := by intro x hx; cases hx
theorem presenceWaitEnd : Statement (.presenceWaitEnd) := by intro x hx; cases hx
theorem warmReset : Statement (.warmReset) := by intro x hx; cases hx
theorem ctlWarm (a : Agent) : Statement (.ctlWarm a) := by intro x hx; cases hx
theorem warmResetEnd : Statement (.warmResetEnd) := by intro x hx; cases hx
theorem hostReset (h : Host) : Statement (.hostReset h) := by intro x hx; cases hx
theorem hostResetRelease (h : Host) : Statement (.hostResetRelease h) := by intro x hx; cases hx
theorem tamper : Statement (.tamper) := by intro x hx; cases hx
theorem secureWipeEnd : Statement (.secureWipeEnd) := by intro x hx; cases hx
theorem presenceWindowOpen : Statement (.presenceWindowOpen) := by intro x hx; cases hx
theorem presenceWindowClose : Statement (.presenceWindowClose) := by intro x hx; cases hx
theorem motionActiveChange (level : Bool) : Statement (.motionActiveChange level) := by intro x hx; cases hx
theorem holdupOkChange (level : Bool) : Statement (.holdupOkChange level) := by intro x hx; cases hx
theorem registerWrite (a : Agent) (off : BitVec 24) (strb : BitVec 4) (v : Word) : Statement (.registerWrite a off strb v) := by intro x hx; cases hx
theorem rcRead (a : Agent) (off : BitVec 24) : Statement (.rcRead a off) := by intro x hx; cases hx
theorem hostMemoryWrite (h : Host) (tag : BitVec 5) (addr : BitVec 24) (beats : List (BitVec 128 × BitVec 16)) : Statement (.hostMemoryWrite h tag addr beats) := by intro x hx; cases hx
theorem hostMemoryRead (h : Host) (tag : BitVec 5) (addr : BitVec 24) (beats : Fin 8) : Statement (.hostMemoryRead h tag addr beats) := by intro x hx; cases hx
theorem hostResponse (h : Host) (tag : BitVec 5) : Statement (.hostResponse h tag) := by intro x hx; cases hx
theorem initiatorReadBeat (k : InitPort) (tag : BitVec 12) (data : BitVec 256) (status : BitVec 2) (last : Bool) : Statement (.initiatorReadBeat k tag data status last) := by intro x hx; cases hx
theorem initiatorWriteCompletion (k : InitPort) (tag : BitVec 12) (status : BitVec 2) : Statement (.initiatorWriteCompletion k tag status) := by intro x hx; cases hx
theorem slotMapApplyRequest (a : Agent) (b : Barrel) (atBell : Bool) (bell : Bell) : Statement (.slotMapApplyRequest a b atBell bell) := by intro x hx; cases hx
theorem slotMapCancel (a : Agent) (b : Barrel) : Statement (.slotMapCancel a b) := by intro x hx; cases hx
theorem slotMapCopy (b : Barrel) : Statement (.slotMapCopy b) := by intro x hx; cases hx
theorem threadEnable (a : Agent) (t : Tid) : Statement (.threadEnable a t) := by intro x hx; cases hx
theorem threadDisable (a : Agent) (t : Tid) : Statement (.threadDisable a t) := by intro x hx; cases hx
theorem threadHalt (a : Agent) (t : Tid) : Statement (.threadHalt a t) := by intro x hx; cases hx
theorem threadHaltRelease (a : Agent) (t : Tid) : Statement (.threadHaltRelease a t) := by intro x hx; cases hx
theorem threadStep (a : Agent) (t : Tid) : Statement (.threadStep a t) := by intro x hx; cases hx
theorem threadReset (a : Agent) (t : Tid) : Statement (.threadReset a t) := by intro x hx; cases hx
theorem threadMaintEnter (a : Agent) (t : Tid) : Statement (.threadMaintEnter a t) := by intro x hx; cases hx
theorem threadMaintLeave (a : Agent) (t : Tid) : Statement (.threadMaintLeave a t) := by intro x hx; cases hx
theorem thrCfgWrite (a : Agent) (t : Tid) (v : Word) : Statement (.thrCfgWrite a t v) := by intro x hx; cases hx
theorem contextWrite (a : Agent) (t : Tid) (r : CtxReg) (v : Word) : Statement (.contextWrite a t r v) := by intro x hx; cases hx
theorem thrCeilWrite (a : Agent) (t : Tid) (v : Word) : Statement (.thrCeilWrite a t v) := by intro x hx; cases hx
theorem budgetOverrun (t : Tid) : Statement (.budgetOverrun t) := by intro x hx; cases hx
theorem hallEntryAccept (b : Barrel) (e : Ecc) : Statement (.hallEntryAccept b e) := by intro x hx; cases hx
theorem hallEntryRetire (b : Barrel) : Statement (.hallEntryRetire b) := by intro x hx; cases hx
theorem mov (i : Issue) (z : Size4) : Statement (.mov i z) := by
  intro x hx hw; cases hx; exact hw
theorem add (i : Issue) (z : Size4) : Statement (.add i z) := by
  intro x hx hw; cases hx; exact hw
theorem sub (i : Issue) (z : Size4) : Statement (.sub i z) := by
  intro x hx hw; cases hx; exact hw
theorem cmp (i : Issue) (z : Size4) : Statement (.cmp i z) := by
  intro x hx hw; cases hx; exact hw
theorem andB (i : Issue) (wide : Bool) : Statement (.andB i wide) := by
  intro x hx hw; cases hx; exact hw
theorem orB (i : Issue) (wide : Bool) : Statement (.orB i wide) := by
  intro x hx hw; cases hx; exact hw
theorem xorB (i : Issue) (wide : Bool) : Statement (.xorB i wide) := by
  intro x hx hw; cases hx; exact hw
theorem notB (i : Issue) (wide : Bool) : Statement (.notB i wide) := by
  intro x hx hw; cases hx; exact hw
theorem shl (i : Issue) (wide : Bool) : Statement (.shl i wide) := by
  intro x hx hw; cases hx; exact hw
theorem shr (i : Issue) (wide : Bool) : Statement (.shr i wide) := by
  intro x hx hw; cases hx; exact hw
theorem asr (i : Issue) (wide : Bool) : Statement (.asr i wide) := by
  intro x hx hw; cases hx; exact hw
theorem rol (i : Issue) (wide : Bool) : Statement (.rol i wide) := by
  intro x hx hw; cases hx; exact hw
theorem sxb (i : Issue) : Statement (.sxb i) := by
  intro x hx hw; cases hx; exact hw
theorem sxh (i : Issue) : Statement (.sxh i) := by
  intro x hx hw; cases hx; exact hw
theorem zxb (i : Issue) : Statement (.zxb i) := by
  intro x hx hw; cases hx; exact hw
theorem zxh (i : Issue) : Statement (.zxh i) := by
  intro x hx hw; cases hx; exact hw
theorem sxwD (i : Issue) : Statement (.sxwD i) := by
  intro x hx hw; cases hx; exact hw
theorem zxwD (i : Issue) : Statement (.zxwD i) := by
  intro x hx hw; cases hx; exact hw
theorem neg (i : Issue) (wide : Bool) : Statement (.neg i wide) := by
  intro x hx hw; cases hx; exact hw
theorem btst (i : Issue) : Statement (.btst i) := by
  intro x hx hw; cases hx; exact hw
theorem bset (i : Issue) : Statement (.bset i) := by
  intro x hx hw; cases hx; exact hw
theorem bclr (i : Issue) : Statement (.bclr i) := by
  intro x hx hw; cases hx; exact hw
theorem bext (i : Issue) : Statement (.bext i) := by
  intro x hx hw; cases hx; exact hw
theorem bins (i : Issue) : Statement (.bins i) := by
  intro x hx hw; cases hx; exact hw
theorem clz (i : Issue) (wide : Bool) : Statement (.clz i wide) := by
  intro x hx hw; cases hx; exact hw
theorem abs (i : Issue) : Statement (.abs i) := by
  intro x hx hw; cases hx; exact hw
theorem qadd (i : Issue) (half : Bool) : Statement (.qadd i half) := by
  intro x hx hw; cases hx; exact hw
theorem qsub (i : Issue) (half : Bool) : Statement (.qsub i half) := by
  intro x hx hw; cases hx; exact hw
theorem qmul (i : Issue) (half : Bool) : Statement (.qmul i half) := by
  intro x hx hw; cases hx; exact hw
theorem qneg (i : Issue) (half : Bool) : Statement (.qneg i half) := by
  intro x hx hw; cases hx; exact hw
theorem qabs (i : Issue) (half : Bool) : Statement (.qabs i half) := by
  intro x hx hw; cases hx; exact hw
theorem qshl (i : Issue) (half : Bool) : Statement (.qshl i half) := by
  intro x hx hw; cases hx; exact hw
theorem cvqH (i : Issue) : Statement (.cvqH i) := by
  intro x hx hw; cases hx; exact hw
theorem cvq (i : Issue) : Statement (.cvq i) := by
  intro x hx hw; cases hx; exact hw
theorem fadd (i : Issue) : Statement (.fadd i) := by
  intro x hx hw; cases hx; exact hw
theorem fsub (i : Issue) : Statement (.fsub i) := by
  intro x hx hw; cases hx; exact hw
theorem fmul (i : Issue) : Statement (.fmul i) := by
  intro x hx hw; cases hx; exact hw
theorem fmin (i : Issue) : Statement (.fmin i) := by
  intro x hx hw; cases hx; exact hw
theorem fmax (i : Issue) : Statement (.fmax i) := by
  intro x hx hw; cases hx; exact hw
theorem fabs (i : Issue) : Statement (.fabs i) := by
  intro x hx hw; cases hx; exact hw
theorem fneg (i : Issue) : Statement (.fneg i) := by
  intro x hx hw; cases hx; exact hw
theorem fcmp (i : Issue) : Statement (.fcmp i) := by
  intro x hx hw; cases hx; exact hw
theorem cvtfi (i : Issue) : Statement (.cvtfi i) := by
  intro x hx hw; cases hx; exact hw
theorem cvtif (i : Issue) : Statement (.cvtif i) := by
  intro x hx hw; cases hx; exact hw
theorem cvtfq (i : Issue) : Statement (.cvtfq i) := by
  intro x hx hw; cases hx; exact hw
theorem cvtqf (i : Issue) : Statement (.cvtqf i) := by
  intro x hx hw; cases hx; exact hw
theorem fma (i : Issue) : Statement (.fma i) := by
  intro x hx hw; cases hx; exact hw
theorem padd (i : Issue) (half : Bool) : Statement (.padd i half) := by
  intro x hx hw; cases hx; exact hw
theorem psub (i : Issue) (half : Bool) : Statement (.psub i half) := by
  intro x hx hw; cases hx; exact hw
theorem pqadd (i : Issue) (half : Bool) : Statement (.pqadd i half) := by
  intro x hx hw; cases hx; exact hw
theorem pqsub (i : Issue) (half : Bool) : Statement (.pqsub i half) := by
  intro x hx hw; cases hx; exact hw
theorem pqmul (i : Issue) (half : Bool) : Statement (.pqmul i half) := by
  intro x hx hw; cases hx; exact hw
theorem pmin (i : Issue) : Statement (.pmin i) := by
  intro x hx hw; cases hx; exact hw
theorem pmax (i : Issue) : Statement (.pmax i) := by
  intro x hx hw; cases hx; exact hw
theorem pswap (i : Issue) : Statement (.pswap i) := by
  intro x hx hw; cases hx; exact hw
theorem mul (i : Issue) : Statement (.mul i) := by
  intro x hx hw; cases hx; exact hw
theorem mulu (i : Issue) : Statement (.mulu i) := by
  intro x hx hw; cases hx; exact hw
theorem mac (i : Issue) : Statement (.mac i) := by
  intro x hx hw; cases hx; exact hw
theorem macu (i : Issue) : Statement (.macu i) := by
  intro x hx hw; cases hx; exact hw
theorem msu (i : Issue) : Statement (.msu i) := by
  intro x hx hw; cases hx; exact hw
theorem qmac (i : Issue) (half : Bool) : Statement (.qmac i half) := by
  intro x hx hw; cases hx; exact hw
theorem pxq (i : Issue) : Statement (.pxq i) := by
  intro x hx hw; cases hx; exact hw
theorem div (i : Issue) : Statement (.div i) := by
  intro x hx hw; cases hx; exact hw
theorem divu (i : Issue) : Statement (.divu i) := by
  intro x hx hw; cases hx; exact hw
theorem fdiv (i : Issue) : Statement (.fdiv i) := by
  intro x hx hw; cases hx; exact hw
theorem fsqrt (i : Issue) : Statement (.fsqrt i) := by
  intro x hx hw; cases hx; exact hw
theorem qsqrt (i : Issue) : Statement (.qsqrt i) := by
  intro x hx hw; cases hx; exact hw
theorem clarke (i : Issue) : Statement (.clarke i) := by
  intro x hx hw; cases hx; exact hw
theorem park (i : Issue) : Statement (.park i) := by
  intro x hx hw; cases hx; exact hw
theorem ipark (i : Issue) : Statement (.ipark i) := by
  intro x hx hw; cases hx; exact hw
theorem piu (i : Issue) : Statement (.piu i) := by
  intro x hx hw; cases hx; exact hw
theorem svm (i : Issue) : Statement (.svm i) := by
  intro x hx hw; cases hx; exact hw
theorem lim (i : Issue) : Statement (.lim i) := by
  intro x hx hw; cases hx; exact hw
theorem sincos (i : Issue) : Statement (.sincos i) := by
  intro x hx hw; cases hx; exact hw
theorem atan2 (i : Issue) : Statement (.atan2 i) := by
  intro x hx hw; cases hx; exact hw
theorem b (j : Jump) : Statement (.b j) := by intro x hx; cases hx
theorem conditionalBranch (j : Jump) (c : Cond) : Statement (.conditionalBranch j c) := by intro x hx; cases hx
theorem call (j : Jump) : Statement (.call j) := by intro x hx; cases hx
theorem ret (i : Issue) : Statement (.ret i) := by
  intro x hx hw; cases hx; exact hw
theorem rep (i : Issue) : Statement (.rep i) := by
  intro x hx hw; cases hx; exact hw
theorem repi (i : Issue) : Statement (.repi i) := by
  intro x hx hw; cases hx; exact hw
theorem wait (i : Issue) : Statement (.wait i) := by
  intro x hx hw; cases hx; exact hw
theorem doneH (i : Issue) : Statement (.doneH i) := by
  intro x hx hw; cases hx; exact hw
theorem rte (i : Issue) : Statement (.rte i) := by
  intro x hx hw; cases hx; exact hw
theorem hnd (i : Issue) : Statement (.hnd i) := by
  intro x hx hw; cases hx; exact hw
theorem setlvl (i : Issue) : Statement (.setlvl i) := by
  intro x hx hw; cases hx; exact hw
theorem setmask (i : Issue) : Statement (.setmask i) := by
  intro x hx hw; cases hx; exact hw
theorem ifence (i : Issue) : Statement (.ifence i) := by
  intro x hx hw; cases hx; exact hw
theorem nop (i : Issue) : Statement (.nop i) := by
  intro x hx hw; cases hx; exact hw
theorem tas (i : Issue) : Statement (.tas i) := by
  intro x hx hw; cases hx; exact hw
theorem fpset (i : Issue) : Statement (.fpset i) := by
  intro x hx hw; cases hx; exact hw
theorem spset (i : Issue) : Statement (.spset i) := by
  intro x hx hw; cases hx; exact hw
theorem evclr (i : Issue) : Statement (.evclr i) := by
  intro x hx hw; cases hx; exact hw
theorem evsig (i : Issue) : Statement (.evsig i) := by
  intro x hx hw; cases hx; exact hw
theorem inp (i : Issue) (hi : Bool) : Statement (.inp i hi) := by
  intro x hx hw; cases hx; exact hw
theorem out (i : Issue) (hi : Bool) : Statement (.out i hi) := by
  intro x hx hw; cases hx; exact hw
theorem pinrd (i : Issue) : Statement (.pinrd i) := by
  intro x hx hw; cases hx; exact hw
theorem pinwr (i : Issue) : Statement (.pinwr i) := by
  intro x hx hw; cases hx; exact hw
theorem pinwrs (i : Issue) : Statement (.pinwrs i) := by
  intro x hx hw; cases hx; exact hw
theorem edgeq (i : Issue) : Statement (.edgeq i) := by
  intro x hx hw; cases hx; exact hw
theorem edger (i : Issue) : Statement (.edger i) := by
  intro x hx hw; cases hx; exact hw
theorem tcmp (i : Issue) : Statement (.tcmp i) := by
  intro x hx hw; cases hx; exact hw
theorem tcap (i : Issue) : Statement (.tcap i) := by
  intro x hx hw; cases hx; exact hw
theorem qput (i : Issue) : Statement (.qput i) := by
  intro x hx hw; cases hx; exact hw
theorem qputs (i : Issue) : Statement (.qputs i) := by
  intro x hx hw; cases hx; exact hw
theorem qget (i : Issue) : Statement (.qget i) := by
  intro x hx hw; cases hx; exact hw
theorem bstat (i : Issue) : Statement (.bstat i) := by
  intro x hx hw; cases hx; exact hw
theorem hld (i : Issue) (z : Size4) : Statement (.hld i z) := by
  intro x hx hw; cases hx; exact hw
theorem hst (i : Issue) (z : Size4) : Statement (.hst i z) := by
  intro x hx hw; cases hx; exact hw
theorem hlr (i : Issue) : Statement (.hlr i) := by
  intro x hx hw; cases hx; exact hw
theorem hsc (i : Issue) : Statement (.hsc i) := by
  intro x hx hw; cases hx; exact hw
theorem hcas (i : Issue) : Statement (.hcas i) := by
  intro x hx hw; cases hx; exact hw
theorem hpass (i : Issue) : Statement (.hpass i) := by
  intro x hx hw; cases hx; exact hw
theorem hfree (i : Issue) : Statement (.hfree i) := by
  intro x hx hw; cases hx; exact hw
theorem hwatch (i : Issue) : Statement (.hwatch i) := by
  intro x hx hw; cases hx; exact hw
theorem hwait (i : Issue) : Statement (.hwait i) := by
  intro x hx hw; cases hx; exact hw
theorem ild (i : Issue) : Statement (.ild i) := by
  intro x hx hw; cases hx; simp only [Instr.wf, Bool.and_eq_true] at hw; exact hw.1
theorem ist (i : Issue) : Statement (.ist i) := by
  intro x hx hw; cases hx; simp only [Instr.wf, Bool.and_eq_true] at hw; exact hw.1
theorem evtSwsetWrite (a : Agent) (v : Word) : Statement (.evtSwsetWrite a v) := by intro x hx; cases hx
theorem evtMapWrite (a : Agent) (t : Tid) (i : Fin 32) (v : Word) : Statement (.evtMapWrite a t i v) := by intro x hx; cases hx
theorem eventEntry (t : Tid) : Statement (.eventEntry t) := by intro x hx; cases hx
theorem faultEntry (t : Tid) : Statement (.faultEntry t) := by intro x hx; cases hx
theorem bellStart (a : Agent) (b : Bell) : Statement (.bellStart a b) := by intro x hx; cases hx
theorem bellStop (a : Agent) (b : Bell) : Statement (.bellStop a b) := by intro x hx; cases hx
theorem bellScheduleApply (a : Agent) (b : Bell) (en : Bool) : Statement (.bellScheduleApply a b en) := by intro x hx; cases hx
theorem bellFire (b : Bell) : Statement (.bellFire b) := by intro x hx; cases hx
theorem pinOwnerWrite (a : Agent) (c : Chan) (v : Word) : Statement (.pinOwnerWrite a c v) := by intro x hx; cases hx
theorem pinFcfgWrite (a : Agent) (c : Chan) (set : Bool) (v : Word) : Statement (.pinFcfgWrite a c set v) := by intro x hx; cases hx
theorem pinSwitchGo (a : Agent) (c : Chan) (staged : Bool) (set : Bool) (cls : Bell) : Statement (.pinSwitchGo a c staged set cls) := by intro x hx; cases hx
theorem pinSwitchCancel (a : Agent) (c : Chan) : Statement (.pinSwitchCancel a c) := by intro x hx; cases hx
theorem pinPadWrite (a : Agent) (c : Chan) (v : Word) : Statement (.pinPadWrite a c v) := by intro x hx; cases hx
theorem pinSet (a : Agent) (p : PinPort) (v : Word) : Statement (.pinSet a p v) := by intro x hx; cases hx
theorem pinClr (a : Agent) (p : PinPort) (v : Word) : Statement (.pinClr a p v) := by intro x hx; cases hx
theorem pinTgl (a : Agent) (p : PinPort) (v : Word) : Statement (.pinTgl a p v) := by intro x hx; cases hx
theorem pinLock (a : Agent) (key : BitVec 16) (p : PinPort) : Statement (.pinLock a key p) := by intro x hx; cases hx
theorem pinLockTimeout : Statement (.pinLockTimeout) := by intro x hx; cases hx
theorem pinEqpush (a : Agent) (c : Chan) (lvl : Byte) : Statement (.pinEqpush a c lvl) := by intro x hx; cases hx
theorem flush (a : Agent) (c : Chan) : Statement (.flush a c) := by intro x hx; cases hx
theorem edgeEntryFire (c : Chan) : Statement (.edgeEntryFire c) := by intro x hx; cases hx
theorem pinShdWrite (a : Agent) (c : Chan) (v : Byte) : Statement (.pinShdWrite a c v) := by intro x hx; cases hx
theorem shifterBoundary (c : Chan) : Statement (.shifterBoundary c) := by intro x hx; cases hx
theorem padInputTransition (c : Chan) (level : Bool) (fine : BitVec 5) : Statement (.padInputTransition c level fine) := by intro x hx; cases hx
theorem pinLineWrite (a : Agent) (k : LineNo) (v : Word) : Statement (.pinLineWrite a k v) := by intro x hx; cases hx
theorem calibrationPassEnd (g : CalGroup) : Statement (.calibrationPassEnd g) := by intro x hx; cases hx
theorem calibrationStale (g : CalGroup) : Statement (.calibrationStale g) := by intro x hx; cases hx
theorem sincSample (n : SincNo) : Statement (.sincSample n) := by intro x hx; cases hx
theorem sincDecimation (n : SincNo) : Statement (.sincDecimation n) := by intro x hx; cases hx
theorem sncCfgWrite (a : Agent) (n : SincNo) (v : Word) : Statement (.sncCfgWrite a n v) := by intro x hx; cases hx
theorem timerTop (n : TimerNo) : Statement (.timerTop n) := by intro x hx; cases hx
theorem timerValley (n : TimerNo) : Statement (.timerValley n) := by intro x hx; cases hx
theorem compareMatch (u : UnitNo) : Statement (.compareMatch u) := by intro x hx; cases hx
theorem timerReloadWrite (a : Agent) (n : TimerNo) (v : Word) : Statement (.timerReloadWrite a n v) := by intro x hx; cases hx
theorem compareWrite (a : Agent) (u : UnitNo) (v : Word) : Statement (.compareWrite a u v) := by intro x hx; cases hx
theorem timerHold (a : Agent) (n : TimerNo) : Statement (.timerHold a n) := by intro x hx; cases hx
theorem timerResume (a : Agent) (n : TimerNo) : Statement (.timerResume a n) := by intro x hx; cases hx
theorem ccCtlWrite (a : Agent) (u : UnitNo) (v : Word) : Statement (.ccCtlWrite a u v) := by intro x hx; cases hx
theorem timCapwRead (a : Agent) (u : UnitNo) : Statement (.timCapwRead a u) := by intro x hx; cases hx
theorem timTbaseLoRead (a : Agent) : Statement (.timTbaseLoRead a) := by intro x hx; cases hx
theorem globalStartArm (a : Agent) (src : BitVec 2) (bell : Bell) : Statement (.globalStartArm a src bell) := by intro x hx; cases hx
theorem globalStartCancel (a : Agent) : Statement (.globalStartCancel a) := by intro x hx; cases hx
theorem timerStart (h : Host) : Statement (.timerStart h) := by intro x hx; cases hx
theorem converterSample (n : Cvp) (data : BitVec 18) (tag : BitVec 6) : Statement (.converterSample n data tag) := by intro x hx; cases hx
theorem mailboxWrite (n : Cvp) : Statement (.mailboxWrite n) := by intro x hx; cases hx
theorem cvpSwtrig (a : Agent) (n : Cvp) : Statement (.cvpSwtrig a n) := by intro x hx; cases hx
theorem tripActive (i : TripNo) : Statement (.tripActive i) := by intro x hx; cases hx
theorem tripInactive (i : TripNo) : Statement (.tripInactive i) := by intro x hx; cases hx
theorem blankingWindowEnd (st : Station) : Statement (.blankingWindowEnd st) := by intro x hx; cases hx
theorem latchedClear (a : Agent) (st : Station) : Statement (.latchedClear a st) := by intro x hx; cases hx
theorem trpStnCtlWrite (a : Agent) (st : Station) (v : Word) : Statement (.trpStnCtlWrite a st v) := by intro x hx; cases hx
theorem secondPortAccess (b : Barrel) (u : PortUser) (line : BitVec 13) (acc : LineAccess) : Statement (.secondPortAccess b u line acc) := by intro x hx; cases hx
theorem hallSharedAccess (u : PortUser) (granule : BitVec 19) (acc : LineAccess) : Statement (.hallSharedAccess u granule acc) := by intro x hx; cases hx
theorem regionTestStart (m : MemInst) : Statement (.regionTestStart m) := by intro x hx; cases hx
theorem memTctlNow (a : Agent) (m : MemInst) : Statement (.memTctlNow a m) := by intro x hx; cases hx
theorem regionCopyComplete (m : MemInst) : Statement (.regionCopyComplete m) := by intro x hx; cases hx
theorem marchTestComplete (m : MemInst) (failing : BitVec 64) : Statement (.marchTestComplete m failing) := by intro x hx; cases hx
theorem regionTestComplete (m : MemInst) : Statement (.regionTestComplete m) := by intro x hx; cases hx
theorem scrubAccess (m : MemInst) (addr : Nat) (e : Ecc) : Statement (.scrubAccess m addr e) := by intro x hx; cases hx
theorem logclr (a : Agent) : Statement (.logclr a) := by intro x hx; cases hx
theorem mramScrub (e : MramFinding) : Statement (.mramScrub e) := by intro x hx; cases hx
theorem codeCopyComplete (e : Ecc) : Statement (.codeCopyComplete e) := by intro x hx; cases hx
theorem dmaGo (a : Agent) (ch : DmaCh) : Statement (.dmaGo a ch) := by intro x hx; cases hx
theorem dmaAbort (a : Agent) (ch : DmaCh) : Statement (.dmaAbort a ch) := by intro x hx; cases hx
theorem dmaAbortComplete (ch : DmaCh) : Statement (.dmaAbortComplete ch) := by intro x hx; cases hx
theorem dmaResume (a : Agent) (ch : DmaCh) : Statement (.dmaResume a ch) := by intro x hx; cases hx
theorem kick (a : Agent) (ch : DmaCh) : Statement (.kick a ch) := by intro x hx; cases hx
theorem dmaEngineClear (a : Agent) (e : Engine) : Statement (.dmaEngineClear a e) := by intro x hx; cases hx
theorem dmaChannelServe (e : Engine) : Statement (.dmaChannelServe e) := by intro x hx; cases hx
theorem dmaDescriptorFetch (e : Engine) : Statement (.dmaDescriptorFetch e) := by intro x hx; cases hx
theorem dmaBurst (e : Engine) : Statement (.dmaBurst e) := by intro x hx; cases hx
theorem dmaDescriptorComplete (e : Engine) : Statement (.dmaDescriptorComplete e) := by intro x hx; cases hx
theorem linkRecheck (e : Engine) : Statement (.linkRecheck e) := by intro x hx; cases hx
theorem linkRecheckDecision (e : Engine) : Statement (.linkRecheckDecision e) := by intro x hx; cases hx
theorem dmaBusError (e : Engine) (err : BusErr) : Statement (.dmaBusError e err) := by intro x hx; cases hx
theorem dmaEngineStopped (e : Engine) : Statement (.dmaEngineStopped e) := by intro x hx; cases hx
theorem load (a : Agent) (r : Ring) : Statement (.load a r) := by intro x hx; cases hx
theorem unload (a : Agent) (r : Ring) : Statement (.unload a r) := by intro x hx; cases hx
theorem drain (a : Agent) (r : Ring) : Statement (.drain a r) := by intro x hx; cases hx
theorem drainTakeover (a : Agent) (r : Ring) : Statement (.drainTakeover a r) := by intro x hx; cases hx
theorem producerDoorbell (a : Agent) (r : Ring) (v : Word) : Statement (.producerDoorbell a r v) := by intro x hx; cases hx
theorem consumerDoorbell (a : Agent) (r : Ring) (v : Word) : Statement (.consumerDoorbell a r v) := by intro x hx; cases hx
theorem qmItemStart : Statement (.qmItemStart) := by intro x hx; cases hx
theorem qmItemComplete (e : Ecc) : Statement (.qmItemComplete e) := by intro x hx; cases hx
theorem assignmentWrite (a : Agent) (kind : Fin 17) (word : Fin 1024) (v : Word) : Statement (.assignmentWrite a kind word v) := by intro x hx; cases hx
theorem irqTgtWrite (a : Agent) (src : BitVec 11) (v : Word) : Statement (.irqTgtWrite a src v) := by intro x hx; cases hx
theorem irqLctlWrite (a : Agent) (l : IrqLine) (v : Word) : Statement (.irqLctlWrite a l v) := by intro x hx; cases hx
theorem irqEventCount (l : IrqLine) : Statement (.irqEventCount l) := by intro x hx; cases hx
theorem irqCoalesceTimeout (l : IrqLine) : Statement (.irqCoalesceTimeout l) := by intro x hx; cases hx
theorem ack (a : Agent) (l : IrqLine) : Statement (.ack a l) := by intro x hx; cases hx
theorem acquire (a : Agent) : Statement (.acquire a) := by intro x hx; cases hx
theorem free (a : Agent) : Statement (.free a) := by intro x hx; cases hx
theorem cas (a : Agent) : Statement (.cas a) := by intro x hx; cases hx
theorem watch (a : Agent) : Statement (.watch a) := by intro x hx; cases hx
theorem unwatch (a : Agent) : Statement (.unwatch a) := by intro x hx; cases hx
theorem hostLockInvalidOp (a : Agent) (op : BitVec 3) : Statement (.hostLockInvalidOp a op) := by intro x hx; cases hx
theorem lockUnitAccess : Statement (.lockUnitAccess) := by intro x hx; cases hx
theorem hpsForce (a : Agent) (addr : BitVec 23) : Statement (.hpsForce a addr) := by intro x hx; cases hx
theorem leaseDeadline (e : Fin 1024) : Statement (.leaseDeadline e) := by intro x hx; cases hx
theorem abandonmentWrite : Statement (.abandonmentWrite) := by intro x hx; cases hx
theorem linkTrain (down : Bool) : Statement (.linkTrain down) := by intro x hx; cases hx
theorem linkUp (down : Bool) : Statement (.linkUp down) := by intro x hx; cases hx
theorem linkDown (down : Bool) (errs : BitVec 8) : Statement (.linkDown down errs) := by intro x hx; cases hx
theorem frameSend (down : Bool) (stamp : DWord) : Statement (.frameSend down stamp) := by intro x hx; cases hx
theorem frameForward (fromDown : Bool) (f : Frame) (crcOk : Bool) : Statement (.frameForward fromDown f crcOk) := by intro x hx; cases hx
theorem beacon (f : Frame) (stamp : DWord) : Statement (.beacon f stamp) := by intro x hx; cases hx
theorem beaconSend : Statement (.beaconSend) := by intro x hx; cases hx
theorem beaconLoss : Statement (.beaconLoss) := by intro x hx; cases hx
theorem tbaseSlew (forward : Bool) : Statement (.tbaseSlew forward) := by intro x hx; cases hx
theorem delayMeasurement : Statement (.delayMeasurement) := by intro x hx; cases hx
theorem dlyreq (f : Frame) (stamp : DWord) : Statement (.dlyreq f stamp) := by intro x hx; cases hx
theorem dlyrsp (f : Frame) (stamp : DWord) : Statement (.dlyrsp f stamp) := by intro x hx; cases hx
theorem rollcall (f : Frame) : Statement (.rollcall f) := by intro x hx; cases hx
theorem rollend (f : Frame) : Statement (.rollend f) := by intro x hx; cases hx
theorem image (f : Frame) : Statement (.image f) := by intro x hx; cases hx
theorem order (f : Frame) : Statement (.order f) := by intro x hx; cases hx
theorem query (f : Frame) : Statement (.query f) := by intro x hx; cases hx
theorem statusReply : Statement (.statusReply) := by intro x hx; cases hx
theorem tunnel (f : Frame) : Statement (.tunnel f) := by intro x hx; cases hx
theorem loopF (f : Frame) : Statement (.loopF f) := by intro x hx; cases hx
theorem hlyCmdRollcall (a : Agent) : Statement (.hlyCmdRollcall a) := by intro x hx; cases hx
theorem reacq (a : Agent) : Statement (.reacq a) := by intro x hx; cases hx
theorem hlyCmdDelay (a : Agent) : Statement (.hlyCmdDelay a) := by intro x hx; cases hx
theorem txmsg (a : Agent) : Statement (.txmsg a) := by intro x hx; cases hx
theorem pop (a : Agent) : Statement (.pop a) := by intro x hx; cases hx
theorem hlyCtlWrite (a : Agent) (v : Word) : Statement (.hlyCtlWrite a v) := by intro x hx; cases hx
theorem updBegin (a : Agent) (chain : Bool) : Statement (.updBegin a chain) := by intro x hx; cases hx
theorem imageWindowWrite (a : Agent) (off : BitVec 12) (data : List Byte) : Statement (.imageWindowWrite a off data) := by intro x hx; cases hx
theorem verify (a : Agent) (chain : Bool) : Statement (.verify a chain) := by intro x hx; cases hx
theorem verificationEnd (e : Ecc) : Statement (.verificationEnd e) := by intro x hx; cases hx
theorem send (a : Agent) : Statement (.send a) := by intro x hx; cases hx
theorem activate (a : Agent) (chain : Bool) : Statement (.activate a chain) := by intro x hx; cases hx
theorem confirm (a : Agent) (chain : Bool) : Statement (.confirm a chain) := by intro x hx; cases hx
theorem fallback (a : Agent) (chain : Bool) : Statement (.fallback a chain) := by intro x hx; cases hx
theorem confirmationTimeout : Statement (.confirmationTimeout) := by intro x hx; cases hx
theorem movementHoldEnd (c : Bell) : Statement (.movementHoldEnd c) := by intro x hx; cases hx
theorem cancel (a : Agent) (chain : Bool) : Statement (.cancel a chain) := by intro x hx; cases hx
theorem setbegin (a : Agent) : Statement (.setbegin a) := by intro x hx; cases hx
theorem settingsWindowWrite (a : Agent) (off : BitVec 15) (data : List Byte) : Statement (.settingsWindowWrite a off data) := by intro x hx; cases hx
theorem setcommit (a : Agent) : Statement (.setcommit a) := by intro x hx; cases hx
theorem recovboot (a : Agent) : Statement (.recovboot a) := by intro x hx; cases hx
theorem lifecycleToOpen (a : Agent) : Statement (.lifecycleToOpen a) := by intro x hx; cases hx
theorem lifecycleToOwned (a : Agent) : Statement (.lifecycleToOwned a) := by intro x hx; cases hx
theorem lifecycleToReturned (a : Agent) : Statement (.lifecycleToReturned a) := by intro x hx; cases hx
theorem lifecycleToScrapped (a : Agent) : Statement (.lifecycleToScrapped a) := by intro x hx; cases hx
theorem ownerLockSet (a : Agent) : Statement (.ownerLockSet a) := by intro x hx; cases hx
theorem ownerLockClear (a : Agent) : Statement (.ownerLockClear a) := by intro x hx; cases hx
theorem wipeCommand (a : Agent) : Statement (.wipeCommand a) := by intro x hx; cases hx
theorem recover (a : Agent) : Statement (.recover a) := by intro x hx; cases hx
theorem regionTestNow (a : Agent) : Statement (.regionTestNow a) := by intro x hx; cases hx
theorem instancePass (a : Agent) : Statement (.instancePass a) := by intro x hx; cases hx
theorem scrubPass (a : Agent) : Statement (.scrubPass a) := by intro x hx; cases hx
theorem mramReadPass (a : Agent) : Statement (.mramReadPass a) := by intro x hx; cases hx
theorem imageVerification (a : Agent) : Statement (.imageVerification a) := by intro x hx; cases hx
theorem calibrationGroup (a : Agent) : Statement (.calibrationGroup a) := by intro x hx; cases hx
theorem pinLoopBack (a : Agent) : Statement (.pinLoopBack a) := by intro x hx; cases hx
theorem converterLoopBack (a : Agent) : Statement (.converterLoopBack a) := by intro x hx; cases hx
theorem halyardPcsLoop (a : Agent) : Statement (.halyardPcsLoop a) := by intro x hx; cases hx
theorem halyardLineLoop (a : Agent) : Statement (.halyardLineLoop a) := by intro x hx; cases hx
theorem halyardFarEndLoop (a : Agent) : Statement (.halyardFarEndLoop a) := by intro x hx; cases hx
theorem farEndTimeout : Statement (.farEndTimeout) := by intro x hx; cases hx
theorem initiatorEcho (a : Agent) : Statement (.initiatorEcho a) := by intro x hx; cases hx
theorem drillModeStart (a : Agent) (key : BitVec 16) : Statement (.drillModeStart a key) := by intro x hx; cases hx
theorem drillEnd (pass : Bool) (data : Word) : Statement (.drillEnd pass data) := by intro x hx; cases hx
theorem snap (a : Agent) : Statement (.snap a) := by intro x hx; cases hx
theorem rootClockFault : Statement (.rootClockFault) := by intro x hx; cases hx
theorem presenceNChange (level : Bool) : Statement (.presenceNChange level) := by intro x hx; cases hx
theorem badFrame (reason : BadFrame) : Statement (.badFrame reason) := by intro x hx; cases hx
theorem malformedRequest (h : Host) (tag : BitVec 5) (write : Bool) (addr : BitVec 24) (beats : Fin 8) (lastOk : Bool) : Statement (.malformedRequest h tag write addr beats lastOk) := by intro x hx; cases hx
theorem reservedOperation (i : Issue) (n : BitVec 8) : Statement (.reservedOperation i n) := by
  intro x hx hw; cases hx; simp only [Instr.wf, Bool.and_eq_true] at hw; exact hw.1

end Sys2Proof.Laws.Fits
end

