-- ==== Sys2Proof/Tests/Slice0.lean ====
section
/-! SUPPORT. Small tests of the model, each about one step on a small state, and for every statement with hypotheses a state and
operands that meet them. -/

namespace Sys2Proof.Tests

open Sys2Proof Sys2Proof.Machine

/-! ### Well-formed commands: each check refuses a term that breaks it -/

/-- Operand fields of the short form carry no mode (R87). -/
theorem test_wf_short_mode : (Instr.add { thread := 0, long := false, a := { mode := 1, spec := 3 } } .w).wf = false := by decide
/-- A short field has eight bits (R87). -/
theorem test_wf_short_spec : (Instr.mul { thread := 0, long := false, b := { spec := 256 } }).wf = false := by decide
/-- The last short field is well formed. -/
theorem test_wf_short_ok : (Instr.mul { thread := 0, long := false, a := { spec := 3 }, b := { spec := 255 } }).wf = true := by decide
/-- Operations 0xC0 and 0xC1 exist only in the long form (R89). -/
theorem test_wf_long_only : (Instr.ild { thread := 0, long := false }).wf = false ∧ (Instr.ist { thread := 0, long := false }).wf = false ∧
    (Instr.ist { thread := 0 }).wf = true := by decide
/-- RESERVED_OPERATION carries a number that Table ISA-10 reserves (R113). -/
theorem test_wf_reserved : (Instr.reservedOperation { thread := 0 } 0x06).wf = false ∧ (Instr.reservedOperation { thread := 0 } 0x78).wf = true ∧
    (Instr.reservedOperation { thread := 0 } 0xC1).wf = false ∧ (Instr.reservedOperation { thread := 0 } 0xC2).wf = true := by decide
/-- A write request has one to eight beats (R354). -/
theorem test_wf_beats : (Instr.hostMemoryWrite 0 0 0 []).wf = false ∧ (Instr.hostMemoryWrite 0 0 0 (List.replicate 9 (0, 0))).wf = false ∧
    (Instr.hostMemoryWrite 0 0 0 (List.replicate 8 (0, 0))).wf = true := by decide
/-- A BEACON with a header for 16 bytes. -/
def beaconFrame (payload : List Byte) (len : BitVec 7) : Frame :=
  { typ := 1, bc := true, upw := false, dst := 0, src := 0, hops := 0, len := len, seq := 0, payload := payload }
/-- A frame's payload has the length of its header, at most 65 words (Table HLY-1). -/
theorem test_wf_frame : (Instr.beacon (beaconFrame (List.replicate 16 0) 4) 0).wf = true ∧ (Instr.beacon (beaconFrame [0] 4) 0).wf = false ∧
    (Instr.frameForward true (beaconFrame (List.replicate 264 0) 66) true).wf = false := by
  simp only [Instr.wf, Frame.wf, beaconFrame, List.length_replicate]; decide
/-- A write of the image window stays within 4 KiB and is not empty (R393). -/
theorem test_wf_image_window : (Instr.imageWindowWrite (.host 0 0) 0 []).wf = false ∧
    (Instr.imageWindowWrite (.host 0 0) 4095 [0, 0]).wf = false ∧ (Instr.imageWindowWrite (.host 0 0) 4094 [0, 0]).wf = true := by decide
/-- A write of the settings window stays within 32 KiB and is not empty (R406). -/
theorem test_wf_settings_window : (Instr.settingsWindowWrite (.host 0 0) 0 []).wf = false ∧
    (Instr.settingsWindowWrite (.host 0 0) 32767 [0, 0]).wf = false ∧ (Instr.settingsWindowWrite (.host 0 0) 32766 [0, 0]).wf = true := by decide
/-- A scrub address lies in its instance (Table MEM-1). -/
theorem test_wf_scrub : (Instr.scrubAccess 0 131072 .ok).wf = false ∧ (Instr.scrubAccess 12 8388607 .ok).wf = true := by decide
/-- DMA_BERRI has phases 0 to 5 and kinds 0 to 5 (Table DMA-10). -/
theorem test_wf_bus_error : (Instr.dmaBusError 0 { addr := 0, phase := 6, kind := 0, port := false, tag := 0, chv := false }).wf = false ∧
    (Instr.dmaBusError 0 { addr := 0, phase := 0, kind := 6, port := false, tag := 0, chv := false }).wf = false ∧
    (Instr.dmaBusError 0 { addr := 0, phase := 5, kind := 5, port := false, tag := 0, chv := false }).wf = true := by decide
/-- Operations 1 to 5 of HPS_HCMD are valid (Table HST-14). -/
theorem test_wf_lock_op : (Instr.hostLockInvalidOp (.host 0 0) 1).wf = false ∧ (Instr.hostLockInvalidOp (.host 0 0) 6).wf = true := by decide

/-! ### Instruction words, written out from Tables ISA-1, ISA-2 and ISA-10 -/

/-- ADD f:0, f:4, f:8 in the short form: OP 0x06, FA 0, FB 1, FC 2. -/
theorem test_decode_add_short : decodeInsn 5 0b00000110_00000000_00000001_00000010 0 =
    .add { thread := 5, long := false, a := { spec := 0 }, b := { spec := 1 }, c := { spec := 2 } } .w := by decide
/-- QADD in the long form: LOP 0x331, MA 1, MB 1, MC 2, SA 0x80, SB 6, SC 0x0800. -/
theorem test_decode_qadd_long : decodeInsn 0 0b11_00110001_0001_0001_0010_0000001000 0b0000_00000000000110_00100000000000 =
    .qadd { thread := 0, a := { mode := 1, spec := 0x80 }, b := { mode := 1, spec := 6 }, c := { mode := 2, spec := 0x800 } } false := by decide
/-- FMUL short: 0x42. -/
theorem test_decode_fmul : decodeInsn 0 0b01000010_00000001_00000010_00000011 0 =
    .fmul { thread := 0, long := false, a := { spec := 1 }, b := { spec := 2 }, c := { spec := 3 } } := by decide
/-- PADD.H short: 0x50. -/
theorem test_decode_padd : decodeInsn 0 0b01010000_00000001_00000010_00000011 0 =
    .padd { thread := 0, long := false, a := { spec := 1 }, b := { spec := 2 }, c := { spec := 3 } } true := by decide
/-- MUL short: 0x60. -/
theorem test_decode_mul : decodeInsn 0 0b01100000_00000001_00000010_00000011 0 =
    .mul { thread := 0, long := false, a := { spec := 1 }, b := { spec := 2 }, c := { spec := 3 } } := by decide
/-- CLARKE short: 0x70. -/
theorem test_decode_clarke : decodeInsn 0 0b01110000_00000001_00000010_00000000 0 =
    .clarke { thread := 0, long := false, a := { spec := 1 }, b := { spec := 2 } } := by decide
/-- BNE short with a displacement of −2 words: 0x82 and 24 bits. -/
theorem test_decode_bne : decodeInsn 0 0b10000010_111111111111111111111110 0 = .conditionalBranch { thread := 0, tgt := .short 0xFFFFFE } .ne := by
  simp [decodeInsn, longForm, decodeShort, opOf, branchConds]
/-- CALL in the long form carries its target in operand A: LOP 0x38F, MA 2, SA 0x123. -/
theorem test_decode_call : decodeInsn 0 0b11_10001111_0010_0000_0000_0000010010 0b0011_00000000000000_00000000000000 =
    .call { thread := 0, tgt := .long { mode := 2, spec := 0x123 } } := by decide
/-- DONE short: 0x94. -/
theorem test_decode_done : decodeInsn 0 0b10010100_00000011_00000000_00000000 0 = .doneH { thread := 0, long := false, a := { spec := 3 } } := by decide
/-- PINWR short: 0xA5. -/
theorem test_decode_pinwr : decodeInsn 0 0b10100101_00000001_00000010_00000011 0 =
    .pinwr { thread := 0, long := false, a := { spec := 1 }, b := { spec := 2 }, c := { spec := 3 } } := by decide
/-- HCAS short: 0xBA. -/
theorem test_decode_hcas : decodeInsn 0 0b10111010_00000001_00000010_00000011 0 =
    .hcas { thread := 0, long := false, a := { spec := 1 }, b := { spec := 2 }, c := { spec := 3 } } := by decide
/-- IST exists in the long form alone: LOP 0x3C1. -/
theorem test_decode_ist : decodeInsn 0 0b11_11000001_0001_0001_0000_0000000000 0b0001_00000000000010_00000000000000 =
    .ist { thread := 0, a := { mode := 1, spec := 1 }, b := { mode := 1, spec := 2 } } := by decide
/-- 0x3E is reserved (R113), and no row of the opcode table has bits. -/
theorem test_decode_reserved : decodeInsn 0 0b00111110_00000000_00000000_00000000 0 = .reservedOperation { thread := 0, long := false } 0x3E ∧
    decodeTableWord 32 0 = none := by decide

/-! ### States and operands -/

/-- What a next state satisfies; false after a fault or a refusal. -/
def ran (o : Host.Outcome State Fault Refusal) (p : State → Bool) : Bool := match o with | .next t => p t | _ => false

/-- Thread 0 in RUN, which owns every slot of barrel 0, outside any class. -/
def runner (x : Thread) : State :=
  { State.reset with
    barrels := [(0, { active := List.replicate 32 0x80, gated := false })]
    threads := [(0, { x with st := .run })] }

/-- An immediate. -/
def im (n : BitVec 14) : Opnd := { mode := 2, spec := n }
/-- A desk operand at a multiple of its size. -/
def dk (n : BitVec 14) : Opnd := { mode := 1, spec := n }
/-- A product register. -/
def px (n : BitVec 14) : Opnd := { mode := 9, spec := n }
/-- Instructions of thread 0. -/
def ins (a b c : Opnd) : Issue := { thread := 0, a := a, b := b, c := c }

/-- A landing of an instruction that issued in cycle 0. -/
def due (t : State) (c : Nat) (e : Eff) : Bool := t.agenda.any (fun l => decide (l.due = c) && decide (l.eff = e) && decide (l.thread = some 0))

/-- What a store to desk of barrel 0 lands. -/
def st0 (a : BitVec 19) (n : Nat) (sg : Bool) (v : DWord) : Eff := .store { loc := .desk 0 a, size := n, signFill := sg } v

/-- The state three cycles after a command. -/
def flown (c : Instr) (s : State) : State := match exec c s with | .next t => { t with now := s.now + 3 } | _ => s
/-- What an instruction that issues in a state answers at its read point. -/
def both (c : Instr) (s : State) : Host.Outcome State Fault Refusal := exec c (flown c s)

/-- The slot of a command, decided. -/
def issuesIn (s : State) (c : Instr) (u : Tid) : Bool :=
  s.canIssue u && (s.reading u c).isNone && (s.thr u).flight.all (fun g => decide (g.at_ ≠ s.now)) && (s.thr u).rep.isNone
/-- The read point of a command whose places and values meet a condition, decided. -/
def readsIn (s : State) (c : Instr) (i : Issue) (a b d : OpSpec) (q : State → Places → Bool) : Bool :=
  match s.reading i.thread c with
  | some g =>
    let r := s.modThr i.thread (fun x => x.modFlight g.at_ (fun h => { h with read := true }))
    decide (s.readFlight i.thread = some g) && g.fault.isNone && g.fetch.isNone &&
    (match (r.readView i.thread).places i (r.readFp i.thread) a b d with | .ok p => q r p | .error _ => false)
  | none => false
/-- A read point of the thread `u` with its flight, decided. -/
def atReadIn (s : State) (c : Instr) (u : Tid) (q : State → Flight → Bool) : Bool :=
  match s.reading u c with
  | some g =>
    decide (s.readFlight u = some g) && g.fault.isNone && g.fetch.isNone &&
    q (s.modThr u (fun x => x.modFlight g.at_ (fun h => { h with read := true }))) g
  | none => false

theorem once_of {s : State} {c : Instr} {u : Tid} (h : issuesIn s c u = true) : IssuesOnce s c u := by
  simp only [issuesIn, Bool.and_eq_true, Option.isNone_iff_eq_none, List.all_eq_true, decide_eq_true_eq] at h
  exact ⟨⟨h.1.1.1, h.1.1.2, h.1.2⟩, h.2⟩

theorem atRead_of {s : State} {c : Instr} {u : Tid} {q : State → Flight → Bool} (h : atReadIn s c u q = true) :
    ∃ r g, AtRead s r c u g ∧ q r g = true := by
  unfold atReadIn at h
  split at h
  · next g hg =>
    simp only [Bool.and_eq_true, Option.isNone_iff_eq_none, decide_eq_true_eq] at h
    exact ⟨_, g, ⟨hg, h.1.1.1, ⟨h.1.1.2, h.1.2⟩, rfl⟩, h.2⟩
  · cases h

theorem reads_of {s : State} {c : Instr} {i : Issue} {a b d : OpSpec} {q : State → Places → Bool} (h : readsIn s c i a b d q = true) :
    ∃ r p, Reads s r c i a b d p ∧ q r p = true := by
  unfold readsIn at h
  split at h
  · next g hg =>
    simp only [Bool.and_eq_true, Option.isNone_iff_eq_none, decide_eq_true_eq] at h
    obtain ⟨⟨⟨h1, h2⟩, h3⟩, h4⟩ := h
    split at h4
    · next p hp => exact ⟨_, p, ⟨⟨g, hg, h1, ⟨h2, h3⟩, rfl⟩, hp⟩, h4⟩
    · cases h4
  · cases h

/-! ### An instruction's issue, and three cycles later its read point -/

/-- 5 + 7 lands at desk:16 at the end of c7, with no flag set. -/
theorem test_add : ran (both (.add (ins (dk 4) (im 5) (im 7)) .w) (runner { }))
    (fun t => due t 7 (st0 16 4 true 12) && due t 7 (.flags 0 0b01111 0)) = true := by decide
/-- 0x7FFFFFFF + 1 of .W sets N and V. -/
theorem test_add_overflow : ran (both (.add (ins (px 0) (px 1) (im 1)) .w) (runner { px1 := 0x7FFFFFFF }))
    (fun t => due t 7 (.flags 0 0b01111 0b01001)) = true := by decide
/-- 3 − 3 sets Z and C, since nothing is borrowed. -/
theorem test_cmp_equal : ran (both (.cmp (ins (px 0) (px 1) { }) .b) (runner { px0 := 3, px1 := 3 }))
    (fun t => due t 7 (.flags 0 0b01111 0b00110)) = true := by decide
/-- A left shift by the whole width leaves 0 and takes bit 0 into C. -/
theorem test_shl_width : ran (both (.shl (ins (dk 0) (im 1) (im 32)) false) (runner { }))
    (fun t => due t 7 (st0 0 4 true 0) && due t 7 (.flags 0 0b01111 0b00110)) = true := by decide
/-- The example of R121: the descriptor 0x0E4 takes bits 11 to 4. -/
theorem test_bext : ran (both (.bext (ins (dk 0) (px 0) (im 0xE4))) (runner { px0 := 0xABC })) (fun t => due t 7 (st0 0 4 true 0xAB)) = true := by decide
/-- −1.0 × −1.0 saturates and sets Q. -/
theorem test_qmul_saturates : ran (both (.qmul (ins (dk 0) (px 0) (px 0)) true) (runner { px0 := 0x8000 }))
    (fun t => due t 7 (st0 0 2 true 0x7FFF) && due t 7 (.flags 0 0b11100 0b10000)) = true := by decide
/-- Lanes of PADD.H wrap by themselves. -/
theorem test_padd_lanes : ran (both (.padd (ins (px 2) (px 0) (px 1)) true) (runner { px0 := 0x0001FFFF00017FFF, px1 := 0x0001000100010001 }))
    (fun t => t.agenda.any (fun l => match l.eff with | .store _ v => decide (v = 0x0002000000028000) | _ => false)) = true := by decide
/-- 1.5 + 2.25 = 3.75. -/
theorem test_fadd : ran (both (.fadd (ins (dk 0) (px 0) (px 1))) (runner { px0 := 0x3FC00000, px1 := 0x40100000 }))
    (fun t => t.agenda.any (fun l => match l.eff with | .store _ v => decide (v = 0x40700000) | _ => false)) = true := by decide
/-- A product of MUL lands eight cycles after its issue. -/
theorem test_mul : ran (both (.mul (ins (px 2) (im 0x3FFF) (im 7))) (runner { })) (fun t => due t 8 (.product 0 2 0xFFFFFFFFFFFFFFF9)) = true := by decide
/-- A division by 0 gives the largest quotient and B as the remainder (R130). -/
theorem test_div_zero : ran (both (.div (ins (px 1) (im 9) (im 0))) (runner { })) (fun t => due t 24 (.product 0 1 0x000000097FFFFFFF)) = true := by decide
/-- LIM copies a vector that is not longer than its limit and clears C. -/
theorem test_lim_copies : ran (both (.lim (ins (px 2) (px 0) (px 1))) (runner { px0 := 0x0000000300000004, px1 := 5 }))
    (fun t => due t 7 (.flags 0 0b00010 0)) = true := by decide
/-- ATAN2 of the zero vector is 0 (R133). -/
theorem test_atan2_zero : ran (both (.atan2 (ins (dk 0) (px 0) { })) (runner { })) (fun t => t.agenda.any (fun l => decide (l.eff = st0 0 2 false 0))) = true := by
  decide

/-- The CRC of the digits 1 to 9 is the check value of IEEE 802.3. -/
theorem test_crc32 : crc32 [0x31, 0x32, 0x33, 0x34, 0x35, 0x36, 0x37, 0x38, 0x39] = 0xCBF43926 := by decide +kernel
/-- A TUNNEL from node 2 to node 3 with HOPS 1 and one word: its first characters by Table HLY-1, 19 in all. -/
theorem test_frameChars : (frameChars { down := true, aborted := false, frame :=
      { typ := 10, bc := false, upw := false, dst := 3, src := 2, hops := 1, len := 1, seq := 5, payload := [7] } }).take 13 =
    (true, 0xFB) :: [0x05, 0x02, 0x01, 0x80, 0x00, 0x30, 0x00, 0xA0, 7, 0, 0, 0].map (fun v => (false, v)) := by decide

/-! ### Witnesses: a state and operands that meet the hypotheses of each statement, clause by clause -/

/-- A command that issues in a state comes to its read point, where its places and values meet a condition. -/
def Met (c : Instr) (s : State) (i : Issue) (a b d : OpSpec) (q : State → Places → Bool := fun _ _ => true) : Prop :=
  IssuesOnce s c i.thread ∧ ∃ r p, Reads (flown c s) r c i a b d p ∧ q r p = true
/-- A command that issues in a state comes to its read point in a flight that meets a condition. -/
def Seen (c : Instr) (s : State) (u : Tid) (q : State → Flight → Bool := fun _ _ => true) : Prop :=
  IssuesOnce s c u ∧ ∃ r g, AtRead (flown c s) r c u g ∧ q r g = true

theorem met {c : Instr} {s : State} {i : Issue} {a b d : OpSpec} {q : State → Places → Bool} (h : issuesIn s c i.thread = true)
    (k : readsIn (flown c s) c i a b d q = true) : Met c s i a b d q := ⟨once_of h, reads_of k⟩
theorem seen {c : Instr} {s : State} {u : Tid} {q : State → Flight → Bool} (h : issuesIn s c u = true)
    (k : atReadIn (flown c s) c u q = true) : Seen c s u q := ⟨once_of h, atRead_of k⟩

/-- The thread a member of class 0. -/
def member (x : Thread) : State := (runner x).setReg (.thrCfg 0) 0x10
/-- The thread in partition 1, and every other resource in the owner's. -/
def outcast (x : Thread) : State := (runner x).setReg (.hstPa kThread 0) 1
/-- Thread 0 as the owner of channel 3. -/
def pinOwned (x : Thread) : State := (runner x).setReg (.pinOwner 3) 0x80000000

theorem wit_StepRunsTheFrontCommand : State.reset.pending = [] ∧ (∃ t, step State.reset = .next t) := ⟨rfl, _, rfl⟩

theorem wit_EveryCommandKeepsMemoriesAndQueue : ∃ t, exec (.motionActiveChange true) State.reset = .next t := ⟨_, rfl⟩

/-- The memories of a state that has stored a byte are canonical too. -/
theorem wit_StepKeepsTheInvariant :
    (∃ t, step { State.reset with pending := [.logclr (.host 0 0), .lockUnitAccess] } = .next t) ∧
    ({ State.reset with pending := [.logclr (.host 0 0)], desk := [(7, 1)], hall := [(3, 2)] } : State).memOk = true ∧
    ({ State.reset with upd := { lc := .scrapped } } : State).isScrapped = true := ⟨⟨_, rfl⟩, by decide, by decide⟩

/-- The invariant holds after reset. -/
theorem test_reset_memOk : State.reset.memOk = true ∧ State.reset.isScrapped = false := by decide

theorem wit_IntegerArithmeticAndMoves :
    (let i := ins (dk 4) (im 5) (im 7); Met (.add i .b) (runner { }) i (wr (sizeTy .b)) (rd (sizeTy .b)) (rd (sizeTy .b))) ∧
    (let i := ins (dk 4) (im 5) (im 7); Met (.sub i .d) (runner { }) i (wr (sizeTy .d)) (rd (sizeTy .d)) (rd (sizeTy .d))) ∧
    (let i := ins (px 0) (im 7) { }; Met (.cmp i .w) (runner { }) i (rd (sizeTy .w)) (rd (sizeTy .w)) none) ∧
    (let i := ins (px 0) (im 7) { }; Met (.neg i true) (runner { }) i (wr (wideTy true)) (rd (wideTy true)) none) ∧
    (let i := ins (dk 1) (dk 8191) { }; Met (.sxwD i) (runner { }) i (wr .i64) (rd .i32) none) :=
  ⟨met (by decide) (by decide), met (by decide) (by decide), met (by decide) (by decide), met (by decide) (by decide),
   met (by decide) (by decide)⟩

/-- A count of 0, of the width and beyond it. -/
theorem wit_ShiftResultsAndCarry :
    let i := ins (dk 1) (px 0) (px 1)
    Met (.shl i false) (runner { px1 := 0 }) i (wr .i32) (rd .i32) (rd .i8) ∧
    Met (.shr i true) (runner { px1 := 64 }) i (wr .i64) (rd .i64) (rd .i8)
      (fun r p => decide ((r.valuesAt i p (wr .i64) (rd .i64) (rd .i8)).c.setWidth 8 = 64#8)) ∧
    Met (.asr i false) (runner { px1 := 255 }) i (wr .i32) (rd .i32) (rd .i8)
      (fun r p => decide ((r.valuesAt i p (wr .i32) (rd .i32) (rd .i8)).c.setWidth 8 = 255#8)) :=
  ⟨met (by decide) (by decide), met (by decide) (by decide), met (by decide) (by decide)⟩

theorem wit_BitAndFieldOperations :
    (let i := ins (px 0) (im 31) { }; Met (.btst i) (runner { }) i (rd .i32) (rd .i8) none) ∧
    (let i := ins (px 0) (im 31) { }; Met (.bset i) (runner { }) i (rw .i32) (rd .i8) none) ∧
    (let i := ins (dk 0) (px 0) (im 0x3FF); Met (.bext i) (runner { }) i (wr .i32) (rd .i32) (rd .i16)) ∧
    (let i := ins (px 1) (px 0) (im 0x1F); Met (.bins i) (runner { }) i (rw .i32) (rd .i32) (rd .i16)) ∧
    (let i := ins (dk 0) (px 0) { }; Met (.clz i true) (runner { }) i (wr .i32) (rd (wideTy true)) none) :=
  ⟨met (by decide) (by decide), met (by decide) (by decide), met (by decide) (by decide), met (by decide) (by decide),
   met (by decide) (by decide)⟩

theorem wit_FixedPointResultsSaturate :
    (let i := ins (dk 0) (px 0) (px 1); Met (.qadd i true) (runner { }) i (wr (fixTy true)) (rd (fixTy true)) (rd (fixTy true))) ∧
    (let i := ins (dk 0) (px 0) (im 0xFF); Met (.qshl i false) (runner { }) i (wr (fixTy false)) (rd (fixTy false)) (rd .i8)) ∧
    (let i := ins (dk 0) (px 0) { }; Met (.cvqH i) (runner { }) i (wr .q15) (rd .q31) none) ∧
    (let i := ins (dk 0) (px 3) { }; Met (.pxq i) (runner { }) i (wr .q31) prd none) :=
  ⟨met (by decide) (by decide), met (by decide) (by decide), met (by decide) (by decide), met (by decide) (by decide)⟩

theorem wit_PackedLanesAreIndependent :
    (let i := ins (dk 0) (px 0) (px 1); Met (.padd i true) (runner { }) i (wr .v4h) (rd .v4h) (rd .v4h)) ∧
    (let i := ins (dk 0) (px 0) (px 1); Met (.pqmul i false) (runner { }) i (wr .v2q) (rd .v2q) (rd .v2q)) ∧
    (let i := ins (dk 0) (px 0) { }; Met (.pswap i) (runner { }) i (wr .v2w) (rd .v2w) none) :=
  ⟨met (by decide) (by decide), met (by decide) (by decide), met (by decide) (by decide)⟩

theorem wit_FloatingResultsAreRounded :
    (let i := ins (dk 0) (px 0) (px 1); Met (.fmul i) (runner { }) i (wr .f32) (rd .f32) (rd .f32)) ∧
    (let i := ins (px 2) (px 0) (px 1); Met (.fma i) (runner { }) i (rw .f32) (rd .f32) (rd .f32)) ∧
    (let i := ins (dk 0) (px 0) { }; Met (.cvtif i) (runner { }) i (wr .f32) (rd .i32) none) ∧
    (let i := ins (dk 0) (px 0) { }; Met (.cvtqf i) (runner { }) i (wr .f32) (rd .q31) none) ∧
    (let i := ins (px 2) (px 0) (px 1); Met (.fdiv i) (runner { }) i prd (rd .f32) (rd .f32)) ∧
    (let i := ins (px 2) (px 0) { }; Met (.fsqrt i) (runner { }) i prd (rd .f32) none) :=
  ⟨met (by decide) (by decide), met (by decide) (by decide), met (by decide) (by decide), met (by decide) (by decide),
   met (by decide) (by decide), met (by decide) (by decide)⟩

theorem wit_FloatingOrderAndConversions :
    (let i := ins (dk 0) (px 0) (px 1); Met (.fmin i) (runner { }) i (wr .f32) (rd .f32) (rd .f32)) ∧
    (let i := ins (px 0) (px 1) { }; Met (.fcmp i) (runner { }) i (rd .f32) (rd .f32) none) ∧
    (let i := ins (dk 0) (px 1) { }; Met (.cvtfi i) (runner { }) i (wr .i32) (rd .f32) none) ∧
    (let i := ins (dk 0) (px 1) { }; Met (.cvtfq i) (runner { }) i (wr .q31) (rd .f32) none) :=
  ⟨met (by decide) (by decide), met (by decide) (by decide), met (by decide) (by decide), met (by decide) (by decide)⟩

theorem wit_ProductsLandInTheirCycle :
    (let i := ins (px 0) (px 0) (im 0); Met (.div i) (runner { }) i prd (rd .i32) (rd .i32)) ∧
    (let i := ins (px 3) (px 0) (im 1); Met (.qmac i true) (runner { }) i prd (rd .q15) (rd .q15)) ∧
    (let i := ins (px 3) (px 0) { }; Met (.qsqrt i) (runner { }) i prd (rd .q31) none) :=
  ⟨met (by decide) (by decide), met (by decide) (by decide), met (by decide) (by decide)⟩

theorem wit_ControlLoopResults :
    (let i := ins (px 0) (im 4) (dk 1); Met (.piu i) (runner { }) i (rw .v2q) (rd .q31) (rd .v4q)) ∧
    (let i := ins (dk 0) (px 0) (im 4); Met (.lim i) (runner { }) i (wr .v2q) (rd .v2q) (rd .q31)) ∧
    (let i := ins (dk 0) (px 0) (im 100); Met (.svm i) (runner { }) i (wr .v4h) (rd .v2q) (rd .i32)) :=
  ⟨met (by decide) (by decide), met (by decide) (by decide), met (by decide) (by decide)⟩

theorem wit_TransformsStayWithinTheirBound :
    (let i := ins (dk 0) (px 0) { }; Met (.clarke i) (runner { }) i (wr .v2q) (rd .v4q) none) ∧
    (let i := ins (dk 0) (px 0) (im 0x3FFF); Met (.park i) (runner { }) i (wr .v2q) (rd .v2q) (rd .ang)) ∧
    (let i := ins (dk 0) (px 0) (im 0x3FFF); Met (.ipark i) (runner { }) i (wr .v2q) (rd .v2q) (rd .ang)) ∧
    (let i := ins (dk 0) (im 1) { }; Met (.sincos i) (runner { }) i (wr .v2q) (rd .ang) none) ∧
    (let i := ins (dk 0) (px 0) { }; Met (.atan2 i) (runner { }) i (wr .ang) (rd .v2q) none) :=
  ⟨met (by decide) (by decide), met (by decide) (by decide), met (by decide) (by decide), met (by decide) (by decide),
   met (by decide) (by decide)⟩

/-- A target of the short form, and one that the long form reads from desk. -/
theorem wit_BranchesLeadToTheirTarget :
    Seen (.b { thread := 0, tgt := .short 0xFFFFFF }) (runner { }) 0 ∧
    Seen (.conditionalBranch { thread := 0, tgt := .long (dk 2) } .eq) (runner { sw := 4 }) 0 (fun _ g => g.went) ∧
    Seen (.conditionalBranch { thread := 0, tgt := .long (dk 2) } .eq) (runner { }) 0 (fun _ g => !g.went) :=
  ⟨seen (by decide) (by decide), seen (by decide) (by decide), seen (by decide) (by decide)⟩

/-- A stack pointer whose words stay within their rows, and one whose words do not. -/
theorem wit_CallAndReturnUseTheStack :
    Seen (.call { thread := 0, tgt := .short 1 }) (runner { sp := 64 }) 0 (fun _ g => decide (¬ CrossesRow g.sp)) ∧
    Seen (.call { thread := 0, tgt := .short 1 }) (runner { sp := 2 }) 0 (fun _ g => decide (CrossesRow g.sp)) ∧
    Seen (.ret { thread := 0 }) (runner { sp := 64 }) 0 (fun _ g => decide (¬ CrossesRow g.sp)) ∧
    Seen (.ret { thread := 0 }) (runner { sp := 6 }) 0 (fun _ g => decide (CrossesRow g.sp)) :=
  ⟨seen (by decide) (by decide), seen (by decide) (by decide), seen (by decide) (by decide), seen (by decide) (by decide)⟩

/-- A first REP with a count of 3 and of 0, one that goes on with a saved count, and one whose operand is in a reserved mode. -/
theorem wit_RepeatPrefixTakesItsCount :
    let sw0 := fun (r : State) => decide (((r.readView 0).thr 0).sw.extractLsb' 16 16 = 0#16)
    (let i := ins (im 3) { } { }
     Met (.rep i) (runner { }) i (rd .cnt) none none (fun r p => sw0 r && decide ((r.valuesAt i p (rd .cnt) none none).a.setWidth 16 = 3#16))) ∧
    (let i := ins (im 0) { } { }
     Met (.repi i) (runner { }) i (rd .cnt) none none (fun r p => sw0 r && decide ((r.valuesAt i p (rd .cnt) none none).a.setWidth 16 = 0#16))) ∧
    Seen (.rep (ins (im 3) { } { })) (runner { sw := 0x00020000 }) 0 (fun r g => !(sw0 r) && (r.thr 0).flight.all (fun h => decide (h.at_ ≤ g.at_))) ∧
    (let i := ins { mode := 10 } { } { }
     Seen (.rep i) (runner { }) 0 (fun r _ => sw0 r &&
       (match (r.readView 0).places i (r.readFp 0) (rd .cnt) none none with | .ok _ => false | .error _ => true))) :=
  ⟨met (by decide) (by decide), met (by decide) (by decide), seen (by decide) (by decide), seen (by decide) (by decide)⟩

/-- A repetition of a thread with two to go, and a reserved number outside one. -/
theorem wit_IllegalOperationsFault :
    (let s := runner { sw := 0x00020000, rep := some { prefixPc := 3, interruptible := false } }
     s.canIssue 0 = true ∧ s.reading 0 (.ret { thread := 0 }) = none ∧ (s.thr 0).flight = [] ∧ (s.thr 0).rep.isSome = true ∧
       (∃ t, exec (.ret { thread := 0 }) s = .next t ∧ FliesIllegal s t 0 (.ret { thread := 0 }))) ∧
    IssuesOnce (runner { }) (.reservedOperation { thread := 0 } 0xC2) 0 ∧ reservedNo 0x3E = true ∧ reservedNo 0xFF = true ∧ reservedNo 0xC2 = true := by
  refine ⟨⟨by decide, by decide, by decide, by decide, _, rfl, ⟨rfl, rfl, fun v h => ?_⟩, rfl, _, rfl, ?_, rfl, rfl, rfl, rfl⟩,
    once_of (by decide), by decide, by decide, by decide⟩
  · revert v; decide
  · intro h hh; cases hh

theorem wit_WaitingAndHandIn :
    Seen (.wait { thread := 0 }) (runner { }) 0 ∧ (runner { }).outstanding 0 = 0 ∧ (runner { }).classOf 0 = none ∧ ((runner { }).thr 0).todo = .none ∧
    Seen (.hwait { thread := 0 }) (runner { }) 0 ∧ IssuesOnce (runner { }) (.hnd { thread := 0 }) 0 ∧
    Seen (.hnd { thread := 0 }) (member { }) 0 ∧ ((member { }).classOf 0).isSome = true :=
  ⟨seen (by decide) (by decide), by decide, by decide, rfl, seen (by decide) (by decide), once_of (by decide),
   seen (by decide) (by decide), by decide⟩

/-- The state after a command, in its cycle. -/
def after (c : Instr) (s : State) : State := match exec c s with | .next t => t | _ => s
/-- A handler of level 2 with its frame at desk:64, a thread in none, a frame whose PRIV is refused, and an input to chain to. -/
def handler (x : Thread) : State := runner { x with sp := 64, ev := { x.ev with nest := [{ lvl := 2, flt := false, wt := false, waitPc := 0 }] } }
/-- DONE of level 2, and a handler with an input to chain to. -/
def done2 : Instr := .doneH (ins (im 2) { } { })
def chaining : State := { handler { ev := { en := 1, pend := 1 } } with evmap := [(0, (5, 3))] }

theorem wit_ExitsRestoreTheFrame :
    Met done2 (handler { }) (ins (im 2) { } { }) (rd .cnt) none none
      (fun r p => decide ((r.valuesAt (ins (im 2) { } { }) p (rd .cnt) none none).a.setWidth 2 = 2#2)) ∧
    Seen done2 (handler { }) 0 (fun r g => decide (¬ CrossesRow g.sp ∧ ¬ CrossesRow (g.sp + 4)) && !g.went && (((r.readView 0).thr 0).ev.nest.length == 1)) ∧
    Seen (.rte (ins { } { } { })) (runner { sp := 64 }) 0 (fun r _ => ((r.readView 0).thr 0).ev.nest.isEmpty) ∧
    Seen (.rte (ins { } { } { })) (runner { sp := 6 }) 0 (fun _ g => decide (CrossesRow g.sp)) ∧
    Seen (.rte (ins { } { } { })) (runner { sp := 1 }) 0 (fun _ g => decide (¬ CrossesRow g.sp ∧ CrossesRow (g.sp + 4))) ∧
    Seen done2 { handler { } with desk := [(68, 0x40)] } 0 (fun r g =>
      (((r.readView 0).readLoc (.desk 0 (g.sp + 4)) 4).setWidth 32 : Word).getLsbD 6 && !((r.reg (.thrCeil 0)).getLsbD 0)) ∧
    (let s := after done2 (handler { })
     ∃ g, (s.thr 0).flight.find? (fun h => decide (h.at_ = s.now) && h.fault.isNone) = some g ∧ g.insn = some done2 ∧ s.chainInput 0 false = none) ∧
    (let s := after done2 chaining
     ∃ g, (s.thr 0).flight.find? (fun h => decide (h.at_ = s.now) && h.fault.isNone) = some g ∧ g.insn = some done2 ∧
       g.before.affords = true ∧ (s.chainInput 0 false).isSome = true) ∧
    (∃ r g, AtRead { (after done2 chaining).exitDecide 0 with now := 3 } r done2 0 g ∧ g.went = true) :=
  ⟨met (by decide) (by decide), seen (by decide) (by decide), seen (by decide) (by decide), seen (by decide) (by decide),
   seen (by decide) (by decide), seen (by decide) (by decide), ⟨_, rfl, by decide, by decide⟩, ⟨_, rfl, by decide, by decide, by decide⟩,
   atRead_of (q := fun _ g => g.went) (by decide)⟩

theorem wit_LevelsPointersAndTestAndSet :
    Seen (.nop { thread := 0 }) (runner { }) 0 ∧ IssuesOnce (runner { }) (.ifence { thread := 0 }) 0 ∧
    Seen (.setlvl (ins (im 3) { } { })) (runner { }) 0 (fun r _ => !((r.readView 0).thr 0).sw.getLsbD 6) ∧
    (let i := ins (im 3) { } { }
     Met (.setlvl i) (runner { sw := 0x40 }) i (rd .cnt) none none (fun r _ => ((r.readView 0).thr 0).sw.getLsbD 6) ∧
     Met (.setmask i) (runner { sw := 0x40 }) i (rd .cnt) none none (fun r _ => ((r.readView 0).thr 0).sw.getLsbD 6) ∧
     Met (.fpset i) (runner { }) i (rd .adr) none none ∧ Met (.spset i) (runner { }) i (rd .adr) none none) ∧
    (let i := ins (dk 0) (dk 1) { }; Met (.tas i) (runner { }) i (wr .i32) (rw .i32) none (fun _ p => decide (p.b.loc = .desk 0 4))) ∧
    (let i := ins (dk 0) (px 1) { }; Met (.tas i) (runner { }) i (wr .i32) (rw .i32) none (fun _ p => decide (p.b.loc = .px 0 1))) :=
  ⟨seen (by decide) (by decide), once_of (by decide), seen (by decide) (by decide),
   ⟨met (by decide) (by decide), met (by decide) (by decide), met (by decide) (by decide), met (by decide) (by decide)⟩,
   met (by decide) (by decide), met (by decide) (by decide)⟩

theorem wit_RegisterAndPinInstructionsAccessInC6 :
    (let i := ins (im 31) { } { }; Met (.evclr i) (runner { }) i (rd .cnt) none none) ∧
    (let i := ins (im 31) { } { }
     Met (.evsig i) (runner { }) i (rd .cnt) none none (fun r p => decide (w32 (r.valuesAt i p (rd .cnt) none none).a < 32))) ∧
    (let i := ins (im 32) { } { }
     Met (.evsig i) (runner { }) i (rd .cnt) none none (fun r p => decide (32 ≤ w32 (r.valuesAt i p (rd .cnt) none none).a))) ∧
    (runner { }).mine 0 kSoft 31 ∧ ¬ (outcast { }).mine 0 kSoft 31 ∧
    (let i := ins (dk 0) (im 0) { }
     Met (.inp i false) (runner { }) i (wr .i32) (rd .adr) none
       (fun r p => (ioReg 0 ((r.valuesAt i p (wr .i32) (rd .adr) none).b.toNat % 65536)).isSome)) ∧
    (let i := ins (dk 0) (im 0xC) { }
     Met (.inp i false) (runner { }) i (wr .i32) (rd .adr) none
       (fun r p => (ioReg 0 ((r.valuesAt i p (wr .i32) (rd .adr) none).b.toNat % 65536)).isNone)) ∧
    (∃ x, ioReg 0 0x1000 = some x ∧ (runner { }).ioInside 0 x = true ∧ (outcast { }).ioInside 0 x = false) ∧
    (let i := ins (im 0) (im 1) { }; Met (.out i false) (runner { }) i (rd .adr) (rd .i32) none) ∧
    (∃ x, ioReg 0 0 = some x ∧ (runner { }).ioInside 0 x = true ∧ x.wr ≠ .ro ∧ x.wr = .superv ∧ x.owned = none) ∧
    (let i := ins (dk 0) (im 15) { }; Met (.pinrd i) (runner { }) i (wr .i32) (rd .adr) none) ∧
    (runner { }).portInside (.thread 0) 15 = true ∧ (outcast { }).portInside (.thread 0) 15 = false ∧
    (let i := ins (im 16) (im 1) (im 1)
     Met (.pinwr i) (runner { }) i (rd .adr) (rd .i32) (rd .i32) (fun r p => decide (16 ≤ w32 (r.valuesAt i p (rd .adr) (rd .i32) (rd .i32)).a))) ∧
    (let i := ins (im 3) (im 1) (px 0); Met (.edgeq i) (pinOwned { }) i (rd .adr) (rd .i8) (rd .i64)) ∧
    ((pinOwned { }).mine 0 kPin 3 ∧ (pinOwned { }).pinOwner 3 = some 0 ∧ (runner { }).pinOwner 3 = none) ∧
    (let i := ins (im 512) (im 1) (px 0); Met (.edgeq i) (runner { }) i (rd .adr) (rd .i8) (rd .i64)) ∧
    (let i := ins (px 0) (im 511) { }; Met (.edger i) (runner { }) i (wr .i64) (rd .adr) none) ∧
    (runner { }).mine 0 kPin 511 ∧ ¬ (outcast { }).mine 0 kPin 511 := by
  refine ⟨met (by decide) (by decide), met (by decide) (by decide), met (by decide) (by decide), ?_, ?_, met (by decide) (by decide),
    met (by decide) (by decide), ⟨_, rfl, by decide, by decide⟩, met (by decide) (by decide), ⟨_, rfl, by decide, by decide, by decide, rfl⟩,
    met (by decide) (by decide), by decide, by decide, met (by decide) (by decide), met (by decide) (by decide), ⟨?_, by decide, by decide⟩,
    met (by decide) (by decide), met (by decide) (by decide), ?_, ?_⟩ <;> unfold State.mine <;> decide

/-- Thread 0 beside ring 4, loaded in hall, with a pool of one cell. -/
def ringed (x : Thread) : State :=
  ({ runner x with rings := [(4, { loaded := true, inHall := true, base := 0x100000, size := 4, cside := true, nthr := 1 })] } : State).setReg (.qmPoolcnt 0) 1

theorem wit_TimerRingAndClassInstructionsAccessInC6 :
    (let i := ins (im 1023) (px 0) { }; Met (.tcmp i) (runner { }) i (rd .adr) (rd .i64) none) ∧
    (runner { }).mine 0 kTimer 255 ∧ ¬ (outcast { }).mine 0 kTimer 255 ∧
    (let i := ins (im 1024) (px 0) { }; Met (.tcmp i) (runner { }) i (rd .adr) (rd .i64) none) ∧
    (let i := ins (px 0) (im 1023) (im 4); Met (.tcap i) (runner { }) i (wr .i64) (rd .adr) (rd .cnt)) ∧
    (let i := ins (px 0) (im 1023) (im 5); Met (.tcap i) (runner { }) i (wr .i64) (rd .adr) (rd .cnt)) ∧
    (let i := ins (im 4) (im 64) { }; Met (.qput i) (ringed { }) i (rd .adr) (rd .adr) none) ∧ (ringed { }).itemsHeld 0 < 4 ∧
    ((ringed { }).postOk 0 4 false = true ∧ (ringed { }).postOk 0 4 true = true ∧ (ringed { }).postOk 0 5 false = false ∧ (ringed { }).mine 0 kRing 4) ∧
    (let i := ins (im 4) (im 65) { }; Met (.qputs i) (ringed { }) i (rd .adr) (rd .adr) none) ∧
    (let i := ins (im 8192) (im 64) { }; Met (.qput i) (ringed { }) i (rd .adr) (rd .adr) none) ∧
    (let i := ins (im 4) (im 64) (dk 0); Met (.qget i) (ringed { }) i (rd .adr) (rd .adr) (wr .i32)) ∧
    (let s : State := { ringed { } with qm := { items := List.replicate 4 (.post 4 0 none (.thread 0)) } }
     IssuesOnce s (.qput { thread := 0 }) 0 ∧ 4 ≤ s.itemsHeld 0) ∧
    (let i := ins (dk 0) (im 15) { }; Met (.bstat i) (runner { }) i (wr .i32) (rd .cnt) none) ∧
    (runner { }).mine 0 kBell 15 ∧ ¬ (outcast { }).mine 0 kBell 15 ∧
    (let i := ins (dk 0) (im 16) { }; Met (.bstat i) (runner { }) i (wr .i32) (rd .cnt) none) := by
  refine ⟨met (by decide) (by decide), ?_, ?_, met (by decide) (by decide), met (by decide) (by decide), met (by decide) (by decide),
    met (by decide) (by decide), by decide, ⟨by decide, by decide, by decide, ?_⟩, met (by decide) (by decide), met (by decide) (by decide),
    met (by decide) (by decide), ⟨once_of (by decide), by decide⟩, met (by decide) (by decide), ?_, ?_, met (by decide) (by decide)⟩ <;>
    unfold State.mine <;> decide

/-- Thread 0 with one hall credit. -/
def credited (x : Thread) : State := (runner x).setReg (.thrCfg 0) 0x100
/-- An entry of thread 0 in its hall queue. -/
def entry0 (k : HqKind) (retire : Option Nat) : HqEntry :=
  { kind := k, thread := 0, epoch := 0, life := 0, addr := 0, size := 8, data := 5, cmp := 0
    dest := some { loc := .desk 0 64, size := 8, signFill := false }, seq := 3, issued := 0, written := 0, retireAt := retire, result := 9, busErr := false }

/-- A credit free and none free, a word within its row and across it, in hall, beyond it, and in the secure region with and without the
right to it. -/
theorem wit_HallInstructionsWriteTheirEntry :
    ((credited { }).reg (.thrCfg 0)).extractLsb' 8 4 = 1#4 ∧ (credited { }).outstanding 0 = 0 ∧
    (let s : State := { credited { } with barrels := [(0, { active := List.replicate 32 0x80, hq := [entry0 .hld none] })] }
     IssuesOnce s (.hfree { thread := 0 }) 0 ∧ s.outstanding 0 = 1) ∧
    (let i := ins (dk 0) (im 4) { }; Met (.hld i .w) (credited { }) i (wr .i32) (rd .adr) none) ∧
    (let i := ins (dk 0) (im 5) { }
     Met (.hld i .w) (credited { }) i (wr .i32) (rd .adr) none (fun r p => decide (w32 (r.valuesAt i p (wr .i32) (rd .adr) none).b = 5))) ∧
    (let i := ins (dk 0) (px 1) { }
     Met (.hld i .w) (credited { px1 := 0x800000 }) i (wr .i32) (rd .adr) none
       (fun r p => decide (w32 (r.valuesAt i p (wr .i32) (rd .adr) none).b = 0x800000))) ∧
    (let i := ins (dk 0) (px 1) { }; Met (.hlr i) (credited { px1 := 0x7C0000 }) i (wr .i64) (rd .adr) none) ∧
    (let i := ins (px 1) { } { }; Met (.hfree i) (credited { px1 := 0x7FFFF8 }) i (rd .adr) none none) ∧
    (let i := ins (px 0) (im 8) (px 1); Met (.hcas i) (credited { }) i (rw .i64) (rd .adr) (rd .i64)) ∧
    (let i := ins (px 0) (im 8) (px 1); Met (.hcas i) (runner { }) i (rw .i64) (rd .adr) (rd .i64)) ∧
    ((runner { }).reg (.thrCfg 0)).extractLsb' 8 4 = 0#4 ∧
    (let s := (credited { sw := 0x40 }).setReg (.thrCeil 0) 3
     (s.thr 0).sw.getLsbD 6 = true ∧ (s.reg (.thrCeil 0)).getLsbD 1 = true ∧ ((credited { }).thr 0).sw.getLsbD 6 = false) :=
  ⟨by decide, by decide, ⟨once_of (by decide), by decide⟩, met (by decide) (by decide), met (by decide) (by decide),
   met (by decide) (by decide), met (by decide) (by decide), met (by decide) (by decide), met (by decide) (by decide),
   met (by decide) (by decide), by decide, by decide⟩

/-- Long and short, a word with and without an error, S and U level, and a marked second word. -/
theorem wit_InstructionSpaceAccess :
    (let i := ins (dk 0) (im 8) { }
     Met (.ild i) (runner { }) i (wr .i32) (rd .adr) none (fun r _ => !r.poisoned (instIns 0) 8 1) ∧
     Met (.ild i) { runner { } with insts := [(0, { ue := [8] })] } i (wr .i32) (rd .adr) none (fun r _ => r.poisoned (instIns 0) 8 1)) ∧
    (let i : Issue := { thread := 0, long := false }; Met (.ild i) (runner { }) i (wr .i32) (rd .adr) none) ∧
    (let i := ins (im 8) (im 1) { }
     Met (.ist i) (runner { sw := 0x40 }) i (rd .adr) (rd .i32) none (fun r _ => ((r.readView 0).thr 0).sw.getLsbD 6) ∧
     Met (.ist i) (runner { }) i (rd .adr) (rd .i32) none (fun r _ => !((r.readView 0).thr 0).sw.getLsbD 6)) ∧
    (let c : Instr := .mov (ins (dk 0) (im 8) { }) .w
     let s := flown c (runner { pq := [(0xC0000000, false), (0, true)] })
     ∃ g, s.reading 0 c = some g ∧ g.fault = none ∧ g.fetch.isSome = true ∧ (s.thr 0).flight.length = 1) :=
  ⟨⟨met (by decide) (by decide), met (by decide) (by decide)⟩, met (by decide) (by decide), ⟨met (by decide) (by decide), met (by decide) (by decide)⟩,
   ⟨_, rfl, by decide, by decide, by decide⟩⟩

theorem wit_ThreadInstructionsFrame : (Instr.add (ins (dk 4) (im 5) (im 7)) .w).issue? = some (ins (dk 4) (im 5) (im 7)) ∧
    (∀ j, Instr.add (ins (dk 4) (im 5) (im 7)) .w ≠ .hnd j) ∧ (∀ j, Instr.add (ins (dk 4) (im 5) (im 7)) .w ≠ .doneH j) ∧
    (∃ t, exec (.add (ins (dk 4) (im 5) (im 7)) .w) (runner { }) = .next t) :=
  ⟨rfl, by simp, by simp, ⟨_, rfl⟩⟩

/-- Both kinds of slate, the last doubleword of a line, and a write of before and after the period entry. -/
theorem wit_LandingsWriteTheirTargetOnly : (runner { }).classOf 0 = none ∧ ((member { }).classOf 0).isSome = true ∧ (56#6).toNat + 8 ≤ 64 ∧
    4 < ((runner { enteredAt := 5 }).thr 0).enteredAt ∧ ((runner { enteredAt := 5 }).thr 0).enteredAt ≤ 5 := by decide

/-- A copy that is due at a rotation's start, one that is due at its bell, and none. -/
theorem wit_SlotMapsAreCheckedAndCopied :
    (∃ p, (({ State.reset with now := 32, barrels := [(0, { pending := some { map := List.replicate 32 0x80, from_ := 32, bell := none } })] } :
      State).bar 0).pending = some p ∧ p.from_ ≤ 32 ∧ p.bell = none) ∧
    ({ State.reset with bells := [(2, { running := true })] } : State).bellDue 2 = true ∧ (State.reset.bar 0).pending = none ∧
    mapPasses (List.replicate 32 0) = true ∧ mapPasses (0x80 :: List.replicate 7 0 ++ [0x80] ++ List.replicate 23 0) = true ∧
    mapPasses (0x80 :: List.replicate 6 0 ++ [0x80] ++ List.replicate 24 0) = false :=
  ⟨⟨_, rfl, by decide, rfl⟩, by decide, rfl, by decide, by decide, by decide⟩

/-- A thread with a THR_CTL value and a state. -/
def controlled (w : Word) (x : Thread) : State := ({ State.reset with threads := [(0, x)] } : State).setReg (.thrCtl 0) w

theorem wit_ThreadControlMovesTheState :
    State.reset.accepts (.host 0 0) = true ∧ State.reset.holds (.host 0 0) kThread 0 = true ∧ State.reset.threadsRun = true ∧
    (controlled 0 { }).accepts (.host 0 0) = true ∧ ((controlled 0 { }).thr 0).st = .off ∧
    ((controlled 1 { st := .run }).reg (.thrCtl 0)).getLsbD 1 = false ∧ ((controlled 1 { st := .run }).thr 0).st = .run ∧
    ((controlled 3 { st := .halt, beforeHalt := .run }).reg (.thrCtl 0)).getLsbD 1 = true ∧
    ((controlled 3 { st := .halt, beforeHalt := .run }).thr 0).beforeHalt = .run ∧
    (controlled 1 { st := .held }).bellPending 0 = false ∧ ((controlled 1 { st := .held }).thr 0).todo = .none ∧
    (controlled 0x11 { st := .maint }).bellPending 0 = false ∧ ((controlled 0x11 { st := .maint }).reg (.thrCtl 0)).getLsbD 4 = true ∧
    (((controlled 1 { st := .run }).setReg (.thrCfg 0) 0x10).classOf 0).isSome = true ∧
    ((controlled 1 { st := .lockup }).reg (.thrCtl 0)).getLsbD 0 = true := by decide

theorem wit_ThreadRegisterWrites : ((runner { }).thr 0).st ≠ .off ∧ ((runner { }).thr 0).st ≠ .halt ∧ (State.reset.thr 0).st = .off ∧
    ((controlled 3 { st := .halt }).thr 0).st = .halt := by decide

/-- An event entry's first and second issue, a fault's first and second, an overrun, and a fault that is recognised outside and within
the hard-fault handler. -/
theorem wit_EntriesSaveTheFrameAndClaim :
    (let s := { runner { sp := 64, ev := { recog := some { input := 3, lvl := 1, vec := 7, at_ := 0 } } } with now := 1 }
     s.slotUse 0 = .event ∧ (s.thr 0).ev.entering = none ∧ (s.spNow 0 - 8).toNat % 4 = 0) ∧
    (let s := runner { sp := 64, ev := { entering := some { kind := .event, input := 3, lvl := 1, vec := 7, wt := false } } }
     s.slotUse 0 = .event ∧ (s.thr 0).ev.entering.isSome = true) ∧
    (let s := runner { sp := 64, fault := some { cause := .bus, pc := 1, space := 3, faddr := 0, async := false, entry := false, hard := false, lvl := 3, vec := 9 } }
     s.slotUse 0 = .fault ∧ (s.thr 0).fault.isSome = true) ∧
    (let s := runner { sp := 64, ev := { entering := some { kind := .fault, input := 0, lvl := 3, vec := 7, wt := false } } }
     s.slotUse 0 = .fault ∧ (s.thr 0).fault = none) ∧
    (let s := runner { sp := 64, budget := 5, issued := 5 }
     s.slotUse 0 = .overrun ∧ (s.thr 0).ev.hf = false ∧ (s.spNow 0 - 8).toNat % 4 = 0) ∧
    (∀ hf : Bool, let s := { after (.reservedOperation { thread := 0 } 0x3E) (runner { ev := { hf := hf } }) with now := 6 }
     ∃ g f, (s.thr 0).flight.find? (fun g => decide (g.at_ + 6 = s.now) && g.fault.isSome) = some g ∧ g.fault = some f ∧ f.lock = false ∧
       g.before.ev.hf = hf ∧ g.before.st = .run ∧ (s.thr 0).st ≠ .halt) := by
  refine ⟨by decide, by decide, by decide, by decide, by decide, ?_⟩
  intro hf
  cases hf <;> exact ⟨_, _, rfl, rfl, rfl, rfl, rfl, by decide⟩

theorem wit_HallQueueEntriesArePerformed :
    (let s : State := { State.reset with now := 2, barrels := [(1, { hq := [entry0 .hld none] })] }
     s.acceptDue 1 = true ∧ s.cleanEntry (entry0 .hld none) ∧ hqSplit (s.bar 1).hq = ([], some (entry0 .hld none, [])) ∧
       s.memS.wiping = false) ∧
    (let s : State := { State.reset with now := 20, barrels := [(1, { hq := [entry0 .hld (some 20)] })] }
     s.retiring 1 = some (entry0 .hld (some 20)) ∧ (entry0 .hld (some 20)).epoch = (s.thr 0).epoch) :=
  ⟨⟨by decide, rfl, by decide, rfl⟩, by decide⟩

/-- An entry of the map that is tied to a software source of the writer's partition. -/
theorem wit_SoftwareSourcesAndTheEventMap :
    (let s : State := { State.reset with evmap := [(33, (4, 1))] }
     s.holds (.host 0 0) kSoft 4 = true ∧ s.evmap = [(33, (4, 1))] ∧ (0x10 : Word).getLsbD 4 = true) := by decide

/-- Periods at the ends of the range and beyond them, in each state of a bell. -/
theorem wit_BellsStartStopAndTakeSchedules :
    ((State.reset.setReg (.belPeriod 3) 1200).reg (.belPeriod 3)).toNat = 1200 ∧ (State.reset.bell 3).en = false ∧
    ((State.reset.setReg (.belPeriod 3) 1200000000).reg (.belPeriod 3)).toNat = 1200000000 ∧
    ((State.reset.setReg (.belPeriod 3) 1199).reg (.belPeriod 3)).toNat = 1199 ∧
    (({ State.reset with bells := [(3, { stopping := true, running := true })] } : State).bell 3).stopping = true ∧
    (({ State.reset with bells := [(3, { en := true, running := true })] } : State).bell 3).en = true := by decide

/-- A bell that is due with a running and a halted member and a slot map that waits for it, a stop, and a schedule change. -/
theorem wit_BellsDecideThenRelease :
    (let s : State := ({ member { } with
       bells := [(0, { en := true, running := true, next := 5 })], tbase := 5
       barrels := [(0, { active := List.replicate 32 0x80, pending := some { map := List.replicate 32 0, from_ := 0, bell := some 0 } })] } :
         State).setReg (.belPeriod 0) 1200
     s.bellDue 0 = true ∧ s.upd.order = none ∧ 0 < (s.reg (.belPeriod 0)).toNat ∧ s.classOf 0 = some 0 ∧ (s.thr 0).decidedAt ≠ some s.now ∧
       (s.thr 0).flight = [] ∧ (s.thr 0).st = .run ∧ (s.thr 0).todo = .none ∧ ∃ p, (s.bar 0).pending = some p ∧ p.bell = some 0 ∧ p.from_ ≤ s.now) ∧
    (let s : State := { State.reset with bells := [(3, { running := true, stopping := true, next := 5 })], tbase := 7 }
     s.bellDue 3 = true ∧ (s.bell 3).stopping = true) ∧
    (let s : State := { State.reset with tbase := 5, bells := [(3, { running := true, next := 5, apply := some { period := 1200, start := 0, at_ := 0, nextBell := true } })] }
     s.bellDue 3 = true ∧ (s.bell 3).apply.isSome = true) :=
  ⟨⟨by decide, rfl, by decide, by decide, by decide, rfl, rfl, rfl, _, rfl, rfl, by decide⟩, by decide, by decide⟩

/-- A period that commits and one that is discarded. -/
theorem wit_MembersCommitOrDiscard :
    (let s := member { per := { isOpen := true, handin := true } }
     (s.thr 0).decidedAt ≠ some s.now ∧ (s.thr 0).st ≠ .lockup ∧ (s.thr 0).per.isOpen = true ∧ (s.thr 0).per.handin = true) ∧
    (let s := member { per := { isOpen := true, faulted := true } }
     (s.thr 0).decidedAt ≠ some s.now ∧ (s.thr 0).st ≠ .lockup ∧ (s.thr 0).per.isOpen = true) := by decide

/-- The block in a phase, with parts of its system inputs set. -/
def inPhase (x : Sys) (u : UpdS) : State := { State.reset with sys := x, upd := u }

/-- Every phase that a clause names, and a lease and a line of a host port. -/
theorem wit_ResetsClearAndKeep :
    ((inPhase { blockUp := true } { }).sys.phase = .up ∧ (inPhase { blockUp := true } { }).sys.blockUp = true ∧
      (inPhase { blockUp := true } { }).memS.wiping = false) ∧
    (State.reset.sys.phase = .up ∧ State.reset.sys.coldBoot = true ∧ (inPhase { coldBoot := false } { }).sys.coldBoot = false) ∧
    (let s := inPhase { phase := .warm, warmAt := 0, rootErr := true } { }
     let t : State := { s with now := 512 }
     s.sys.warmAt + 512 > s.now ∧ t.sys.phase = .warm ∧ t.sys.warmAt + 512 ≤ t.now ∧ t.sys.rootErr = true) ∧
    (let s : State := { inPhase { phase := .warm } { lc := .scrapped } with now := 512 }
     s.sys.warmAt + 512 ≤ s.now ∧ s.sys.rootErr = false ∧ s.upd.recoverNext = false ∧ s.upd.lc = .scrapped) ∧
    (let s : State := { State.reset with locks := { leases := [(0, some { addr := 8, owner := ownerHost 1, deadline := 99 })] } }
     ∃ l, mget none s.locks.leases 0 = some l ∧ l.owner = ownerHost 1) ∧
    State.reset.partOf kIrq 63 = some 0 :=
  ⟨by decide, by decide, by decide, by decide, ⟨_, rfl, by decide⟩, by decide⟩

/-- The least image that the start check accepts: THREADS at 0x100, START at 0x500 with one start bell, 4 KiB long. -/
def image0 : Mem :=
  [(0x000, 0x41), (0x001, 0x44), (0x002, 0x52), (0x003, 0x4E), (0x004, 1), (0x006, 3), (0x007, 2), (0x009, 2), (0x00D, 0x10),
   (0x040, 5), (0x045, 1), (0x049, 4), (0x050, 6), (0x055, 5), (0x058, 16),
   (0x502, 6), (0x504, 1), (0x508, 4), (0x50A, 6), (0x50C, 0xB0), (0x50D, 4)]

/-- Its checks: only the comparison with the patch level of the part is left, and 0 passes it. -/
theorem test_image0 : sectionsOk image0 = true ∧ imgNum image0 8 1 = 0 ∧ imgNum image0 0 4 = 0x4E524441 ∧ imgNum image0 4 2 = 1 ∧
    imgNum image0 6 1 = 3 ∧ imgNum image0 7 1 = 2 ∧ imgLength image0 = 4096 := by decide +kernel

/-- Straps of the owner port 0. -/
def straps0 : Straps := { owner := 0, hportEn := 1, rootMhz := 2400, hlyEn := 0, recovery := false, testMode := false }

/-- The release from each lifecycle state and with each strap, the presence wait, the window, TAMPER during and outside a wipe. -/
theorem wit_StartsAndSystemInputs :
    (let s := inPhase { phase := .cold } { lc := .opened, slotA := image0, stagingB := true, journal := [{ typ := 5, slotB := false, half := false, imgid := 0, bell := 0, cls := 0 }] }
     let sampled : State := { s with
      now := 0, tbase := 0,
      sys := { s.sys with
        straps := { straps0 with hportEn := straps0.hportEn ||| (1#8 <<< straps0.owner.val) },
        rootErr := decide (straps0.rootMhz.toNat < 1200 ∨ 2400 < straps0.rootMhz.toNat),
        ownerForced := !straps0.hportEn.getLsbD straps0.owner.val, cause := 2,
        presenceLowAt := s.sys.presenceLowAt.map (fun _ => 0), presence := false, presenceArmed := true, window := none } }
     let r := ({ sampled with sys := { sampled.sys with testRefused := straps0.testMode } } : State).replay
     s.sys.phase = .cold ∧ straps0.recovery = false ∧ ¬ (straps0.rootMhz.toNat < 1200 ∨ 2400 < straps0.rootMhz.toNat) ∧
       s.sys.recoveryTaken = false ∧ s.upd.lc = .opened ∧ r.upd.lastConfirmed.isSome = true ∧ r.startCheck (!r.upd.stagingB) .ok = true) ∧
    (inPhase { phase := .cold, recoveryTaken := true } { }).sys.recoveryTaken = true ∧
    (inPhase { phase := .cold } { lc := .blank }).upd.lc = .blank ∧ (inPhase { phase := .cold } { lc := .scrapped }).upd.lc = .scrapped ∧
    (inPhase { phase := .cold } { }).upd.journal = [] ∧
    (let s : State := { inPhase { phase := .presenceWait, rootErr := true } { } with now := wallEnd 2400 0 20500 }
     wallEnd s.mhz 0 20500 ≤ s.now ∧ s.sys.rootErr = true) ∧
    (let s : State := { inPhase { presenceLowAt := some 0 } { } with now := wallEnd 2400 0 20000 }
     s.sys.presenceLowAt = some 0 ∧ s.sys.presence = false ∧ s.sys.phase ≠ .cold ∧ s.sys.phase ≠ .presenceWait ∧ wallEnd s.mhz 0 20000 ≤ s.now) ∧
    (inPhase { window := some 0 } { }).sys.window = some 0 ∧ State.reset.sys.presenceLowAt = none ∧
    ({ State.reset with memS := { wiping := true } } : State).memS.wiping = true := by
  refine ⟨⟨rfl, rfl, by decide, rfl, rfl, rfl, ?_⟩, rfl, rfl, rfl, rfl, by decide, by decide, rfl, rfl, rfl⟩
  obtain ⟨h4, h8, h0, hv, h6, h7, hl⟩ := test_image0
  simp only [State.startCheck]
  rw [show State.slotImg _ _ = image0 from rfl]
  simp [State.headChecks, h4, h8, h0, hv, h6, h7, hl, firstFail, State.keyOk, State.replay, inPhase, UpdS.lastConfirmed, UpdS.lastUpdate,
    State.useConfirmed, State.modUpd, State.slotWhole, State.mramHurt, State.reset]

/-- A free tag and one in use, an offset of a register, of none and of a register outside the port's rights. -/
theorem wit_RegisterRequestsAreAnswered :
    State.reset.portReady 0 31 = true ∧ State.reset.readReady 0 31 = true ∧
    ({ State.reset with hosts := [(0, { reqs := [{ tag := 31, status := 0, data := [], performed := true }] })] } : State).portReady 0 31 = false ∧
    ({ State.reset with hosts := [(0, { reqs := [{ tag := 31, status := 0, data := [], performed := true }] })] } : State).readReady 0 31 = false ∧
    decodeReg 0 0x60000 = some (.belCtl 0) ∧ State.reset.readable (.host 0 0) (.belCtl 0) = true ∧
    State.reset.writable (.host 0 0) (.belCtl 0) = true ∧ State.reset.writable (.host 1 0) (.belCtl 0) = false ∧
    decodeReg 0 0x19FFFC = none := by decide

/-- A request of host 0 with one beat that waits for a desk's port or a bank. -/
def asking (b : Option Barrel) (unit : Nat) (acc : LineAccess) : State := { State.reset with
  now := 8
  hosts := [(0, { reqs := [{ tag := 3, status := 0, data := [0], performed := false, addr := 0x800000, beats := 1, sent := true, left := 1 }] })]
  ports := [{ desk := b, unit := unit, user := .host 0, acc := acc, from_ := 8, tag := 3, off := 0, len := 16 }] }

/-- The windows' first and last granules, a reserved offset, a request across 128 bytes, a segment of the port and of another, a
response that waits and the keyed one. -/
theorem wit_MemoryRequestsAreAnswered :
    hcTarget 0x200000 = .desk 0 0 ∧ hcTarget 0x23FFF0 = .desk 3 0xFFF0 ∧ hcTarget 0x800000 = .hall 0 ∧ hcTarget 0xFFFFF0 = .hall 0x7FFFF0 ∧
    hcTarget 0x240000 = .reserved ∧ requestBad 0x800070 2 = true ∧ requestBad 0x800008 1 = true ∧ requestBad 0x800070 1 = false ∧
    State.reset.hostHall 0 0x7FFFF0 = true ∧ State.reset.hostHall 1 0 = false ∧ (State.reset.memS.wiping && secureAddr 0x7FFFF0) = false ∧
    State.reset.portReady 1 0 = true ∧ State.reset.readReady 0 0 = true ∧
    (∀ status : BitVec 2, let r : Req := { tag := 3, status := status, data := [0], performed := true, readyAt := 2 }
     let s : State := { State.reset with now := 4, hosts := [(0, { reqs := [r] })] }
     (s.host 0).reqs.find? (fun r => decide (r.tag = 3) && r.performed && decide (r.readyAt + (r.data.length - 1) ≤ s.now / 2)) = some r) ∧
    (∀ r ∈ (State.reset.host 0).reqs, r.tag = 3 → r.performed = true → State.reset.now / 2 < r.readyAt + (r.data.length - 1)) ∧
    (let r : Req := { tag := 3, status := 0, data := [0], performed := false, addr := 0x200000, beats := 1 }
     let t : State := { State.reset with now := 4, hosts := [(0, { reqs := [r] })] }
     r.last + 2 ≤ t.now / 2 ∧ (∀ q ∈ t.earlier 0 r, q.overlaps r = true → q.performed = true) ∧ ¬ r.last + 2 ≤ State.reset.now / 2) ∧
    (let s := asking none 0 .read
     s.bankOpen 0 = true ∧ (s.waiting none 0 (.host 0) .read).isSome = true ∧
       ((s.host 0).reqs.find? (fun q => decide (q.tag.toNat = 3))).isSome = true) ∧
    (let s := asking (some 0) 0 (.write 7 0xFFFF)
     s.deskFree 0 = true ∧ (s.waiting (some 0) 0 (.host 0) (.write 7 0xFFFF)).isSome = true ∧ s.sys.phase ≠ .scrapped) := by
  refine ⟨by decide, by decide, by decide, by decide, by decide, by decide, by decide, by decide, by decide, by decide, by decide, by decide,
    by decide, ?_, by decide, by decide, by decide, by decide +kernel⟩
  intro st
  simp [State.host, mget]

/-- A channel of engine 0 in a state, with the engine. -/
def chanOf0 (x : DmaChS) (e : EngineS) : State := { State.reset with now := 64, dma := [(0, x)], engines := [(0, e)] }

theorem wit_DmaCommandsFollowTheirTable :
    ((chanOf0 { } { }).ch 0).st ∈ [ChState.idle, .ended, .aborted, .derr] ∧
    (let s := chanOf0 { st := .queued } { }
     (s.ch 0).st = .queued ∧ (s.eng 0).ahead = none) ∧
    (let s := chanOf0 { st := .queued } { ahead := some { ch := 0, addr := 64, tag := some 5 } }
     ∃ w, (s.eng 0).ahead = some w ∧ w.ch.toNat = (0 : DmaCh).val % 16) ∧
    (let s := chanOf0 { st := .stopped } { }
     (s.ch 0).st = .stopped ∧ (s.eng (engOf 0)).st = .idle) ∧
    (let s := chanOf0 { st := .run } { st := .running, work := .move, d2 := 0x8000000000000000, d3 := 0x8000000000 }
     s.waitsTurn 0 = decide ((s.eng 0).paced = true)) ∧
    (let s := chanOf0 { st := .run, aborting := true } { st := .running, work := .move }
     (s.ch 0).st = .run ∧ (s.ch 0).aborting = true ∧ s.waitsTurn 0 = false ∧ (s.eng (engOf 0)).st = .running ∧ (s.eng (engOf 0)).phase = .none ∧
       s.unperformed 0 (fun _ => true) = false) ∧
    (let s := chanOf0 { st := .run } { st := .running, work := .move, phase := .writing }
     (s.ch 0).st = .run ∧ s.waitsTurn 0 = false ∧ ¬ ((s.eng (engOf 0)).work ≠ .move ∨ (s.eng (engOf 0)).phase = .none)) ∧
    ((chanOf0 { } { st := .stopped }).eng 0).st = .stopped :=
  ⟨by decide, by decide, ⟨_, rfl, by decide⟩, by decide, by decide, by decide, by decide, by decide⟩

/-- A descriptor of two rows of 64 bytes, and one without bytes. -/
def desc0 : EngineS := { st := .running, d0 := 0xFFFFFF200000, d1 := 0xFFFFFF210000, d2 := 0x0008000800100040, d3 := 1 }

theorem wit_DmaEnginesServeAndFollowChains :
    (let s := chanOf0 { st := .queued } { freeAt := some 4 }
     (s.eng 0).st = .idle ∧ sclkAfter 4 ≤ s.now ∧ (s.ch (chOf 0 0)).st = .queued) ∧
    (let s := chanOf0 { st := .run } { st := .running, work := .fetch, phase := .reading }
     let x := s.eng 0
     x.work = .fetch ∧ x.phase = .reading ∧ x.reads = [] ∧ s.engReads 0 = [] ∧ x.ringWait = false ∧
       ({ x with d0 := x.readWord 0, d1 := x.readWord 8, d2 := x.readWord 16, d3 := x.readWord 24 } : EngineS).descBad = true) ∧
    (let s := chanOf0 { st := .run } { st := .running, work := .fetch, phase := .reading, rbuf := [(16, 8)] }
     let x := s.eng 0
     ({ x with d0 := x.readWord 0, d1 := x.readWord 8, d2 := x.readWord 16, d3 := x.readWord 24 } : EngineS).descBad = false) ∧
    (let s := chanOf0 { st := .run } { desc0 with work := .move, row := 2 }
     (s.eng 0).work = .move ∧ (s.eng 0).phase = .none ∧ (s.eng 0).rows ≤ (s.eng 0).row ∧ (s.ch (s.curCh 0)).aborting = false ∧
       (s.eng 0).barrier = false) ∧
    (let s := chanOf0 { st := .run, cptr := 32 } { st := .running, work := .recheckAt 64 }
     (s.eng 0).work = .recheckAt 64 ∧ 64 ≤ s.now ∧ (s.ch (s.curCh 0)).cptr.toNat % 32 = 0) ∧
    (let s := chanOf0 { st := .run } { st := .running, work := .recheckData, phase := .reading, dataAt := 4 }
     let x := s.eng 0
     x.reads = [] ∧ s.engReads 0 = [] ∧ x.ringWait = false ∧ sclkAfter x.dataAt ≤ s.now ∧ (x.readWord 24).getLsbD 0 = false) ∧
    ((({ rbuf := [(24, 1)] } : EngineS).readWord 24).getLsbD 0 = true) ∧
    ((chanOf0 { } { st := .stopping }).eng 0).st = .stopping ∧ (∀ t ∈ (chanOf0 { } { }).tags, t.user.requester ≠ (0 : Engine).val) ∧
    (let s := chanOf0 { st := .run } { desc0 with work := .move }
     let x := s.eng 0
     x.st = .running ∧ x.work = .move ∧ x.phase = .none ∧ x.row < x.rows ∧ x.off < x.len ∧ (s.ch (s.curCh 0)).aborting = false ∧ x.paced = false ∧
       x.shuf = 0 ∧ x.skind = false ∧ x.dkind = false ∧ x.wrts = [] ∧
       dmaTarget (x.srcRow x.row + x.off) = .desk 0 0 ∧ dmaTarget (x.dstRow x.row + x.off) = .desk 1 0 ∧ 0 + x.piece ≤ 0x10000) ∧
    (let s := chanOf0 { st := .run } { desc0 with work := .move, phase := .reading }
     let x := s.eng 0
     x.phase = .reading ∧ x.reads = [] ∧ s.engReads 0 = [] ∧ x.ringWait = false ∧ s.ports = [] ∧ x.getLost = false) ∧
    (let s := chanOf0 { st := .run } { desc0 with work := .move, d3 := 64 }
     (s.eng 0).isEnd = false ∧ (s.eng 0).ahead = none ∧ (s.mayIssue 0).isSome = true ∧ (nextOf (s.eng 0).d3).toNat < 0xFFFFFF000000) ∧
    (let s : State := { chanOf0 { st := .run } { desc0 with work := .move, phase := .reading, serial := 3 } with
       ports := [{ desk := some 0, unit := 0, user := .dma 0, acc := .read, from_ := 64, tag := 6, off := 0, len := 64 }] }
     s.deskFree 0 = true ∧ (s.waiting (some 0) 0 (.dma 0) .read).isSome = true ∧ (s.eng 0).st = .running ∧ 6 = 2 * (s.eng 0).serial ∧
       (s.inst (instDesk 0)).ue = []) := by
  refine ⟨?_, ?_, ?_, ?_, ?_, ?_, ?_, ?_, ?_, ?_, ?_, ?_, ?_⟩ <;> decide +kernel

/-- A tag of engine 0 or of a post in use on port 0. -/
def tagged (w : Bool) (u : TagUser) (e : EngineS) : State :=
  { chanOf0 { st := .run } e with tags := [{ tag := 5, port := 0, user := u, write := w, addr := 64, beats := 1, data := [] }] }

theorem wit_InitiatorAnswersReachTheirRequest :
    (State.reset.sys.phase ≠ .cold ∧ State.reset.sys.rstWarm = false ∧ ({ State.reset with sys := { rstWarm := true } } : State).sys.rstWarm = true) ∧
    (∀ t ∈ State.reset.tags, t.tag = 5 → t.port = 0 → t.write = true) ∧
    (∀ n ∈ [7, 8], let s := tagged false (.chan 0 7) { st := .running, serial := n }
     ∃ x, s.tags.find? (fun t => decide (t.tag = 5) && decide (t.port = 0) && !t.write) = some x ∧ x.user = .chan 0 7 ∧
       (s.eng (engOf 0)).st = .running ∧ (s.eng (engOf 0)).serial = n) ∧
    (let s := tagged false (.ahead 0) { st := .running, ahead := some { ch := 0, addr := 64, tag := some 5 } }
     ∃ x, s.tags.find? (fun t => decide (t.tag = 5) && decide (t.port = 0) && !t.write) = some x ∧ x.user = .ahead 0 ∧
       ∃ w, (s.eng 0).ahead = some w ∧ w.tag = some 5) ∧
    (let s := tagged true (.chan 0 7) { st := .running }
     ∃ x, s.tags.find? (fun t => decide (t.tag = 5) && decide (t.port = 0) && t.write) = some x ∧ x.user = .chan 0 7 ∧
       (s.eng (engOf 0)).st = .running) ∧
    (let s := tagged true (.post 4 0 .commit none) { }
     (∃ x, s.tags.find? (fun t => decide (t.tag = 5) && decide (t.port = 0) && t.write) = some x ∧ x.user = .post 4 0 .commit none) ∧
       (s.ring 4).errAt = none ∧ (∀ y ∈ s.tags, y.tag ≠ 5 → ∀ m w c, y.user ≠ .post 4 m w c)) := by
  refine ⟨by decide, by decide, ?_, ⟨_, rfl, rfl, _, rfl, rfl⟩, ⟨_, rfl, rfl, rfl⟩, ⟨⟨_, rfl, rfl⟩, rfl, by simp [tagged]⟩⟩
  intro n hn
  exact ⟨_, rfl, rfl, rfl, rfl⟩

/-- Channel 3, in its own partition's hands. -/
def pinned (p : PinS) : State := { State.reset with now := 4096, pins := [(3, p)] }

/-- A locked channel, a switch that waits, an owner outside MAINT, a MODE of 6, and each step of the lock. -/
theorem wit_PinRegisterWrites :
    State.reset.pinWritable (.host 0 0) 3 = true ∧ State.reset.pinWritable (.host 1 0) 3 = false ∧
    ((pinned { locked := true }).pin 3).locked = true ∧ ((pinned { pend := some (true, 2) }).pin 3).pend = some (true, 2) ∧
    ((pinned { live := true }).pin 3).live ≠ false ∧ State.reset.setOk 3 0 = true ∧ State.reset.setOk 3 0xFFFFFFFF = false ∧
    (let s := (runner { }).setReg (.pinOwner 3) 0x80000000
     s.pinOwner 3 = some 0 ∧ (s.thr 0).st ≠ .maint) ∧
    ((0x60 : Word).extractLsb' 4 3).toNat = 6 ∧ State.reset.portInside (.host 0 0) 15 = true ∧
    (let s : State := { State.reset with now := 2148, lockSeq := { step := 1, port := 0, host := 0, last := 100 } }
     s.lockSeq.step = 1 ∧ s.now - s.lockSeq.last ≤ 2048) ∧
    (let s : State := { State.reset with now := 2149, lockSeq := { step := 2, port := 0, host := 0, last := 100 } }
     s.lockSeq.step = 2 ∧ 2048 < s.now - s.lockSeq.last) := by decide

/-- A head entry at its time with one behind it that is late and one that is not, a shifter that drives and one that takes in, each kind of
input transition, a pass that has run and a pair that has aged. -/
theorem wit_PinEventsAct :
    (let s : State := { pinned { eq := [{ time := 9, fine := 1, level := true, z := false }, { time := 10, fine := 0, level := false, z := false }] } with tbase := 9 }
     (s.pin 3).lateAt = none ∧ (s.pin 3).headAt ≠ s.now ∧ (9 : DWord) = s.tbase ∧ s.tbase.toNat + 2 > (10 : DWord).toNat ∧
       s.tbase.toNat + 2 ≤ (11 : DWord).toNat) ∧
    (pinned { }).edgeDue 3 = false ∧
    (let s := (pinned { cfg := 8 }).setReg (.pinShcfg 3) 0x80000000
     s.shiftDue 3 = true ∧ s.shiftsOut 3 = true) ∧
    (let s := (pinned { cfg := 0xC0 }).setReg (.pinShcfg 3) 0x80000000
     s.shiftDue 3 = true ∧ s.shiftsOut 3 = false) ∧
    (((pinned { padCfg := 0x40000000 }).pin 3).padCfg.extractLsb' 30 2).toNat = 1 ∧ ((pinned { }).pin 3).path ≠ true ∧
    ((pinned { }).pin 3).filt ≠ true ∧ (∀ x ∈ (pinned { }).agenda, x.filterOf 3 = false) ∧
    (let s : State := { State.reset with now := 32768 }
     (s.cal 0).passDone = false ∧ (s.cal 0).startAt + 32768 ≤ s.now) ∧
    (let s : State := { State.reset with now := 2400 * 500000 }
     s.mhz * 500000 ≤ s.now - mget 0 (s.cal 0).last 15) := by decide

/-- Sinc unit 5 with its configuration, its clock word and its state, in cycle 100. -/
def sincOn (cfg clk : Word) (x : SincS) : State :=
  (({ State.reset with now := 100, sincs := [(5, x)] } : State).setReg (.sncCfg 5) cfg).setReg (.sncClk 5) clk

/-- A sample that is due, one that comes too soon, none due, and a decimation that is full. -/
theorem wit_SincUnitsFilterTheirInput :
    (let s := sincOn 0x80000040 9 { startAt := 0 }
     s.sincDue 5 = true ∧ s.sincTooSoon 5 = false) ∧
    (let s : State := { sincOn 0x80000040 0x40030000 { lastSample := some 98 } with pins := [(3, { filt := true })] }
     s.sincDue 5 = true ∧ s.sincTooSoon 5 = true) ∧
    State.reset.sincDue 5 = false ∧
    (let s := sincOn 0x80000004 9 { count := 4 }
     (s.reg (.sncCfg 5)).getLsbD 31 = true ∧ 0 < ((s.reg (.sncCfg 5)).extractLsb' 0 9).toNat ∧
       ((s.reg (.sncCfg 5)).extractLsb' 0 9).toNat ≤ (s.sinc 5).count) ∧
    (let s := sincOn 0x80000100 9 { count := 256 }
     ((s.reg (.sncCfg 5)).extractLsb' 0 9).toNat = 256 ∧ 256 ≤ (s.sinc 5).count) := by decide

/-- A timer at its top, at its valley, at a match of unit 7 and before a start. -/
theorem wit_TimersTopValleyMatchAndStart :
    (({ State.reset with timers := [(1, { topDue := true })] } : State).timer 1).topDue = true ∧
    (({ State.reset with timers := [(1, { valleyDue := true })] } : State).timer 1).valleyDue = true ∧
    (let s : State := ({ State.reset with timers := [(1, { counted := true, cnt := 9, r := 20, up := true })], units := [(7, { act := 9 })] } : State).setReg
       (.timCcCtl 7) 0x40000000
     s.ccFunc 7 = 1 ∧ (s.timer (timerOf 7)).counted = true ∧ (s.unit 7).matchAt ≠ some s.now ∧ (s.unit 7).act.toNat ≤ (s.timer (timerOf 7)).r.toNat ∧
       matchPos (s.isDual (timerOf 7)) (s.timer (timerOf 7)).up (s.unit 7).act (s.unit 7).actFine = some (s.timer (timerOf 7)).cnt.toNat) ∧
    (let s : State := { State.reset with now := 4, gstarts := [(0, { armed := true, mask := [255] })] }
     s.startDue 0 = true ∧ ∃ k ∈ (s.gstart 0).mask, fin 256 k = 255) := by decide

/-- A member of a class stages, a host does not; a tag that is free, and the rights. -/
theorem wit_TimerRegistersWriteAndRead :
    ((runner { }).setReg (.thrCfg 0) 0x10).stager (.thread 0) = some 0 ∧ State.reset.stager (.host 0 0) = none ∧
    State.reset.sys.phase ≠ .scrapped ∧ State.reset.readReady 0 0 = true ∧ State.reset.readable (.host 0 0) (.timCapw 1023) = true ∧
    State.reset.readable (.thread 0) (.timCapw 1023) = true ∧ State.reset.readable (.host 0 0) .timTbaseLo = true ∧
    State.reset.readable (.thread 0) .timTbaseLo = true := by decide

/-- Station 2 with trip 5, an action and its state. -/
def stationed (ctl : Word) (x : StationS) (on : Bool) : State :=
  ((({ State.reset with now := 50, stations := [(2, x)], tripsIn := if on then [(5, true)] else [] } : State).setReg (.trpStnTmask 2 0) 0x20).setReg
    (.trpStnPins 2) 1).setReg (.trpStnCtl 2) ctl

theorem wit_ConvertersAndStationsAct :
    (let s : State := { State.reset with cvps := [(3, { queue := [{ word := 1, tag := 0, time := 0, writeAt := 0, barrel := 0 }] })] }
     ∃ e rest, (s.cvp 3).queue = e :: rest ∧ e.writeAt ≤ s.now) ∧
    (let s := (State.reset.setReg (.cvpCfg 3) 0x80000000)
     (s.reg (.cvpCfg 3)).getLsbD 31 = true ∧ (State.reset.reg (.cvpCfg 3)).getLsbD 31 = false ∧ ∀ e ∈ s.cvps, 3 < e.1 → e.2.lastAt ≠ some s.now) ∧
    (let s := stationed 0x40000000 { } true
     s.stnHasTrip 2 5 = true ∧ s.blankOpen 2 = false ∧ (s.stn 2).counting = [] ∧ s.stnAction 2 = 1 ∧ s.stnPins 2 = [0]) ∧
    (let s := stationed 0x80000000 { } true
     s.stnAction 2 = 2 ∧ s.stnHasTrip 2 5 = true) ∧
    (stationed 0x50000000 { blankEnd := some 51 } true).blankOpen 2 = true ∧
    (let s := stationed 0x40000000 { counting := [5], acted := [0] } false
     s.tripsIn = [] ∧ (s.stn 2).counting ≠ [] ∧ (s.stn 2).latched = false) ∧
    (let s := stationed 0x50000000 { blankEnd := some 50 } true
     (s.stn 2).blankEnd = some 50 ∧ 50 ≤ s.now ∧ s.blankOpen 2 = false) ∧
    (let s := stationed 0x60000000 { latched := true, acted := [0], clearAt := some 50 } false
     (s.stn 2).latched = true ∧ (s.stn 2).counting = [] ∧ (s.stn 2).clearAt = some s.now ∧ s.tripsIn = []) :=
  ⟨⟨_, _, rfl, by decide⟩, by decide, by decide, by decide, by decide, by decide, by decide, by decide⟩

/-- A port and a bank that are free and ones that are not, lines on both sides of 64 KiB, and a reservation that a write touches. -/
theorem wit_SharedPortsReadAndWrite :
    (State.reset.deskFree 0 = true ∧ State.reset.bankOpen 1 = true ∧ State.reset.waiting none 1 .scrub .read = none) ∧
    (let s : State := { State.reset with turns := [(0, { lastAt := some 0 }), (5, { lastAt := some 0 })] }
     s.deskFree 0 = false ∧ s.bankOpen 1 = false) ∧
    ((1023 : BitVec 13).toNat < 1024 ∨ PortUser.dma 0 = .test ∨ PortUser.dma 0 = .scrub) ∧
    ¬ ((1024 : BitVec 13).toNat < 1024 ∨ PortUser.dma 0 = .test ∨ PortUser.dma 0 = .scrub) ∧
    ((1024 : BitVec 13).toNat < 1024 ∨ PortUser.test = .test ∨ PortUser.test = .scrub) ∧
    (let s := runner { resv := some 24 }
     (s.thr 0).resv = some 24 ∧ 24 ≤ 16 * (1 : BitVec 19).toNat + 15 ∧ 16 * (1 : BitVec 19).toNat + 15 < 24 + 8) := by decide

/-- An instance in a step of its test. -/
def testing (x : InstS) : State := { State.reset with insts := [(4, x)] }

theorem wit_TestsScrubbingAndRepair :
    (testing { now_ := true, marked := [130] }).testDue 4 = true ∧ State.reset.testDue 4 = false ∧
    (let s : State := { testing { step := .copy, lines := [(0, 64)], lineAt := 2 } with now := 3 }
     (s.inst 4).step = .copy ∧ s.copied 4 = true) ∧
    (let s : State := { testing { step := .test, marked := [3], spares := [1, 2] } with now := 2560 }
     (s.inst 4).step = .test ∧ (s.inst 4).stepAt + 2560 ≤ s.now ∧ ((s.inst 4).spares.filter (fun l => decide (l / 64 = 0))).length = 2) ∧
    ((testing { step := .repair }).inst 4).step = .repair ∧
    (let s : State := { testing { step := .restore, region := 1, next := 1, lines := [(0, 64)] } with now := 3 }
     (s.inst 4).step = .restore ∧ s.copied 4 = true) ∧
    (State.reset.setReg .memEccctl 0x80000000).scrubs = true ∧ (State.reset.setReg .memEccctl 0).scrubs = false ∧
    State.reset.poisoned 4 0 1 = false ∧ (testing { ue := [0] }).poisoned 4 0 1 = true ∧
    lineOf 4 0 ∈ ((testing { ce := [lineOf 4 0] }).inst 4).ce ∧
    (let s := inPhase { } { stage := .armed, slotB := [(9, 1), (64, 1), (69, 1), (72, 4), (256, 7)] }
     s.upd.stage = .armed ∧ s.upd.copyDone = false ∧ s.sys.phase ≠ .cold ∧
       (sectsOf s.stagingImg 1).any (fun x => s.mramHurt (slotWord s.upd.stagingB + x.off / 32) (ceilDiv x.len 32)) = false ∧
       (∃ x ∈ sectsOf s.stagingImg 1, (∀ y ∈ sectsOf s.stagingImg 1, y.arg % 4 = x.arg % 4 → y = x) ∧ x.dest + x.len / 4 ≤ 65536 ∧ 0 < x.len / 4)) := by
  refine ⟨?_, ?_, ?_, ?_, ?_, ?_, ?_, ?_, ?_, ?_, ?_, ?_⟩ <;> decide +kernel

/-- Ring 5 with its state, and its descriptor in hall at 0xA0: base 0x1000 in hall, 16 entries, NTHR 1. -/
def ring5 (x : RingS) : State := { State.reset with rings := [(5, x)], hall := [(0xA1, 0x10), (0xA7, 0x80), (0xA8, 4), (0xAD, 1)] }

theorem wit_RingCommandsFollowTheirTable :
    (let s := ring5 { }
     s.partOf kRing 5 = some 0 ∧ (s.ring 5).loaded = false ∧
       s.loadErr 0 5 (s.hallWord 0xA0) (s.hallWord 0xA8) (s.hallWord 0xB0) (s.hallWord 0xB8) = 0) ∧
    (ring5 { loaded := true }).partOf kRing 5 ≠ some 1 ∧
    (let s := ring5 { loaded := true }
     (s.ring 5).loaded = true ∧ (s.ring 5).prod = (s.ring 5).cons ∧ (s.ring 5).rsv = 0 ∧ s.ringItems 5 = 0) ∧
    (let x := (ring5 { loaded := true, pside := true, size := 4, prod := 20, cons := 8, nen := true, nthr := 16 }).ring 5
     let d := ((24 : Word) - x.prod).toNat; let used := (x.prod - x.cons).toNat
     x.loaded = true ∧ x.pside = true ∧ 0 < d ∧ d + used ≤ 2 ^ x.size ∧ x.nen = true ∧ used < x.nthr ∧ x.nthr ≤ ((24 : Word) - x.cons).toNat) ∧
    (let x := (ring5 { loaded := true, cside := true, size := 4, prod := 1, cons := 0xFFFFFFFF }).ring 5
     x.loaded = true ∧ x.cside = true ∧ 0 < ((1 : Word) - x.cons).toNat ∧ ((1 : Word) - x.cons).toNat ≤ (x.prod - x.cons).toNat) := by decide

/-- Ring 5 in hall, or in system memory, with a started item and what stands at the memory ports. -/
def queued5 (hall : Bool) (i : QmItem) (ports : List PortReq) : State :=
  { ring5 { loaded := true, inHall := hall, base := 0x1000, size := 4 } with now := 40, qm := { started := [(4, i)] }, ports := ports }

theorem wit_QueueManagerMovesEntries :
    State.reset.qm.items = [] ∧
    (let s : State := { ring5 { loaded := true, inHall := true, base := 0x1000, size := 4 } with qm := { items := [.post 5 0 none .commit] } }
     ∃ i rest, s.qm.items = i :: rest) ∧
    (let s := queued5 true (.post 5 0 (some (0, 2)) .commit) [{ desk := none, unit := 3, user := .queueManager, acc := .read, from_ := 6, tag := 4, off := 0, len := 16 }]
     ∃ p ∈ s.ports, p.user = .queueManager ∧ p.tag = 4) ∧
    (let s := queued5 true (.post 5 0 (some (0, 2)) .commit) []
     s.qm.started = [(4, .post 5 0 (some (0, 2)) .commit)] ∧ s.ports = [] ∧ (s.ring 5).inHall = true ∧ s.memS.wiping = false ∧
       (s.ring 5).errAt = none ∧ s.tags = [] ∧ (s.ring 5).base.toNat + 64 * ((s.ring 5).next.toNat % 2 ^ (s.ring 5).size) + 64 ≤ 0x800000) ∧
    (let s := queued5 false (.post 5 0 none .commit) []
     (s.ring 5).inHall = false ∧ (s.mayIssue 16).isSome = true) ∧
    (let s : State := { queued5 false (.post 5 0 none .commit) [] with iports := [(0, { lastAt := some 20, last := 0 }), (1, { lastAt := some 20, last := 0 })] }
     (s.ring 5).inHall = false ∧ s.mayIssue 16 = none) ∧
    (queued5 true (.fill 5 3 0 64 true) []).qm.started = [(4, .fill 5 3 0 64 true)] ∧
    (let s : State := { queued5 true (.take 5 3 0 7) [] with engines := [(0, { ringWait := true, serial := 7 })] }
     s.qm.started = [(4, .take 5 3 0 7)] ∧ (s.eng (engOf 0)).ringWait = true ∧ (s.eng (engOf 0)).serial = 7) :=
  ⟨rfl, ⟨_, _, rfl⟩, by decide, ⟨rfl, rfl, rfl, rfl, by decide, rfl, by decide⟩, by decide +kernel, by decide +kernel, rfl, by decide +kernel⟩

/-- A line with its counts, and a busy resource. -/
theorem wit_InterruptLinesAndAssignment :
    (let s : State := ({ State.reset with now := 80000, irqs := [(7, { pend := 1, startAt := some 0 })] } : State).setReg (.irqLtime 7) 1
     (s.irq 7).isAssert = false ∧ 0 < (s.irq 7).pend ∧ (s.irq 7).startAt = some 0 ∧ 0 < ((s.reg (.irqLtime 7)).extractLsb' 0 16).toNat ∧
       0 + 8 * usLclk s.mhz ((s.reg (.irqLtime 7)).extractLsb' 0 16).toNat ≤ s.now) ∧
    8 * (15 : Fin 1024).val < paCount 0 ∧ ¬ 8 * (16 : Fin 1024).val < paCount 0 ∧ (controlled 1 { st := .run }).assignBusy 0 (8 * 0 + 0) = true ∧
    State.reset.assignBusy 0 127 = false := by decide

/-- A lock command of port 0 for the word at 8, in front of a word of hall. -/
def locking (op : BitVec 3) (l : LockS) (hall : Mem) : State :=
  ({ State.reset with hall := hall, locks := { l with queue := [.host 0 op 8 1 0 5] } } : State).setReg (.hstPcfg 0) 4

/-- A word that is open, the port's own, another's, and abandoned; a lease that fits and none; a full watch list; an abandonment. -/
theorem wit_LocksFollowTheirTable :
    ((State.reset.setReg (.hpsHaddr 0) 8).reg (.hpsHaddr 0)).setWidth 23 = 8#23 ∧ State.reset.partOf kSeg 0 = some 0 ∧
    (State.reset.hps 0).busy = false ∧
    (let s := locking 1 { } []
     let w : DWord := BitVec.ofNat 64 (leNat (s.hallRead 8 8))
     s.poisoned instHall 8 8 = false ∧ w.extractLsb' 0 16 = 0#16 ∧ s.leaseOf 8 = none ∧ s.freeLease = some 0 ∧
       s.leasesOf (some 0) < ((s.reg (.hstPcfg 0)).extractLsb' 0 11).toNat) ∧
    (let s := locking 2 { } [(9, 1)]
     let w : DWord := BitVec.ofNat 64 (leNat (s.hallRead 8 8))
     w.extractLsb' 0 16 = BitVec.ofNat 16 (0x100 + (0 : Host).val) ∧ w.getLsbD 63 = false) ∧
    (let s := locking 4 { } [(8, 7)]
     let w : DWord := BitVec.ofNat 64 (leNat (s.hallRead 8 8))
     ¬ (w.extractLsb' 0 16 = 0#16 ∨ w.getLsbD 63 = true) ∧ (s.locks.watches.filter (fun y => decide (y.who ≠ .host 0 ∨ y.addr ≠ 8))).length < 256) ∧
    (let s := locking 1 { leases := [(3, some { addr := 8, owner := 0x100, deadline := 9 })] } [(9, 1)]
     s.leaseOf 8 = some (3, { addr := 8, owner := 0x100, deadline := 9 }) ∧
       mget none s.locks.leases 3 = some { addr := 8, owner := 0x100, deadline := 9 }) ∧
    (let s := State.reset.setReg (.hstPcfg 0) 0
     ((s.reg (.hstPcfg 0)).extractLsb' 0 11).toNat ≤ s.leasesOf (some 0)) ∧
    State.reset.locks.queue = [] ∧
    (let s : State := { State.reset with
       locks := { queue := [.abandon 8 1 true], watches := [{ who := .thread 2, addr := 8, input := 4 }] }, evmap := [(68, (0x7E8, 1))] }
     s.locks.queue = [.abandon 8 1 true] ∧ ∃ y ∈ s.locks.watches, y.addr = 8 ∧ y.who = .thread 2 ∧
       (mget ((0x7FF : BitVec 11), (0 : BitVec 2)) s.evmap (32 * (2 : Tid).val + y.input.toNat)).1 = 0x7E8) := by decide +kernel

/-- The endpoint with its links UP and their straps, and HLY_CTL. -/
def linked (ctl : Word) (x : HlyS) : State :=
  ({ State.reset with hly := { x with up := .up, dn := .up }, sys := { } } : State).setReg .hlyCtl ctl
/-- A frame of a type, of no payload, for a node and from one. -/
def frameOf (typ : BitVec 4) (bc : Bool) (dst src : BitVec 14) : Frame :=
  { typ := typ, bc := bc, upw := false, dst := dst, src := src, hops := 2, len := 0, seq := 0, payload := [] }

theorem wit_works (ctl : Word) (x : HlyS) : (linked ctl x).works := by exact ⟨by simp [linked, State.setReg, State.reset], rfl⟩
/-- Frames that a working node takes. -/
theorem takes_of {s : State} {f : Frame} (h : s.hears f.upw) (k : f.len.toNat ≤ 65 ∧ ¬ (s.heads ∧ f.src = 0) ∧
    (f.bc = true ∨ (s.heads ∧ f.dst = 0) ∨ (¬ s.heads ∧ s.hly.posv = true ∧ f.dst = s.hly.pos))) : s.takes f := ⟨h, k⟩

theorem wit_hears (ctl : Word) (x : HlyS) (down : Bool) : (linked ctl x).hears down := ⟨wit_works _ _, by
    show (3#2).getLsbD (if down = true then 1 else 0) = true
    cases down <;> decide⟩

theorem wit_LinksCarryAndForwardFrames :
    (State.reset.works ∧ State.reset.sys.straps.hlyEn.getLsbD 1 = true ∧ State.reset.linkIs true .down) ∧
    ({ State.reset with hly := { up := .train } } : State).linkIs false .train ∧ (linked 0 { }).works ∧ (linked 0 { }).linkIs true .up ∧
    ((linked 0 { laneDn := { queue := [frameOf 2 false 0 0] } }).laneOf true).queue = [frameOf 2 false 0 0] ∧
    ((linked 0 { }).laneOf true).busyTo ≤ (linked 0 { }).now ∧
    (linked 0x40000000 { posv := true, pos := 3 }).passes (frameOf 10 false 4 0) ∧ (linked 0x40000000 { posv := true, pos := 3 }).passes (frameOf 1 true 3 0) ∧
    (linked 0 { }).hears true ∧ (∀ down, ¬ ({ State.reset with sys := { rootErr := true } } : State).hears down) ∧ ¬ (linked 0 { }).passes (frameOf 10 false 4 0) ∧ (linked 0 { posv := true, pos := 3 }).takes (frameOf 10 false 3 0) :=
  ⟨⟨by exact ⟨by decide, rfl⟩, by decide, rfl⟩, rfl, wit_works _ _, rfl, rfl, by decide,
   by simp only [State.passes, State.heads]; decide, by simp only [State.passes, State.heads]; decide, wit_hears _ _ _,
   (by rintro down ⟨⟨-, h⟩, -⟩; cases h),
   by simp only [State.passes, State.heads]; decide, takes_of (wit_hears _ _ _) (by simp only [State.heads]; decide)⟩

/-- A head and a node, a tail, a BEACON on each side of the limit, and a slew that is owed. -/
theorem wit_PositionsAndChainTime :
    (linked 0x80000000 { }).heads ∧ ¬ (linked 0 { }).heads ∧ (linked 0 { }).works ∧ (frameOf 4 true 0 0).len.toNat ≤ 65 ∧
    (linked 0x80000000 { }).takes (frameOf 5 false 0 9) ∧ (linked 0 { }).takes (frameOf 8 true 0 0) ∧
    (linked 0 { statusAt := some 5 }).hly.statusAt = some 5 ∧ (linked 0 { }).takes (beaconFrame (List.replicate 16 0) 4) ∧
    (0 : Int).natAbs ≤ 32 * (((linked 0 { }).reg .hlyTctl).extractLsb' 16 16).toNat ∧
    ((linked 0 { align := .locked, slewOwed := 2 }).hly.align = .locked ∧ (linked 0 { align := .locked }).hly.slewAt ≤ (linked 0 { }).now) ∧
    (linked 0 { }).hly.up = .up ∧ State.reset.hly.up ≠ .up :=
  ⟨by simp only [State.heads]; decide, by simp only [State.heads]; decide, wit_works _ _, by decide, takes_of (wit_hears _ _ _) (by simp only [State.heads]; decide),
   takes_of (wit_hears _ _ _) (by simp only [State.heads]; decide), rfl, takes_of (wit_hears _ _ _) (by simp only [State.heads]; decide), by decide, by decide, rfl, by decide⟩

/-- An update in a stage, with an order and a switch of class 2. -/
def updating (x : UpdS) : State := inPhase { } x

theorem wit_UpdatesFollowTheirStages :
    (let s : State := { updating { stage := .verified, imgId := 7 } with bells := [(2, { running := true, en := true })] }.setReg (.belPeriod 2) 1200
     let t : State := { s with sys := { s.sys with holdup := true } }
     t.upd.stage = .verified ∧ t.upd.imgId = 7 ∧ t.refusalBits = 0 ∧ t.bellComes 2 1 ∧ ¬ t.bellComes 2 0 ∧ s.refusalBits ≠ 0) ∧
    (let s := updating { stage := .armed, order := some { imgid := 0, cls := 2, bell := 9 } }
     s.upd.stage = .armed ∧ s.upd.order = some { imgid := 0, cls := 2, bell := 9 }) ∧
    (updating { stage := .provisional }).upd.stage = .provisional ∧ (updating { stage := .switching }).upd.stage = .switching ∧
    ((updating { stage := .download }).upd.stage = .download ∧ (((updating { }).reg .updChunk).extractLsb' 8 12).toNat < 3072) ∧
    (let s := updating { stage := .download }
     s.works ∧ s.takes (frameOf 6 true 0 0) ∧ (frameOf 6 true 0 0).src = 0 ∧ fieldAt (frameOf 6 true 0 0) 0 2 = s.upd.imgId.toNat % 65536 ∧
       fieldAt (frameOf 6 true 0 0) 2 2 < 49152) ∧
    ((updating { stage := .verifying }).upd.stage = .verifying ∧ (updating { }).sys.phase ≠ .cold ∧
      (inPhase { phase := .cold } { stage := .verifying }).sys.phase = .cold) ∧
    (let s := (updating { stage := .verified }).setReg .hlyCtl 0x80000000
     s.heads ∧ s.upd.stage = .verified ∧ s.sys.phase ≠ .recovery) ∧
    (let s := updating { stage := .switching, confirmBy := some 0 }
     s.upd.confirmBy = some 0 ∧ 0 ≤ s.now) :=
  ⟨⟨rfl, rfl, by decide +kernel, by simp only [State.bellComes]; decide, by simp only [State.bellComes]; decide, by decide +kernel⟩,
   ⟨rfl, rfl⟩, rfl, rfl, by decide, ⟨by exact ⟨by decide, rfl⟩, takes_of ⟨by exact ⟨by decide, rfl⟩, by decide⟩ (by simp only [State.heads]; decide), by decide, by decide, by decide⟩, by decide,
   ⟨by simp only [State.heads]; decide, rfl, by decide⟩, by decide⟩

/-- The bytes below a write read as before. -/
theorem peeks_pokes_below (l : List Byte) (m : Mem) (a : Nat) : ∀ n b, b + n ≤ a → peeks (pokes m a l) b n = peeks m b n := by
  intro n
  induction n with
  | zero => intro b _; rfl
  | succ n ih => intro b h; simp only [peeks]; rw [ih (b + 1) (by omega), peek_pokes_outside l m a b (Or.inl (by omega))]

/-- The number that bytes were made of. -/
theorem leNat_leBytes (n : Nat) : ∀ v, leNat (leBytes v n) = v % 256 ^ n := by
  induction n with
  | zero => intro v; simp [leBytes, leNat, Nat.mod_one]
  | succ n ih => intro v; rw [leBytes, leNat, ih, BitVec.toNat_ofNat, show (256 : Nat) ^ (n + 1) = 256 * 256 ^ n from Nat.pow_succ', Nat.mod_mul]

/-- The digest of no bytes, as a settings copy of 64 bytes holds it. -/
def digest0 : List Byte := leBytes (Config.sha384 []).toNat 48
/-- A settings copy of 64 bytes that verifies. -/
def copy0 : SetCopy := { len := 64, data := pokes [(0, 0x53), (1, 0x45), (2, 0x54), (3, 0x53), (12, 64)] 16 digest0, blocks := [512] }

theorem test_copy0_head (b n : Nat) (h : b + n ≤ 16) :
    imgNum copy0.data b n = imgNum [(0, 0x53), (1, 0x45), (2, 0x54), (3, 0x53), (12, 64)] b n := by
  simp only [imgNum, copy0]; rw [peeks_pokes_below _ _ _ _ _ h]

theorem test_copy0_digest : BitVec.ofNat 384 (imgNum copy0.data 16 48) = Config.sha384 (peeks copy0.data 64 (copy0.len - 64)) := by
  have hl : digest0.length = 48 := by simp only [digest0]; generalize (Config.sha384 []).toNat = v; rfl
  have h : peeks copy0.data 16 48 = digest0 := by rw [← hl]; exact peeks_pokes _ _ _
  rw [imgNum, h, digest0, leNat_leBytes]
  show BitVec.ofNat 384 ((Config.sha384 []).toNat % 256 ^ 48) = Config.sha384 []
  generalize Config.sha384 [] = v
  have hv : v.toNat < (256 : Nat) ^ 48 := by
    rw [show (256 : Nat) = 2 ^ 8 from rfl, ← Nat.pow_mul]
    exact v.isLt
  rw [Nat.mod_eq_of_lt hv, BitVec.ofNat_toNat, BitVec.setWidth_eq]

theorem wit_SettingsAndLifecycle :
    State.reset.sys.phase ≠ .recovery ∧ (inPhase { phase := .recovery } { }).sys.phase = .recovery ∧
    ((updating { stage := .switching }).upd.half = false ∧ ((State.reset.reg .updSeth).getLsbD 31 = false)) ∧ State.reset.upd.openCopy = none ∧
    (let s := updating { openCopy := some (true, copy0) }
     s.upd.openCopy = some (true, copy0) ∧ 64 ≤ copy0.len ∧ copy0.len ≤ 32768 ∧ imgNum copy0.data 0 4 = 0x53544553 ∧
       imgNum copy0.data 4 4 = imgNum s.stagingImg 0x01C 4 ∧ imgNum copy0.data 12 4 = copy0.len ∧
       BitVec.ofNat 384 (imgNum copy0.data 16 48) = Config.sha384 (peeks copy0.data 64 (copy0.len - 64))) ∧
    (let s := inPhase { phase := .recovery } { stage := .verified, lc := .owned }
     s.sys.phase = .recovery ∧ s.upd.stage = .verified ∧ s.upd.lc = .owned) ∧
    (let s := (inPhase { window := some 3 } { lc := .opened }).setReg (.lcsOkh 11) 1
     s.sys.window = some 3 ∧ (s.upd.lc, LcState.owned) ∈ [(LcState.opened, LcState.owned)] ∧ ¬ (∀ k, s.reg (.lcsOkh k) = 0)) ∧
    (∀ k, (inPhase { window := some 3 } { lc := .opened }).reg (.lcsOkh k) = 0) ∧ State.reset.sys.window = none ∧ State.reset.isOwner (.host 0 0) = true :=
  ⟨by decide, rfl, by decide, rfl,
   ⟨rfl, by decide, by decide, (test_copy0_head 0 4 (by decide)).trans (by decide), (test_copy0_head 4 4 (by decide)).trans (by decide),
     (test_copy0_head 12 4 (by decide)).trans (by decide), test_copy0_digest⟩,
   by decide, ⟨by decide, by decide, by decide⟩, by decide, rfl, by decide⟩

/-- A drill in progress. -/
def drilling (d : DrillRun) : State := { State.reset with now := 50000, drill := { cur := some d } }

theorem wit_DrillsRunAndEnd :
    State.reset.drill.cur = none ∧ (drilling { code := 0x15, arg0 := 0, arg1 := 0, start := 0, left := 0, bad := 0, saved := [] }).drill.cur.isSome = true ∧
    (let s := State.reset.setReg .drlArg0 0x10
     1 ≤ ((s.reg .drlArg0).extractLsb' 4 2).toNat) ∧
    (let s := (runner { }).setReg (.pinOwner 3) 0x80000000
     s.pinOwner 3 = some 0 ∧ (s.thr 0).st ≠ .maint) ∧
    ((State.reset.setReg .hlyCtl 0).reg .hlyCtl).getLsbD 30 = false ∧ (State.reset.inst 12).retired = none ∧ ¬ (13 : Nat) < 13 ∧
    (let d : DrillRun := { code := 0x10, arg0 := 0x10, arg1 := 8, start := 0, left := 0, bad := 0, saved := [(3, 0)] }
     (drilling d).drill.cur = some d ∧ (d.saved.map (·.1)).Nodup ∧ (∀ e ∈ d.saved, e.1 < 512)) ∧
    (let d : DrillRun := { code := 0x15, arg0 := 0, arg1 := 0, start := 0, left := 0, bad := 0, saved := [] }
     d.code = 0x15 ∧ wallEnd (drilling d).mhz d.start 10 ≤ (drilling d).now) ∧
    ((drilling { code := 0x01, arg0 := 4, arg1 := 0, start := 0, left := 0, bad := 0, saved := [] }).inst 4).step = .idle ∧
    State.reset.sys.straps.hlyEn.getLsbD 1 = true ∧ State.reset.sys.straps.hlyEn.getLsbD 0 = true := by decide
end Sys2Proof.Tests
end

section
/-! PROOFS. No write of a register moves the clock: `now` is the tick's alone (log entry 1). One law per definition below `State.writeReg`,
in the order of the model's files. -/

namespace Sys2Proof.Machine

/-! ### Branches and folds -/

@[simp] theorem State.now_ite (c : Prop) [Decidable c] (s t : State) : (if c then s else t).now = if c then s.now else t.now :=
  apply_ite State.now c s t

@[simp] theorem State.now_foldl {α : Type} {f : State → α → State} (hf : ∀ t x, (f t x).now = t.now) (s : State) (l : List α) :
    (l.foldl f s).now = s.now := by
  induction l generalizing s with
  | nil => rfl
  | cons x rest ih => exact (ih _).trans (hf s x)

@[simp] theorem State.now_foldr {α : Type} {f : α → State → State} (hf : ∀ x t, (f x t).now = t.now) (s : State) (l : List α) :
    (l.foldr f s).now = s.now := by
  induction l with
  | nil => rfl
  | cons x rest ih => exact (hf x _).trans ih

/-! ### Store.lean -/

@[simp] theorem State.modThr_now (s : State) (t : Tid) (f : Thread → Thread) : (s.modThr t f).now = s.now := by
  simp [State.modThr]

@[simp] theorem State.modBar_now (s : State) (b : Barrel) (f : BarrelS → BarrelS) : (s.modBar b f).now = s.now := rfl
@[simp] theorem State.modBell_now (s : State) (b : Bell) (f : BellS → BellS) : (s.modBell b f).now = s.now := rfl
@[simp] theorem State.modPin_now (s : State) (c : Chan) (f : PinS → PinS) : (s.modPin c f).now = s.now := rfl
@[simp] theorem State.modSinc_now (s : State) (n : SincNo) (f : SincS → SincS) : (s.modSinc n f).now = s.now := rfl
@[simp] theorem State.modTimer_now (s : State) (n : TimerNo) (f : TimerS → TimerS) : (s.modTimer n f).now = s.now := rfl
@[simp] theorem State.modUnit_now (s : State) (u : UnitNo) (f : UnitS → UnitS) : (s.modUnit u f).now = s.now := rfl
@[simp] theorem State.modGstart_now (s : State) (h : Host) (f : GStart → GStart) : (s.modGstart h f).now = s.now := rfl
@[simp] theorem State.modCvp_now (s : State) (n : Cvp) (f : CvpS → CvpS) : (s.modCvp n f).now = s.now := rfl
@[simp] theorem State.modStn_now (s : State) (n : Station) (f : StationS → StationS) : (s.modStn n f).now = s.now := rfl
@[simp] theorem State.modInst_now (s : State) (m : MemInst) (f : InstS → InstS) : (s.modInst m f).now = s.now := rfl
@[simp] theorem State.modCh_now (s : State) (c : DmaCh) (f : DmaChS → DmaChS) : (s.modCh c f).now = s.now := rfl
@[simp] theorem State.modEng_now (s : State) (e : Engine) (f : EngineS → EngineS) : (s.modEng e f).now = s.now := rfl
@[simp] theorem State.modRing_now (s : State) (r : Ring) (f : RingS → RingS) : (s.modRing r f).now = s.now := rfl
@[simp] theorem State.modHps_now (s : State) (h : Host) (f : HpsBank → HpsBank) : (s.modHps h f).now = s.now := rfl
@[simp] theorem State.modLockStat_now (s : State) (t : Tid) (f : LockStat → LockStat) : (s.modLockStat t f).now = s.now := rfl
@[simp] theorem State.modAll_now (s : State) (t : Tid) (f : ThreadS → ThreadS) : (s.modAll t f).now = s.now := rfl
@[simp] theorem State.modEvAll_now (s : State) (t : Tid) (f : Events → Events) : (s.modEvAll t f).now = s.now := rfl

/-! ### Regs.lean -/

@[simp] theorem State.storeRw_now (s : State) (r : Reg) (v : Word) : (s.storeRw r v).now = s.now := rfl

/-! ### Agenda.lean -/

@[simp] theorem State.command_now (s : State) (due : Nat) (c : Instr) : (s.command due c).now = s.now := rfl
@[simp] theorem State.dropFrom_now (s : State) (t : Tid) (k : Nat) : (s.dropFrom t k).now = s.now := rfl
@[simp] theorem State.dropHall_now (s : State) (t : Tid) : (s.dropHall t).now = s.now := rfl

@[simp] theorem State.pendPulse_now (s : State) (t : Tid) (i : Nat) : (s.pendPulse t i).now = s.now := by
  simp [State.pendPulse]

@[simp] theorem State.countSource_now (s : State) (src : Nat) : (s.countSource src).now = s.now := by
  simp [State.countSource]

@[simp] theorem State.noteMove_now (s : State) (src : Nat) : (s.noteMove src).now = s.now := by
  simp [State.noteMove]

@[simp] theorem State.grant_now (s : State) (src : Nat) : (s.grant src).now = s.now := by
  simp [State.grant]

@[simp] theorem State.pulse_now (s : State) (src : Nat) : (s.pulse src).now = s.now := by
  simp [State.pulse]

/-! ### Timers.lean -/

@[simp] theorem State.stage_now (s : State) (t : Tid) (x : Staged) : (s.stage t x).now = s.now := rfl
@[simp] theorem State.unstage_now (s : State) (t : Tid) : (s.unstage t).now = s.now := rfl
@[simp] theorem State.supersede_now (s : State) (due : Nat) (f : Eff → Bool) : (s.supersede due f).now = s.now := rfl

@[simp] theorem State.compareWrite_now (s : State) (u : UnitNo) (c : Word) (f : BitVec 5) : (s.compareWrite u c f).now = s.now := by
  simp [State.compareWrite]

@[simp] theorem State.compareBy_now (s : State) (a : Agent) (u : UnitNo) (c : Word) (f : BitVec 5) : (s.compareBy a u c f).now = s.now := by
  unfold State.compareBy
  split <;> simp

@[simp] theorem State.reloadDirect_now (s : State) (n : TimerNo) (v : Word) : (s.reloadDirect n v).now = s.now := rfl

@[simp] theorem State.reloadBy_now (s : State) (a : Agent) (n : TimerNo) (v : Word) : (s.reloadBy a n v).now = s.now := by
  unfold State.reloadBy
  split <;> simp

@[simp] theorem State.timerHold_now (s : State) (n : TimerNo) : (s.timerHold n).now = s.now := rfl
@[simp] theorem State.timerResume_now (s : State) (n : TimerNo) : (s.timerResume n).now = s.now := rfl

@[simp] theorem State.timCtlWrite_now (s : State) (n : TimerNo) (v : Word) : (s.timCtlWrite n v).now = s.now := by
  simp [State.timCtlWrite]

@[simp] theorem State.ccCtlWrite_now (s : State) (u : UnitNo) (v : Word) : (s.ccCtlWrite u v).now = s.now := rfl
@[simp] theorem State.startSet_now (s : State) (h : Host) (src : BitVec 2) (b : Bell) : (s.startSet h src b).now = s.now := rfl

@[simp] theorem State.startArm_now (s : State) (h : Host) (src : BitVec 2) (b : Bell) : (s.startArm h src b).now = s.now := by
  simp [State.startArm]

@[simp] theorem State.startCancel_now (s : State) (h : Host) : (s.startCancel h).now = s.now := rfl

@[simp] theorem State.gstartWrite_now (s : State) (h : Host) (v : Word) : (s.gstartWrite h v).now = s.now := by
  simp [State.gstartWrite]

/-! ### Pins.lean -/

@[simp] theorem State.shdWrite_now (s : State) (c : Chan) (v : Byte) : (s.shdWrite c v).now = s.now := rfl

@[simp] theorem State.shcfgWrite_now (s : State) (c : Chan) (v : Word) : (s.shcfgWrite c v).now = s.now := by
  simp [State.shcfgWrite]

@[simp] theorem State.latchTo_now (s : State) (c : Chan) (v : Bool) : (s.latchTo c v).now = s.now := rfl

@[simp] theorem State.latchPort_now (s : State) (p : PinPort) (mask : Word) (f : Nat → Bool → Bool) :
    (s.latchPort p mask f).now = s.now := by
  simp [State.latchPort]

@[simp] theorem State.latchWrite_now (s : State) (a : Agent) (p : PinPort) (v : Word) (f : Bool → Bool) :
    (s.latchWrite a p v f).now = s.now := by
  simp [State.latchWrite]

@[simp] theorem State.lockHit_now (s : State) (c : Chan) : (s.lockHit c).now = s.now := rfl

@[simp] theorem State.fcfgWrite_now (s : State) (c : Chan) (set : Bool) (v : Word) : (s.fcfgWrite c set v).now = s.now := by
  simp [State.fcfgWrite]

@[simp] theorem State.switchTo_now (s : State) (c : Chan) (set : Bool) : (s.switchTo c set).now = s.now := rfl

@[simp] theorem State.switchGo_now (s : State) (c : Chan) (staged set : Bool) (cls : Bell) : (s.switchGo c staged set cls).now = s.now := by
  simp [State.switchGo]

@[simp] theorem State.switchCancel_now (s : State) (c : Chan) : (s.switchCancel c).now = s.now := rfl

@[simp] theorem State.switchWrite_now (s : State) (c : Chan) (v : Word) : (s.switchWrite c v).now = s.now := by
  simp [State.switchWrite]

@[simp] theorem State.ownerMoved_now (s : State) (c : Chan) (old : Option Tid) : (s.ownerMoved c old).now = s.now := by
  simp [State.ownerMoved]

@[simp] theorem State.ownerWrite_now (s : State) (c : Chan) (v : Word) : (s.ownerWrite c v).now = s.now := by
  simp [State.ownerWrite]

@[simp] theorem State.padWrite_now (s : State) (c : Chan) (v : Word) : (s.padWrite c v).now = s.now := by
  simp [State.padWrite]

@[simp] theorem State.policyWrite_now (s : State) (p : PinPort) (v : Word) : (s.policyWrite p v).now = s.now := by
  simp [State.policyWrite]

@[simp] theorem State.lineWrite_now (s : State) (k : LineNo) (v : Word) : (s.lineWrite k v).now = s.now := by
  simp [State.lineWrite]

@[simp] theorem State.lockPort_now (s : State) (a : Agent) (p : PinPort) : (s.lockPort a p).now = s.now := by
  simp [State.lockPort]

@[simp] theorem State.lockKey_now (s : State) (a : Agent) (h : Host) (key : BitVec 16) (p : PinPort) :
    (s.lockKey a h key p).now = s.now := by
  simp [State.lockKey]

@[simp] theorem State.lockWrite_now (s : State) (a : Agent) (key : BitVec 16) (p : PinPort) : (s.lockWrite a key p).now = s.now := by
  unfold State.lockWrite
  split <;> simp

/-! ### Sinc.lean -/

@[simp] theorem State.sncCfgWrite_now (s : State) (n : SincNo) (v : Word) : (s.sncCfgWrite n v).now = s.now := by
  simp [State.sncCfgWrite]

@[simp] theorem State.sncClkWrite_now (s : State) (n : SincNo) (v : Word) : (s.sncClkWrite n v).now = s.now := by
  simp [State.sncClkWrite]

/-! ### Trips.lean -/

@[simp] theorem State.cvpCfgWrite_now (s : State) (n : Cvp) (v : Word) : (s.cvpCfgWrite n v).now = s.now := by
  simp [State.cvpCfgWrite]

@[simp] theorem State.cvpSwtrig_now (s : State) (n : Cvp) : (s.cvpSwtrig n).now = s.now := rfl
@[simp] theorem State.latchedClear_now (s : State) (st : Station) : (s.latchedClear st).now = s.now := rfl

@[simp] theorem State.stnCtlWrite_now (s : State) (st : Station) (v : Word) : (s.stnCtlWrite st v).now = s.now := by
  simp [State.stnCtlWrite]

@[simp] theorem State.stnPinsWrite_now (s : State) (st : Station) (v : Word) : (s.stnPinsWrite st v).now = s.now := rfl
@[simp] theorem State.stnTimWrite_now (s : State) (st : Station) (v : Word) : (s.stnTimWrite st v).now = s.now := rfl
@[simp] theorem State.stnTmaskWrite_now (s : State) (st : Station) (j : Fin 4) (v : Word) : (s.stnTmaskWrite st j v).now = s.now := rfl

/-! ### Memory.lean -/

@[simp] theorem State.logError_now (s : State) (uncorr : Bool) (m : MemInst) (path addr agent : Nat) :
    (s.logError uncorr m path addr agent).now = s.now := by
  simp [State.logError]

@[simp] theorem State.heal_now (s : State) (m : MemInst) (addr n : Nat) : (s.heal m addr n).now = s.now := by
  simp [State.heal]

@[simp] theorem State.noteRead_now (s : State) (m : MemInst) (path addr n agent : Nat) : (s.noteRead m path addr n agent).now = s.now := by
  simp [State.noteRead]

@[simp] theorem State.startWipe_now (s : State) (cause : BitVec 4) : (s.startWipe cause).now = s.now := by
  simp [State.startWipe]

@[simp] theorem State.testNow_now (s : State) (m : MemInst) : (s.testNow m).now = s.now := by
  simp [State.testNow]

@[simp] theorem State.mramWrite_now (s : State) : s.mramWrite.now = s.now := rfl

@[simp] theorem State.tctlWrite_now (s : State) (m : MemInst) (v : Word) : (s.tctlWrite m v).now = s.now := by
  simp [State.tctlWrite]

@[simp] theorem State.logClear_now (s : State) : s.logClear.now = s.now := rfl

@[simp] theorem State.eccctlWrite_now (s : State) (v : Word) : (s.eccctlWrite v).now = s.now := by
  simp [State.eccctlWrite]

@[simp] theorem State.mramHeal_now (s : State) (a n : Nat) : (s.mramHeal a n).now = s.now := rfl

/-! ### Queues.lean -/

@[simp] theorem State.setProd_now (s : State) (r : Ring) (prod : Word) : (s.setProd r prod).now = s.now := by
  simp [State.setProd]

@[simp] theorem State.discardPost_now (s : State) (r : Ring) (p : BitVec 3) (cell : Nat) : (s.discardPost r p cell).now = s.now := rfl
@[simp] theorem State.dropFills_now (s : State) (t : Tid) : (s.dropFills t).now = s.now := rfl
@[simp] theorem State.rcmdDone_now (s : State) (h : Host) (r : Ring) (err : Nat) : (s.rcmdDone h r err).now = s.now := rfl

@[simp] theorem State.ringLoad_now (s : State) (h : Host) (r : Ring) : (s.ringLoad h r).now = s.now := by
  simp [State.ringLoad]

@[simp] theorem State.ringUnload_now (s : State) (h : Host) (r : Ring) : (s.ringUnload h r).now = s.now := by
  simp [State.ringUnload]

@[simp] theorem State.dropTakes_now (s : State) (r : Ring) : (s.dropTakes r).now = s.now := by
  refine State.now_foldl (fun t i => ?_) _ _
  split <;> simp

@[simp] theorem State.dropGets_now (s : State) (r : Ring) : (s.dropGets r).now = s.now := rfl

@[simp] theorem State.ringDrain_now (s : State) (h : Host) (r : Ring) (takeover : Bool) : (s.ringDrain h r takeover).now = s.now := by
  simp [State.ringDrain]

@[simp] theorem State.prodDoorbell_now (s : State) (r : Ring) (v : Word) : (s.prodDoorbell r v).now = s.now := by
  simp [State.prodDoorbell]

@[simp] theorem State.consDoorbell_now (s : State) (r : Ring) (v : Word) : (s.consDoorbell r v).now = s.now := by
  simp [State.consDoorbell]

@[simp] theorem State.rcmdWrite_now (s : State) (h : Host) (v : Word) : (s.rcmdWrite h v).now = s.now := by
  simp [State.rcmdWrite]

@[simp] theorem State.poolWrite_now (s : State) (p : Fin 8) (r : Reg) (v : Word) : (s.poolWrite p r v).now = s.now := by
  simp [State.poolWrite]

/-! ### Irq.lean -/

@[simp] theorem State.irqAck_now (s : State) (l : IrqLine) : (s.irqAck l).now = s.now := rfl
@[simp] theorem State.irqLctlWrite_now (s : State) (l : IrqLine) (v : Word) : (s.irqLctlWrite l v).now = s.now := rfl
@[simp] theorem State.irqTgtWrite_now (s : State) (a : Agent) (src : BitVec 11) (v : Word) : (s.irqTgtWrite a src v).now = s.now := rfl

@[simp] theorem State.assignEntry_now (s : State) (k : Fin 17) (word : Fin 1024) (j : Nat) (v : Word) :
    (s.assignEntry k word j v).now = s.now := by
  simp [State.assignEntry]

@[simp] theorem State.assignWrite_now (s : State) (k : Fin 17) (word : Fin 1024) (v : Word) : (s.assignWrite k word v).now = s.now := by
  simp [State.assignWrite]

/-! ### Locks.lean -/

@[simp] theorem State.unwatchAll_now (s : State) (who : Watcher) : (s.unwatchAll who).now = s.now := rfl
@[simp] theorem State.setLease_now (s : State) (i : Nat) (l : Option Lease) : (s.setLease i l).now = s.now := rfl

@[simp] theorem State.endLease_now (s : State) (i : Nat) (expired : Bool) : (s.endLease i expired).now = s.now := by
  unfold State.endLease
  split <;> simp

@[simp] theorem State.endLeases_now (s : State) (owner : BitVec 16) : (s.endLeases owner).now = s.now := by
  simp [State.endLeases]

@[simp] theorem State.hpsGo_now (s : State) (h : Host) (op : BitVec 3) : (s.hpsGo h op).now = s.now := by
  simp [State.hpsGo]

@[simp] theorem State.hpsForce_now (s : State) (a : BitVec 23) : (s.hpsForce a).now = s.now := by
  unfold State.hpsForce
  split <;> simp

@[simp] theorem State.hcmdWrite_now (s : State) (h : Host) (v : Word) : (s.hcmdWrite h v).now = s.now := by
  simp [State.hcmdWrite]

/-! ### Halyard.lean -/

@[simp] theorem State.modHly_now (s : State) (f : HlyS → HlyS) : (s.modHly f).now = s.now := rfl
@[simp] theorem State.setLane_now (s : State) (down : Bool) (x : Lane) : (s.setLane down x).now = s.now := rfl

@[simp] theorem State.sendOwn_now (s : State) (down : Bool) (typ : BitVec 4) (bc : Bool) (dst : BitVec 14) (p : List Byte) :
    (s.sendOwn down typ bc dst p).now = s.now := by
  simp [State.sendOwn]

@[simp] theorem State.setAlign_now (s : State) (x : AlignSt) : (s.setAlign x).now = s.now := by
  simp [State.setAlign]

@[simp] theorem State.measure_now (s : State) : s.measure.now = s.now := by
  simp [State.measure]

@[simp] theorem State.reacq_now (s : State) : s.reacq.now = s.now := by
  simp [State.reacq]

@[simp] theorem State.alignLink_now (s : State) : s.alignLink.now = s.now := by
  unfold State.alignLink
  split <;> simp

@[simp] theorem State.setNodes_now (s : State) (n : Nat) : (s.setNodes n).now = s.now := by
  simp [State.setNodes]

@[simp] theorem State.cmdRollcall_now (s : State) : s.cmdRollcall.now = s.now := by
  simp [State.cmdRollcall]

@[simp] theorem State.txmsg_now (s : State) : s.txmsg.now = s.now := by
  simp [State.txmsg]

@[simp] theorem State.rxPop_now (s : State) : s.rxPop.now = s.now := rfl

@[simp] theorem State.rxctlWrite_now (s : State) (v : Word) : (s.rxctlWrite v).now = s.now := by
  simp [State.rxctlWrite]

@[simp] theorem State.hlyCtlWrite_now (s : State) (v : Word) : (s.hlyCtlWrite v).now = s.now := by
  simp [State.hlyCtlWrite]

@[simp] theorem State.tctlHlyWrite_now (s : State) (v : Word) : (s.tctlHlyWrite v).now = s.now := rfl

/-! ### Update.lean -/

@[simp] theorem State.modUpd_now (s : State) (f : UpdS → UpdS) : (s.modUpd f).now = s.now := rfl

@[simp] theorem State.placeWords_now (s : State) (m : Mem) (b : Barrel) (bankY : Bool) (off dest n : Nat) :
    (s.placeWords m b bankY off dest n).now = s.now := by
  induction n with
  | zero => rfl
  | succ n ih => exact ih

@[simp] theorem State.placeCode_now (s : State) (m : Mem) (bankY : Barrel → Bool) : (s.placeCode m bankY).now = s.now := by
  simp [State.placeCode]

@[simp] theorem State.journal_now (s : State) (r : JRec) : (s.journal r).now = s.now := rfl
@[simp] theorem State.record_now (s : State) (typ : Nat) (cls : BitVec 4) (bell : DWord) : (s.record typ cls bell).now = s.now := rfl

@[simp] theorem State.outcome_now (s : State) (out : BitVec 3) (cause : BitVec 8) : (s.outcome out cause).now = s.now := by
  simp [State.outcome]

@[simp] theorem State.updErr_now (s : State) (e : BitVec 4) : (s.updErr e).now = s.now := rfl

@[simp] theorem State.voidOrder_now (s : State) (cause : BitVec 8) : (s.voidOrder cause).now = s.now := by
  unfold State.voidOrder
  split <;> simp

@[simp] theorem State.startDownload_now (s : State) (id : DWord) (len : Word) : (s.startDownload id len).now = s.now := by
  simp [State.startDownload]

@[simp] theorem State.askFallback_now (s : State) (n : DWord) : (s.askFallback n).now = s.now := by
  unfold State.askFallback
  split <;> simp

@[simp] theorem State.updBegin_now (s : State) (id : DWord) (len : Word) : (s.updBegin id len).now = s.now := by
  unfold State.updBegin
  dsimp only
  split <;> simp

@[simp] theorem State.storeImage_now (s : State) (off : Nat) (l : List Byte) : (s.storeImage off l).now = s.now := rfl

@[simp] theorem State.chunkDone_now (s : State) (seq : Option (Nat × Nat)) : (s.chunkDone seq).now = s.now := by
  unfold State.chunkDone
  split <;> simp

@[simp] theorem State.iwinWrite_now (s : State) (off : Nat) (data : List Byte) : (s.iwinWrite off data).now = s.now := by
  simp [State.iwinWrite]

@[simp] theorem State.updSend_now (s : State) : s.updSend.now = s.now := by
  simp [State.updSend]

@[simp] theorem State.beginVerify_now (s : State) : s.beginVerify.now = s.now := rfl

@[simp] theorem State.updVerify_now (s : State) : s.updVerify.now = s.now := by
  unfold State.updVerify
  split <;> simp

@[simp] theorem State.updActivate_now (s : State) (id : DWord) (b : Bell) (n : DWord) : (s.updActivate id b n).now = s.now := by
  simp [State.updActivate]

@[simp] theorem State.updCancel_now (s : State) : s.updCancel.now = s.now := by
  simp [State.updCancel]

@[simp] theorem State.updConfirm_now (s : State) : s.updConfirm.now = s.now := by
  simp [State.updConfirm]

@[simp] theorem State.updFallback_now (s : State) (n : DWord) : (s.updFallback n).now = s.now := by
  simp [State.updFallback]

@[simp] theorem State.updOp_now (s : State) (op : Nat) (b : Bell) (len : Word) (id n : DWord) : (s.updOp op b len id n).now = s.now := by
  simp [State.updOp]

@[simp] theorem State.updCommand_now (s : State) (op : Nat) (chain : Bool) : (s.updCommand op chain).now = s.now := by
  simp [State.updCommand]

@[simp] theorem State.setBegin_now (s : State) : s.setBegin.now = s.now := by
  simp [State.setBegin]

@[simp] theorem State.swinWrite_now (s : State) (off : Nat) (data : List Byte) : (s.swinWrite off data).now = s.now := by
  unfold State.swinWrite
  split <;> simp

@[simp] theorem State.setCommit_now (s : State) : s.setCommit.now = s.now := by
  unfold State.setCommit
  split <;> simp

@[simp] theorem State.lcResult_now (s : State) (e : BitVec 3) : (s.lcResult e).now = s.now := rfl

@[simp] theorem State.lcEnter_now (s : State) (goal : LcState) : (s.lcEnter goal).now = s.now := by
  unfold State.lcEnter
  split <;> simp

/-! ### RegRead.lean -/

@[simp] theorem State.cardSoon_now (s : State) : s.cardSoon.now = s.now := rfl

/-! ### Ops.lean -/

@[simp] theorem State.cancelFrom_now (s : State) (t : Tid) (g : Flight) : (s.cancelFrom t g).now = s.now := by
  simp [State.cancelFrom]

@[simp] theorem State.cancelAll_now (s : State) (t : Tid) : (s.cancelAll t).now = s.now := by
  unfold State.cancelAll
  split <;> simp

@[simp] theorem State.undoReloads_now (s : State) (t : Tid) : (s.undoReloads t).now = s.now := by
  refine State.now_foldr (fun e t => ?_) _ _
  rfl

@[simp] theorem State.dropStaged_now (s : State) (t : Tid) : (s.dropStaged t).now = s.now := by
  simp only [State.dropStaged, State.undoReloads_now, State.unstage_now]
  refine State.now_foldl (fun t e => ?_) _ _
  split <;> simp

@[simp] theorem State.discard_now (s : State) (t : Tid) (cause : BitVec 4) : (s.discard t cause).now = s.now := by
  simp [State.discard]

@[simp] theorem State.switchEnd_now (s : State) : s.switchEnd.now = s.now := by
  simp [State.switchEnd]

@[simp] theorem State.switchBank_now (s : State) (t : Tid) : (s.switchBank t).now = s.now := by
  unfold State.switchBank
  split <;> simp

@[simp] theorem State.periodEntry_now (s : State) (t : Tid) : (s.periodEntry t).now = s.now := by
  refine (State.now_foldl (fun t c => ?_) _ _).trans ?_ <;> simp

@[simp] theorem State.startThread_now (s : State) (t : Tid) (from_ : Nat) : (s.startThread t from_).now = s.now := rfl

/-! ### Threads.lean -/

@[simp] theorem State.gateNow_now (s : State) (b : Barrel) : (s.gateNow b).now = s.now := rfl
@[simp] theorem State.slotApply_now (s : State) (b : Barrel) (atBell : Bool) (bell : Bell) : (s.slotApply b atBell bell).now = s.now := rfl

@[simp] theorem State.slotCancel_now (s : State) (b : Barrel) : (s.slotCancel b).now = s.now := by
  simp [State.slotCancel]

@[simp] theorem State.smapCtlWrite_now (s : State) (b : Barrel) (v : Word) : (s.smapCtlWrite b v).now = s.now := by
  simp [State.smapCtlWrite]

@[simp] theorem State.smapWrite_now (s : State) (b : Barrel) (i : Nat) (v : Word) : (s.smapWrite b i v).now = s.now := rfl

@[simp] theorem State.restart_now (s : State) (t : Tid) : (s.restart t).now = s.now := by
  simp [State.restart]

@[simp] theorem State.settleBank_now (s : State) (t : Tid) : (s.settleBank t).now = s.now := by
  unfold State.settleBank
  split <;> simp

@[simp] theorem State.stopThread_now (s : State) (t : Tid) (cause : BitVec 4) : (s.stopThread t cause).now = s.now := by
  simp [State.stopThread]

@[simp] theorem State.enableThread_now (s : State) (t : Tid) : (s.enableThread t).now = s.now := by
  simp [State.enableThread]

@[simp] theorem State.disableThread_now (s : State) (t : Tid) : (s.disableThread t).now = s.now := by
  simp [State.disableThread]

@[simp] theorem State.haltThread_now (s : State) (t : Tid) : (s.haltThread t).now = s.now := by
  unfold State.haltThread
  split <;> simp

@[simp] theorem State.releaseHalt_now (s : State) (t : Tid) : (s.releaseHalt t).now = s.now := by
  unfold State.releaseHalt
  split <;> simp

@[simp] theorem State.stepThread_now (s : State) (t : Tid) : (s.stepThread t).now = s.now := by
  simp [State.stepThread]

@[simp] theorem State.toMaint_now (s : State) (t : Tid) : (s.toMaint t).now = s.now := by
  simp [State.toMaint]

@[simp] theorem State.enterMaint_now (s : State) (t : Tid) : (s.enterMaint t).now = s.now := by
  unfold State.enterMaint
  split <;> simp

@[simp] theorem State.leaveMaint_now (s : State) (t : Tid) : (s.leaveMaint t).now = s.now := by
  simp [State.leaveMaint]

@[simp] theorem State.setMaint_now (s : State) (t : Tid) (on : Bool) : (s.setMaint t on).now = s.now := by
  simp [State.setMaint]

@[simp] theorem State.resetThread_now (s : State) (t : Tid) : (s.resetThread t).now = s.now := by
  simp [State.resetThread]

@[simp] theorem State.thrCtlWrite_now (s : State) (t : Tid) (v : Word) : (s.thrCtlWrite t v).now = s.now := by
  simp [State.thrCtlWrite]

@[simp] theorem State.cfgWrite_now (s : State) (t : Tid) (v : Word) : (s.cfgWrite t v).now = s.now := by
  simp [State.cfgWrite]

@[simp] theorem State.ctxWrite_now (s : State) (t : Tid) (r : CtxReg) (v : Word) : (s.ctxWrite t r v).now = s.now := by
  unfold State.ctxWrite
  split <;> simp

@[simp] theorem State.ceilWrite_now (s : State) (t : Tid) (v : Word) : (s.ceilWrite t v).now = s.now := by
  simp [State.ceilWrite]

/-! ### Events.lean -/

@[simp] theorem State.swset_now (s : State) (a : Agent) (v : Word) : (s.swset a v).now = s.now := by
  simp [State.swset]

@[simp] theorem State.clearEvents_now (s : State) (t : Tid) (pend lost : Word) : (s.clearEvents t pend lost).now = s.now := rfl
@[simp] theorem State.mapWrite_now (s : State) (a : Agent) (t : Tid) (i : Fin 32) (v : Word) : (s.mapWrite a t i v).now = s.now := rfl

/-! ### Bells.lean -/

@[simp] theorem State.aimBell_now (s : State) (b : Bell) (from_ : Nat) : (s.aimBell b from_).now = s.now := rfl

@[simp] theorem State.startBell_now (s : State) (b : Bell) : (s.startBell b).now = s.now := by
  simp [State.startBell]

@[simp] theorem State.stopBell_now (s : State) (b : Bell) : (s.stopBell b).now = s.now := rfl

@[simp] theorem State.applyBell_now (s : State) (b : Bell) : (s.applyBell b).now = s.now := by
  simp [State.applyBell]

@[simp] theorem State.belCtlWrite_now (s : State) (b : Bell) (en apply : Bool) : (s.belCtlWrite b en apply).now = s.now := by
  simp [State.belCtlWrite]

@[simp] theorem State.scheduleWrite_now (s : State) (b : Bell) (r : Reg) (v : Word) : (s.scheduleWrite b r v).now = s.now := by
  simp [State.scheduleWrite]

/-! ### Dma.lean -/

@[simp] theorem State.chPulse_now (s : State) (ch : DmaCh) : (s.chPulse ch).now = s.now := by
  simp [State.chPulse]

@[simp] theorem State.chEnter_now (s : State) (ch : DmaCh) (st : ChState) : (s.chEnter ch st).now = s.now := by
  simp [State.chEnter]

@[simp] theorem State.engFree_now (s : State) (e : Engine) : (s.engFree e).now = s.now := rfl
@[simp] theorem State.dropAhead_now (s : State) (e : Engine) : (s.dropAhead e).now = s.now := rfl
@[simp] theorem State.chIgnored_now (s : State) (ch : DmaCh) : (s.chIgnored ch).now = s.now := rfl
@[simp] theorem State.chQueue_now (s : State) (ch : DmaCh) (f : DmaChS → DmaChS) : (s.chQueue ch f).now = s.now := rfl

@[simp] theorem State.dmaGo_now (s : State) (ch : DmaCh) : (s.dmaGo ch).now = s.now := by
  unfold State.dmaGo
  split <;> simp

@[simp] theorem State.dmaResume_now (s : State) (ch : DmaCh) : (s.dmaResume ch).now = s.now := by
  simp [State.dmaResume]

@[simp] theorem State.dmaKick_now (s : State) (ch : DmaCh) : (s.dmaKick ch).now = s.now := by
  unfold State.dmaKick
  split <;> simp

@[simp] theorem State.abortComplete_now (s : State) (ch : DmaCh) : (s.abortComplete ch).now = s.now := by
  simp [State.abortComplete]

@[simp] theorem State.dmaAbort_now (s : State) (ch : DmaCh) : (s.dmaAbort ch).now = s.now := by
  unfold State.dmaAbort
  split
  · dsimp only
    split <;> simp
  · simp
  · simp

@[simp] theorem State.engineClear_now (s : State) (e : Engine) : (s.engineClear e).now = s.now := by
  simp [State.engineClear]

/-! ### Drills.lean -/

@[simp] theorem State.drillResult_now (s : State) (code : Byte) (res : BitVec 3) (data : Word) :
    (s.drillResult code res data).now = s.now := by
  simp [State.drillResult]

@[simp] theorem State.drillBegin_now (s : State) (code : Byte) (left : Nat) (saved : SMap Word) :
    (s.drillBegin code left saved).now = s.now := rfl

@[simp] theorem State.drillRegions_now (s : State) (code : Byte) (parts : MemInst → Nat) : (s.drillRegions code parts).now = s.now := by
  simp [State.drillRegions, State.drillGo]

@[simp] theorem State.drillVerify_now (s : State) : s.drillVerify.now = s.now := by
  simp [State.drillVerify, State.drillGo]

@[simp] theorem State.setLoop_now (s : State) (c : Chan) (depth : Nat) (drill : Option (BitVec 2)) :
    (s.setLoop c depth drill).now = s.now := by
  simp [State.setLoop]

@[simp] theorem State.drillPinLoop_now (s : State) : s.drillPinLoop.now = s.now := by
  simp [State.drillPinLoop, State.drillGo]

@[simp] theorem State.drillConv_now (s : State) : s.drillConv.now = s.now := by
  simp [State.drillConv, State.drillGo]

@[simp] theorem State.drillLink_now (s : State) (code : Byte) : (s.drillLink code).now = s.now := by
  simp [State.drillLink, State.drillGo]

@[simp] theorem State.drillEcho_now (s : State) : s.drillEcho.now = s.now := by
  simp [State.drillEcho, State.drillGo]

@[simp] theorem State.askWarm_now (s : State) (begins : Nat) : (s.askWarm begins).now = s.now := rfl

@[simp] theorem State.drillMode_now (s : State) (key : BitVec 16) : (s.drillMode key).now = s.now := by
  simp [State.drillMode, State.drillGo]

@[simp] theorem State.drillCode_now (s : State) (code : Byte) (key : BitVec 16) : (s.drillCode code key).now = s.now := by
  simp [State.drillCode, State.drillGo]

@[simp] theorem State.drlCmdWrite_now (s : State) (v : Word) : (s.drlCmdWrite v).now = s.now := by
  simp [State.drlCmdWrite]

/-! ### Life.lean -/

@[simp] theorem State.ctlWarm_now (s : State) (a : Agent) : (s.ctlWarm a).now = s.now := by
  unfold State.ctlWarm
  split <;> simp

@[simp] theorem State.stopAll_now (s : State) : s.stopAll.now = s.now := by
  simp [State.stopAll]

@[simp] theorem State.lcMove_now (s : State) (goal : LcState) : (s.lcMove goal).now = s.now := by
  unfold State.lcMove
  split <;> simp

@[simp] theorem State.lcGo_now (s : State) (goal : LcState) : (s.lcGo goal).now = s.now := by
  simp [State.lcGo, State.withPresence]

@[simp] theorem State.lcRecover_now (s : State) : s.lcRecover.now = s.now := by
  simp [State.lcRecover, State.withPresence]

@[simp] theorem State.recovBoot_now (s : State) : s.recovBoot.now = s.now := by
  simp [State.recovBoot]

/-! ### RegWrite.lean -/

@[simp] theorem State.writeCore_now (s : State) (a : Agent) (v : Word) (r : Reg) : (s.writeCore a v r).now = s.now := by
  cases r
  all_goals unfold State.writeCore
  all_goals simp

@[simp] theorem State.writeEvents_now (s : State) (a : Agent) (v : Word) (r : Reg) : (s.writeEvents a v r).now = s.now := by
  cases r
  all_goals unfold State.writeEvents
  all_goals simp

@[simp] theorem State.portClear_now (s : State) (a : Agent) (p : PinPort) (v : Word) (f : PinS → PinS) :
    (s.portClear a p v f).now = s.now := by
  simp [State.portClear]

@[simp] theorem State.writePins_now (s : State) (a : Agent) (v : Word) (r : Reg) : (s.writePins a v r).now = s.now := by
  cases r
  all_goals unfold State.writePins
  all_goals simp

@[simp] theorem State.writeTimers_now (s : State) (a : Agent) (v : Word) (r : Reg) : (s.writeTimers a v r).now = s.now := by
  cases r
  all_goals unfold State.writeTimers
  all_goals simp

@[simp] theorem State.chCommand_now (s : State) (ch : DmaCh) (go kick abort resume : Bool) :
    (s.chCommand ch go kick abort resume).now = s.now := by
  simp [State.chCommand]

@[simp] theorem State.writeQueues_now (s : State) (v : Word) (r : Reg) : (s.writeQueues v r).now = s.now := by
  cases r
  all_goals unfold State.writeQueues
  all_goals simp

@[simp] theorem State.updCmdWrite_now (s : State) (v : Word) : (s.updCmdWrite v).now = s.now := by
  simp [State.updCmdWrite]

@[simp] theorem State.lcsCmdWrite_now (s : State) (v : Word) : (s.lcsCmdWrite v).now = s.now := by
  simp [State.lcsCmdWrite, State.withPresence]

@[simp] theorem State.hlyCmdWrite_now (s : State) (v : Word) : (s.hlyCmdWrite v).now = s.now := by
  simp [State.hlyCmdWrite]

@[simp] theorem State.writeSystem_now (s : State) (v : Word) (r : Reg) : (s.writeSystem v r).now = s.now := by
  cases r
  all_goals unfold State.writeSystem
  all_goals simp

/-- A register write takes no time. -/
@[simp] theorem State.writeReg_now (s : State) (a : Agent) (r : Reg) (v : Word) : (s.writeReg a r v).now = s.now := by
  simp [State.writeReg]

end Sys2Proof.Machine
end

section
/-! PROOFS. Register accesses: what one write and one read do for each agent, the beat of a host's read, and the answers (R14, R22 to R25,
R354 to R359, Table HST-1). -/

namespace Sys2Proof.Machine

/-- A read of a register leaves the system state, among it the block's phase. -/
theorem State.readEffect_sys (s : State) (a : Agent) (r : Reg) : (s.readEffect a r).sys = s.sys := by
  cases r
  case timTbaseLo =>
    show (s.tbaseRead a).sys = s.sys
    unfold State.tbaseRead
    split <;> rfl
  all_goals rfl

/-! ### One register (R357, Table HST-1) -/

theorem State.regStore_of_unlisted {s : State} {a : Agent} {off : Nat} (hd : decodeReg (s.bankOf a) off = none) (strb : BitVec 4)
    (v : Word) : s.regStore a off strb v = (0, s) := by
  simp [State.regStore, hd]

theorem State.regStore_of_listed {s : State} {a : Agent} {off : Nat} {r : Reg} (hd : decodeReg (s.bankOf a) off = some r)
    (strb : BitVec 4) (v : Word) : s.regStore a off strb v = if strb = 0 then (0, s) else if strb ≠ 15 then (3, s)
      else if s.writable a r then (0, s.writeReg a r v) else (1, s) := by
  simp [State.regStore, hd]

/-- A write takes effect with all strobes and within the agent's rights. -/
theorem State.regStore_state_of_listed {s : State} {a : Agent} {off : Nat} {r : Reg} (hd : decodeReg (s.bankOf a) off = some r)
    (strb : BitVec 4) (v : Word) :
    (s.regStore a off strb v).2 = if strb = 15 ∧ s.writable a r = true then s.writeReg a r v else s := by
  rw [State.regStore_of_listed hd]
  by_cases h15 : strb = 15
  · subst h15
    by_cases hw : s.writable a r = true <;> simp [hw]
  · have hn : ¬(strb = 15 ∧ s.writable a r = true) := fun h => h15 h.1
    rw [if_neg hn, if_pos h15]
    split <;> rfl

theorem State.regLoad_of_unlisted {s : State} {a : Agent} {off : Nat} (hd : decodeReg (s.bankOf a) off = none) :
    s.regLoad a off = (0, 0, s) := by
  simp [State.regLoad, hd]

section Load
variable {s : State} (hp : s.sys.phase ≠ .scrapped)
include hp

theorem State.regLoad_of_listed {a : Agent} {off : Nat} {r : Reg} (hd : decodeReg (s.bankOf a) off = some r) :
    s.regLoad a off = if s.readable a r then (0, s.view a r, s.readEffect a r) else (1, 0, s) := by
  simp [State.regLoad, hd, hp]

theorem State.regLoad_sys (a : Agent) (off : Nat) : (s.regLoad a off).2.2.sys = s.sys := by
  cases hd : decodeReg (s.bankOf a) off with
  | none => rw [State.regLoad_of_unlisted hd]
  | some r =>
    rw [State.regLoad_of_listed hp hd]
    split
    · exact s.readEffect_sys a r
    · rfl

theorem State.regLoad_status_le_one (a : Agent) (off : Nat) : (s.regLoad a off).1 ≤ 1 := by
  cases hd : decodeReg (s.bankOf a) off with
  | none => simp [State.regLoad_of_unlisted hd]
  | some r =>
    rw [State.regLoad_of_listed hp hd]
    split <;> simp

/-- A read gets STATUS 1 where a register is listed that it may not read. -/
theorem State.regLoad_status_eq_one_iff (a : Agent) (off : Nat) :
    (s.regLoad a off).1 = 1 ↔ ∃ r, decodeReg (s.bankOf a) off = some r ∧ s.readable a r = false := by
  cases hd : decodeReg (s.bankOf a) off with
  | none => simp [State.regLoad_of_unlisted hd]
  | some r =>
    rw [State.regLoad_of_listed hp hd]
    by_cases hr : s.readable a r = true <;> simp [hr]

end Load

/-! ### A beat: four registers in ascending order (R357) -/

/-- The state after the first `n` registers of a beat have been read. -/
def State.beatState (s : State) (a : Agent) (off : Nat) : Nat → State
  | 0 => s
  | n + 1 => ((s.beatState a off n).regLoad a (off + 4 * n)).2.2

/-- What the read of register `i` of a beat answers: STATUS, word and state. -/
def State.beatLoad (s : State) (a : Agent) (off i : Nat) : Nat × Word × State := (s.beatState a off i).regLoad a (off + 4 * i)

/-- The words of a beat in their lanes. -/
def State.beatData (s : State) (a : Agent) (off : Nat) : BitVec 128 :=
  (List.range 4).foldl (fun d i => d ||| ((s.beatLoad a off i).2.1.setWidth 128 <<< (32 * i))) 0

/-- The highest STATUS of a beat. -/
def State.beatStatus (s : State) (a : Agent) (off : Nat) : Nat := (List.range 4).foldl (fun m i => max m (s.beatLoad a off i).1) 0

theorem State.beatRead_eq (s : State) (a : Agent) (off : Nat) :
    s.beatRead a off = (s.beatStatus a off, s.beatData a off, s.beatState a off 4) := rfl

theorem State.beatsRead_one (s : State) (a : Agent) (off : Nat) :
    s.beatsRead a off 1 = (s.beatStatus a off, [s.beatData a off], s.beatState a off 4) := by
  simp [State.beatsRead, State.beatRead_eq]

/-- A word in lane `k` shows in that lane alone. -/
theorem getLsbD_lane (w : Word) {i k j : Nat} (hi : i < 4) (hj : j < 32) :
    (w.setWidth 128 <<< (32 * k)).getLsbD (32 * i + j) = (decide (i = k) && w.getLsbD j) := by
  rw [BitVec.getLsbD_shiftLeft, BitVec.getLsbD_setWidth]
  rcases Nat.lt_trichotomy i k with h | rfl | h
  · simp [show 32 * i + j < 32 * k by omega, h.ne]
  · simp [show 32 * i + j < 128 by omega, show j < 128 by omega]
  · simp [BitVec.getLsbD_of_ge w (32 * i + j - 32 * k) (by omega), h.ne']

theorem State.beatData_lane (s : State) (a : Agent) (off : Nat) {i : Nat} (hi : i < 4) :
    (s.beatData a off).extractLsb' (32 * i) 32 = (s.beatLoad a off i).2.1 := by
  ext j hj
  simp only [State.beatData, List.range, List.range.loop, List.foldl, BitVec.getElem_extractLsb', BitVec.getLsbD_or, getLsbD_lane _ hi hj]
  interval_cases i <;> simp [hj]

/-- Reading register `i` leads to the next state and fills lane `i`. -/
theorem State.beat_step {s : State} {a : Agent} {off i : Nat} {x : Nat × Word × State} (hi : i < 4) (hx : s.beatLoad a off i = x) :
    s.beatState a off (i + 1) = x.2.2 ∧ (s.beatData a off).extractLsb' (32 * i) 32 = x.2.1 := by
  subst hx
  exact ⟨rfl, s.beatData_lane a off hi⟩

theorem State.beatLoad_of_unlisted {s : State} {h : Host} {tag : BitVec 5} {off i : Nat} (hd : decodeReg h (off + 4 * i) = none) :
    s.beatLoad (.host h tag) off i = (0, 0, s.beatState (.host h tag) off i) := State.regLoad_of_unlisted (a := .host h tag) hd

section Beat
variable {s : State} (hp : s.sys.phase ≠ .scrapped)
include hp

theorem State.beatState_phase (a : Agent) (off n : Nat) : (s.beatState a off n).sys.phase ≠ .scrapped := by
  induction n with
  | zero => exact hp
  | succ n ih => exact State.regLoad_sys ih a _ ▸ ih

theorem State.beatLoad_of_listed {h : Host} {tag : BitVec 5} {off i : Nat} {r : Reg} (hd : decodeReg h (off + 4 * i) = some r) :
    let u := s.beatState (.host h tag) off i
    s.beatLoad (.host h tag) off i =
      if u.readable (.host h tag) r then (0, u.view (.host h tag) r, u.readEffect (.host h tag) r) else (1, 0, u) :=
  State.regLoad_of_listed (a := .host h tag) (State.beatState_phase hp _ off i) hd

theorem State.beatLoad_status_le_one (a : Agent) (off i : Nat) : (s.beatLoad a off i).1 ≤ 1 :=
  State.regLoad_status_le_one (State.beatState_phase hp a off i) _ _

theorem State.beatStatus_le_one (a : Agent) (off : Nat) : s.beatStatus a off ≤ 1 := by
  have hle := State.beatLoad_status_le_one hp a off
  simp [State.beatStatus, List.range, List.range.loop, hle]

/-- A beat gets STATUS 1 where one of its four registers does. -/
theorem State.beatStatus_eq_one_iff (a : Agent) (off : Nat) : s.beatStatus a off = 1 ↔ ∃ i < 4, (s.beatLoad a off i).1 = 1 := by
  have hle := State.beatLoad_status_le_one hp a off
  have h0 := hle 0
  have h1 := hle 1
  have h2 := hle 2
  have h3 := hle 3
  simp only [State.beatStatus, List.range, List.range.loop, List.foldl]
  constructor
  · intro e
    have hsome : (s.beatLoad a off 0).1 = 1 ∨ (s.beatLoad a off 1).1 = 1 ∨ (s.beatLoad a off 2).1 = 1 ∨
        (s.beatLoad a off 3).1 = 1 := by omega
    rcases hsome with e | e | e | e
    exacts [⟨0, by omega, e⟩, ⟨1, by omega, e⟩, ⟨2, by omega, e⟩, ⟨3, by omega, e⟩]
  · rintro ⟨i, hi, e⟩
    interval_cases i <;> omega

end Beat

/-- The STATUS of a beat as its response carries it. -/
theorem ofNat_status_eq_one_iff {m : Nat} (hm : m ≤ 1) : BitVec.ofNat 2 m = 1 ↔ m = 1 := by
  interval_cases m <;> decide

theorem ofNat_status_eq_zero_or_one {m : Nat} (hm : m ≤ 1) : BitVec.ofNat 2 m = 0 ∨ BitVec.ofNat 2 m = 1 := by
  interval_cases m <;> decide

/-! ### A host port's accesses (R22, R354 to R359) -/

/-- Below the reserved range an offset lies in the register regions. -/
theorem hcTarget_of_lt {off : Nat} (h : off < 0x1A0000) : hcTarget off = .regs := if_pos h

theorem State.accepts_host_iff {s : State} {h : Host} {tag : BitVec 5} :
    s.accepts (.host h tag) = true ↔ s.portReady h tag = true ∧ (s.host h).reqs.all Req.performed = true := Bool.and_eq_true_iff

theorem State.registerWrite_of_not_accepts {s : State} {h : Host} {tag : BitVec 5}
    (hn : s.portReady h tag = false ∨ (s.host h).reqs.all Req.performed = false) (off : Nat) (strb : BitVec 4) (v : Word) :
    s.registerWrite (.host h tag) off strb v = s := by
  refine if_neg fun ha => ?_
  obtain ⟨hr, hi⟩ := State.accepts_host_iff.1 ha
  simp [hr, hi] at hn

section Write
variable {s : State} {h : Host} {tag : BitVec 5} (ha : s.accepts (.host h tag) = true) {off : Nat}
include ha

theorem State.registerWrite_of_lt (ho : off < 0x1A0000) (strb : BitVec 4) (v : Word) : s.registerWrite (.host h tag) off strb v =
    (s.regStore (.host h tag) off strb v).2.answer h tag (BitVec.ofNat 2 (s.regStore (.host h tag) off strb v).1) [] := by
  simp [State.registerWrite, ha, hcTarget_of_lt ho]

theorem State.registerWrite_of_unlisted (ho : off < 0x1A0000) (hd : decodeReg h off = none) (strb : BitVec 4) (v : Word) :
    s.registerWrite (.host h tag) off strb v = s.answer h tag 0 [] := by
  rw [State.registerWrite_of_lt ha ho, State.regStore_of_unlisted (a := .host h tag) hd]
  rfl

theorem State.registerWrite_of_listed (ho : off < 0x1A0000) {r : Reg} (hd : decodeReg h off = some r) (strb : BitVec 4) (v : Word) :
    s.registerWrite (.host h tag) off strb v =
      if strb = 0 then s.answer h tag 0 [] else if strb ≠ 15 then s.answer h tag 3 []
      else if s.writable (.host h tag) r then (s.writeReg (.host h tag) r v).answer h tag 0 [] else s.answer h tag 1 [] := by
  rw [State.registerWrite_of_lt ha ho, State.regStore_of_listed (a := .host h tag) hd]
  split_ifs <;> rfl

theorem State.registerWrite_of_reserved (ho : hcTarget off = .reserved) (strb : BitVec 4) (v : Word) :
    s.registerWrite (.host h tag) off strb v = s.answerBad h tag true 0 := by
  simp [State.registerWrite, ha, ho]

end Write

/-- The answer of a write carries the SCLK of the write itself. -/
theorem State.answer_writeReg (s : State) (a : Agent) (r : Reg) (v : Word) (h : Host) (tag : BitVec 5) (st : BitVec 2) :
    let u := s.writeReg a r v
    u.answer h tag st [] = u.setHost h { u.host h with reqs := (u.host h).reqs ++ [
      { tag := tag, status := st, data := [], performed := true, last := s.now / 2, doneAt := s.now / 2, readyAt := s.now / 2 + 1 }] } := by
  simp only [State.answer, State.modHost, State.writeReg_now]

theorem State.readNow_of_not_ready {s : State} {h : Host} {tag : BitVec 5}
    (hn : s.readReady h tag = false ∨ (s.host h).reqs.all Req.performed = false) (off : Nat) : s.readNow h tag off = s := by
  rcases hn with hn | hn <;> simp [State.readNow, hn]

section Read
variable {s : State} {h : Host} {tag : BitVec 5} (hr : s.readReady h tag = true) (hi : (s.host h).reqs.all Req.performed = true) {off : Nat}
include hr hi

theorem State.readNow_of_lt (ho : off < 0x1A0000) : s.readNow h tag off = (s.beatState (.host h tag) off 4).take h {
    tag := tag, status := BitVec.ofNat 2 (s.beatStatus (.host h tag) off), data := [s.beatData (.host h tag) off], performed := true
    addr := off, beats := 1, last := s.now / 2, doneAt := s.now / 2, readyAt := s.now / 2 + 2 } := by
  rw [State.readNow, hr, hi, Bool.and_self, if_pos rfl, if_pos (hcTarget_of_lt ho), State.beatsRead_one]

theorem State.readNow_of_reserved (ho : hcTarget off = .reserved) : s.readNow h tag off = s.answerBad h tag false 1 := by
  rw [State.readNow, hr, hi, Bool.and_self, if_pos rfl, if_neg (by rw [ho]; decide), if_pos ho]

end Read

/-! ### A thread's and a DMA channel's accesses (R14, R23, R25) -/

theorem State.registerWrite_thread_of_unlisted {s : State} {t : Tid} {off : Nat} (hd : decodeReg (s.bankOf (.thread t)) off = none)
    (strb : BitVec 4) (v : Word) : s.registerWrite (.thread t) off strb v = s := by
  simp only [State.registerWrite, hd]

theorem State.registerWrite_thread_of_listed {s : State} {t : Tid} {off : Nat} {r : Reg}
    (hd : decodeReg (s.bankOf (.thread t)) off = some r) (strb : BitVec 4) (v : Word) : s.registerWrite (.thread t) off strb v =
      if s.outReaches t r && decide (strb = 15) && s.writable (.thread t) r then s.writeReg (.thread t) r v else s := by
  simp only [State.registerWrite, hd, State.regStore_state_of_listed hd]
  cases s.outReaches t r <;> simp

theorem State.registerWrite_dma_of_unlisted {s : State} {ch : DmaCh} {off : Nat} (hd : decodeReg (s.bankOf (.dma ch)) off = none)
    (strb : BitVec 4) (v : Word) : s.registerWrite (.dma ch) off strb v = s := by
  simp only [State.registerWrite, State.regStore_of_unlisted hd, ite_self]

theorem State.registerWrite_dma_of_listed {s : State} {ch : DmaCh} {off : Nat} {r : Reg}
    (hd : decodeReg (s.bankOf (.dma ch)) off = some r) (strb : BitVec 4) (v : Word) : s.registerWrite (.dma ch) off strb v =
      if decide (0x060000 ≤ off) && decide (off < 0x1A0000) && decide (strb = 15) && s.writable (.dma ch) r
      then s.writeReg (.dma ch) r v else s := by
  simp only [State.registerWrite, State.regStore_state_of_listed hd]
  by_cases ho : 0x060000 ≤ off ∧ off < 0x1A0000
  · simp [ho]
  · rw [if_neg ho, if_neg]
    simp only [Bool.and_eq_true, decide_eq_true_eq]
    exact fun h => ho h.1.1

theorem State.registerRead_thread_of_unlisted {s : State} {t : Tid} {off : Nat} (hd : decodeReg (s.bankOf (.thread t)) off = none) :
    s.registerRead (.thread t) off = s := by
  simp only [State.registerRead, hd]

theorem State.registerRead_dma_of_unlisted {s : State} {ch : DmaCh} {off : Nat} (hd : decodeReg (s.bankOf (.dma ch)) off = none) :
    s.registerRead (.dma ch) off = s := by
  simp only [State.registerRead, State.regLoad_of_unlisted hd, ite_self]

section Reads
variable {s : State} (hp : s.sys.phase ≠ .scrapped) {off : Nat}
include hp

theorem State.registerRead_thread_of_listed {t : Tid} {r : Reg} (hd : decodeReg (s.bankOf (.thread t)) off = some r) :
    s.registerRead (.thread t) off = if r.inReaches && s.readable (.thread t) r then s.readEffect (.thread t) r else s := by
  simp only [State.registerRead, hd, State.regLoad_of_listed hp hd]
  cases r.inReaches <;> cases s.readable (.thread t) r <;> rfl

theorem State.registerRead_dma_of_listed {ch : DmaCh} {r : Reg} (ho : off < 0x1A0000)
    (hd : decodeReg (s.bankOf (.dma ch)) off = some r) :
    s.registerRead (.dma ch) off = if s.readable (.dma ch) r then s.readEffect (.dma ch) r else s := by
  simp only [State.registerRead, if_pos ho, State.regLoad_of_listed hp hd]
  cases s.readable (.dma ch) r <;> rfl

end Reads

/-! ### The commands -/

theorem exec_registerWrite (a : Agent) (off : BitVec 24) (strb : BitVec 4) (v : Word) (s : State) :
    exec (.registerWrite a off strb v) s = .next (s.registerWrite a (off.toNat / 4 * 4) strb v) := rfl

theorem exec_rcRead (a : Agent) (off : BitVec 24) (s : State) : exec (.rcRead a off) s = .next (s.registerRead a off.toNat) := rfl

/-- Settles O39: writes go by the register that their offset lists, and a host's read by the four registers of its beat. -/
theorem registerRequestsAreAnswered : Obligations.RegisterRequestsAreAnswered := by
  unfold Obligations.RegisterRequestsAreAnswered
  intro s off
  simp only [exec_registerWrite, exec_rcRead, Host.Outcome.next.injEq]
  refine ⟨fun h tag => ⟨fun strb v => ⟨fun hn => ?notReady, fun hr hi ho => ?write, fun hr hi ho => ?writeReserved⟩,
    fun hn => State.readNow_of_not_ready hn _, fun hr hi hp ho => ?read, fun hr hi ho => State.readNow_of_reserved hr hi ho⟩,
    fun t strb v => ⟨?threadWrite, fun hp => ?threadRead⟩, fun ch strb v => ⟨?dmaWrite, fun hp ho => ?dmaRead⟩⟩
  case notReady => exact State.registerWrite_of_not_accepts hn _ strb v
  case write =>
    have ha := State.accepts_host_iff.2 ⟨hr, hi⟩
    cases hd : decodeReg h (off.toNat / 4 * 4) with
    | none => exact State.registerWrite_of_unlisted ha ho hd strb v
    | some r =>
      rw [State.registerWrite_of_listed ha ho hd, State.answer_writeReg]
      rfl
  case writeReserved => exact State.registerWrite_of_reserved (State.accepts_host_iff.2 ⟨hr, hi⟩) ho strb v
  case read =>
    have hle := State.beatStatus_le_one hp (.host h tag) (off.toNat / 16 * 16)
    refine ⟨s.beatState (.host h tag) (off.toNat / 16 * 16), s.beatData (.host h tag) _, _, rfl, fun i hi4 => ?lane,
      ofNat_status_eq_zero_or_one hle, ?status, State.readNow_of_lt hr hi ho⟩
    case lane =>
      cases hd : decodeReg h (off.toNat / 16 * 16 + 4 * i) with
      | none => exact State.beat_step hi4 (State.beatLoad_of_unlisted hd)
      | some r =>
        have hl := State.beatLoad_of_listed (tag := tag) hp hd
        dsimp only at hl ⊢
        split
        · next hb => exact State.beat_step hi4 (hl.trans (if_pos hb))
        · next hb => exact State.beat_step hi4 (hl.trans (if_neg hb))
    case status =>
      rw [ofNat_status_eq_one_iff hle, State.beatStatus_eq_one_iff hp]
      exact exists_congr fun i => and_congr_right fun _ => State.regLoad_status_eq_one_iff (State.beatState_phase hp _ _ i) _ _
  case threadWrite =>
    cases hd : decodeReg (s.bankOf (.thread t)) (off.toNat / 4 * 4) with
    | none => exact State.registerWrite_thread_of_unlisted hd strb v
    | some r => exact State.registerWrite_thread_of_listed hd strb v
  case threadRead =>
    cases hd : decodeReg (s.bankOf (.thread t)) off.toNat with
    | none => exact State.registerRead_thread_of_unlisted hd
    | some r => exact State.registerRead_thread_of_listed hp hd
  case dmaWrite =>
    cases hd : decodeReg (s.bankOf (.dma ch)) (off.toNat / 4 * 4) with
    | none => exact State.registerWrite_dma_of_unlisted hd strb v
    | some r => exact State.registerWrite_dma_of_listed hd strb v
  case dmaRead =>
    cases hd : decodeReg (s.bankOf (.dma ch)) off.toNat with
    | none => exact State.registerRead_dma_of_unlisted hd
    | some r => exact State.registerRead_dma_of_listed hp ho hd

end Sys2Proof.Machine
end

section
/-! PROOFS. Line accesses of the shared ports: what each leaves of the state, the landings of a desk line's enabled bytes, the bytes of a
hall granule, and the bytes and strobes of numbers (R298, R300, R302, R306, R314). -/

namespace Sys2Proof.Machine

/-! ### Bytes and bits of numbers (R94) -/

/-- Byte `i` of a little-endian number. -/
theorem leNat_div_mod (l : List Byte) {i : Nat} (hi : i < l.length) : leNat l / 256 ^ i % 256 = l[i].toNat := by
  induction l generalizing i with
  | nil => simp at hi
  | cons v rest ih =>
    have hv : v.toNat < 256 := v.isLt
    cases i with
    | zero => simp only [leNat, pow_zero, Nat.div_one, List.getElem_cons_zero]; omega
    | succ i =>
      have hdiv : (v.toNat + 256 * leNat rest) / 256 = leNat rest := by omega
      rw [leNat, Nat.pow_succ', ← Nat.div_div_eq_div_mul, hdiv, ih (by simpa using hi), List.getElem_cons_succ]

theorem extractLsb'_ofNat_leNat (l : List Byte) {w i : Nat} (hi : i < l.length) (hw : 8 * i + 8 ≤ w) :
    (BitVec.ofNat w (leNat l)).extractLsb' (8 * i) 8 = l[i] := by
  have hle : l[i].toNat = leNat l / 2 ^ (8 * i) % 2 ^ 8 := by
    rw [Nat.pow_mul]
    exact (leNat_div_mod l hi).symm
  ext j hj
  rw [BitVec.getElem_extractLsb', BitVec.getLsbD_ofNat, ← BitVec.getLsbD_eq_getElem, ← BitVec.testBit_toNat, hle,
    Nat.testBit_mod_two_pow, Nat.testBit_div_two_pow]
  simp [hj, show j + 8 * i < w by omega, Nat.add_comm (8 * i)]

theorem leNat_replicate_zero (n : Nat) : leNat (List.replicate n 0) = 0 := by
  induction n with
  | zero => rfl
  | succ n ih => rw [List.replicate_succ, leNat, ih]; rfl

theorem sum_two_pow_lt (c : Nat → Bool) (n : Nat) : ((List.range n).map (fun i => if c i then 2 ^ i else 0)).sum < 2 ^ n := by
  induction n with
  | zero => simp
  | succ n ih =>
    rw [List.range_succ, List.map_append, List.sum_append, Nat.pow_succ]
    simp only [List.map_cons, List.map_nil, List.sum_cons, List.sum_nil]
    split <;> omega

theorem testBit_sum_two_pow (c : Nat → Bool) (n i : Nat) :
    ((List.range n).map (fun i => if c i then 2 ^ i else 0)).sum.testBit i = (decide (i < n) && c i) := by
  induction n with
  | zero => simp
  | succ n ih =>
    have hlt := sum_two_pow_lt c n
    rw [List.range_succ, List.map_append, List.sum_append, Nat.add_comm]
    simp only [List.map_cons, List.map_nil, List.sum_cons, List.sum_nil, Nat.add_zero]
    rcases Nat.lt_trichotomy i n with h | rfl | h
    · cases c n
      · simp [ih, h, Nat.lt_succ_of_lt h]
      · simp [Nat.testBit_two_pow_add_gt h, ih, h, Nat.lt_succ_of_lt h]
    · cases hc : c i
      · simp [ih]
      · simp [Nat.testBit_two_pow_add_eq, ih]
    · have hsum : (if c n = true then 2 ^ n else 0) + ((List.range n).map (fun i => if c i then 2 ^ i else 0)).sum < 2 ^ i :=
        lt_of_lt_of_le (by rw [Nat.pow_succ]; split <;> omega) (Nat.pow_le_pow_right (by omega) h)
      simp [Nat.testBit_lt_two_pow hsum, show ¬ i < n + 1 by omega]

/-! ### Bytes of the memories -/

@[simp] theorem State.length_deskBytes (s : State) (b : Barrel) (a n : Nat) : (s.deskBytes b a n).length = n := by
  induction n generalizing a with
  | zero => rfl
  | succ n ih => simp [State.deskBytes, ih]

@[simp] theorem State.length_hallBytes (s : State) (a n : Nat) : (s.hallBytes a n).length = n := by
  induction n generalizing a with
  | zero => rfl
  | succ n ih => simp [State.hallBytes, ih]

@[simp] theorem State.length_hallRead (s : State) (a n : Nat) : (s.hallRead a n).length = n := by
  unfold State.hallRead
  split <;> simp

theorem State.deskBytes_congr {s t : State} (hd : t.desk = s.desk) (b : Barrel) (a n : Nat) : t.deskBytes b a n = s.deskBytes b a n := by
  induction n generalizing a with
  | zero => rfl
  | succ n ih => simp only [State.deskBytes, State.deskByte, hd, ih]

theorem State.hallBytes_congr {s t : State} (hh : t.hall = s.hall) (a n : Nat) : t.hallBytes a n = s.hallBytes a n := by
  induction n generalizing a with
  | zero => rfl
  | succ n ih => simp only [State.hallBytes, State.hallByte, hh, ih]

/-- A hall byte reads as before after a write of another. -/
theorem State.hallByte_setHall_ne (s : State) {a x : Nat} (ha : a < 0x800000) (hx : x < 0x800000) (v : Byte) (hne : x ≠ a) :
    (s.setHall a v).hallByte x = s.hallByte x :=
  peek_poke_ne _ v (by rwa [Nat.mod_eq_of_lt ha, Nat.mod_eq_of_lt hx])

/-! ### What an access leaves -/

/-- Notes of errors touch the memories' records alone. -/
theorem State.noteRead_frame (s : State) (m : MemInst) (path addr n agent : Nat) :
    s.noteRead m path addr n agent = { s with memS := (s.noteRead m path addr n agent).memS } :=
  List.foldlRecOn (motive := fun t : State => t = { s with memS := t.memS }) _ _ rfl (fun _ ht _ _ => by rw [ht]; rfl)

theorem State.heal_frame (s : State) (m : MemInst) (addr n : Nat) : s.heal m addr n = { s with insts := (s.heal m addr n).insts } := by
  unfold State.heal
  split <;> rfl

theorem State.clearResv_frame (s : State) (a n : Nat) : s.clearResv a n = { s with threads := (s.clearResv a n).threads } :=
  List.foldlRecOn (motive := fun t : State => t = { s with threads := t.threads }) _ _ rfl (fun _ ht _ _ => by rw [ht]; rfl)

/-- A write of one hall byte: the wipe of the secure region drops it, and else the byte lands. -/
theorem State.hallWrite_one_frame (s : State) (a : Nat) (v : Byte) : ∃ i t, s.hallWrite a [v] =
    { s with hall := if s.memS.wiping && secureAddr a then s.hall else (s.setHall a v).hall, insts := i, threads := t } := by
  unfold State.hallWrite
  split
  · exact ⟨s.insts, s.threads, rfl⟩
  · rw [State.clearResv_frame, State.heal_frame]
    exact ⟨_, _, rfl⟩

/-- The states that a write of a hall granule leads to: hall, the poison of its words and the reservations on them may differ. -/
def State.HallOnly (s t : State) : Prop := t = { s with hall := t.hall, insts := t.insts, threads := t.threads }

theorem State.HallOnly.trans {s t u : State} (h : s.HallOnly t) (h' : t.HallOnly u) : s.HallOnly u := by
  unfold State.HallOnly at *
  rw [h', h]

theorem State.hallOnly_hallWrite_one (s : State) (a : Nat) (v : Byte) : s.HallOnly (s.hallWrite a [v]) := by
  obtain ⟨i, t, h⟩ := s.hallWrite_one_frame a v
  unfold State.HallOnly
  rw [h]

theorem State.hallOnly_heal (s : State) (m : MemInst) (addr n : Nat) : s.HallOnly (s.heal m addr n) := by
  unfold State.HallOnly
  rw [State.heal_frame]

/-- The whole words of a granule lose their poison (R305). -/
def State.healWords (s : State) (g : Nat) (strb : BitVec 64) : State :=
  (List.range 2).foldl (fun t k => if wholeWord strb k then t.heal instHall (16 * g + 8 * k) 8 else t) s

theorem State.hallPortWrite_eq (s : State) (g : Nat) (data : BitVec 512) (strb : BitVec 64) :
    s.hallPortWrite g data strb = (s.hallGranule g (strobed data strb 16)).healWords g strb := rfl

theorem State.healWords_hall (s : State) (g : Nat) (strb : BitVec 64) : (s.healWords g strb).hall = s.hall := by
  refine List.foldlRecOn (motive := fun t : State => t.hall = s.hall) _ _ rfl (fun t ht k _ => ?_)
  split
  · rw [State.heal_frame]; exact ht
  · exact ht

theorem State.hallOnly_healWords (s : State) (g : Nat) (strb : BitVec 64) : s.HallOnly (s.healWords g strb) := by
  refine List.foldlRecOn (motive := fun t : State => s.HallOnly t) _ _ rfl (fun t ht k _ => ?_)
  split
  · exact ht.trans (t.hallOnly_heal _ _ _)
  · exact ht

theorem State.hallOnly_hallPortWrite (s : State) (g : Nat) (data : BitVec 512) (strb : BitVec 64) :
    s.HallOnly (s.hallPortWrite g data strb) := by
  have hgranule : s.HallOnly (s.hallGranule g (strobed data strb 16)) :=
    List.foldlRecOn (motive := fun t : State => s.HallOnly t) _ _ rfl (fun t ht _ _ => ht.trans (t.hallOnly_hallWrite_one _ _))
  exact hgranule.trans (State.hallOnly_healWords _ g strb)

/-! ### The landings of a desk line (R298, R300) -/

theorem mem_agendaInsert {x y : Landing} {l : List Landing} : x ∈ agendaInsert y l ↔ x = y ∨ x ∈ l := by
  induction l with
  | nil => simp [agendaInsert]
  | cons z rest ih =>
    rw [agendaInsert]
    split
    · exact List.mem_cons
    · rw [List.mem_cons, ih, List.mem_cons]
      exact or_left_comm

/-- What a second port writes in this cycle: `size` bytes of a desk. -/
def deskStore (b : Barrel) (q size : Nat) (v : DWord) : Eff :=
  .store { loc := .desk b (BitVec.ofNat 19 q), size := size, signFill := false } v

/-- The landing of a second port's write in this cycle. -/
def State.portLanding (s : State) (e : Eff) : Landing :=
  { due := s.now, prio := prioPort, thread := none, issuedAt := s.now, eff := e }

theorem State.mem_agenda_schedule {s : State} {x : Landing} {e : Eff} :
    x ∈ (s.schedule s.now prioPort e).agenda ↔ x ∈ s.agenda ∨ x = s.portLanding e :=
  mem_agendaInsert.trans or_comm

/-- Stores entered one after the other, all in this cycle. -/
theorem State.mem_agenda_foldl_schedule {s : State} {l : List Eff} {x : Landing} :
    x ∈ (l.foldl (fun t e => t.schedule t.now prioPort e) s).agenda ↔ x ∈ s.agenda ∨ ∃ e ∈ l, x = s.portLanding e := by
  induction l generalizing s with
  | nil => simp
  | cons e rest ih =>
    rw [List.foldl_cons, ih, State.mem_agenda_schedule, List.exists_mem_cons_iff, or_assoc]
    rfl

theorem mem_strobed {data : BitVec 512} {strb : BitVec 64} {n : Nat} {e : Nat × Byte} :
    e ∈ strobed data strb n ↔ ∃ i < n, strb.getLsbD i = true ∧ e = (i, (data >>> (8 * i)).setWidth 8) := by
  simp only [strobed, List.mem_map, List.mem_filter, List.mem_range, and_assoc, eq_comm]

/-- The enabled bytes of ECC word `k` of a line, with their places in it. -/
def wordBytes (data : BitVec 512) (strb : BitVec 64) (k : Nat) : List (Nat × Byte) :=
  strobed ((data >>> (64 * k)).setWidth 512) ((strb >>> (8 * k)).setWidth 64) 8

/-- The stores of ECC word `k` of a line: the whole word as one, or each enabled byte by itself. -/
def wordStores (b : Barrel) (line : Nat) (data : BitVec 512) (strb : BitVec 64) (k : Nat) : List Eff :=
  if wholeWord strb k then [deskStore b (64 * line + 8 * k) 8 ((data >>> (64 * k)).setWidth 64)]
  else (wordBytes data strb k).map (fun e => deskStore b (64 * line + 8 * k + e.1) 1 (e.2.setWidth 64))

/-- A write through a desk's second port enters the stores of its eight words, one after the other. -/
theorem State.deskPortWrite_eq (s : State) (b : Barrel) (line : Nat) (data : BitVec 512) (strb : BitVec 64) :
    s.deskPortWrite b line data strb =
      ((List.range 8).flatMap (wordStores b line data strb)).foldl (fun t e => t.schedule t.now prioPort e) s := by
  rw [List.foldl_flatMap, State.deskPortWrite]
  congr 1
  funext t k
  unfold wordStores
  split
  · rfl
  · rw [List.foldl_map]; rfl

theorem State.deskPortWrite_frame (s : State) (b : Barrel) (line : Nat) (data : BitVec 512) (strb : BitVec 64) :
    s.deskPortWrite b line data strb = { s with agenda := (s.deskPortWrite b line data strb).agenda } := by
  rw [State.deskPortWrite_eq]
  exact List.foldlRecOn (motive := fun t : State => t = { s with agenda := t.agenda }) _ _ rfl (fun t ht e _ => by rw [ht]; rfl)

theorem State.mem_agenda_deskPortWrite {s : State} {b : Barrel} {line : Nat} {data : BitVec 512} {strb : BitVec 64} {x : Landing} :
    x ∈ (s.deskPortWrite b line data strb).agenda ↔
      x ∈ s.agenda ∨ ∃ e ∈ (List.range 8).flatMap (wordStores b line data strb), x = s.portLanding e := by
  rw [State.deskPortWrite_eq, State.mem_agenda_foldl_schedule]

theorem State.portLanding_mem_agenda (s : State) {b : Barrel} {line : Nat} {data : BitVec 512} {strb : BitVec 64} {k : Nat} {e : Eff}
    (hk : k < 8) (he : e ∈ wordStores b line data strb k) : s.portLanding e ∈ (s.deskPortWrite b line data strb).agenda :=
  State.mem_agenda_deskPortWrite.2 (.inr ⟨e, List.mem_flatMap.2 ⟨k, List.mem_range.2 hk, he⟩, rfl⟩)

/-- The store of an ECC word, or of a byte of it, holds the line's byte in its place. -/
theorem extractLsb'_lane (data : BitVec 512) {k j : Nat} (hj : j < 8) :
    ((data >>> (64 * k)).setWidth 64).extractLsb' (8 * j) 8 = data.extractLsb' (8 * (8 * k + j)) 8 := by
  ext i hi
  simp only [BitVec.getElem_extractLsb', BitVec.getLsbD_setWidth, BitVec.getLsbD_ushiftRight]
  rw [show 64 * k + (8 * j + i) = 8 * (8 * k + j) + i by omega]
  simp [show 8 * j + i < 64 by omega]

theorem setWidth_lane (data : BitVec 512) {k j : Nat} (hj : j < 8) :
    ((((data >>> (64 * k)).setWidth 512) >>> (8 * j)).setWidth 8).setWidth 64 =
      (data.extractLsb' (8 * (8 * k + j)) 8).setWidth 64 := by
  ext i hi
  simp only [BitVec.getElem_setWidth, BitVec.getLsbD_setWidth, BitVec.getLsbD_ushiftRight, BitVec.getLsbD_extractLsb']
  rw [show 64 * k + (8 * j + i) = 8 * (8 * k + j) + i by omega]
  by_cases h : i < 8
  · simp [h, show 8 * j + i < 512 by omega]
  · simp [h]

/-- An enabled byte of a desk line lands at the end of this cycle, by itself or within its ECC word (R298, R300). -/
theorem State.exists_landing_of_enabled {s : State} {b : Barrel} {line : Nat} (hline : line < 8192) {data : BitVec 512} {strb : BitVec 64}
    {i : Nat} (hi : i < 64) (hs : strb.getLsbD i = true) : ∃ x ∈ (s.deskPortWrite b line data strb).agenda, x.due = s.now ∧
      x.prio = prioPort ∧ ∃ n q v, x.eff = .store { loc := .desk b q, size := n, signFill := false } v ∧
      q.toNat ≤ 64 * line + i ∧ 64 * line + i < q.toNat + n ∧
      v.extractLsb' (8 * (64 * line + i - q.toNat)) 8 = data.extractLsb' (8 * i) 8 := by
  obtain ⟨k, j, rfl, hk, hj⟩ : ∃ k j, i = 8 * k + j ∧ k < 8 ∧ j < 8 := ⟨i / 8, i % 8, by omega, by omega, by omega⟩
  have hadr : ∀ q < 524288, (BitVec.ofNat 19 q).toNat = q := fun q hq => Nat.mod_eq_of_lt hq
  by_cases hw : wholeWord strb k = true
  · have hword : deskStore b (64 * line + 8 * k) 8 ((data >>> (64 * k)).setWidth 64) ∈ wordStores b line data strb k := by
      rw [wordStores, if_pos hw]
      exact List.mem_singleton_self _
    refine ⟨_, s.portLanding_mem_agenda hk hword, rfl, rfl, 8, _, _, rfl, ?_⟩
    rw [hadr _ (by omega), show 64 * line + (8 * k + j) - (64 * line + 8 * k) = j by omega]
    exact ⟨by omega, by omega, extractLsb'_lane data hj⟩
  · have hbyte : deskStore b (64 * line + 8 * k + j) 1 ((((data >>> (64 * k)).setWidth 512 >>> (8 * j)).setWidth 8).setWidth 64) ∈
        wordStores b line data strb k := by
      rw [wordStores, if_neg hw]
      exact List.mem_map.2 ⟨_, mem_strobed.2 ⟨j, hj, by simp [hs, show j < 64 by omega], rfl⟩, rfl⟩
    refine ⟨_, s.portLanding_mem_agenda hk hbyte, rfl, rfl, 1, _, _, rfl, ?_⟩
    rw [hadr _ (by omega), show 64 * line + (8 * k + j) - (64 * line + 8 * k + j) = 0 by omega, setWidth_lane data hj]
    exact ⟨by omega, by omega, BitVec.eq_of_getLsbD_eq (fun m hm => by simp [hm, show m < 64 by omega])⟩

/-! ### The bytes of a hall granule (R302, R314) -/

theorem State.hallByte_hallWrite_one (s : State) {a x : Nat} (ha : a < 0x800000) (hx : x < 0x800000) (v : Byte) :
    (s.hallWrite a [v]).hallByte x = if x = a ∧ (s.memS.wiping && secureAddr a) = false then v else s.hallByte x := by
  obtain ⟨i, t, h⟩ := s.hallWrite_one_frame a v
  rw [h]
  cases hshut : s.memS.wiping && secureAddr a
  · by_cases hxa : x = a
    · subst hxa
      exact (s.hallByte_setHall x v).trans (by simp)
    · exact (s.hallByte_setHall_ne ha hx v hxa).trans (by simp [hxa])
  · simp [State.hallByte]

/-- Bytes of one granule written one after the other. -/
theorem State.hallByte_foldl_hallWrite (s : State) {a x : Nat} (f : Nat → Byte) (hx : x < 0x800000) (l : List Nat)
    (hl : ∀ i ∈ l, a + i < 0x800000 ∧ secureAddr (a + i) = secureAddr a) :
    (l.foldl (fun t i => t.hallWrite (a + i) [f i]) s).hallByte x =
      if a ≤ x ∧ x - a ∈ l ∧ (s.memS.wiping && secureAddr a) = false then f (x - a) else s.hallByte x := by
  induction l generalizing s with
  | nil => simp
  | cons i rest ih =>
    obtain ⟨hlt, hsec⟩ := hl i (List.mem_cons_self ..)
    have hmem : (s.hallWrite (a + i) [f i]).memS = s.memS := by rw [s.hallOnly_hallWrite_one (a + i) (f i)]
    rw [List.foldl_cons, ih _ (fun k hk => hl k (List.mem_cons_of_mem _ hk)), State.hallByte_hallWrite_one s hlt hx, hmem, hsec]
    by_cases hxi : x = a + i
    · subst hxi
      cases s.memS.wiping && secureAddr a <;> simp
    · have hne : a ≤ x → x - a ≠ i := fun hax he => hxi (by omega)
      by_cases hax : a ≤ x
      · simp [hxi, hax, hne hax]
      · simp [hxi, hax]

theorem State.hallByte_hallPortWrite (s : State) {g x : Nat} (hg : g < 524288) (hx : x < 0x800000) (data : BitVec 512) (strb : BitVec 64) :
    (s.hallPortWrite g data strb).hallByte x =
      if 16 * g ≤ x ∧ x < 16 * g + 16 ∧ strb.getLsbD (x - 16 * g) = true ∧ (s.memS.wiping && secureAddr (16 * g)) = false
      then data.extractLsb' (8 * (x - 16 * g)) 8 else s.hallByte x := by
  have hsecure : ∀ i < 16, secureAddr (16 * g + i) = secureAddr (16 * g) := fun i hi => by
    simp only [secureAddr, Bool.and_eq_decide, decide_eq_decide, decide_eq_true_eq]; omega
  have hbyte : ∀ i, (data >>> (8 * i)).setWidth 8 = data.extractLsb' (8 * i) 8 := fun i => rfl
  rw [State.hallPortWrite_eq, State.hallByte, State.healWords_hall, ← State.hallByte, State.hallGranule, strobed, List.foldl_map,
    State.hallByte_foldl_hallWrite s (fun i => (data >>> (8 * i)).setWidth 8) hx]
  · simp only [List.mem_filter, List.mem_range, hbyte]
    refine if_congr ?_ rfl rfl
    constructor
    · rintro ⟨ha, ⟨hlt, hs⟩, hw⟩
      exact ⟨ha, by omega, hs, hw⟩
    · rintro ⟨ha, hlt, hs, hw⟩
      exact ⟨ha, ⟨by omega, hs⟩, hw⟩
  · intro i hi
    have hi16 : i < 16 := List.mem_range.1 (List.mem_filter.1 hi).1
    exact ⟨by omega, hsecure i hi16⟩

end Sys2Proof.Machine
end

section
/-! PROOFS. Requests of memory by the host ports: how they are taken, presented, served and answered (R22, R298, R299, R304, R354 to R359,
R364). -/

namespace Sys2Proof.Machine

/-! ### Requests are taken (R354, R355) -/

/-- The requests that get STATUS 3. -/
theorem refused_iff {addr n : Nat} : (requestBad addr n || decide (hcTarget addr = .reserved)) = true ↔
    requestBad addr n = true ∨ hcTarget addr = .reserved := by
  rw [Bool.or_eq_true, decide_eq_true_eq]

theorem State.hostWrite_of_ready {s : State} {h : Host} {tag : BitVec 5} (hr : s.portReady h tag = true) (off : Nat)
    (l : List (BitVec 128 × BitVec 16)) : s.hostWrite h tag off l = s.take h (
      if requestBad off l.length = true ∨ hcTarget off = .reserved
      then { tag := tag, status := 3, data := [], performed := true, write := true, last := s.now / 2, doneAt := s.now / 2
             readyAt := s.now / 2 + 5 }
      else { tag := tag, status := 0, data := [], performed := false, write := true, addr := off, beats := l.length, wdata := l
             last := s.now / 2 }) := by
  rw [State.hostWrite, if_pos hr, apply_ite (s.take h)]
  exact if_congr refused_iff rfl rfl

theorem State.hostRead_of_ready {s : State} {h : Host} {tag : BitVec 5} (hr : s.readReady h tag = true) (off n : Nat) :
    s.hostRead h tag off n = s.take h (
      if requestBad off n = true ∨ hcTarget off = .reserved
      then { tag := tag, status := 3, data := List.replicate n 0, performed := true, last := s.now / 2, doneAt := s.now / 2
             readyAt := s.now / 2 + 5 }
      else { tag := tag, status := 0, data := List.replicate n 0, performed := false, addr := off, beats := n, last := s.now / 2 }) := by
  rw [State.hostRead, if_pos hr, apply_ite (s.take h)]
  exact if_congr refused_iff rfl rfl

theorem State.hostWrite_of_not_ready {s : State} {h : Host} {tag : BitVec 5} (hr : s.portReady h tag = false) (off : Nat)
    (l : List (BitVec 128 × BitVec 16)) : s.hostWrite h tag off l = s := by simp [State.hostWrite, hr]

theorem State.hostRead_of_not_ready {s : State} {h : Host} {tag : BitVec 5} (hr : s.readReady h tag = false) (off n : Nat) :
    s.hostRead h tag off n = s := by simp [State.hostRead, hr]

theorem exec_hostMemoryWrite {beats : List (BitVec 128 × BitVec 16)} (hne : beats ≠ []) (hlen : beats.length ≤ 8) (h : Host)
    (tag : BitVec 5) (addr : BitVec 24) (s : State) :
    exec (.hostMemoryWrite h tag addr beats) s = .next (s.hostWrite h tag addr.toNat beats) := by
  show Host.Outcome.next _ = _
  rw [if_neg hne, List.take_of_length_le hlen]

theorem exec_hostMemoryWrite_of_not_ready {s : State} {h : Host} {tag : BitVec 5} (hr : s.portReady h tag = false) (addr : BitVec 24)
    (beats : List (BitVec 128 × BitVec 16)) : exec (.hostMemoryWrite h tag addr beats) s = .next s := by
  show Host.Outcome.next _ = _
  rw [State.hostWrite_of_not_ready hr, ite_self]

theorem exec_hostMemoryRead (h : Host) (tag : BitVec 5) (addr : BitVec 24) (n : Fin 8) (s : State) :
    exec (.hostMemoryRead h tag addr n) s = .next (s.hostRead h tag addr.toNat (n.val + 1)) := rfl

theorem exec_malformedRequest {s : State} {h : Host} {tag : BitVec 5} {write lastOk : Bool} {addr : BitVec 24} {n : Fin 8}
    (hbad : requestBad addr.toNat (n.val + 1) = true ∨ (write = true ∧ lastOk = false) ∨ hcTarget addr.toNat = .reserved)
    (hr : s.portReady h tag = true) :
    exec (.malformedRequest h tag write addr n lastOk) s = .next (s.answerBad h tag write (n.val + 1)) := by
  show Host.Outcome.next _ = _
  rw [if_pos]
  simpa [hr, or_assoc] using hbad

/-! ### Requests are presented (R299, R358) -/

/-- A desk window starts on a granule. -/
theorem mod_of_hcTarget_desk {off a : Nat} {b : Barrel} (ht : hcTarget off = .desk b a) : a % 16 = off % 16 := by
  unfold hcTarget at ht
  split_ifs at ht
  obtain ⟨-, ha⟩ := HcTarget.desk.inj ht
  omega

theorem Req.base_of_desk {r : Req} {a : Nat} {b : Barrel} (ht : hcTarget r.addr = .desk b a) : r.base = a := by rw [Req.base, ht]

theorem Req.base_of_hall {r : Req} {a : Nat} (ht : hcTarget r.addr = .hall a) : r.base = a := by rw [Req.base, ht]

/-- A line access carries a beat at a place: its strobes are the beat's there and clear elsewhere, its enabled bytes the beat's. -/
def CarriesBeat (off : Nat) (d : BitVec 128) (st : BitVec 16) (data : BitVec 512) (strb : BitVec 64) : Prop := ∀ i < 64,
  strb.getLsbD i = (decide (off ≤ i) && decide (i < off + 16) && st.getLsbD (i - off)) ∧
  (strb.getLsbD i = true → data.extractLsb' (8 * i) 8 = d.extractLsb' (8 * (i - off)) 8)

section Beat
variable {r : Req} {d : BitVec 128} {st : BitVec 16} (hd : r.wdata = [(d, st)])
include hd

theorem Req.byteAt_of_lt {i : Nat} (hi : i < 16) : r.byteAt i = some ((d >>> (8 * i)).setWidth 8, st.getLsbD i) := by
  simp [Req.byteAt, hd, Nat.div_eq_of_lt hi, Nat.mod_eq_of_lt hi]

theorem Req.byteAt_of_ge {i : Nat} (hi : 16 ≤ i) : r.byteAt i = none := by
  have hne : i / 16 ≠ 0 := by omega
  simp [Req.byteAt, hd, hne]

end Beat

/-- Byte `i` of a line or granule that carries a beat from `off` on. -/
def beatByte (off : Nat) (d : BitVec 128) (i : Nat) : Byte :=
  if off ≤ i ∧ i < off + 16 then (d >>> (8 * (i - off))).setWidth 8 else 0

/-- Strobe `i` of a line or granule that carries a beat from `off` on. -/
def beatStrobe (off : Nat) (st : BitVec 16) (i : Nat) : Bool := decide (off ≤ i) && decide (i < off + 16) && st.getLsbD (i - off)

/-- What a request of one beat brings to the line or granule that holds the beat. -/
theorem Req.lineAccess_eq {r : Req} {d : BitVec 128} {st : BitVec 16} (hw : r.write = true) (hd : r.wdata = [(d, st)])
    {base start off : Nat} (hbase : base = start + off) (n : Nat) : r.lineAccess base start n =
      .write (BitVec.ofNat 512 (leNat ((List.range n).map (beatByte off d))))
        (BitVec.ofNat 64 ((List.range n).map (fun i => if beatStrobe off st i then 2 ^ i else 0)).sum) := by
  have hat : ∀ i, (if start + i < base then none else r.byteAt (start + i - base)) =
      if off ≤ i ∧ i < off + 16 then some ((d >>> (8 * (i - off))).setWidth 8, st.getLsbD (i - off)) else none := by
    intro i
    rw [hbase, show start + i - (start + off) = i - off by omega]
    rcases Nat.lt_or_ge i off with hlt | hge
    · rw [if_pos (by omega), if_neg (by omega)]
    · rw [if_neg (by omega)]
      rcases Nat.lt_or_ge i (off + 16) with hlt | hge'
      · rw [if_pos ⟨hge, hlt⟩, Req.byteAt_of_lt hd (by omega)]
      · rw [if_neg (by omega), Req.byteAt_of_ge hd (by omega)]
  rw [Req.lineAccess, if_pos hw]
  simp only [hat]
  congr 4
  · funext i
    unfold beatByte
    by_cases hin : off ≤ i ∧ i < off + 16
    · rw [if_pos hin, if_pos hin]
    · rw [if_neg hin, if_neg hin]
  · funext i
    unfold beatStrobe
    by_cases hin : off ≤ i ∧ i < off + 16
    · cases hst : st.getLsbD (i - off) <;> simp [hin]
    · have hno : (decide (off ≤ i) && decide (i < off + 16)) = false := by simpa using hin
      simp [hin, hno]

theorem Req.lineAccess_read {r : Req} (hw : r.write = false) (base start n : Nat) : r.lineAccess base start n = .read := by
  simp [Req.lineAccess, hw]

theorem Req.lineAccess_carriesBeat {r : Req} {d : BitVec 128} {st : BitVec 16} (hw : r.write = true) (hd : r.wdata = [(d, st)])
    {base start off n : Nat} (hbase : base = start + off) (hn : off + 16 ≤ n) :
    ∃ data strb, r.lineAccess base start n = .write data strb ∧ CarriesBeat off d st data strb := by
  refine ⟨_, _, Req.lineAccess_eq hw hd hbase n, fun i hi => ?_⟩
  have hstrobe : (BitVec.ofNat 64 ((List.range n).map (fun i => if beatStrobe off st i then 2 ^ i else 0)).sum).getLsbD i =
      beatStrobe off st i := by
    rw [BitVec.getLsbD_ofNat, testBit_sum_two_pow]
    by_cases hin : i < n
    · simp [hi, hin]
    · simp [beatStrobe, hin, show ¬ i < off + 16 by omega]
  refine ⟨hstrobe, fun hs => ?_⟩
  rw [hstrobe] at hs
  obtain ⟨⟨hge, hlt⟩, -⟩ : (off ≤ i ∧ i < off + 16) ∧ st.getLsbD (i - off) = true := by simpa [beatStrobe] using hs
  have hlen : i < ((List.range n).map (beatByte off d)).length := by simp; omega
  rw [extractLsb'_ofNat_leNat _ hlen (by omega), List.getElem_map, List.getElem_range, beatByte, if_pos ⟨hge, hlt⟩]
  rfl

/-! A request of one beat makes one access. -/

theorem Req.accesses_desk {r : Req} {h : Host} {k a : Nat} {b : Barrel} (hb : r.beats = 1) (ha : r.addr % 16 = 0)
    (ht : hcTarget r.addr = .desk b a) : r.accesses h k =
      [{ desk := some b, unit := a / 64, user := .host h, acc := r.lineAccess a (64 * (a / 64)) 64, from_ := k, tag := r.tag.toNat
         off := a % 64, len := 16 }] := by
  have hmod : a % 16 = 0 := (mod_of_hcTarget_desk ht).trans ha
  have hone : (a + 16 - 1) / 64 + 1 - a / 64 = 1 := by omega
  have hoff : max a (64 * (a / 64)) - 64 * (a / 64) = a % 64 := by omega
  have hlen : min (a + 16) (64 * (a / 64) + 64) - max a (64 * (a / 64)) = 16 := by omega
  simp only [Req.accesses, ht, hb, Nat.mul_one, hone, List.range_one, List.map_cons, List.map_nil, Nat.add_zero, hoff, hlen]

theorem Req.accesses_hall {r : Req} {h : Host} {k a : Nat} (hb : r.beats = 1) (ht : hcTarget r.addr = .hall a) : r.accesses h k =
      [{ desk := none, unit := a / 16, user := .host h, acc := r.lineAccess a a 16, from_ := k, tag := r.tag.toNat
         off := 0, len := 16 }] := by
  simp [Req.accesses, ht, hb]

theorem State.memTurn_iff {s : State} {h : Host} {r : Req} : s.memTurn h r = true ↔ r.last + 2 ≤ s.now / 2 ∧
    ∀ q ∈ s.earlier h r, q.overlaps r = true → q.performed = true ∧ q.doneAt ≤ s.now / 2 := by
  simp [State.memTurn, imp_iff_not_or]

theorem State.reqStep_reserved {s : State} {h : Host} {r : Req} (ht : hcTarget r.addr = .reserved) : s.reqStep h r = s := by
  simp [State.reqStep, ht]

/-- A request of memory is presented in its turn, and waits for it. -/
theorem State.reqStep_memory {s : State} {h : Host} {r : Req} (hp : r.performed = false) (hs : r.sent = false)
    (hnr : hcTarget r.addr ≠ .regs) (hnv : hcTarget r.addr ≠ .reserved) :
    s.reqStep h r = if s.memTurn h r then s.present h r else s := by
  unfold State.reqStep
  rw [hp, hs]
  cases ht : hcTarget r.addr with
  | regs => exact absurd ht hnr
  | reserved => exact absurd ht hnv
  | desk b a => rfl
  | hall a => rfl

/-- The turn of a request of memory presents the accesses that it makes. -/
theorem State.reqStep_ports {s : State} {h : Host} {r : Req} (hp : r.performed = false) (hs : r.sent = false)
    (hnr : hcTarget r.addr ≠ .regs) (hnv : hcTarget r.addr ≠ .reserved) (hturn : s.memTurn h r = true) :
    (s.reqStep h r).ports = s.ports ++ r.accesses h s.now := by
  rw [State.reqStep_memory hp hs hnr hnv, if_pos hturn]
  rfl

/-- Out of its turn a request that names no register is left as it is. -/
theorem State.reqStep_of_not_turn {s : State} {h : Host} {r : Req} (hp : r.performed = false) (hs : r.sent = false)
    (hnr : hcTarget r.addr ≠ .regs) (hturn : ¬ s.memTurn h r = true) : s.reqStep h r = s := by
  by_cases hv : hcTarget r.addr = .reserved
  · exact State.reqStep_reserved hv
  · rw [State.reqStep_memory hp hs hnr hv, if_neg hturn]

/-! ### Accesses are served (R298, R299, R304, R364) -/

theorem State.waiting_eq_some {s : State} {desk : Option Barrel} {unit : Nat} {u : PortUser} {acc : LineAccess} {p : PortReq}
    (hw : s.waiting desk unit u acc = some p) : p.desk = desk ∧ p.unit = unit ∧ p.user = u ∧ p.acc = acc := by
  have h := List.find?_some hw
  simp only [Bool.and_eq_true, decide_eq_true_eq] at h
  obtain ⟨⟨⟨⟨hd, hun⟩, hus⟩, hac⟩, -⟩ := h
  exact ⟨hd, hun, hus, hac⟩

/-- The state in which a granted access is served: the block presents it no longer, and its port has had a turn. -/
def State.afterGrant (s : State) (p : PortReq) (T : SMap PortTurn) : State := { s with ports := s.ports.erase p, turns := T }

theorem State.served_host {s : State} {h : Host} {p : PortReq} (hu : p.user = .host h) (T : SMap PortTurn) :
    ({ s with turns := T } : State).served p = (s.afterGrant p T).hostServed h p := by
  unfold State.served
  rw [hu]
  rfl

section Served
variable {s : State} {h : Host} {p : PortReq} {r : Req} (hf : (s.host h).reqs.find? (fun q => decide (q.tag.toNat = p.tag)) = some r)
include hf

theorem State.hostServed_desk {b : Barrel} (hd : p.desk = some b) : s.hostServed h p = s.hostDesk h r b p := by
  unfold State.hostServed
  rw [hf, hd]

theorem State.hostServed_hall (hd : p.desk = none) : s.hostServed h p = s.hostGranule h r p := by
  unfold State.hostServed
  rw [hf, hd]

theorem State.exec_secondPortAccess_waiting {acc : LineAccess} {b : Barrel} {line : BitVec 13} (hfree : s.deskFree b = true)
    (hw : s.waiting (some b) line.toNat (.host h) acc = some p) :
    ∃ T, exec (.secondPortAccess b (.host h) line acc) s = .next ((s.afterGrant p T).hostDesk h r b p) := by
  obtain ⟨hd, -, hu, -⟩ := State.waiting_eq_some hw
  have haccess : exec (.secondPortAccess b (.host h) line acc) s = .next (s.deskAccess b (.host h) line.toNat acc) := rfl
  refine ⟨((s.useDesk b).modTurn b.val (fun x => x.took (.host h))).turns, ?_⟩
  rw [haccess, State.deskAccess, if_pos hfree]
  simp only [hw]
  exact congrArg _ ((State.served_host (s := s) hu _).trans (State.hostServed_desk (s := s.afterGrant p _) hf hd))

theorem State.exec_hallSharedAccess_waiting {acc : LineAccess} {g : BitVec 19} (hopen : s.bankOpen (g.toNat % 16) = true)
    (hw : s.waiting none g.toNat (.host h) acc = some p) :
    ∃ T, exec (.hallSharedAccess (.host h) g acc) s = .next ((s.afterGrant p T).hostGranule h r p) := by
  obtain ⟨hd, -, hu, -⟩ := State.waiting_eq_some hw
  have haccess : exec (.hallSharedAccess (.host h) g acc) s = .next (s.hallAccess (.host h) g.toNat acc) := rfl
  refine ⟨((s.useBank (g.toNat % 16)).modTurn (4 + g.toNat % 16) (fun x => x.took (.host h))).turns, ?_⟩
  rw [haccess, State.hallAccess, if_pos hopen]
  simp only [hw]
  exact congrArg _ ((State.served_host (s := s) hu _).trans (State.hostServed_hall (s := s.afterGrant p _) hf hd))

end Served

/-- A request once its only access has been served. -/
def Req.done (r : Req) (status : BitVec 2) (data : List (BitVec 128)) (k late wait : Nat) : Req :=
  { r with left := 0, status := status, data := data, performed := true, doneAt := k + late, readyAt := k + late + wait }

theorem Req.served_last {r : Req} (hl : r.left = 1) (hs : r.status = 0) (k st late wait : Nat) :
    r.served k st late wait = r.done (BitVec.ofNat 2 st) r.data k late wait := by
  simp [Req.served, Req.done, hl, hs]

theorem Req.fill_one {r : Req} (hd : r.data = [0]) {l : List Byte} (hl : l.length = 16) :
    r.fill 0 l = { r with data := [BitVec.ofNat 128 (leNat l)] } := by
  simp [Req.fill, hd, hl, List.take_of_length_le]

section Reqs
variable {s : State} {h : Host} {r : Req} (hr : r ∈ (s.host h).reqs) (hl : r.left = 1) (hs : r.status = 0)
include hr

theorem State.mem_reqs_modReq (f : Req → Req) : f r ∈ ((s.modReq h r.tag f).host h).reqs := by
  rw [State.modReq, State.modHost, State.host_setHost]
  exact List.mem_map.2 ⟨r, hr, if_pos rfl⟩

include hl hs

theorem State.mem_reqs_served (k st late wait : Nat) : r.done (BitVec.ofNat 2 st) r.data k late wait ∈
    ((s.modReq h r.tag (fun q => q.served k st late wait)).host h).reqs := by
  rw [← Req.served_last hl hs]
  exact State.mem_reqs_modReq hr _

theorem State.mem_reqs_fill_served (hd : r.data = [0]) {beat : Nat} (hbeat : beat = 0) {l : List Byte} (hlen : l.length = 16)
    (k st late wait : Nat) : r.done (BitVec.ofNat 2 st) [BitVec.ofNat 128 (leNat l)] k late wait ∈
    ((s.modReq h r.tag (fun q => (q.fill beat l).served k st late wait)).host h).reqs := by
  have hfill : (r.fill beat l).served k st late wait = r.done (BitVec.ofNat 2 st) [BitVec.ofNat 128 (leNat l)] k late wait := by
    rw [hbeat, Req.fill_one hd hlen]
    exact Req.served_last (r := { r with data := [BitVec.ofNat 128 (leNat l)] }) hl hs k st late wait
  rw [← hfill]
  exact State.mem_reqs_modReq hr _

end Reqs

theorem State.host_noteRead (s : State) (m : MemInst) (path addr n agent : Nat) (h : Host) :
    (s.noteRead m path addr n agent).host h = s.host h := by
  rw [State.noteRead_frame]; rfl

theorem State.host_deskPortWrite (s : State) (b : Barrel) (line : Nat) (d : BitVec 512) (st : BitVec 64) (h : Host) :
    (s.deskPortWrite b line d st).host h = s.host h := by
  rw [State.deskPortWrite_frame]; rfl

theorem State.host_hallPortWrite (s : State) (g : Nat) (d : BitVec 512) (st : BitVec 64) (h : Host) :
    (s.hallPortWrite g d st).host h = s.host h := by
  rw [s.hallOnly_hallPortWrite g d st]; rfl

/-- STATUS 2 or 0 of a read, as its response carries it. -/
theorem ofNat_ite_two (c : Bool) : BitVec.ofNat 2 (if c then 2 else 0) = if c then 2 else 0 := by cases c <;> rfl

/-! A desk line -/

section Desk
variable {s : State} {h : Host} {r : Req} {b : Barrel} {p : PortReq}

theorem State.hostDesk_leaves : (s.hostDesk h r b p).ports = s.ports ∧ (s.hostDesk h r b p).desk = s.desk := by
  unfold State.hostDesk
  dsimp only
  split
  · rw [State.deskPortWrite_frame]
    exact ⟨rfl, rfl⟩
  · split
    · exact ⟨rfl, rfl⟩
    · rw [State.noteRead_frame]
      exact ⟨rfl, rfl⟩

theorem State.hostDesk_write {d : BitVec 512} {st : BitVec 64} (ha : p.acc = .write d st) : s.hostDesk h r b p =
    (s.deskPortWrite b p.unit d st).modReq h r.tag (fun q => q.served (s.now / 2) 0 0 2) := by
  rw [State.hostDesk, ha]

theorem State.hostDesk_write_agenda {d : BitVec 512} {st : BitVec 64} (ha : p.acc = .write d st) :
    (s.hostDesk h r b p).agenda = (s.deskPortWrite b p.unit d st).agenda := by
  rw [State.hostDesk_write ha]
  rfl

variable (hr : r ∈ (s.host h).reqs) (hl : r.left = 1) (hs : r.status = 0)
include hr hl hs

theorem State.hostDesk_write_done {d : BitVec 512} {st : BitVec 64} (ha : p.acc = .write d st) :
    r.done 0 r.data (s.now / 2) 0 2 ∈ ((s.hostDesk h r b p).host h).reqs := by
  rw [State.hostDesk_write ha]
  exact State.mem_reqs_served (by rwa [State.host_deskPortWrite]) hl hs _ 0 0 2

theorem State.hostDesk_read_done {a : Nat} (hp : s.sys.phase ≠ .scrapped) (ha : p.acc = .read) (hlen : p.len = 16) (hd : r.data = [0])
    (hbase : 64 * p.unit + p.off = a) (ht : hcTarget r.addr = .desk b a) :
    r.done (if s.poisoned (instDesk b) a 16 then 2 else 0) [BitVec.ofNat 128 (leNat (s.deskBytes b a 16))] (s.now / 2) 0 2 ∈
      ((s.hostDesk h r b p).host h).reqs := by
  rw [State.hostDesk, ha, ← ofNat_ite_two]
  simp only [if_neg hp, hbase, hlen]
  exact State.mem_reqs_fill_served (by rwa [State.host_noteRead]) hl hs hd (by simp [Req.base_of_desk ht]) (by simp) _ _ 0 2

end Desk

/-! A hall granule -/

section Hall
variable {s : State} {h : Host} {r : Req} {p : PortReq}

theorem State.hostGranule_leaves : (s.hostGranule h r p).ports = s.ports ∧ (s.hostGranule h r p).desk = s.desk := by
  unfold State.hostGranule
  dsimp only
  split
  · split
    · rw [s.hallOnly_hallPortWrite]
      exact ⟨rfl, rfl⟩
    · exact ⟨rfl, rfl⟩
  · split
    · exact ⟨rfl, rfl⟩
    · split
      · rw [State.noteRead_frame]
        exact ⟨rfl, rfl⟩
      · exact ⟨rfl, rfl⟩

theorem State.hostGranule_write_inside {d : BitVec 512} {st : BitVec 64} (ha : p.acc = .write d st)
    (hmay : s.hostHall h (16 * p.unit) = true) : s.hostGranule h r p =
    (s.hallPortWrite p.unit d st).modReq h r.tag (fun q => q.served (s.now / 2) 0 2 2) := by
  simp only [State.hostGranule, ha, hmay, Bool.true_or, if_true]

theorem State.hostGranule_write_outside {d : BitVec 512} {st : BitVec 64} (hp : s.sys.phase ≠ .scrapped) (ha : p.acc = .write d st)
    (hmay : s.hostHall h (16 * p.unit) = false) : s.hostGranule h r p =
    s.modReq h r.tag (fun q => q.served (s.now / 2) 1 2 2) := by
  simp [State.hostGranule, ha, hmay, hp]

theorem State.hostGranule_write_inside_hallByte {d : BitVec 512} {st : BitVec 64} {x : Nat} (hg : p.unit < 524288)
    (ha : p.acc = .write d st) (hmay : s.hostHall h (16 * p.unit) = true) (hx : x < 0x800000) : (s.hostGranule h r p).hallByte x =
      if 16 * p.unit ≤ x ∧ x < 16 * p.unit + 16 ∧ st.getLsbD (x - 16 * p.unit) = true ∧
        (s.memS.wiping && secureAddr (16 * p.unit)) = false
      then d.extractLsb' (8 * (x - 16 * p.unit)) 8 else s.hallByte x := by
  rw [State.hostGranule_write_inside ha hmay]
  exact State.hallByte_hallPortWrite s hg hx d st

theorem State.hostGranule_write_outside_hall {d : BitVec 512} {st : BitVec 64} (hp : s.sys.phase ≠ .scrapped)
    (ha : p.acc = .write d st) (hmay : s.hostHall h (16 * p.unit) = false) : (s.hostGranule h r p).hall = s.hall := by
  rw [State.hostGranule_write_outside hp ha hmay]
  rfl

theorem State.hostGranule_read_outside (hp : s.sys.phase ≠ .scrapped) (ha : p.acc = .read) (hmay : s.hostHall h (16 * p.unit) = false) :
    s.hostGranule h r p = s.modReq h r.tag (fun q => q.served (s.now / 2) 1 0 5) := by
  simp [State.hostGranule, ha, hmay, hp]

/-- A read within the partition counts an error that it meets, which the secure bytes show none of during a wipe. -/
theorem State.hostGranule_read_inside (hp : s.sys.phase ≠ .scrapped) (ha : p.acc = .read) (hmay : s.hostHall h (16 * p.unit) = true) :
    let a := 16 * p.unit
    let bad := !(s.memS.wiping && secureAddr a) && s.poisoned instHall a 16
    s.hostGranule h r p = (if bad then s.noteRead instHall 1 a 16 (agHost h) else s).modReq h r.tag (fun q =>
      (q.fill ((a - r.base) / 16) (s.hallRead a 16)).served (s.now / 2) (if bad then 2 else 0) 0 5) := by
  simp [State.hostGranule, ha, hmay, hp]

theorem State.hostGranule_read_hall (ha : p.acc = .read) : (s.hostGranule h r p).hall = s.hall := by
  rw [State.hostGranule, ha]
  dsimp only
  split
  · rfl
  · split
    · rw [State.noteRead_frame]
      rfl
    · rfl

variable (hr : r ∈ (s.host h).reqs) (hl : r.left = 1) (hs : r.status = 0)
include hr hl hs

theorem State.hostGranule_write_inside_done {d : BitVec 512} {st : BitVec 64} (ha : p.acc = .write d st)
    (hmay : s.hostHall h (16 * p.unit) = true) : r.done 0 r.data (s.now / 2) 2 2 ∈ ((s.hostGranule h r p).host h).reqs := by
  rw [State.hostGranule_write_inside ha hmay]
  exact State.mem_reqs_served (by rwa [State.host_hallPortWrite]) hl hs _ 0 2 2

theorem State.hostGranule_write_outside_done {d : BitVec 512} {st : BitVec 64} (hp : s.sys.phase ≠ .scrapped) (ha : p.acc = .write d st)
    (hmay : s.hostHall h (16 * p.unit) = false) : r.done 1 r.data (s.now / 2) 2 2 ∈ ((s.hostGranule h r p).host h).reqs := by
  rw [State.hostGranule_write_outside hp ha hmay]
  exact State.mem_reqs_served hr hl hs _ 1 2 2

theorem State.hostGranule_read_outside_done (hp : s.sys.phase ≠ .scrapped) (ha : p.acc = .read) (hd : r.data = [0])
    (hmay : s.hostHall h (16 * p.unit) = false) : r.done 1 [0] (s.now / 2) 0 5 ∈ ((s.hostGranule h r p).host h).reqs := by
  rw [State.hostGranule_read_outside hp ha hmay, ← hd]
  exact State.mem_reqs_served hr hl hs _ 1 0 5

theorem State.hostGranule_read_inside_done {a : Nat} (hp : s.sys.phase ≠ .scrapped) (ha : p.acc = .read) (hd : r.data = [0])
    (hbase : 16 * p.unit = a) (ht : hcTarget r.addr = .hall a) (hmay : s.hostHall h a = true) :
    r.done (if s.poisoned instHall a 16 && !(s.memS.wiping && secureAddr a) then 2 else 0)
      [if s.memS.wiping && secureAddr a then 0 else BitVec.ofNat 128 (leNat (s.hallBytes a 16))] (s.now / 2) 0 5 ∈
      ((s.hostGranule h r p).host h).reqs := by
  subst hbase
  have hword : BitVec.ofNat 128 (leNat (s.hallRead (16 * p.unit) 16)) =
      if s.memS.wiping && secureAddr (16 * p.unit) then 0 else BitVec.ofNat 128 (leNat (s.hallBytes (16 * p.unit) 16)) := by
    unfold State.hallRead
    split
    · rw [leNat_replicate_zero]; rfl
    · rfl
  rw [State.hostGranule_read_inside hp ha hmay, ← hword, Bool.and_comm, ← ofNat_ite_two]
  refine State.mem_reqs_fill_served ?_ hl hs hd (by simp [Req.base_of_hall ht]) (by simp) _ _ 0 5
  split
  · rwa [State.host_noteRead]
  · exact hr

end Hall

/-! ### Requests are answered (R50, R354, R356) -/

theorem sat_eq_min (cap n : Nat) : sat cap n = min cap n := (min_def cap n).symm

/-- The request that a response would end. -/
theorem State.find_answered (s : State) (h : Host) (tag : BitVec 5) (k : Nat) :
    (s.host h).reqs.find? (fun r => decide (r.tag = tag) && r.answers k) =
      (s.host h).reqs.find? (fun r => decide (r.tag = tag) && r.performed && decide (r.readyAt + (r.data.length - 1) ≤ k)) := by
  simp only [Req.answers, Bool.and_assoc]

/-- A response takes its request, and every request of its tag, from the port, which counts an error STATUS. -/
theorem State.hostResponse_of_find {s : State} {h : Host} {tag : BitVec 5} {r : Req}
    (hf : (s.host h).reqs.find? (fun r => decide (r.tag = tag) && r.answers (s.now / 2)) = some r) :
    let u := s.setHost h { s.host h with
      reqs := (s.host h).reqs.filter (fun q => decide (q.tag ≠ tag))
      errs := if r.status = 0 then (s.host h).errs else min 65535 ((s.host h).errs + 1) }
    s.hostResponse h tag = if (h, tag) ∈ s.sys.warmKeys
      then ({ u with sys := { u.sys with warmKeys := u.sys.warmKeys.erase (h, tag) } } : State).schedule (s.now / 2 * 2 + 31) prioUnit
        (.warmDue true)
      else u := by
  rw [State.hostResponse, hf]
  simp only [sat_eq_min]
  exact if_congr List.contains_iff_mem rfl rfl

theorem State.hostResponse_of_none {s : State} {h : Host} {tag : BitVec 5}
    (hf : (s.host h).reqs.find? (fun r => decide (r.tag = tag) && r.answers (s.now / 2)) = none) : s.hostResponse h tag = s := by
  rw [State.hostResponse, hf]

theorem exec_hostResponse (h : Host) (tag : BitVec 5) (s : State) : exec (.hostResponse h tag) s = .next (s.hostResponse h tag) := rfl

/-! ### The statement -/

/-- Settles O40: a request is taken by its checks, presented in its turn, and served by the definitions of its memory. -/
theorem memoryRequestsAreAnswered : Obligations.MemoryRequestsAreAnswered := by
  unfold Obligations.MemoryRequestsAreAnswered
  intro s h tag
  refine ⟨fun addr => ⟨fun beats hne hlen hr => ?write, fun beats hr => exec_hostMemoryWrite_of_not_ready hr addr beats,
      fun n hr => ?read, fun n hr => ?readWaits, fun write n lastOk hbad hr => ?malformed⟩,
    fun r d st hp hs hb ha hd => ⟨fun b a ht hturn => ?presentDesk, fun a ht hturn => ?presentHall, fun hnr hturn => ?waits⟩,
    fun r p hf hl hs hlen hdata hphase => ⟨fun b line acc hfree hw => ?desk, fun g acc hopen hw => ?hall⟩,
    fun r hf => ?response, fun hnone => ?noResponse⟩
  case write => rw [exec_hostMemoryWrite hne hlen, State.hostWrite_of_ready hr]; rfl
  case read => rw [exec_hostMemoryRead, State.hostRead_of_ready hr]; rfl
  case readWaits => rw [exec_hostMemoryRead, State.hostRead_of_not_ready hr]
  case malformed => exact exec_malformedRequest hbad hr
  case presentDesk =>
    have hports := State.reqStep_ports hp hs (by rw [ht]; nofun) (by rw [ht]; nofun) (State.memTurn_iff.2 hturn)
    rw [Req.accesses_desk hb ha ht] at hports
    have hmod : a % 16 = 0 := (mod_of_hcTarget_desk ht).trans ha
    have hbase : a = 64 * (a / 64) + a % 64 := by omega
    have hfits : a % 64 + 16 ≤ 64 := by omega
    exact ⟨_, hports, ⟨rfl, rfl, rfl, rfl, fun hw => Req.lineAccess_read hw _ _ _,
      fun hw => Req.lineAccess_carriesBeat hw (hd hw) hbase hfits⟩, rfl, rfl, rfl⟩
  case presentHall =>
    have hports := State.reqStep_ports hp hs (by rw [ht]; nofun) (by rw [ht]; nofun) (State.memTurn_iff.2 hturn)
    rw [Req.accesses_hall hb ht] at hports
    exact ⟨_, hports, ⟨rfl, rfl, rfl, rfl, fun hw => Req.lineAccess_read hw _ _ _,
      fun hw => Req.lineAccess_carriesBeat hw (hd hw) (Nat.add_zero a).symm (Nat.le_refl 16)⟩, rfl, rfl, rfl⟩
  case waits => exact State.reqStep_of_not_turn hp hs hnr (fun h => hturn (State.memTurn_iff.1 h))
  case desk =>
    obtain ⟨-, hunit, -, hacc⟩ := State.waiting_eq_some hw
    obtain ⟨T, hexec⟩ := State.exec_secondPortAccess_waiting hf hfree hw
    have hr : r ∈ ((s.afterGrant p T).host h).reqs := List.mem_of_find?_eq_some hf
    obtain ⟨hports, hdesk⟩ := State.hostDesk_leaves (s := s.afterGrant p T) (h := h) (r := r) (b := b) (p := p)
    refine ⟨_, hexec, hports, hdesk, fun hread hrw ht => ?_,
      fun data strb hwrite => ⟨State.hostDesk_write_done hr hl hs (hacc.trans hwrite), fun i hi hstrb => ?_⟩⟩
    · have hdone := State.hostDesk_read_done hr hl hs hphase (hacc.trans hread) hlen (hdata hrw) (by rw [hunit]) ht
      rwa [State.deskBytes_congr (s := s) (t := s.afterGrant p T) rfl] at hdone
    · rw [State.hostDesk_write_agenda (hacc.trans hwrite), hunit]
      exact State.exists_landing_of_enabled line.isLt hi hstrb
  case hall =>
    obtain ⟨-, hunit, -, hacc⟩ := State.waiting_eq_some hw
    obtain ⟨T, hexec⟩ := State.exec_hallSharedAccess_waiting hf hopen hw
    have hr : r ∈ ((s.afterGrant p T).host h).reqs := List.mem_of_find?_eq_some hf
    obtain ⟨hports, hdesk⟩ := State.hostGranule_leaves (s := s.afterGrant p T) (h := h) (r := r) (p := p)
    rw [← hunit]
    refine ⟨_, hexec, hports, hdesk, fun hread hrw ht => ⟨State.hostGranule_read_hall (hacc.trans hread), ?_⟩,
      fun data strb hwrite => ⟨fun hmay => ⟨State.hostGranule_write_inside_done hr hl hs (hacc.trans hwrite) hmay, fun x hx => ?_⟩,
        fun hmay => ⟨State.hostGranule_write_outside_hall (s := s.afterGrant p T) hphase (hacc.trans hwrite) hmay,
          State.hostGranule_write_outside_done hr hl hs hphase (hacc.trans hwrite) hmay⟩⟩⟩
    · split
      · next hmay =>
        have hdone := State.hostGranule_read_inside_done hr hl hs hphase (hacc.trans hread) (hdata hrw) rfl ht hmay
        rwa [State.hallBytes_congr (s := s) (t := s.afterGrant p T) rfl] at hdone
      · next hmay =>
        exact State.hostGranule_read_outside_done hr hl hs hphase (hacc.trans hread) (hdata hrw) (Bool.eq_false_of_not_eq_true hmay)
    · exact State.hostGranule_write_inside_hallByte (s := s.afterGrant p T) (by rw [hunit]; exact g.isLt) (hacc.trans hwrite) hmay hx
  case response =>
    rw [exec_hostResponse, State.hostResponse_of_find ((s.find_answered h tag _).trans hf)]
  case noResponse =>
    refine congrArg _ (State.hostResponse_of_none ((s.find_answered h tag _).trans (List.find?_eq_none.2 fun r hr => ?_)))
    have hlate := hnone r hr
    simp only [Bool.and_eq_true, decide_eq_true_eq]
    rintro ⟨⟨htag, hperf⟩, hready⟩
    exact absurd (hlate htag hperf) (by omega)

end Sys2Proof.Machine
end

section
/-! PROOFS. Pulses of event sources: what they leave of the state (R156 to R162). -/

namespace Sys2Proof.Machine

/-! ### Pulses -/

/-- The states that a pulse leads to: events of threads, interrupt counts to come, grants of channels and movement reports may differ. -/
def State.PulseOnly (s t : State) : Prop :=
  t = { s with threads := t.threads, agenda := t.agenda, dma := t.dma, upd := { s.upd with moving := t.upd.moving } }

theorem State.PulseOnly.trans {s t u : State} (h : s.PulseOnly t) (h' : t.PulseOnly u) : s.PulseOnly u := by
  unfold State.PulseOnly at *
  rw [h', h]

theorem State.pulseOnly_foldl {α : Type} {f : State → α → State} (hf : ∀ (t : State) (x : α), t.PulseOnly (f t x)) (s : State) (l : List α) :
    s.PulseOnly (l.foldl f s) :=
  List.foldlRecOn (motive := fun t : State => s.PulseOnly t) _ _ rfl (fun t ht x _ => ht.trans (hf t x))

theorem State.pulseOnly_countSource (s : State) (src : Nat) : s.PulseOnly (s.countSource src) := by
  unfold State.countSource
  dsimp only
  split <;> rfl

theorem State.pulseOnly_grant (s : State) (src : Nat) : s.PulseOnly (s.grant src) := by
  refine State.pulseOnly_foldl (fun t e => ?_) s s.engines
  split <;> rfl

theorem State.pulseOnly_noteMove (s : State) (src : Nat) : s.PulseOnly (s.noteMove src) := by
  unfold State.noteMove
  split <;> rfl

theorem State.pulseOnly_pulse (s : State) (src : Nat) : s.PulseOnly (s.pulse src) := by
  unfold State.pulse
  split
  · rfl
  · have htied : s.PulseOnly ((s.tiedTo src).foldl (fun s k => s.pendPulse (fin 128 (k / 32)) (k % 32)) s) :=
      State.pulseOnly_foldl (f := fun s k => s.pendPulse (fin 128 (k / 32)) (k % 32)) (fun _ _ => rfl) s _
    exact ((htied.trans (State.pulseOnly_countSource _ src)).trans (State.pulseOnly_grant _ src)).trans (State.pulseOnly_noteMove _ src)

@[simp] theorem State.pulse_sys (s : State) (src : Nat) : (s.pulse src).sys = s.sys :=
  (congrArg State.sys (s.pulseOnly_pulse src) :)

@[simp] theorem State.pulse_tags (s : State) (src : Nat) : (s.pulse src).tags = s.tags :=
  (congrArg State.tags (s.pulseOnly_pulse src) :)

@[simp] theorem State.pulse_rings (s : State) (src : Nat) : (s.pulse src).rings = s.rings :=
  (congrArg State.rings (s.pulseOnly_pulse src) :)

end Sys2Proof.Machine
end

section
/-! PROOFS. Answers of the system: bus errors, posts whose write is performed, and the request that an answer's tag names (R31, R332, R334,
R339, R342, R343, R348). -/

namespace Sys2Proof.Machine

/-! ### Bus errors (R334) -/

theorem State.unreserve_tags (s : State) (e : Engine) : (s.unreserve e).tags = s.tags := by
  unfold State.unreserve
  dsimp only
  split
  · split <;> rfl
  · rfl

theorem State.busError_of_stopping {s : State} {e : Engine} (h : (s.eng e).st = .stopping ∨ (s.eng e).st = .stopped) (err : BusErr)
    (ch : BitVec 4) : s.busError e err ch = s := if_pos h

/-- An engine that is neither STOPPING nor STOPPED takes a bus error, and keeps its record. -/
theorem State.busError_takes {s : State} {e : Engine} (hs : (s.eng e).st ≠ .stopping) (hd : (s.eng e).st ≠ .stopped) (err : BusErr)
    (ch : BitVec 4) : ((s.busError e err ch).eng e).st = .stopping ∧ (s.busError e err ch).tags = s.tags ∧
      ((s.busError e err ch).eng e).err = some err := by
  rw [State.busError, if_neg (not_or.2 ⟨hs, hd⟩), State.modEng, State.eng_setEng, State.setEng_tags, State.unreserve_tags]
  exact ⟨rfl, rfl, rfl⟩

/-! ### Posts whose write is performed (R342, R343, R348) -/

theorem State.freeCells_rings (s : State) (cell : Option (BitVec 3 × Nat)) : (s.freeCells cell).rings = s.rings := by
  unfold State.freeCells
  split <;> rfl

theorem State.freeCells_tags (s : State) (cell : Option (BitVec 3 × Nat)) : (s.freeCells cell).tags = s.tags := by
  unfold State.freeCells
  split <;> rfl

/-- PROD of a ring takes a value, and its error mark stays. -/
theorem State.setProd_ring (s : State) (r : Ring) (prod : Word) : (s.setProd r prod).ring r = { s.ring r with prod := prod } := by
  unfold State.setProd
  dsimp only
  split
  · rw [State.ring, State.pulse_rings]
    exact State.ring_setRing s r _
  · exact State.ring_setRing s r _

theorem State.setProd_tags (s : State) (r : Ring) (prod : Word) : (s.setProd r prod).tags = s.tags := by
  unfold State.setProd
  dsimp only
  split
  · rw [State.pulse_tags]; rfl
  · rfl

/-- The entries of a ring that become visible now: those up to the oldest write that is in flight or has failed (R342). -/
def State.visible (s : State) (r : Ring) : Nat :=
  (s.inFlight r ++ (match (s.ring r).errAt with | some n => [n] | none => [])).foldl (fun m n => min m (n - (s.ring r).prod).toNat)
    ((s.ring r).next - (s.ring r).prod).toNat

theorem State.showPosts_eq (s : State) (r : Ring) : s.showPosts r =
    if s.visible r = 0 then s.modRing r (fun x => { x with rsv := x.rsv - s.visible r })
    else (s.modRing r (fun x => { x with rsv := x.rsv - s.visible r })).setProd r ((s.ring r).prod + BitVec.ofNat 32 (s.visible r)) := rfl

theorem State.showPosts_tags (s : State) (r : Ring) : (s.showPosts r).tags = s.tags := by
  rw [State.showPosts_eq]
  split
  · rfl
  · rw [State.setProd_tags]; rfl

theorem State.showPosts_ring (s : State) (r : Ring) : (s.showPosts r).ring r =
    { s.ring r with rsv := (s.ring r).rsv - s.visible r, prod := (s.ring r).prod + BitVec.ofNat 32 (s.visible r) } := by
  rw [State.showPosts_eq]
  split
  · next h0 => simp [State.modRing, h0]
  · rw [State.setProd_ring, State.modRing, State.ring_setRing]

/-- With no write in flight and none failed, every entry of a ring becomes visible. -/
theorem State.showPosts_prod {s : State} {r : Ring} (hflight : s.inFlight r = []) (herr : (s.ring r).errAt = none) :
    ((s.showPosts r).ring r).prod = (s.ring r).next := by
  have hall : s.visible r = ((s.ring r).next - (s.ring r).prod).toNat := by rw [State.visible, hflight, herr]; rfl
  rw [State.showPosts_ring, hall, BitVec.ofNat_toNat, BitVec.setWidth_eq, add_sub_cancel]

/-- A ring of whose entries no tag carries a write has none in flight. -/
theorem State.inFlight_eq_nil {s : State} {r : Ring} (h : ∀ x ∈ s.tags, ∀ m w c, x.user ≠ .post r m w c) : s.inFlight r = [] := by
  refine List.filterMap_eq_nil_iff.2 fun x hx => ?_
  split
  · next q n w c hu =>
    split
    · next hq => exact absurd (hq ▸ hu) (h x hx n w c)
    · rfl
  · rfl

theorem State.postDone_tags (s : State) (r : Ring) (n : Word) (ok : Bool) (cell : Option (BitVec 3 × Nat)) :
    (s.postDone r n ok cell).tags = s.tags := by
  unfold State.postDone
  dsimp only
  split
  · rw [State.showPosts_tags, State.freeCells_tags]
  · rw [State.showPosts_tags]
    exact State.freeCells_tags s cell

theorem State.postDone_failed (s : State) (r : Ring) (n : Word) (cell : Option (BitVec 3 × Nat)) :
    ((s.postDone r n false cell).ring r).err = true := by
  rw [State.postDone, if_neg (by decide), State.showPosts_ring, State.modRing, State.ring_setRing]

theorem State.postDone_prod {s : State} {r : Ring} (herr : (s.ring r).errAt = none)
    (h : ∀ x ∈ s.tags, ∀ m w c, x.user ≠ .post r m w c) (n : Word) (cell : Option (BitVec 3 × Nat)) :
    ((s.postDone r n true cell).ring r).prod = (s.ring r).next := by
  have hring : (s.freeCells cell).ring r = s.ring r := by rw [State.ring, State.freeCells_rings]; rfl
  rw [State.postDone, if_pos rfl, State.showPosts_prod, hring]
  · exact State.inFlight_eq_nil (by rwa [State.freeCells_tags])
  · rwa [hring]

/-! ### Answers of the system (R31, R332, R339) -/

theorem State.takesAnswers_iff {s : State} : s.takesAnswers = true ↔ s.sys.phase ≠ .cold ∧ s.sys.rstWarm = false := by
  simp [State.takesAnswers]

theorem State.stray_eq (s : State) (k : InitPort) :
    s.stray k = { s with strays := mput 0 s.strays k.val (min 65535 (mget 0 s.strays k.val + 1)) } := by
  rw [State.stray, sat_eq_min]

/-- The request of a tag as a beat of it leaves it: its last beat retires the tag, and any other moves on to the next. -/
def State.beatTaken (s : State) (tag : BitVec 12) (last : Bool) : State :=
  if last then s.retireTag tag
  else { s with tags := s.tags.map (fun t => if t.tag = tag then { t with addr := t.addr + 32, beats := t.beats - 1 } else t) }

theorem State.beatTaken_eng (s : State) (tag : BitVec 12) (last : Bool) (e : Engine) : (s.beatTaken tag last).eng e = s.eng e := by
  cases last <;> rfl

theorem State.beatTaken_now (s : State) (tag : BitVec 12) (last : Bool) : (s.beatTaken tag last).now = s.now := by
  cases last <;> rfl

theorem State.find_tag_eq_none {s : State} {k : InitPort} {tag : BitVec 12} {write : TagUse → Bool}
    (h : ∀ t ∈ s.tags, t.tag = tag → t.port = k → write t = false) :
    s.tags.find? (fun t => decide (t.tag = tag) && decide (t.port = k) && write t) = none :=
  List.find?_eq_none.2 fun t ht => by
    simp only [Bool.and_eq_true, decide_eq_true_eq]
    rintro ⟨⟨htag, hport⟩, hw⟩
    exact absurd hw (by rw [h t ht htag hport]; decide)

section Beat
variable {s : State} {k : InitPort} {tag : BitVec 12}

theorem State.readBeat_of_not_takes (h : s.takesAnswers = false) (data : BitVec 256) (st : BitVec 2) (last : Bool) :
    s.readBeat k tag data st last = s := by simp [State.readBeat, h]

theorem State.writeDone_of_not_takes (h : s.takesAnswers = false) (st : BitVec 2) : s.writeDone k tag st = s := by
  simp [State.writeDone, h]

variable (hr : s.takesAnswers = true)
include hr

theorem State.readBeat_of_none (hn : s.tags.find? (fun t => decide (t.tag = tag) && decide (t.port = k) && !t.write) = none)
    (data : BitVec 256) (st : BitVec 2) (last : Bool) : s.readBeat k tag data st last = s.stray k := by
  simp [State.readBeat, hr, hn]

theorem State.writeDone_of_none (hn : s.tags.find? (fun t => decide (t.tag = tag) && decide (t.port = k) && t.write) = none)
    (st : BitVec 2) : s.writeDone k tag st = s.stray k := by
  simp [State.writeDone, hr, hn]

section Read
variable {x : TagUse} (hx : s.tags.find? (fun t => decide (t.tag = tag) && decide (t.port = k) && !t.write) = some x)
include hx

theorem State.readBeat_of_error {st : BitVec 2} (hu : x.user ≠ .drill) (hst : st ≠ 0) (data : BitVec 256) (last : Bool) :
    s.readBeat k tag data st last = (s.beatTaken tag last).answerError x st := by
  simp only [State.readBeat, hr, hx, hu, hst, Bool.not_true, Bool.false_eq_true, if_false, ne_eq, not_false_eq_true, if_true]
  rfl

theorem State.readBeat_of_chan {ch : DmaCh} {n : Nat} (hu : x.user = .chan ch n) (data : BitVec 256) (last : Bool) :
    s.readBeat k tag data 0 last = if (s.eng (engOf ch)).st = .running ∧ n = (s.eng (engOf ch)).serial then
        (s.beatTaken tag last).setEng (engOf ch) { s.eng (engOf ch) with
          rbuf := pokes (s.eng (engOf ch)).rbuf x.addr.toNat (leBytes data.toNat 32), dataAt := s.now }
      else s.beatTaken tag last := by
  simp only [State.readBeat, hr, hx, hu, Bool.not_true, Bool.false_eq_true, if_false, reduceCtorEq, ne_eq, not_true_eq_false]
  rw [← State.beatTaken.eq_def, State.beatTaken_eng, State.modEng, State.beatTaken_eng, State.beatTaken_now]

theorem State.readBeat_of_ahead {e : Engine} (hu : x.user = .ahead e) (data : BitVec 256) (last : Bool) :
    s.readBeat k tag data 0 last = (s.beatTaken tag last).aheadBeat e tag x.addr.toNat (leBytes data.toNat 32) := by
  simp only [State.readBeat, hr, hx, hu, Bool.not_true, Bool.false_eq_true, if_false, reduceCtorEq, ne_eq, not_true_eq_false]
  rfl

end Read

section Write
variable {x : TagUse} (hx : s.tags.find? (fun t => decide (t.tag = tag) && decide (t.port = k) && t.write) = some x)
include hx

theorem State.writeDone_of_chan {ch : DmaCh} {n : Nat} (hu : x.user = .chan ch n) (st : BitVec 2) :
    s.writeDone k tag st = if st = 0 then s.retireTag tag else (s.retireTag tag).answerError x st := by
  simp [State.writeDone, hr, hx, hu]

theorem State.writeDone_of_post {r : Ring} {n : Word} {who : PostBy} {cell : Option (BitVec 3 × Nat)} (hu : x.user = .post r n who cell)
    (st : BitVec 2) : s.writeDone k tag st = (s.retireTag tag).postDone r n (decide (st = 0)) cell := by
  simp [State.writeDone, hr, hx, hu]

end Write
end Beat

/-- The record that a bus error of an answer leaves: the request's address, port and tag, and whether it names the channel. -/
def TagUse.errRecord (x : TagUse) (phase : BitVec 3) (st : BitVec 2) (chv : Bool) : BusErr :=
  { phase := phase, kind := if st = 2 then 1 else 0, chv := chv, addr := x.addr, port := decide (x.port = 1), tag := x.tag }

theorem State.answerError_of_chan {s : State} {x : TagUse} {ch : DmaCh} {n : Nat} (hu : x.user = .chan ch n) (st : BitVec 2) :
    s.answerError x st = s.busError (engOf ch) (x.errRecord x.phase st true) (BitVec.ofNat 4 ch.val) := by
  rw [State.answerError, hu]
  rfl

theorem State.answerError_of_ahead {s : State} {x : TagUse} {e : Engine} (hu : x.user = .ahead e) (st : BitVec 2) :
    s.answerError x st = s.busError e (x.errRecord 1 st false) 0 := by
  rw [State.answerError, hu]
  rfl

theorem State.aheadBeat_of_tag {s : State} {e : Engine} {w : Ahead} {tag : BitVec 12} (hw : (s.eng e).ahead = some w)
    (ht : w.tag = some tag) (addr : Nat) (l : List Byte) : s.aheadBeat e tag addr l =
      s.setEng e { s.eng e with ahead := some { w with tag := none, left := 0, data := pokes [] addr l } } := by
  simp [State.aheadBeat, State.modEng, hw, ht]

/-! ### The commands -/

theorem exec_initiatorReadBeat (k : InitPort) (tag : BitVec 12) (data : BitVec 256) (st : BitVec 2) (last : Bool) (s : State) :
    exec (.initiatorReadBeat k tag data st last) s = .next (s.readBeat k tag data st last) := rfl

theorem exec_initiatorWriteCompletion (k : InitPort) (tag : BitVec 12) (st : BitVec 2) (s : State) :
    exec (.initiatorWriteCompletion k tag st) s = .next (s.writeDone k tag st) := rfl

/-- Settles O43: an answer goes by the request that its port and tag name, and an error status by the rule of bus errors. -/
theorem initiatorAnswersReachTheirRequest : Obligations.InitiatorAnswersReachTheirRequest := by
  unfold Obligations.InitiatorAnswersReachTheirRequest
  intro s k tag data st last
  simp only [exec_initiatorReadBeat, exec_initiatorWriteCompletion, Host.Outcome.next.injEq, ← State.stray_eq]
  refine ⟨fun hreset => ?inReset, fun hcold hwarm => ?_⟩
  case inReset =>
    have hn : s.takesAnswers = false := by
      rw [← Bool.not_eq_true, State.takesAnswers_iff]
      rintro ⟨hcold, hwarm⟩
      simp [hcold, hwarm] at hreset
    exact ⟨State.readBeat_of_not_takes hn data st last, State.writeDone_of_not_takes hn st⟩
  have hr := State.takesAnswers_iff.2 ⟨hcold, hwarm⟩
  refine ⟨fun hn => ?strayBeat, fun hn => ?strayCompletion,
    fun x hx => ⟨fun ch n hu => ⟨?chanBeat, ?chanLate, ?chanErrorLate, ?chanError⟩, fun e w hu hw => ⟨?aheadBeat, ?aheadError⟩⟩,
    fun x hx => ⟨fun ch n hu => ⟨?written, ?writeError⟩, fun r n who cell hu => ?posted⟩⟩
  case strayBeat =>
    exact State.readBeat_of_none hr (State.find_tag_eq_none fun t ht h h' => by rw [hn t ht h h']; rfl) data st last
  case strayCompletion => exact State.writeDone_of_none hr (State.find_tag_eq_none hn) st
  case chanBeat =>
    rintro rfl hrun hserial
    rw [State.readBeat_of_chan hr hx hu, if_pos ⟨hrun, hserial⟩]
    rfl
  case chanLate =>
    rintro rfl hlate
    rw [State.readBeat_of_chan hr hx hu, if_neg (by rw [not_and_or]; exact hlate)]
    rfl
  case chanErrorLate =>
    intro hst hlate
    rw [State.readBeat_of_error hr hx (by rw [hu]; nofun) hst, State.answerError_of_chan hu,
      State.busError_of_stopping (by rwa [State.beatTaken_eng])]
    rfl
  case chanError =>
    intro hst hs hd
    rw [State.readBeat_of_error hr hx (by rw [hu]; nofun) hst, State.answerError_of_chan hu]
    rw [← State.beatTaken_eng s tag last] at hs hd
    obtain ⟨hstop, htags, hrec⟩ := State.busError_takes hs hd (x.errRecord x.phase st true) (BitVec.ofNat 4 ch.val)
    exact ⟨_, rfl, hstop, htags, _, hrec, rfl, rfl, rfl, rfl, rfl⟩
  case aheadBeat =>
    rintro rfl ht
    rw [State.readBeat_of_ahead hr hx hu, State.aheadBeat_of_tag (by rwa [State.beatTaken_eng]) ht, State.beatTaken_eng]
    rfl
  case aheadError =>
    intro hst hrun
    rw [State.readBeat_of_error hr hx (by rw [hu]; nofun) hst, State.answerError_of_ahead hu]
    rw [← State.beatTaken_eng s tag last] at hrun
    obtain ⟨hstop, htags, hrec⟩ := State.busError_takes (by rw [hrun]; nofun) (by rw [hrun]; nofun) (x.errRecord 1 st false) 0
    exact ⟨_, rfl, hstop, htags, _, hrec, rfl, rfl, rfl⟩
  case written =>
    rintro rfl
    rw [State.writeDone_of_chan hr hx hu, if_pos rfl]
    rfl
  case writeError =>
    intro hst hrun
    rw [State.writeDone_of_chan hr hx hu, if_neg hst, State.answerError_of_chan hu]
    obtain ⟨hstop, htags, hrec⟩ := State.busError_takes (s := s.retireTag tag) (e := engOf ch) (ne_of_eq_of_ne hrun nofun)
      (ne_of_eq_of_ne hrun nofun) (x.errRecord x.phase st true) (BitVec.ofNat 4 ch.val)
    exact ⟨_, rfl, htags, hstop, _, hrec, rfl, rfl, rfl⟩
  case posted =>
    refine ⟨_, State.writeDone_of_post hr hx hu st, State.postDone_tags _ r n _ cell, fun hst => ?_, fun hst herr hothers => ?_⟩
    · rw [decide_eq_false hst]
      exact State.postDone_failed _ r n cell
    · rw [decide_eq_true hst]
      refine State.postDone_prod (s := s.retireTag tag) herr (fun y hy => ?_) n cell
      obtain ⟨hmem, hne⟩ := List.mem_filter.1 hy
      exact hothers y hmem (of_decide_eq_true hne)

end Sys2Proof.Machine
end

section
/-! PROOFS. Starts and system inputs: wipes, the journal at a replay, and the choice of the start (R37, R40 to R43, R404, R405, R409, R412, R417). -/

namespace Sys2Proof.Machine

/-! ### Wipes of the secure region (R313 to R315) -/

/-- A map without the keys that a test rejects reads its default there. -/
theorem mget_filter {α : Type} (d : α) (p : Nat → Bool) (m : SMap α) (i : Nat) :
    mget d (m.filter (fun e => p e.1)) i = if p i then mget d m i else d := by
  induction m with
  | nil => simp [mget]
  | cons e rest ih =>
    obtain ⟨k, v⟩ := e
    by_cases hk : k = i
    · subst hk
      cases hp : p k <;> simp [mget, hp, ih]
    · cases hp : p k <;> simp [mget, hp, ih, hk]

/-- A wiped range reads 0, and every other byte as before. -/
theorem peek_wipe (m : Mem) (a n x : Nat) : peek (wipe m a n) x = if a ≤ x ∧ x < a + n then 0 else peek m x := by
  refine (mget_filter 0 (fun k => decide (k < a) || decide (a + n ≤ k)) m x).trans ?_
  by_cases h : a ≤ x ∧ x < a + n
  · rw [if_pos h, if_neg (by simp only [Bool.or_eq_true, decide_eq_true_eq]; omega)]
  · rw [if_neg h, if_pos (by simp only [Bool.or_eq_true, decide_eq_true_eq]; omega), peek]

theorem State.startWipe_of_wiping {s : State} (h : s.memS.wiping = true) (cause : BitVec 4) : s.startWipe cause = s := if_pos h

theorem State.startWipe_starts {s : State} (h : s.memS.wiping = false) (cause : BitVec 4) :
    s.startWipe cause = { s with
      insts := (s.heal instHall 0x7C0000 0x40000).insts, hall := wipe s.hall 0x7C0000 0x40000
      memS := { s.memS with wiping := true, wipeTrig := cause, wiped := [], wipeCount := s.memS.wipeCount + 1 } } := by
  rw [State.startWipe, if_neg (by rw [h]; decide), State.heal_frame]

/-- A wipe that starts touches the memories' records and hall alone. -/
theorem State.startWipe_frame (s : State) (cause : BitVec 4) : s.startWipe cause =
    { s with insts := (s.startWipe cause).insts, hall := (s.startWipe cause).hall, memS := (s.startWipe cause).memS } := by
  cases h : s.memS.wiping with
  | true => rw [State.startWipe_of_wiping h]
  | false => rw [State.startWipe_starts h]

theorem State.startWipe_wiping (s : State) (cause : BitVec 4) : (s.startWipe cause).memS.wiping = true := by
  cases h : s.memS.wiping with
  | true => rw [State.startWipe_of_wiping h, h]
  | false => rw [State.startWipe_starts h]

theorem State.startWipe_peek {s : State} (h : s.memS.wiping = false) (cause : BitVec 4) (a : Nat) :
    peek (s.startWipe cause).hall a = if 0x7C0000 ≤ a ∧ a < 0x800000 then 0 else peek s.hall a := by
  rw [State.startWipe_starts h]
  exact peek_wipe s.hall 0x7C0000 0x40000 a

theorem State.endWipe_of_over {s : State} (h : s.memS.wiping = true) (hk : ∀ k < 16, 256 ≤ mget 0 s.memS.wiped k) :
    s.endWipe = { s with memS := { s.memS with
      wiping := false, wiped := [], wipeDone := some s.now, wipeCause := s.memS.wipeTrig } } := by
  refine if_pos ?_
  simpa [State.wipeOver, h] using hk

/-! ### The journal replay (R404, R405) -/

theorem UpdS.write_frame (u : UpdS) (n : Nat) (r : JRec) :
    u.write n r = { u with journal := (u.write n r).journal, jseq := (u.write n r).jseq } := by
  induction n generalizing u r with
  | zero => rfl
  | succ n ih =>
    unfold UpdS.write
    dsimp only
    split
    · rfl
    · split
      · split
        · rw [ih]
        · rfl
      · rfl

/-- Records that are written, or written again where the log wraps, bring no type that neither the new record nor the log had. -/
theorem UpdS.write_typ {k : Nat} (n : Nat) {u : UpdS} {r : JRec} (hu : ∀ x ∈ u.journal, x.typ ≠ k) (hr : r.typ ≠ k) :
    ∀ x ∈ (u.write n r).journal, x.typ ≠ k := by
  induction n generalizing u r with
  | zero => exact hu
  | succ n ih =>
    have hnew : ∀ x ∈ ({ r with seq := u.jseq } :: u.journal : List JRec), x.typ ≠ k := List.forall_mem_cons.2 ⟨hr, hu⟩
    have hdrop : ∀ x ∈ ({ r with seq := u.jseq } :: u.journal : List JRec).dropLast, x.typ ≠ k :=
      fun x hx => hnew x (List.mem_of_mem_dropLast hx)
    unfold UpdS.write
    dsimp only
    split
    · exact hnew
    · split
      · next o hlast =>
        split
        · exact ih hdrop (hnew o (List.mem_of_getLast? hlast))
        · exact hdrop
      · exact hu

/-- The states that a replay leads to: only what MRAM holds for the update controller may differ, the lifecycle and an order to enter
the ROM stay, and no CONFIRMED record comes about. -/
structure State.Replays (s t : State) : Prop where
  frame : t = { s with upd := t.upd, memS := t.memS }
  lc : t.upd.lc = s.upd.lc
  recoverNext : t.upd.recoverNext = s.upd.recoverNext
  unconfirmed : (∀ r ∈ s.upd.journal, r.typ ≠ 5) → ∀ r ∈ t.upd.journal, r.typ ≠ 5

section Frame
variable {s t : State} (h : s.Replays t)
include h

theorem State.Replays.sys : t.sys = s.sys := by rw [h.frame]
theorem State.Replays.desk : t.desk = s.desk := by rw [h.frame]
theorem State.Replays.hall : t.hall = s.hall := by rw [h.frame]

end Frame

theorem State.Replays.modUpd {s t : State} (h : s.Replays t) {f : UpdS → UpdS} (hlc : (f t.upd).lc = t.upd.lc)
    (hnext : (f t.upd).recoverNext = t.upd.recoverNext) (hj : (f t.upd).journal = t.upd.journal) : s.Replays (t.modUpd f) where
  frame := by rw [State.modUpd, h.frame]
  lc := hlc.trans h.lc
  recoverNext := hnext.trans h.recoverNext
  unconfirmed hs := by rw [State.modUpd, hj]; exact h.unconfirmed hs

theorem State.Replays.record {s t : State} (h : s.Replays t) {typ : Nat} (htyp : typ ≠ 5) (cls : BitVec 4) (bell : DWord) :
    s.Replays (t.record typ cls bell) where
  frame := by rw [State.record, State.journal, State.modUpd, State.mramWrite, h.frame]
  lc := (congrArg UpdS.lc (UpdS.write_frame _ _ _)).trans h.lc
  recoverNext := (congrArg UpdS.recoverNext (UpdS.write_frame _ _ _)).trans h.recoverNext
  unconfirmed hs := UpdS.write_typ 4 (h.unconfirmed hs) htyp

theorem State.Replays.useConfirmed {s t : State} (h : s.Replays t) (r : Option JRec) : s.Replays (t.useConfirmed r) := by
  cases r with
  | none => exact h
  | some r => exact h.modUpd (f := fun u => { u with stagingB := !r.slotB, half := r.half, cid := r.imgid }) rfl rfl rfl

theorem State.replays_replay (s : State) : s.Replays s.replay := by
  have h : s.Replays s := ⟨rfl, rfl, rfl, id⟩
  have hbase := (h.useConfirmed s.upd.lastConfirmed).modUpd (f := fun u => { u with
    order := none, fallback := none, confirmBy := none, beginAfter := none, copyDone := false, copyErr := false
    seqHost := none, seqHly := none, openCopy := none, moving := [], vDone := false, vFail := 0, reverify := false }) rfl rfl rfl
  unfold State.replay
  dsimp only
  split
  · exact hbase.modUpd rfl rfl rfl
  · next r _ =>
    split_ifs
    · exact hbase.modUpd rfl rfl rfl
    · exact hbase.modUpd rfl rfl rfl
    · exact (hbase.record (by decide) r.cls r.bell).modUpd rfl rfl rfl
    · exact (hbase.record (by decide) r.cls r.bell).modUpd rfl rfl rfl
    · exact hbase.modUpd rfl rfl rfl
    · exact hbase.modUpd rfl rfl rfl

/-! ### The choice of a cold start (R40, R41, R409, R410) -/

theorem UpdS.lastConfirmed_eq_none {u : UpdS} (h : ∀ r ∈ u.journal, r.typ ≠ 5) : u.lastConfirmed = none :=
  List.find?_eq_none.2 fun r hr => by simpa using h r hr

theorem UpdS.prevConfirmed_eq_none {u : UpdS} (h : u.lastConfirmed = none) : u.prevConfirmed = none := by
  rw [UpdS.prevConfirmed, h]

theorem State.coldImages_of_unconfirmed {s : State} (h : ∀ r ∈ s.upd.journal, r.typ ≠ 5) : s.coldImages = s.replay.enterRom := by
  have hlast := UpdS.lastConfirmed_eq_none (s.replays_replay.unconfirmed h)
  simp [State.coldImages, hlast, UpdS.prevConfirmed_eq_none hlast]

theorem State.coldImages_of_good {s : State} (hlast : s.replay.upd.lastConfirmed.isSome = true)
    (hgood : s.replay.startCheck (!s.replay.upd.stagingB) .ok = true) :
    s.coldImages = (s.replay.loadCode s.replay.confirmedImg).runImage s.replay.confirmedImg := by
  simp [State.coldImages, hlast, hgood]

/-- A lifecycle of BLANK or RETURNED. -/
def UpdS.virgin (u : UpdS) : Bool := decide (u.lc = .blank) || decide (u.lc = .returned)

theorem UpdS.virgin_iff {u : UpdS} : u.virgin = true ↔ u.lc = .blank ∨ u.lc = .returned := by simp [UpdS.virgin]

/-- A cold start has testJudged the test strap. -/
def State.testJudged (s : State) : State := { s with sys := { s.sys with testRefused := s.sys.straps.testMode && !s.upd.virgin } }

theorem State.coldStart_eq (s : State) : s.coldStart =
    if s.sys.rootErr || s.sys.recoveryTaken then s.testJudged.enterRom
    else if s.sys.straps.testMode && s.upd.virgin then
      { s.testJudged with hall := [], desk := [], sys := { s.testJudged.sys with phase := .prodTest } }
    else if s.upd.virgin then s.testJudged.enterRom
    else if s.upd.lc = .scrapped then { s.testJudged with sys := { s.testJudged.sys with phase := .scrapped } }
    else s.testJudged.coldImages := rfl

/-- What sends a cold start into the ROM: the clock strap or a request that was honoured, a lifecycle without an image, or no CONFIRMED
record. -/
def State.RomIsDue (s : State) : Prop :=
  (s.sys.rootErr = true ∨ s.sys.recoveryTaken = true) ∨ (s.upd.virgin = true ∧ s.sys.straps.testMode = false) ∨
    (s.upd.lc ≠ .scrapped ∧ ¬ s.upd.virgin = true ∧ ∀ r ∈ s.upd.journal, r.typ ≠ 5)

theorem State.coldStart_rom {s : State} (h : s.RomIsDue) : ∃ u, s.testJudged.Replays u ∧ s.coldStart = u.enterRom := by
  have hself : s.testJudged.Replays s.testJudged := ⟨rfl, rfl, rfl, id⟩
  by_cases hroot : s.sys.rootErr = true ∨ s.sys.recoveryTaken = true
  · exact ⟨_, hself, by simp [State.coldStart_eq, hroot]⟩
  · obtain ⟨hvirgin, htest⟩ | ⟨hscrap, hvirgin, hnone⟩ := h.resolve_left hroot
    · exact ⟨_, hself, by simp [State.coldStart_eq, hroot, hvirgin, htest]⟩
    · refine ⟨_, s.testJudged.replays_replay, ?_⟩
      rw [← State.coldImages_of_unconfirmed (s := s.testJudged) hnone]
      simp [State.coldStart_eq, hroot, hvirgin, hscrap]

section Start
variable {s : State} (hroot : s.sys.rootErr = false) (htaken : s.sys.recoveryTaken = false)
include hroot htaken

theorem State.coldStart_prodTest (hv : s.upd.virgin = true) (htest : s.sys.straps.testMode = true) :
    s.coldStart = { s.testJudged with hall := [], desk := [], sys := { s.testJudged.sys with phase := .prodTest } } := by
  simp [State.coldStart_eq, hroot, htaken, hv, htest]

theorem State.coldStart_scrapped (hlc : s.upd.lc = .scrapped) :
    s.coldStart = { s.testJudged with sys := { s.testJudged.sys with phase := .scrapped } } := by
  have hv : s.upd.virgin = false := by simp [UpdS.virgin, hlc]
  simp [State.coldStart_eq, hroot, htaken, hv, hlc]

theorem State.coldStart_images (hlc : s.upd.lc = .opened ∨ s.upd.lc = .owned) : s.coldStart = s.testJudged.coldImages := by
  have hv : s.upd.virgin = false := by obtain h | h := hlc <;> simp [UpdS.virgin, h]
  have hn : s.upd.lc ≠ .scrapped := by obtain h | h := hlc <;> simp [h]
  simp [State.coldStart_eq, hroot, htaken, hv, hn]

end Start

/-! ### The release and the presence wait (R40, R41) -/

/-- The straps as a release samples them. -/
def State.sampled (s : State) (st : Straps) : State := { s with
  now := 0, tbase := 0
  sys := { s.sys with
    straps := { st with hportEn := st.hportEn ||| (1#8 <<< st.owner.val) }
    rootErr := decide (st.rootMhz.toNat < 1200 ∨ 2400 < st.rootMhz.toNat)
    ownerForced := !st.hportEn.getLsbD st.owner.val, cause := 2
    presenceLowAt := s.sys.presenceLowAt.map (fun _ => 0), presence := false, presenceArmed := true, window := none } }

theorem State.coldRelease_of_cold {s : State} (h : s.sys.phase = .cold) (st : Straps) : s.coldRelease st =
    if st.recovery then { s.sampled st with sys := { (s.sampled st).sys with phase := .presenceWait } }
    else (s.sampled st).coldStart := by
  simp [State.coldRelease, State.sampled, h]

theorem State.coldRelease_of_not_cold {s : State} (h : s.sys.phase ≠ .cold) (st : Straps) : s.coldRelease st = s := if_neg h

theorem State.coldRelease_starts {s : State} (h : s.sys.phase = .cold) {st : Straps} (hrec : st.recovery = false) :
    s.coldRelease st = (s.sampled st).coldStart := by
  simp [State.coldRelease_of_cold h, hrec]

theorem State.waitOver_iff {s : State} : s.waitOver = true ↔ s.sys.phase = .presenceWait ∧ wallEnd s.mhz 0 20500 ≤ s.now := by
  simp [State.waitOver]

/-! ### PRESENCE_N (R43) -/

theorem State.presenceDue_of_low {s : State} {t : Nat} (hlow : s.sys.presenceLowAt = some t) (hp : s.sys.presence = false)
    (hcold : s.sys.phase ≠ .cold) (hend : wallEnd s.mhz t 20000 ≤ s.now) : s.presenceDue = true := by
  simp [State.presenceDue, hlow, hp, hcold, hend]

/-- PRESENCE_N low is recognised, which opens a window where none is open and the level has been high since the last one. -/
def State.recognised (s : State) : State := { s with sys := { s.sys with
  presence := true, presenceArmed := false
  window := if s.sys.presenceArmed && s.sys.window.isNone then some s.now else s.sys.window } }

/-- The window that opens is an event of its own. -/
def State.opened (s : State) : State :=
  if s.sys.presenceArmed && s.sys.window.isNone then s.recognised.pulse 0x7EF else s.recognised

theorem State.opened_sys (s : State) : s.opened.sys = s.recognised.sys := by
  unfold State.opened
  split
  · exact State.pulse_sys _ _
  · rfl

theorem State.windowOpen_of_due {s : State} (h : s.presenceDue = true) : s.windowOpen =
    if s.opened.sys.phase = .presenceWait then
      ({ s.opened with sys := { s.opened.sys with recoveryTaken := true } } : State).coldStart
    else s.opened := if_pos h

theorem State.windowOver_of_open {s : State} {t : Nat} (h : s.sys.window = some t) :
    s.windowOver = decide (wallEnd s.mhz t 30000000 ≤ s.now) := by rw [State.windowOver, h]

/-! ### The commands -/

theorem exec_coldResetRelease (st : Straps) (s : State) : exec (.coldResetRelease st) s = .next (s.coldRelease st) := rfl
theorem exec_presenceWaitEnd (s : State) : exec .presenceWaitEnd s = .next (if s.waitOver then s.coldStart else s) := rfl
theorem exec_presenceWindowOpen (s : State) : exec .presenceWindowOpen s = .next s.windowOpen := rfl
theorem exec_presenceWindowClose (s : State) :
    exec .presenceWindowClose s = .next (if s.windowOver then { s with sys := { s.sys with window := none } } else s) := rfl
theorem exec_presenceNChange (level : Bool) (s : State) : exec (.presenceNChange level) s = .next (s.presenceN level) := rfl
theorem exec_secureWipeEnd (s : State) : exec .secureWipeEnd s = .next s.endWipe := rfl
theorem exec_rootClockFault (s : State) :
    exec .rootClockFault s = if s.sys.phase = .cold then .next s else .fault .rootClockUndefined := rfl

/-- TAMPER before its event: it shows, a wipe starts and the count rises. -/
def State.tampered (s : State) : State :=
  (({ s with sys := { s.sys with tamper := true } } : State).startWipe 1).modUpd (fun u => { u with
    tampers := if u.tampers = 0xFFFF then u.tampers else u.tampers + 1 })

theorem exec_tamper (s : State) : exec .tamper s = .next (s.tampered.pulse 0x7EF) := rfl

theorem State.tampered_frame (s : State) : s.tampered.sys = { s.sys with tamper := true } ∧
    s.tampered.upd = { s.upd with tampers := if s.upd.tampers = 0xFFFF then 0xFFFF else s.upd.tampers + 1 } ∧
    s.tampered.threads = s.threads ∧ s.tampered.desk = s.desk := by
  rw [State.tampered, State.startWipe_frame]
  refine ⟨rfl, ?_, rfl, rfl⟩
  simp only [State.modUpd]
  split
  · next h => rw [h]
  · rfl

theorem State.tampered_wipes (s : State) : s.tampered.memS = (s.startWipe 1).memS ∧ s.tampered.hall = (s.startWipe 1).hall := by
  cases h : s.memS.wiping <;> simp [State.tampered, State.modUpd, State.startWipe, h]

/-- Settles O38: each start goes by the choice of its own lemma, and each input by what its change leaves. -/
theorem startsAndSystemInputs : Obligations.StartsAndSystemInputs := by
  unfold Obligations.StartsAndSystemInputs
  intro s virgin
  simp only [exec_coldResetRelease, exec_presenceWaitEnd, exec_presenceWindowOpen, exec_presenceWindowClose, exec_presenceNChange,
    exec_secureWipeEnd, exec_rootClockFault, exec_tamper, Host.Outcome.next.injEq]
  refine ⟨fun st hcold => ⟨fun hrec => ?waits, fun hrec hrom => ?rom, fun hrec hgood htaken hv htest => ?test,
      fun hrec hgood htaken hlc => ?scrapped, fun hrec hgood htaken hlc hlast himg => ?image⟩,
    fun st hcold => State.coldRelease_of_not_cold hcold st, ⟨fun hn => ?waitNotOver, fun hover hdue => ?waitOver⟩,
    fun t0 hlow hp hcold hend => ⟨fun hph => ?window, fun hph => ?honoured⟩, fun t0 hopen => ?close, rfl, fun hnone => ?low,
    ⟨s.tampered, rfl, ?tamper⟩, fun hw hk => State.endWipe_of_over hw hk,
    fun level => ⟨rfl, rfl, fun x hx => ?motion, fun x hx => ?holdup⟩, trivial⟩
  case waits => simp [State.coldRelease_of_cold hcold, hrec, State.sampled]
  case rom =>
    obtain ⟨u, hu, hstart⟩ := State.coldStart_rom (s := s.sampled st)
      (by simpa [State.RomIsDue, State.sampled, UpdS.virgin_iff, virgin] using hrom)
    rw [State.coldRelease_starts hcold hrec, hstart, hu.frame]
    refine ⟨_, rfl, rfl, show (2#32 ||| 1#32) = 3#32 from rfl, rfl, rfl, rfl, ?_⟩
    simp [State.enterRom, State.testJudged, State.sampled, ← Bool.not_eq_true, UpdS.virgin_iff, virgin]
  case test =>
    rw [State.coldRelease_starts hcold hrec, State.coldStart_prodTest (s := s.sampled st) (decide_eq_false hgood) htaken (UpdS.virgin_iff.2 hv) htest]
    exact ⟨_, rfl, rfl, rfl, rfl⟩
  case scrapped =>
    rw [State.coldRelease_starts hcold hrec, State.coldStart_scrapped (s := s.sampled st) (decide_eq_false hgood) htaken hlc]
    exact ⟨_, rfl, rfl⟩
  case image =>
    have hv : s.upd.virgin = false := by obtain h | h := hlc <;> simp [UpdS.virgin, h]
    have hj : (s.sampled st).testJudged =
        { s.sampled st with sys := { (s.sampled st).sys with testRefused := st.testMode } } := by
      simp [State.testJudged, State.sampled, hv]
    rw [State.coldRelease_starts hcold hrec, State.coldStart_images (s := s.sampled st) (decide_eq_false hgood) htaken hlc, hj]
    exact State.coldImages_of_good hlast himg
  case waitNotOver => exact if_neg (by rwa [State.waitOver_iff])
  case waitOver =>
    obtain ⟨u, hu, hstart⟩ := State.coldStart_rom (s := s) (Or.inl hdue)
    rw [if_pos (State.waitOver_iff.2 hover), hstart]
    exact ⟨_, rfl, rfl, rfl⟩
  case window =>
    rw [State.windowOpen_of_due (State.presenceDue_of_low hlow hp hcold hend), if_neg (by rwa [State.opened_sys])]
    rfl
  case honoured =>
    rw [State.windowOpen_of_due (State.presenceDue_of_low hlow hp hcold hend), if_pos (by rwa [State.opened_sys])]
    obtain ⟨u, hu, hstart⟩ := State.coldStart_rom
      (s := { s.opened with sys := { s.opened.sys with recoveryTaken := true } }) (Or.inl (Or.inr rfl))
    rw [hstart, hu.frame]
    exact ⟨_, rfl, rfl, rfl, congrArg Sys.presence s.opened_sys⟩
  case close => simp [State.windowOver_of_open hopen]
  case low => simp [State.presenceN, hnone]
  case tamper =>
    obtain ⟨hsys, hupd, hthreads, hdesk⟩ := s.tampered_frame
    obtain ⟨hmemS, hhall⟩ := s.tampered_wipes
    rw [hmemS, hhall]
    refine ⟨hsys, hupd, State.startWipe_wiping s 1, fun hw => ⟨?_, fun a => State.startWipe_peek hw 1 a⟩, fun hw => ?_, hthreads, hdesk⟩
    · rw [State.startWipe_starts hw]
    · rw [State.startWipe_of_wiping hw]
      exact ⟨rfl, rfl⟩
  case motion => rw [State.landUnit, hx]
  case holdup => rw [State.landUnit, hx]

end Sys2Proof.Machine
end

section
/-! PROOFS. Resets: what the folds over pins, threads, ports, leases and lines leave, and what each reset clears and keeps (Table PRT-9, R42,
R46, R50, R315, R360, R423). -/

namespace Sys2Proof.Machine

/-! ### Maps that a reset rebuilds -/

/-- What a key reads when it does not read its default is listed. -/
theorem mem_of_mget_ne {α : Type} {d : α} {m : SMap α} {i : Nat} (h : mget d m i ≠ d) : (i, mget d m i) ∈ m := by
  induction m with
  | nil => exact absurd rfl h
  | cons e rest ih =>
    obtain ⟨k, v⟩ := e
    by_cases hk : k = i
    · subst hk; simp [mget]
    · rw [mget, if_neg hk] at h ⊢
      exact List.mem_cons_of_mem _ (ih h)

/-- A map whose listed entries are rebuilt has, at every key, what the default and every rebuilt entry have. -/
theorem mget_rebuilt {α β : Type} [DecidableEq β] {P : β → Prop} {d : β} {f : α → β} (hd : P d) (hf : ∀ v, P (f v)) (m : SMap α) (i : Nat) :
    P (mget d (m.foldl (fun a e => mput d a e.1 (f e.2)) []) i) := by
  refine List.foldlRecOn (motive := fun a : SMap β => ∀ i, P (mget d a i)) m _ (show ∀ i, P (mget d [] i) from fun _ => hd) (fun a ha e _ i => ?_) i
  by_cases hi : i = e.1
  · rw [hi, mget_mput_self]; exact hf e.2
  · rw [mget_mput_ne _ _ _ _ hi]; exact ha i

/-! ### Locked channels (R237) -/

theorem State.keepLocked_of_unlocked {old : State} {c : Chan} (h : (old.pin c).locked = false) (t : State) : t.keepLocked old c = t := by
  rw [State.keepLocked, if_neg (by rw [h]; decide)]

/-- The registers of a locked channel and of its port, as they stood. -/
def State.lockedRegs (t old : State) (c : Chan) : State :=
  (((((t.setReg (.pinFcfg c 0) (old.reg (.pinFcfg c 0))).setReg (.pinFcfg c 1) (old.reg (.pinFcfg c 1))).setReg (.pinPad c)
    ((old.reg (.pinPad c) &&& padLk) ||| (0x14000000 &&& ~~~padLk))).setReg (.pinShcfg c) (old.reg (.pinShcfg c))).setReg (.pinOwner c)
    (old.reg (.pinOwner c))).setReg (.pinPolicy (portOf c)) (old.reg (.pinPolicy (portOf c)))

theorem State.keepLocked_of_locked {old : State} {c : Chan} (h : (old.pin c).locked = true) (t : State) :
    t.keepLocked old c = (t.lockedRegs old c).modPin c (fun q => { q with
      locked := true, live := (old.pin c).live, cfg := (old.pin c).cfg
      padCfg := (old.reg (.pinPad c) &&& padLk) ||| (0x14000000 &&& ~~~padLk), holdSafe := true }) := if_pos h

theorem State.modPin_reg (s : State) (c : Chan) (f : PinS → PinS) (q : Reg) : (s.modPin c f).reg q = s.reg q := rfl

theorem State.lockedRegs_pins (t old : State) (c : Chan) : (t.lockedRegs old c).pins = t.pins := by
  simp only [State.lockedRegs, State.setReg_pins]

/-- The states that registers and pin channels alone may tell apart. -/
def State.RegsPinsOnly (s t : State) : Prop := t = { s with regs := t.regs, pins := t.pins }

theorem State.RegsPinsOnly.trans {s t u : State} (h : s.RegsPinsOnly t) (h' : t.RegsPinsOnly u) : s.RegsPinsOnly u := by
  unfold State.RegsPinsOnly at *
  rw [h', h]

theorem State.regsPinsOnly_setReg (s : State) (r : Reg) (v : Word) : s.RegsPinsOnly (s.setReg r v) := rfl

theorem State.regsPinsOnly_keepLocked (t old : State) (c : Chan) : t.RegsPinsOnly (t.keepLocked old c) := by
  cases h : (old.pin c).locked with
  | false => rw [State.keepLocked_of_unlocked h]; rfl
  | true =>
    rw [State.keepLocked_of_locked h]
    have hregs : t.RegsPinsOnly (t.lockedRegs old c) :=
      (((((State.regsPinsOnly_setReg _ _ _).trans (State.regsPinsOnly_setReg _ _ _)).trans (State.regsPinsOnly_setReg _ _ _)).trans
        (State.regsPinsOnly_setReg _ _ _)).trans (State.regsPinsOnly_setReg _ _ _)).trans (State.regsPinsOnly_setReg _ _ _)
    exact hregs.trans rfl

theorem State.keepLocked_locked (t old : State) (k c : Chan) : ((t.keepLocked old k).pin c).locked =
    ((t.pin c).locked || ((old.pin c).locked && decide (k = c))) := by
  cases h : (old.pin k).locked with
  | false =>
    rw [State.keepLocked_of_unlocked h]
    by_cases hk : k = c
    · rw [← hk, h]; simp
    · simp [hk]
  | true =>
    rw [State.keepLocked_of_locked h, State.modPin]
    by_cases hk : k = c
    · rw [← hk, State.pin_setPin, h]; simp
    · rw [State.pin_setPin_ne _ _ _ _ (Ne.symm hk), State.pin, State.lockedRegs_pins]
      simp [hk, State.pin]

/-- The registers of a channel and of its port lie above those of hosts, barrels and threads. -/
theorem State.lockedRegs_reg (t old : State) (c : Chan) {q : Reg} (hq : q.key < 0x80000) : (t.lockedRegs old c).reg q = t.reg q := by
  have hne : ∀ r : Reg, 0x80000 ≤ r.off → q.key ≠ r.key := fun r hr => by
    have hkey : r.off ≤ r.key := Nat.le_add_right _ _
    omega
  have hfcfg : ∀ k, q.key ≠ (Reg.pinFcfg c k).key := fun k => hne _ (show 0x80000 ≤ 0x80000 + 0x40 * c.val + 4 * k.val by omega)
  have hpad : q.key ≠ (Reg.pinPad c).key := hne _ (show 0x80000 ≤ 0x8000C + 0x40 * c.val by omega)
  have hshcfg : q.key ≠ (Reg.pinShcfg c).key := hne _ (show 0x80000 ≤ 0x80014 + 0x40 * c.val by omega)
  have howner : q.key ≠ (Reg.pinOwner c).key := hne _ (show 0x80000 ≤ 0x80010 + 0x40 * c.val by omega)
  have hpolicy : q.key ≠ (Reg.pinPolicy (portOf c)).key := hne _ (show 0x80000 ≤ 0x88014 + 0x40 * (portOf c).val by omega)
  rw [State.lockedRegs, State.reg_setReg_ne _ _ _ _ hpolicy, State.reg_setReg_ne _ _ _ _ howner, State.reg_setReg_ne _ _ _ _ hshcfg,
    State.reg_setReg_ne _ _ _ _ hpad, State.reg_setReg_ne _ _ _ _ (hfcfg 1), State.reg_setReg_ne _ _ _ _ (hfcfg 0)]

theorem State.keepLocked_reg (t old : State) (c : Chan) {q : Reg} (hq : q.key < 0x80000) : (t.keepLocked old c).reg q = t.reg q := by
  cases h : (old.pin c).locked with
  | false => rw [State.keepLocked_of_unlocked h]
  | true =>
    rw [State.keepLocked_of_locked h, State.modPin_reg, t.lockedRegs_reg old c hq]

/-- Every listed channel in turn keeps its set-up where it is locked. -/
def State.keepAllLocked (t old : State) : State := (old.pins.map (·.1)).foldl (fun t k => t.keepLocked old (fin 512 k)) t

theorem State.keepAllLocked_frame (t old : State) : t.keepAllLocked old =
    { t with regs := (t.keepAllLocked old).regs, pins := (t.keepAllLocked old).pins } :=
  List.foldlRecOn (motive := fun u : State => t.RegsPinsOnly u) _ _ rfl
    (fun u hu k _ => hu.trans (u.regsPinsOnly_keepLocked old (fin 512 k)))

theorem State.keepAllLocked_reg (t old : State) {q : Reg} (hq : q.key < 0x80000) : (t.keepAllLocked old).reg q = t.reg q :=
  List.foldlRecOn (motive := fun u : State => u.reg q = t.reg q) _ _ rfl
    (fun u hu k _ => (u.keepLocked_reg old (fin 512 k) hq).trans hu)

theorem State.foldl_keepLocked_locked (t old : State) (l : List Nat) (c : Chan) :
    ((l.foldl (fun t k => t.keepLocked old (fin 512 k)) t).pin c).locked =
      ((t.pin c).locked || ((old.pin c).locked && l.any (fun k => decide (fin 512 k = c)))) := by
  induction l generalizing t with
  | nil => simp
  | cons k rest ih =>
    rw [List.foldl_cons, ih, State.keepLocked_locked, List.any_cons, Bool.and_or_distrib_left, Bool.or_assoc]

/-- Where no channel is locked, those become so that were. -/
theorem State.keepAllLocked_locked {t old : State} {c : Chan} (ht : (t.pin c).locked = false) :
    ((t.keepAllLocked old).pin c).locked = (old.pin c).locked := by
  rw [State.keepAllLocked, State.foldl_keepLocked_locked, ht, Bool.false_or]
  cases h : (old.pin c).locked with
  | false => rfl
  | true =>
    have hlisted : (c.val, old.pin c) ∈ old.pins := mem_of_mget_ne fun hd => by rw [State.pin, hd] at h; cases h
    rw [Bool.true_and, List.any_eq_true]
    exact ⟨c.val, List.mem_map_of_mem hlisted, decide_eq_true (Fin.ext (Nat.mod_eq_of_lt c.isLt))⟩

/-! ### A warm reset begins (R423, W1) -/

/-- What a warm reset keeps, before the set-up of locked channels. -/
def State.warmKept (s : State) : State := { State.reset with
  now := s.now, tbase := s.tbase, lap := s.lap
  regs := s.regs.filter (fun e => warmKeeps e.1)
  agenda := s.agenda.filter Landing.input
  threads := s.threads.foldl (fun m e => mput { } m e.1 { bankY := e.2.bankY, todo := e.2.todo }) []
  desk := s.desk, slate := s.slate, hall := s.hall, ins := s.ins
  pins := s.pins.foldl (fun m e => mput { } m e.1 e.2.inputOnly) []
  strict := s.strict.filter (fun p => (List.range 32).any (fun i => (s.pin (chanOf (fin 16 p) i)).locked))
  cals := s.cals, tripsIn := s.tripsIn, tripLevel := s.tripLevel, insts := s.insts, memS := s.memS
  hosts := s.hosts.foldl (fun m e => mput { } m e.1 { errs := e.2.errs, inRst := e.2.inRst, held := e.2.held }) []
  hly := s.hly.restarted
  upd := { s.upd with seqHost := none, seqHly := none, openCopy := none, moving := [], cmdErr := 0, lcErr := 0 }
  drill := { s.drill with cur := none, ign := none, dmode := false, cardDue := false }
  sys := { s.sys with
    phase := .warm, blockUp := false, lockupAny := false, lockPipe := 0
    warmPend := false, warmByReg := false, warmKeys := [], warmAt := s.now }
  free := s.free, tickStage := s.tickStage, pending := s.pending }

theorem State.warmBegin_eq (s : State) (byReg : Bool) :
    s.warmBegin byReg = ((s.warmKept.keepAllLocked s).addCause (if byReg then 8 else 4)).startWipe 4 := rfl

/-- Beside what is kept, a warm reset sets up the locked channels, records its cause and starts a wipe. -/
theorem State.warmBegin_frame (s : State) (byReg : Bool) : s.warmBegin byReg = { s.warmKept with
    regs := (s.warmKept.keepAllLocked s).regs, pins := (s.warmKept.keepAllLocked s).pins
    insts := (s.warmBegin byReg).insts, hall := (s.warmBegin byReg).hall, memS := (s.warmBegin byReg).memS
    sys := (s.warmKept.addCause (if byReg then 8 else 4)).sys } := by
  rw [State.warmBegin_eq, State.startWipe_frame, State.keepAllLocked_frame]
  rfl

theorem State.warmBegin_wiping (s : State) (byReg : Bool) : (s.warmBegin byReg).memS.wiping = true := by
  rw [State.warmBegin_eq]
  exact State.startWipe_wiping _ 4

/-- Hall as a warm reset leaves it: a wipe that is already under way goes on. -/
theorem State.warmBegin_peek (s : State) (byReg : Bool) (a : Nat) : peek (s.warmBegin byReg).hall a =
    if s.memS.wiping = false ∧ 0x7C0000 ≤ a ∧ a < 0x800000 then 0 else peek s.hall a := by
  have hmemS : ((s.warmKept.keepAllLocked s).addCause (if byReg then 8 else 4)).memS = s.memS := by
    rw [State.keepAllLocked_frame]; rfl
  have hhall : ((s.warmKept.keepAllLocked s).addCause (if byReg then 8 else 4)).hall = s.hall := by
    rw [State.keepAllLocked_frame]; rfl
  rw [State.warmBegin_eq]
  cases h : s.memS.wiping with
  | true => rw [State.startWipe_of_wiping (by rw [hmemS, h]), hhall]; rfl
  | false => rw [State.startWipe_peek (by rw [hmemS, h]), hhall]; simp

theorem State.warmKept_thr (s : State) (t : Tid) : (s.warmKept.thr t).st = .off ∧ (s.warmKept.thr t).ev = { } ∧ (s.warmKept.thr t).per = { } :=
  mget_rebuilt (P := fun x : Thread => x.st = .off ∧ x.ev = { } ∧ x.per = { }) (d := { }) (f := fun x : Thread => { bankY := x.bankY, todo := x.todo })
    ⟨rfl, rfl, rfl⟩ (fun _ => ⟨rfl, rfl, rfl⟩) s.threads t.val

theorem State.warmKept_pin (s : State) (c : Chan) : (s.warmKept.pin c).locked = false :=
  mget_rebuilt (P := fun x : PinS => x.locked = false) (d := { }) (f := PinS.inputOnly) rfl (fun _ => rfl) s.pins c.val

theorem key_thrCtl (t : Tid) : (Reg.thrCtl t).key = 0x21000 + 0x80 * t.val := rfl

theorem State.warmKept_thrCtl (s : State) (t : Tid) : s.warmKept.reg (.thrCtl t) = 0 := by
  have hk : warmKeeps (Reg.thrCtl t).key = false := by
    have ht : (Reg.thrCtl t).key % 0x1000000 < 0x25000 := by rw [key_thrCtl]; omega
    simp only [warmKeeps, Bool.or_eq_false_iff, Bool.and_eq_false_iff, decide_eq_false_iff_not]
    omega
  exact (mget_filter _ warmKeeps s.regs _).trans (if_neg (by rw [hk]; decide))

theorem State.warmBegin_thrCtl (s : State) (byReg : Bool) (t : Tid) : (s.warmBegin byReg).reg (.thrCtl t) = 0 := by
  rw [State.warmBegin_frame]
  exact (State.keepAllLocked_reg s.warmKept s (q := .thrCtl t) (by rw [key_thrCtl]; omega)).trans (s.warmKept_thrCtl t)

theorem Landing.input_iff {x : Landing} :
    x.input = true ↔ (∃ l, x.eff = .motion l) ∨ (∃ l, x.eff = .holdup l) ∨ ∃ h, x.eff = .hostDrop h := by
  unfold Landing.input
  split <;> simp_all

section Warm
variable {s : State} (hup : s.sys.phase = .up)
include hup

theorem State.warmFall_of_started (hb : s.sys.coldBoot = false) (byReg : Bool) : s.warmFall byReg = s.warmBegin byReg := by
  simp [State.warmFall, hup, hb]

/-- Before the first bell after a cold release a warm reset stays pending (R46). -/
theorem State.warmFall_of_coldBoot (hb : s.sys.coldBoot = true) (byReg : Bool) : s.warmFall byReg =
    { s with sys := { s.sys with warmPend := s.sys.warmPend || !byReg, warmByReg := s.sys.warmByReg || byReg } } := by
  cases byReg <;> simp [State.warmFall, hup, hb]

end Warm

/-! ### A warm reset ends (R46, Table SUP-2) -/

theorem State.setBanks_frame (s : State) : s.setBanks = { s with threads := s.setBanks.threads } :=
  List.foldlRecOn (motive := fun t : State => t = { s with threads := t.threads }) _ _ rfl (fun _ ht _ _ => by rw [ht]; rfl)

/-- The request of the pin has ended. -/
def State.released (s : State) : State := { s with sys := { s.sys with rstWarm := false, warmPend := false } }

theorem State.warmEnd_eq (s : State) : s.warmEnd = if s.released.warmOver then s.released.warmStart else s.released := rfl

theorem State.warmOver_iff {s : State} :
    s.warmOver = true ↔ (s.sys.phase = .warm ∧ s.sys.rstWarm = false) ∧ s.sys.warmAt + 512 ≤ s.now := by
  simp [State.warmOver]

theorem State.warmOver_released_iff {s : State} :
    s.released.warmOver = true ↔ s.sys.phase = .warm ∧ s.sys.warmAt + 512 ≤ s.now :=
  State.warmOver_iff.trans (and_congr_left' (and_iff_left rfl))

/-- The banks are chosen and the causes and drill modes of the start stand, before the journal is replayed. -/
def State.warmBanked (s : State) : State := { s.setBanks with
  sys := { s.sys with cause := s.sys.cause &&& ~~~1#32, drillNext := false }
  drill := { s.drill with dmode := s.sys.drillNext, prevUsed := false } }

/-- W2 to W4 after the replay: the ROM, production test, SCRAPPED or the confirmed image. -/
def State.warmChoice (s : State) : State :=
  if s.sys.rootErr ∨ s.upd.recoverNext then s.enterRom
  else if s.upd.lc = .blank ∨ s.upd.lc = .returned then
    (if s.sys.straps.testMode then { s with sys := { s.sys with phase := .prodTest } } else s.enterRom)
  else if s.upd.lc = .scrapped then { s with sys := { s.sys with phase := .scrapped } }
  else if s.upd.lastConfirmed.isSome && s.startCheck (!s.upd.stagingB) .ok then s.runImage s.confirmedImg
  else s.enterRom

theorem State.warmStart_eq (s : State) : s.warmStart = s.warmBanked.replay.warmChoice := by
  unfold State.warmStart State.warmChoice State.warmBanked
  rfl


theorem State.warmBanked_frame (s : State) : s.warmBanked = { s with
    threads := s.setBanks.threads, sys := { s.sys with cause := s.sys.cause &&& ~~~1#32, drillNext := false }
    drill := { s.drill with dmode := s.sys.drillNext, prevUsed := false } } := by
  rw [State.warmBanked, State.setBanks_frame]

/-- What sends a warm start into the ROM: the clock strap, RECOVER, or a lifecycle without an image outside production test. -/
def State.WarmRomIsDue (s : State) : Prop :=
  s.sys.rootErr = true ∨ s.upd.recoverNext = true ∨ ((s.upd.lc = .blank ∨ s.upd.lc = .returned) ∧ s.sys.straps.testMode = false)

theorem State.warmChoice_rom {s : State} (h : s.WarmRomIsDue) : s.warmChoice = s.enterRom := by
  by_cases hroot : s.sys.rootErr = true ∨ s.upd.recoverNext = true
  · exact if_pos hroot
  · obtain ⟨hlc, htest⟩ := (or_assoc.2 h).resolve_left hroot
    rw [State.warmChoice, if_neg hroot, if_pos hlc, if_neg (by rw [htest]; decide)]

theorem State.warmChoice_scrapped {s : State} (hroot : s.sys.rootErr = false) (hnext : s.upd.recoverNext = false)
    (hlc : s.upd.lc = .scrapped) : s.warmChoice = { s with sys := { s.sys with phase := .scrapped } } := by
  simp [State.warmChoice, hroot, hnext, hlc]

/-- The replay of a warm start, with what its choice goes by as it stood before. -/
theorem State.warmStart_replays (s : State) : ∃ v, s.warmBanked.Replays v ∧ s.warmStart = v.warmChoice ∧
    v.sys.rootErr = s.sys.rootErr ∧ v.sys.straps = s.sys.straps ∧ v.upd.lc = s.upd.lc ∧ v.upd.recoverNext = s.upd.recoverNext := by
  have h := s.warmBanked.replays_replay
  have hbanked := s.warmBanked_frame
  refine ⟨_, h, s.warmStart_eq, ?_, ?_, h.lc.trans ?_, h.recoverNext.trans ?_⟩
  · rw [h.sys, hbanked]
  · rw [h.sys, hbanked]
  · rw [hbanked]
  · rw [hbanked]

theorem State.warmStart_rom {s : State} (h : s.WarmRomIsDue) : s.warmStart.sys.phase = .recovery ∧
    s.warmStart.sys.cause.getLsbD 0 = true ∧ s.warmStart.upd.stage = .recovery ∧ s.warmStart.sys.rstWarm = s.sys.rstWarm ∧
    s.warmStart.desk = s.desk ∧ s.warmStart.hall = s.hall := by
  obtain ⟨v, hv, hstart, hroot, hstraps, hlc, hnext⟩ := s.warmStart_replays
  have hrom : v.WarmRomIsDue := by rwa [State.WarmRomIsDue, hroot, hstraps, hlc, hnext]
  have hsys : v.sys.rstWarm = s.sys.rstWarm := by rw [hv.sys, State.warmBanked_frame]
  have hdesk : v.desk = s.desk := by rw [hv.desk, State.warmBanked_frame]
  have hhall : v.hall = s.hall := by rw [hv.hall, State.warmBanked_frame]
  have hcause : (v.sys.cause ||| 1#32).getLsbD 0 = true := by simp
  rw [hstart, State.warmChoice_rom hrom]
  exact ⟨rfl, hcause, rfl, hsys, hdesk, hhall⟩

theorem State.warmStart_scrapped {s : State} (hroot : s.sys.rootErr = false) (hnext : s.upd.recoverNext = false)
    (hlc : s.upd.lc = .scrapped) : s.warmStart.sys.phase = .scrapped := by
  obtain ⟨v, hv, hstart, hroot', hstraps, hlc', hnext'⟩ := s.warmStart_replays
  rw [hstart, State.warmChoice_scrapped (hroot'.trans hroot) (hnext'.trans hnext) (hlc'.trans hlc)]

/-! ### Leases and lines of a host port (R360, R374, Table HST-12) -/

theorem State.endLease_of_free {s : State} {i : Nat} (h : mget none s.locks.leases i = none) (expired : Bool) : s.endLease i expired = s := by
  rw [State.endLease, h]

theorem State.endLease_of_lease {s : State} {i : Nat} {l : Lease} (h : mget none s.locks.leases i = some l) (expired : Bool) :
    s.endLease i expired = { s with locks := { s.locks with
      leases := mput none s.locks.leases i none, queue := s.locks.queue ++ [.abandon l.addr l.owner expired] } } := by
  rw [State.endLease, h]
  rfl

theorem State.endLease_frame (s : State) (i : Nat) (expired : Bool) : s.endLease i expired = { s with locks := (s.endLease i expired).locks } := by
  cases h : mget none s.locks.leases i with
  | none => rw [State.endLease_of_free h]
  | some l => rw [State.endLease_of_lease h]

theorem State.endLease_leases (s : State) (i j : Nat) (expired : Bool) :
    mget none (s.endLease i expired).locks.leases j = if j = i then none else mget none s.locks.leases j := by
  cases h : mget none s.locks.leases i with
  | none =>
    rw [State.endLease_of_free h]
    split
    · next hj => rw [hj, h]
    · rfl
  | some l =>
    rw [State.endLease_of_lease h]
    split
    · next hj => rw [hj, mget_mput_self]
    · next hj => rw [mget_mput_ne _ _ _ _ hj]

theorem State.endLease_queue_subset (s : State) (i : Nat) (expired : Bool) : s.locks.queue ⊆ (s.endLease i expired).locks.queue := by
  cases h : mget none s.locks.leases i with
  | none => rw [State.endLease_of_free h]; exact List.Subset.refl _
  | some l => rw [State.endLease_of_lease h]; exact List.subset_append_left _ _

theorem State.endLease_queue {s : State} {i : Nat} {l : Lease} (h : mget none s.locks.leases i = some l) (expired : Bool) :
    .abandon l.addr l.owner expired ∈ (s.endLease i expired).locks.queue := by
  rw [State.endLease_of_lease h]
  exact List.mem_append_right _ (List.mem_singleton_self _)

/-- The entries of a list end, one after the other. -/
def State.endEntries (s : State) (l : List Nat) : State := l.foldl (fun s i => s.endLease i false) s

theorem State.endEntries_frame (s : State) (l : List Nat) : s.endEntries l = { s with locks := (s.endEntries l).locks } :=
  List.foldlRecOn (motive := fun t : State => t = { s with locks := t.locks }) _ _ rfl (fun t ht i _ => by rw [State.endLease_frame, ht])

theorem State.endEntries_leases (s : State) (l : List Nat) (j : Nat) :
    mget none (s.endEntries l).locks.leases j = if j ∈ l then none else mget none s.locks.leases j := by
  induction l generalizing s with
  | nil => rfl
  | cons i rest ih =>
    rw [State.endEntries, List.foldl_cons]
    refine (ih _).trans ?_
    rw [State.endLease_leases]
    by_cases hj : j = i <;> simp [hj]

theorem State.endEntries_queue_subset (s : State) (l : List Nat) : s.locks.queue ⊆ (s.endEntries l).locks.queue :=
  List.foldlRecOn (motive := fun t : State => s.locks.queue ⊆ t.locks.queue) _ _ (List.Subset.refl _)
    (fun t ht i _ => List.Subset.trans ht (t.endLease_queue_subset i false))

theorem State.endEntries_queue {s : State} {l : List Nat} {i : Nat} {x : Lease} (hi : i ∈ l) (hx : mget none s.locks.leases i = some x) :
    .abandon x.addr x.owner false ∈ (s.endEntries l).locks.queue := by
  induction l generalizing s with
  | nil => cases hi
  | cons k rest ih =>
    by_cases hk : i = k
    · subst hk
      exact State.endEntries_queue_subset _ rest (State.endLease_queue hx false)
    · exact ih (s := s.endLease k false) (List.mem_of_ne_of_mem hk hi) (by rw [State.endLease_leases, if_neg hk, hx])

theorem State.endLeases_eq (s : State) (owner : BitVec 16) : s.endLeases owner = s.endEntries ((s.leasesBy owner).map (·.1)) := rfl

theorem State.mem_leasesBy {s : State} {owner : BitVec 16} {i : Nat} {l : Lease} (h : mget none s.locks.leases i = some l)
    (ho : l.owner = owner) : i ∈ (s.leasesBy owner).map (·.1) := by
  have hmem : (i, some l) ∈ s.locks.leases := h ▸ mem_of_mget_ne (by rw [h]; nofun)
  exact List.mem_map.2 ⟨(i, l), List.mem_filterMap.2 ⟨_, hmem, if_pos ho⟩, rfl⟩

/-- The lines that a partition holds fall. -/
def State.dropLines (s : State) (h : Host) (l : List Nat) : State :=
  l.foldl (fun s k => if s.partOf kIrq k = some h then s.setIrq (fin 64 k) { } else s) s

theorem State.dropLines_frame (s : State) (h : Host) (l : List Nat) : s.dropLines h l = { s with irqs := (s.dropLines h l).irqs } := by
  refine List.foldlRecOn (motive := fun t : State => t = { s with irqs := t.irqs }) _ _ rfl (fun t ht k _ => ?_)
  split
  · rw [ht]; rfl
  · exact ht

theorem State.dropLines_irq {s : State} {h : Host} {l : List Nat} {k : IrqLine} (hp : s.partOf kIrq k.val = some h)
    (hk : k.val ∈ l ∨ s.irq k = { }) : (s.dropLines h l).irq k = { } := by
  induction l generalizing s with
  | nil => exact hk.resolve_left List.not_mem_nil
  | cons j rest ih =>
    rw [State.dropLines, List.foldl_cons]
    split
    · refine ih hp ?_
      by_cases hj : k = fin 64 j
      · exact Or.inr (by rw [hj, State.irq_setIrq])
      · rw [State.irq_setIrq_ne _ _ _ _ hj]
        refine hk.imp_left fun hmem => List.mem_of_ne_of_mem (fun e => hj (Fin.ext ?_)) hmem
        rw [← e]
        exact (Nat.mod_eq_of_lt k.isLt).symm
    · next hj => exact ih hp (hk.imp_left fun hmem => List.mem_of_ne_of_mem (fun e => hj (by rw [← e]; exact hp)) hmem)

theorem State.lockHostReset_frame (s : State) (h : Host) : s.lockHostReset h = { s with locks := (s.lockHostReset h).locks } := rfl

/-- Beside its lines, what a host reset drops of the port once its effects begin. -/
def State.portDropped (s : State) (h : Host) : State :=
  let t := (s.lockHostReset h).modHost h (fun x => { x with reqs := [], held := x.inRst })
  { t with ports := t.ports.filter (fun p => decide (p.user ≠ .host h)) }

theorem State.portDropped_frame (s : State) (h : Host) : s.portDropped h = { s with
    locks := (s.lockHostReset h).locks, hosts := (s.setHost h { s.host h with reqs := [], held := (s.host h).inRst }).hosts
    ports := s.ports.filter (fun p => decide (p.user ≠ .host h)) } := by
  rw [State.portDropped, State.lockHostReset_frame]
  generalize (s.lockHostReset h).locks = locks
  rfl

theorem State.hostFall_eq (s : State) (h : Host) : s.hostFall h =
    let t := (s.portDropped h).dropLines h ((s.portDropped h).irqs.map (·.1))
    { t with sys := { t.sys with warmKeys := t.sys.warmKeys.filter (fun e => decide (e.1 ≠ h)) } } := rfl

theorem State.hostFall_frame (s : State) (h : Host) : s.hostFall h = { s with
    locks := (s.lockHostReset h).locks, hosts := (s.setHost h { s.host h with reqs := [], held := (s.host h).inRst }).hosts
    ports := s.ports.filter (fun p => decide (p.user ≠ .host h))
    irqs := ((s.portDropped h).dropLines h (s.irqs.map (·.1))).irqs
    sys := { s.sys with warmKeys := s.sys.warmKeys.filter (fun e => decide (e.1 ≠ h)) } } := by
  have hlines : (s.portDropped h).irqs = s.irqs := by rw [State.portDropped_frame]
  rw [State.hostFall_eq, hlines]
  dsimp only
  rw [State.dropLines_frame]
  generalize ((s.portDropped h).dropLines h (s.irqs.map (·.1))).irqs = lines
  rw [State.portDropped_frame]

/-- Every line of the port's partition falls. -/
theorem State.hostFall_irq {s : State} {h : Host} {l : IrqLine} (hl : s.partOf kIrq l.val = some h) : (s.hostFall h).irq l = { } := by
  have hlisted : l.val ∈ s.irqs.map (·.1) ∨ s.irq l = { } :=
    or_iff_not_imp_right.2 fun hne => List.mem_map.2 ⟨_, mem_of_mget_ne hne, rfl⟩
  have hirq : (s.portDropped h).irq l = s.irq l := by rw [State.irq, State.portDropped_frame]; rfl
  have hpart : (s.portDropped h).partOf kIrq l.val = s.partOf kIrq l.val := by rw [State.portDropped_frame]; rfl
  have hfall := State.dropLines_irq (hpart.trans hl) (by rwa [hirq])
  rw [State.irq, State.hostFall_frame]
  exact hfall

/-! ### The commands -/

theorem exec_coldResetAssert (s : State) : exec .coldResetAssert s = .next s.coldAssert := rfl
theorem exec_warmReset (s : State) : exec .warmReset s = .next s.warmReset := rfl
theorem exec_warmResetEnd (s : State) : exec .warmResetEnd s = .next s.warmEnd := rfl
theorem exec_hostReset (h : Host) (s : State) : exec (.hostReset h) s = .next (s.hostReset h) := rfl

theorem State.coldAssert_pin (s : State) (c : Chan) :
    (s.coldAssert.pin c).latch = false ∧ (s.coldAssert.pin c).cfg = 0 ∧ (s.coldAssert.pin c).locked = false :=
  mget_rebuilt (P := fun x : PinS => x.latch = false ∧ x.cfg = 0 ∧ x.locked = false) (d := { }) (f := PinS.inputOnly)
    ⟨rfl, rfl, rfl⟩ (fun _ => ⟨rfl, rfl, rfl⟩) s.pins c.val

/-- A CTL_WARM write of a host port waits for its response (R50). -/
theorem ctlWarm_givesWrite (s : State) (h : Host) (tag : BitVec 5) :
    GivesWrite (.ctlWarm (.host h tag)) (.host h tag) true s (s.isOwner (.host h tag))
      { s with sys := { s.sys with warmKeys := s.sys.warmKeys ++ [(h, tag)] } } := by
  refine congrArg Host.Outcome.next ?_
  simp only [State.regWriteLow, State.regWrite, State.ctlWarm, Bool.true_and, Bool.false_or]
  cases s.accepts (.host h tag) <;> rfl

/-- At its recognition a host reset ends the leases of the port and records its cause; its other effects are due later. -/
theorem State.hostReset_frame (s : State) (h : Host) : s.hostReset h = { s with
    locks := (s.endLeases (ownerHost h)).locks, hosts := (s.setHost h { s.host h with inRst := true }).hosts
    sys := (s.addCause (1#32 <<< (24 + h.val))).sys
    agenda := agendaInsert { due := 2 * (s.now / 2 + 3) - 1, prio := prioUnit, thread := none, issuedAt := s.now, eff := .hostDrop h }
      s.agenda } := by
  rw [State.hostReset, State.endLeases_eq, State.endEntries_frame]
  generalize (s.endEntries _).locks = locks
  rfl

theorem State.hostReset_host (s : State) (h : Host) : (s.hostReset h).host h = { s.host h with inRst := true } := by
  rw [State.hostReset_frame]
  exact State.host_setHost s h _

theorem State.endLeases_owner (s : State) (owner : BitVec 16) {i : Nat} {l : Lease}
    (hl : mget none (s.endLeases owner).locks.leases i = some l) : l.owner ≠ owner := by
  rw [State.endLeases_eq, State.endEntries_leases] at hl
  split at hl
  · cases hl
  · next hi => exact fun ho => hi (State.mem_leasesBy hl ho)

theorem State.endLeases_queue {s : State} {owner : BitVec 16} {i : Nat} {l : Lease} (hl : mget none s.locks.leases i = some l)
    (ho : l.owner = owner) : .abandon l.addr l.owner false ∈ (s.endLeases owner).locks.queue := by
  rw [State.endLeases_eq]
  exact State.endEntries_queue (State.mem_leasesBy hl ho) hl

theorem State.hostFall_host (s : State) (h : Host) : (s.hostFall h).host h = { s.host h with reqs := [], held := (s.host h).inRst } := by
  rw [State.hostFall_frame]
  exact State.host_setHost s h _

/-- The lock unit drops the watches and the pending command of a port whose reset falls. -/
theorem State.lockHostReset_locks (s : State) (h : Host) : ∃ mine : LockReq → Bool, (∀ op a d x y, mine (.host h op a d x y) = true) ∧
    (s.lockHostReset h).locks = { s.locks with
      watches := s.locks.watches.filter (fun x => decide (x.who ≠ .host h)), queue := s.locks.queue.filter (fun r => !mine r)
      banks := mput { } s.locks.banks h.val { s.hps h with busy := false } } :=
  ⟨_, fun _ _ _ _ _ => decide_eq_true rfl, rfl⟩

theorem State.lockHostReset_leaves (s : State) (h : Host) : let t := s.lockHostReset h
    (∀ w ∈ t.locks.watches, w.who ≠ .host h) ∧ (∀ op a d x y, LockReq.host h op a d x y ∉ t.locks.queue) ∧ (t.hps h).busy = false := by
  intro t
  obtain ⟨mine, hmine, hlocks⟩ := s.lockHostReset_locks h
  rw [State.hps, hlocks, mget_mput_self]
  refine ⟨fun w hw => of_decide_eq_true (List.mem_filter.1 hw).2, fun op a d x y hmem => ?_, rfl⟩
  have hnot := (List.mem_filter.1 hmem).2
  rw [hmine] at hnot
  cases hnot

/-- Settles O37: each reset by what it keeps of the state, and the folds over pins, threads, ports, leases and lines by their lemmas. -/
theorem resetsClearAndKeep : Obligations.ResetsClearAndKeep := by
  unfold Obligations.ResetsClearAndKeep
  intro s secure
  simp only [exec_coldResetAssert, exec_warmReset, exec_warmResetEnd, exec_hostReset, Host.Outcome.next.injEq]
  refine ⟨⟨_, rfl, ?cold⟩,
    rfl, fun byReg hup hb => ?warm, fun byReg hup hb => State.warmFall_of_coldBoot hup hb byReg, ctlWarm_givesWrite s,
    ⟨fun hn => ?goesOn, fun hover hrom => ?rom, fun hover hroot hnext hlc => ?scrapped⟩, fun h => ⟨_, rfl, ?hostReset⟩, fun h => ?hostFall,
    fun h => rfl⟩
  case cold =>
    exact ⟨rfl, rfl, rfl, rfl, rfl, rfl, rfl, rfl, rfl, rfl, rfl, rfl, rfl, rfl, rfl, rfl, rfl, rfl, rfl, rfl, rfl, rfl,
      rfl, fun a => peek_wipe s.hall 0x7C0000 0x40000 a, rfl, rfl, rfl, rfl, rfl, rfl, rfl, rfl, s.coldAssert_pin, rfl⟩
  case warm =>
    have hpeek := s.warmBegin_peek byReg
    have hwiping := s.warmBegin_wiping byReg
    have hreg := s.warmBegin_thrCtl byReg
    rw [State.warmFall_of_started hup hb]
    rw [State.warmBegin_frame] at hpeek hwiping hreg ⊢
    exact ⟨rfl, rfl, rfl, rfl, rfl, rfl, rfl, rfl, rfl, fun a ha => (hpeek a).trans (if_neg fun h => ha h.2),
      fun hw a ha => (hpeek a).trans (if_pos ⟨hw, ha⟩), hwiping, fun x hx => Landing.input_iff.1 (List.mem_filter.1 hx).2, rfl, rfl, rfl, rfl,
      rfl, fun x => ⟨(s.warmKept_thr x).1, (s.warmKept_thr x).2.1, (s.warmKept_thr x).2.2, hreg x⟩, rfl, rfl, rfl, rfl, rfl, rfl, rfl, rfl,
      fun c => State.keepAllLocked_locked (s.warmKept_pin c)⟩
  case goesOn =>
    rw [State.warmEnd_eq, if_neg (mt State.warmOver_released_iff.1 hn)]
    rfl
  case rom =>
    rw [State.warmEnd_eq, if_pos (State.warmOver_released_iff.2 hover)]
    exact ⟨_, rfl, State.warmStart_rom (s := s.released) hrom⟩
  case scrapped =>
    rw [State.warmEnd_eq, if_pos (State.warmOver_released_iff.2 hover)]
    exact ⟨_, rfl, State.warmStart_scrapped (s := s.released) hroot hnext hlc⟩
  case hostReset =>
    refine ⟨congrArg HostS.inRst (s.hostReset_host h), (congrArg HostS.reqs (s.hostReset_host h) :), ?_⟩
    rw [State.hostReset_frame]
    exact ⟨rfl, fun i l => s.endLeases_owner _, fun i l => State.endLeases_queue, mem_agendaInsert.2 (Or.inl rfl), rfl, rfl, rfl⟩
  case hostFall =>
    obtain ⟨hwatches, hqueue, hbusy⟩ := s.lockHostReset_leaves h
    refine ⟨congrArg HostS.reqs (s.hostFall_host h), congrArg HostS.held (s.hostFall_host h), (congrArg HostS.errs (s.hostFall_host h) :), ?_⟩
    have hlines := fun l => State.hostFall_irq (s := s) (h := h) (l := l)
    rw [State.hostFall_frame] at hlines ⊢
    exact ⟨hwatches, hqueue, hbusy, fun q hq => of_decide_eq_true (List.mem_filter.1 hq).2,
      fun e he => of_decide_eq_true (List.mem_filter.1 he).2, hlines, rfl, rfl, rfl⟩

end Sys2Proof.Machine
end

section
/-! PROOFS. A marked second word (R116, R297): the bus error that it raises leaves none of the instruction's writes (R106), which the last
clause of the statement on the instruction space keeps. -/

namespace Sys2Proof.Machine

/-! ### What an operand form enters -/

theorem State.raise_agenda (s : State) (u : Tid) (cause : FCause) (space : BitVec 3) (faddr : Word) :
    (s.raise u cause space faddr).agenda = s.agenda := rfl

/-- Among what an operation leaves for a later cycle is the write of its destination. -/
theorem State.left_agenda_ne_nil {s : State} {i : Issue} {a b c : OpSpec} {p : Places} {w : Nat} {ty : OpTy} {v : BitVec w} :
    (s.left i a b c p (valueRule ty v)).agenda ≠ [] :=
  List.ne_nil_of_mem (mem_agendaInsert.2 (Or.inl rfl))

/-! ### A MOV with a marked second word -/

/-- MOV.W of an immediate to the first word of desk. -/
def markedMov : Issue := { thread := 0, a := { mode := 1, spec := 0 }, b := { mode := 2, spec := 8 } }

/-- Thread 0 owns every slot of its barrel and holds the two words of `markedMov` in its queue, the second one marked. -/
def markedStart : State :=
  { State.reset with
    barrels := [(0, { active := List.replicate 32 0x80, gated := false })]
    threads := [(0, { st := .run, pq := [(0b11_00000010_0001_0010_0000_0000000000, false), (0b0000_00000000001000_00000000000000, true)] })] }

/-- The flight in which `markedMov` takes off from `markedStart`. -/
def markedFlight : Flight :=
  { at_ := 0, insn := some (.mov markedMov .w), fetch := some 1, before := (markedStart.thr 0).toThreadS, entryReg := 0 }

/-- The read point of `markedMov`, three cycles after its issue. -/
def markedRead : State := { markedStart.issueOf (.mov markedMov .w) 0 2 with now := 3 }

/-- The words in the queue are those of `markedMov`, and issuing it leads to `markedRead`. -/
theorem exec_markedStart :
    decodeInsn 0 (markedStart.nextWords 0).1.1 (markedStart.nextWords 0).2.1 = .mov markedMov .w ∧
    exec (.mov markedMov .w) markedStart = .next { markedRead with now := 0 } := ⟨by decide, rfl⟩

/-- The places of its operands: the first word of desk, and the immediate. -/
def markedPlaces : Places := { a := { loc := .desk 0 0 }, b := { loc := .imm 8 }, c := { loc := .imm 0 } }

theorem reading_markedRead : markedRead.reading 0 (.mov markedMov .w) = some markedFlight := by decide

/-- The model raises the bus error alone: nothing is entered for a later cycle. -/
theorem exec_markedRead_enters_nothing : ∃ t, exec (.mov markedMov .w) markedRead = .next t ∧ t.agenda = [] := ⟨_, rfl, by decide⟩

/-- Refutes O25 by its last clause: at a read point with a marked second word the statement has the MOV enter the write of its
destination before the bus error, and the model enters no write (R106, R116). -/
theorem not_instructionSpaceAccess : ¬ Obligations.InstructionSpaceAccess := by
  intro h
  obtain ⟨-, -, -, -, hmarked⟩ := h markedRead (markedRead.modThr 0 (fun x => x.modFlight 0 (fun g => { g with read := true }))) markedMov
  have hleft := hmarked .w markedFlight 1 markedPlaces reading_markedRead rfl rfl rfl (by decide) rfl
  obtain ⟨t, hexec, hempty⟩ := exec_markedRead_enters_nothing
  rw [hexec] at hleft
  injection hleft with ht
  rw [ht, State.raise_agenda] at hempty
  exact State.left_agenda_ne_nil hempty

end Sys2Proof.Machine
end
